-- ==== Sys2Proof/Word.lean ====
section
/-! DEFINITION. The word types of the VG-4416 model and their plainest arithmetic (R5: little-endian, bit 0 least significant). -/
namespace Sys2Proof

/-- One byte of any memory of the device (R5). -/
abbrev Byte := BitVec 8
/-- A 32-bit register or element word. -/
abbrev W32 := BitVec 32
/-- A 64-bit register word. -/
abbrev W64 := BitVec 64

/-- Bits `[lo + n - 1 : lo]` of a number, bit 0 least significant (R5). -/
def bits (v lo n : Nat) : Nat := (v >>> lo) % 2 ^ n

/-- Bit `i` of a number. -/
def bitAt (v i : Nat) : Bool := (v >>> i) % 2 == 1

/-- 1 for true, 0 for false. -/
def b2n (b : Bool) : Nat := if b then 1 else 0

/-- The larger multiple of `m` at or above `n`, divided by `m`. -/
def ceilDiv (n m : Nat) : Nat := (n + m - 1) / m

/-- A counter that stops at its largest value. -/
def satAdd (top n k : Nat) : Nat := min top (n + k)

/-- The number whose little-endian bytes these are (R5). -/
def leNat : List Byte → Nat
  | [] => 0
  | b :: bs => b.toNat + 256 * leNat bs

/-- `n` little-endian bytes of a number (R5). -/
def leBytes : Nat → Nat → List Byte
  | 0, _ => []
  | n + 1, v => BitVec.ofNat 8 v :: leBytes n (v / 256)

/-- The number whose big-endian bytes these are (the byte order SM2, SM3 and SM4 define). -/
def beNat (bs : List Byte) : Nat := bs.foldl (fun a b => a * 256 + b.toNat) 0

/-- `n` big-endian bytes of a number. -/
def beBytes (n v : Nat) : List Byte := (leBytes n v).reverse

end Sys2Proof
end

