-- ==== Sys2Proof/Syntax.lean ====
section
/-! DEFINITION. The commands of the block: one constructor of `Instr` for each row of spec/opcode_table.json, with
what the outside world supplies to it. A command that the host interface has fetched (R331) is named by the serial
number `id` of its entry in the in-flight list; the packets of the mesh by their place `k` in the list of packets in
flight; events of the analogue world carry what was measured. -/
namespace Sys2Proof

/-- Storage upsets that reach protected units just before an access: the base addresses, in the linear address
space, of units that now hold a correctable and an uncorrectable pattern (R206, R208). -/
structure Strikes where
  ce : List Nat
  ue : List Nat
deriving DecidableEq, Repr

/-- The rails of Table 1-7 that the sequence of Table 1-8 brings up (R29, R30). -/
inductive Rail where
  | vstby | vfoot | vmesh | vcm | vhbm (stack : Nat) | vhost | vopt
deriving DecidableEq, Repr

/-- What the package measures and tests during bring-up: operands of BISQUE_START (R482) and REFIRE (R489). -/
structure BringupEnv where
  /-- Resistance in ohms from each strap to return, PS0 first (R24). -/
  strapOhms : List Nat
  /-- The helper data corrected the PUF response (R510, R511). -/
  pufOk : Bool
  /-- Physical sites that fail the self-test or whose vertical channel cannot be repaired (R486, R487). -/
  failedSites : List Nat
  /-- Sites left without a good runtime image after three resends (R493). -/
  badImageSites : List Nat
  /-- Sites whose rewet reads back uncorrectable, with the address (R466). -/
  badRewet : List (Nat × Nat)
  /-- Regulator phases, 4c + i, that fail their test (R415, R482 step 7). -/
  failedPhases : List Nat
  /-- Bond wires moved to their spare: class, group, wire (R485). -/
  bondMoves : List (Nat × Nat × Nat)
  /-- Groups with a second failing connection: class, group (R14, R485). -/
  bondLost : List (Nat × Nat)
  /-- HBM4 channels that cannot be repaired (R486). -/
  failedChannels : List Nat
  /-- UCIe modules that fail (R318, R486). -/
  failedModules : List Nat
  /-- Optical ports whose lanes fail (R486). -/
  failedPorts : List Nat
  /-- Face-to-face, mesh or rill groups that cannot be repaired: class, group (R486). -/
  failedLinks : List (Nat × Nat)
  /-- Echo delay in ns measured by each ranging port: port, delay (R375). -/
  echoNs : List (Nat × Nat)
  /-- Ports whose laser input is missing (R369). -/
  darkPorts : List Nat
  /-- Sensor offsets of more than 5 K found at recalibration: sensor number, offset in 1/16 K (R446). -/
  badSensors : List (Nat × Nat)
  /-- Controllers that fail their test (R498). -/
  failedControllers : List Nat
  /-- Measured values: input in mV, coolant inlet and outlet codes, flow in mL/min, pressure drop in 0.1 kPa. -/
  inputMv : Nat
  inlet : Nat
  outlet : Nat
  flow : Nat
  dp : Nat
  /-- How long the bring-up took, in µs (events 0x9001 and 0x9002). -/
  durationUs : Nat
deriving DecidableEq, Repr

/-- Which columns of a TMMA mismatch their residue, at the first try and at the repeat (R116, R118). -/
structure Residue where
  first : BitVec 32
  repeat2 : BitVec 32
deriving DecidableEq, Repr

/-- A control frame as it stands on the control wavelength (R376, Table 12-3). -/
structure CtlFrame where
  type : Nat
  pondKey : Bool
  srcPos : Nat
  dstPos : Nat
  srcPort : Nat
  srcSaggar : Nat
  dstSaggar : Nat
  pourId : Nat
  counter : Nat
  body : List Byte
  tag : List Byte
  /-- The CRC-32 of the frame is correct. -/
  crcOk : Bool
deriving DecidableEq, Repr

/-- A data frame (R382, Table 12-7). -/
structure DataFrame where
  pourId : Nat
  segment : Nat
  frame : Nat
  hopSrc : Nat
  hopDst : Nat
  cascade : Bool
  srcPos : Nat
  srcSaggar : Nat
  dstPos : Nat
  dstSaggar : Nat
  window : Nat
  offset : Nat
  counter : Nat
  payload : List Byte
  tag : List Byte
  /-- Codewords the FEC corrected and could not correct, and whether the CRC is correct (R383). -/
  fecCorrected : Nat
  fecBad : Nat
  crcOk : Bool
deriving DecidableEq, Repr

/-- What a port reads of its own echo (R377). -/
inductive Echo where
  | correct
  | failed
deriving DecidableEq, Repr

/-- A management datagram (R401). `exchange` marks session identifier 0, the key exchange of R520, with what its
three messages yield. -/
structure Datagram where
  session : Nat
  seq : Nat
  sender : Nat
  packets : List (List Byte)
  tag : List Byte
  /-- For session 0: the exchange is complete and its confirmation value is right, and the session identifier and
  session key it yields (R520). -/
  exchangeOk : Bool
  newSession : Nat
  newKey : Nat
deriving DecidableEq, Repr

/-- What the kiln measures for one recomputation (R416 to R423). Power is in mW. -/
structure KilnIn where
  /-- Mean power of each cluster over the last 100 µs (cluster, mW). -/
  clusterMw : List (Nat × Nat)
  /-- Power of every domain except active cluster rails. -/
  otherMw : Nat
  /-- Mean package power over the last 1 ms. -/
  packageMw : Nat
  /-- Wait fraction of each cluster in parts per thousand (cluster, w). -/
  waitPm : List (Nat × Nat)
  /-- Blocks closed by each cluster over the last 100 µs (cluster, blocks) (R419). -/
  blocks : List (Nat × Nat)
deriving DecidableEq, Repr

/-- One sensed point of the stack at a kiln update: the sensor readings are in the registers; here stand what the
model gives for the point, in 1/16 °C: `node` and `peak` (R436). Points are numbered as `Machine.Point` says. -/
structure PointIn where
  point : Nat
  node : Int
  peak : Int
  /-- Readings of the sensors of the point (one, or A and B for a core pair); 0x8000 is no valid reading. -/
  readings : List Nat
deriving DecidableEq, Repr

/-- One share of a domain's energy, as R426 and R427 attribute it. -/
structure EnergyShare where
  domain : Nat
  saggar : Nat
  job : Nat
  /-- Ring group, when the share has one (R427). -/
  group : Option Nat
  idle : Bool
  microjoules : Nat
deriving DecidableEq, Repr

/-- Domain telemetry of one closed window (R425). -/
structure WindowIn where
  domain : Nat
  mean : Nat
  least : Nat
  greatest : Nat
  voltMv : Nat
  microjoules : Nat
deriving DecidableEq, Repr

/-- The commands of the block, one constructor per row of spec/opcode_table.json. -/
inductive Instr where
  -- package and rails (chapter 1), input (chapters 13 and 18), bring-up (chapter 16)
  | standbyPowerUp
  | railGood (rail : Rail)
  | railWindowExpiry (rail : Rail)
  | vmeshOutOfRange
  | refLoss
  | refRecovery
  | holdoverExpiry
  | inputUndervolt (mv : Nat)
  | inputRecovery (mv : Nat)
  | inputPowerLost (mv : Nat)
  | inputOvervoltage (mv : Nat)
  | bisqueStart (env : BringupEnv)
  | refire (env : BringupEnv)
  -- mesh and rill (chapter 2)
  | packetInject (k : Nat)
  | meshRequestArrival (k : Nat) (strikes : Strikes)
  | meshResponseArrival (k : Nat)
  | priorityFlitAged (site : Nat)
  | epochUpdate (k : Nat)
  | remapApply (k : Nat)
  | remapQuiescenceTimeout (k : Nat)
  | imageBroadcast (k : Nat) (good : List Nat)
  -- core programming (chapter 6)
  | rillInterrupt (site : Nat)
  | scalarVectorInstruction (site : Nat) (strikes : Strikes)
  | apertureLoad (site : Nat)
  | apertureStore (site : Nat)
  | fence (site : Nat)
  | fenceI (site : Nat)
  | csrWrite (site : Nat)
  | tld (site : Nat) (strikes : Strikes)
  | tst (site : Nat) (strikes : Strikes)
  | taclr (site : Nat)
  | tmma (site : Nat) (residue : Residue)
  | tepi (site : Nat)
  | tcvt (site : Nat)
  | osm (site : Nat)
  | tmv (site : Nat)
  | tcasOpen (site : Nat)
  | tcasClose (site : Nat)
  | tcasExport (site : Nat)
  | tcasFold (site : Nat)
  | foldComplete (site : Nat)
  | foldTimeout (site : Nat)
  | tcasDiscard (site : Nat)
  | cascadeNodeArrival (k : Nat)
  | taorC (site : Nat)
  | allorWordArrival (k : Nat)
  | allorTimeout (site : Nat)
  | taorW (site : Nat)
  | taorWComplete (site : Nat)
  | tret (site : Nat)
  | kernelExit (site : Nat)
  | kernelEndByTrap (site : Nat)
  | lagNoticeArrival (k : Nat)
  -- memory and sluices (chapter 7)
  | attachPortRequest (k : Nat) (strikes : Strikes)
  | cxlMemRequest (module : Nat) (write : Bool) (offset : Nat) (data : List Byte) (strikes : Strikes)
  | columnRefresh (block : Nat)
  | refreshRateChange (block : Nat) (layer : Nat) (temp : Nat)
  | refreshNormalReturn (block : Nat) (layer : Nat)
  | hbmRefresh (channel : Nat) (bank : Nat)
  | sluiceDescriptorStart (sluice : Nat) (strikes : Strikes)
  | sluiceDescriptorComplete (sluice : Nat)
  | sluiceHalt (sluice : Nat) (strikes : Strikes)
  | sluiceResume (id : Nat)
  | sluiceRewetDone (sluice : Nat)
  -- near-bank units (chapter 8)
  | nbRun (id : Nat)
  | nbCoreCommand (site unit : Nat) (checkEpoch : Bool) (packet : List Byte)
  | fenceNb (id : Nat)
  | nbCancel (id : Nat)
  | nbReset (id : Nat)
  | nbSequenceStart (unit : Nat)
  | nbStepEnd (unit : Nat) (strikes : Strikes) (residue : Nat)
  | nbGapEnd (unit : Nat)
  | nbResetEntry (unit : Nat)
  | nbUnitRewetDone (unit : Nat)
  -- attention and the KV cache (chapter 9)
  | kvAppend (id : Nat)
  | kvEvict (id : Nat)
  | kvStage (id : Nat)
  | attnDecode (id : Nat)
  | kvScore (id : Nat)
  | kvAccept (id : Nat)
  | kvServiceStart (id : Nat)
  -- training state (chapter 10)
  | tsUpdate (id : Nat)
  | tsCastout (id : Nat)
  | tsScale (id : Nat)
  | tsAudit (id : Nat)
  | tsDigest (id : Nat)
  | tsCompare (id : Nat)
  | stepGateReread (id : Nat)
  | stepGateTimeout (id : Nat)
  -- host interface (chapter 11)
  | ucieModuleLoss (module : Nat)
  | registerWrite (module : Nat) (offset : Nat) (size : Nat) (value : Nat)
  | doorbell (module : Nat) (ring : Nat) (value : Nat)
  | coreDoorbell (site port : Nat) (priority : Bool) (ring value : Nat)
  | commandFetch (ring : Nat) (strikes : Strikes)
  | completionWrite (k : Nat)
  | completionStallTimeout (ring : Nat)
  | completionSlotRetry (ring : Nat)
  | interruptCoalesceTimeout (ring : Nat)
  | nop (id : Nat)
  | cfgBegin (id : Nat)
  | cfgSet (id : Nat)
  | cfgCommit (id : Nat)
  | commitApply (id : Nat) (badFills : List Nat)
  | quiescenceTimeout (id : Nat)
  | cfgAbort (id : Nat)
  | transactionTimeout (txn : Nat)
  | cfgGet (id : Nat)
  | saggarClose (id : Nat)
  | jobOpen (id : Nat)
  | jobClose (id : Nat)
  | jobCloseComplete (id : Nat)
  | ringReset (id : Nat)
  | ringRewetDone (ring : Nat)
  | klaunch (id : Nat)
  | launchStart (id : Nat)
  | kabort (id : Nat)
  -- fabric (chapter 12)
  | fabPour (id : Nat)
  | fabWindow (id : Nat)
  | fabPortReset (id : Nat)
  | laserInputLoss (port : Nat)
  | portRanging (port : Nat) (echoNs : Nat)
  | helloSend (port : Nat)
  | memberExpiry (port : Nat) (comb : Nat)
  | beaconSend (port : Nat)
  | leaderTimeout (port : Nat)
  | controlFrameSend (port : Nat) (echo : Echo) (backoff : Nat)
  | controlBackoffExpiry (port : Nat) (echo : Echo) (backoff : Nat)
  | lendAbandon (port : Nat)
  | beacon (port : Nat) (f : CtlFrame)
  | hello (port : Nat) (f : CtlFrame)
  | reserve (port : Nat) (f : CtlFrame)
  | accept (port : Nat) (f : CtlFrame)
  | refuse (port : Nat) (f : CtlFrame)
  | done (port : Nat) (f : CtlFrame)
  | query (port : Nat) (f : CtlFrame)
  | relayed (port : Nat) (f : CtlFrame)
  | abort (port : Nat) (f : CtlFrame)
  | mesh (port : Nat) (f : CtlFrame)
  | session (port : Nat) (f : CtlFrame)
  | lag (port : Nat) (f : CtlFrame)
  | lend (port : Nat) (f : CtlFrame)
  | pourStart (port : Nat)
  | reservationTake (port : Nat)
  | pourSegmentsStart (port : Nat)
  | dataFrameReceive (port : Nat) (f : DataFrame)
  | reserveTimeout (port : Nat)
  | reserveRetry (port : Nat)
  | firstSegmentTimeout (port : Nat)
  | doneTimeout (port : Nat)
  | doneRetentionExpiry (port : Nat) (srcPos : Nat) (pourId : Nat)
  | relayedTimeout (port : Nat) (pourId : Nat)
  | opticalAttachPacket (k : Nat)
  | cascadeGatherTimeout (attach : Nat) (destPos : Nat)
  | mgmtDatagram (d : Datagram)
  | mgmtSessionTimeout (session : Nat)
  -- power (chapter 13)
  | pwrMeterRead (id : Nat)
  | pwrSleep (id : Nat)
  | pwrWake (id : Nat)
  | clusterSwitchStage (cluster : Nat) (npPermille : Nat)
  | clusterStartDeferralEnd (cluster : Nat) (npPermille : Nat) (waitNs : Nat)
  | regulatorPhaseFault (phase : Nat)
  | kilnRecompute (m : KilnIn)
  | lendLeaseExpiry (k : Nat)
  | lendReductionExpiry (k : Nat)
  | telemetryWindowClose (w : WindowIn)
  | energyAttribution (input : Nat) (shares : List EnergyShare)
  -- thermal (chapter 14)
  | kilnModelUpdate (points : List PointIn)
  | kilnStaleTimeout
  | kilnStaleConeRaise
  | thermalClamp (point : Nat) (reading : Nat)
  | thermalClampRelease (point : Nat) (reading : Nat)
  | thermalShutdown (cause : Nat)
  | coolantOutOfRange (quantity : Nat) (value : Nat)
  | flowLimited (flow : Nat)
  | flowLimitLift (flow : Nat)
  | heatMismatch (heatW : Nat)
  | flowRecord (heatW : Nat)
  | rotateDue (saggar : Nat)
  | thmRank (id : Nat)
  | wearSample
  | wearPersist
  -- reliability and the cistern (chapter 15)
  | ceBucketLeak
  | relScrub (id : Nat)
  | scrubStart (id : Nat) (strikes : Strikes)
  | scrubComplete (id : Nat)
  | relRetireGranule (id : Nat)
  | relRetireSite (id : Nat)
  | siteRewetDone (site : Nat) (bad : Option Nat)
  | mirrorWrite (seq : Nat)
  | cisRead (id : Nat)
  | cisClear (id : Nat)
  -- resets, firmware and glazed settings (chapter 16)
  | rstCluster (id : Nat)
  | rstSaggar (id : Nat)
  | rstDie (id : Nat)
  | rstStack (id : Nat) (env : BringupEnv)
  | rstPackage (id : Nat)
  | fwStage (id : Nat)
  | fwActivate (id : Nat)
  | fwRoleHandover (role : Nat) (controller : Nat)
  | fwActivationConfirm
  | runtimeActivationStart (id : Nat) (bad : List Nat)
  | runtimeActivationTimeout (id : Nat)
  | controllerHeartbeatMiss (role : Nat)
  | glazeSet (id : Nat)
  | glazeRead (id : Nat)
  | twinDrain (id : Nat)
  | drainComplete (id : Nat)
  | twinRejoin (id : Nat)
  -- security (chapter 17)
  | secQuote (id : Nat)
  | secCertRead (id : Nat)
  | secExtend (id : Nat)
  | secWrapOpen (id : Nat)
  | secKeySet (id : Nat)
  | secRekeyPrepare (id : Nat)
  | keyGraceExpiry (saggar : Nat) (pos : Nat)
  -- rows that close the conditions above (chapters 12 and 14)
  | laserInputRestored (port : Nat) (echoNs : Nat)
  | coolantOorClear
  | heatMismatchClear
  | mgmtLinkUpChange (up : Bool)
deriving DecidableEq, Repr

end Sys2Proof
end

