-- ==== Sys2Proof/Decode.lean ====
section
/-! DEFINITION. The words of commands. spec/opcode_table.json gives no row any bits: its rows are events and operations whose
operands come from outside, and a command packet reaches the block through a ring (R331), not as a word. So no word spells a
command. The packet's own OPCODE field is decoded where a ring is fetched (Machine/HostRings.lean). -/
namespace Sys2Proof

/-- The command that a word spells by the table's bits: none, for the table gives no bits. -/
def decodeTableWord (_nbits _w : Nat) : Option Instr := none

end Sys2Proof
end

