-- ==== Sys2Proof/Config.lean ====
section
/-! DEFINITION. What a part fixes without the manual saying the value, and the values the manual leaves open. Every
constant here is opaque: nothing can evaluate one, so a statement holds whatever it is. The argument called `n` is the
model's count of free values drawn so far (`State.free`), which makes each draw its own. -/
namespace Sys2Proof.Config

/-- STEPPING of DEV_IDENT: fixed by the part (Table 11-3). -/
opaque stepping : BitVec 8
/-- VCHAR of a cluster at a variant, in mV: characterised at the factory (R410). -/
opaque vcharMv : Nat → Nat → BitVec 10
/-- ORIGIN_COUNT of an event: the cycle count of its origin domain, which nothing relates to another (R469). -/
opaque originCount : Nat → BitVec 64
/-- A byte of the partial stack as a core reads it: the manual fixes no place for a node in it (R133). -/
opaque partialStackByte : Nat → BitVec 8
/-- A word whose value the manual leaves open where the machine goes on. -/
opaque freeWord : Nat → BitVec 64
/-- A bit whose value the manual leaves open. -/
opaque freeBit : Nat → Bool
/-- A byte string of `k` bytes that secret randomness or a key gives: nonces, SM2 signatures and exchange values. -/
opaque freeByte : Nat → Nat → BitVec 8
/-- A key (128 bits) that an SM2 key exchange or a key derivation yields, of the draw `n`. -/
opaque freeKey : Nat → BitVec 128
/-- Whether an SM2 signature over these bytes verifies under key number `k` (R495, R502, R503): the public keys are
not in the manual. -/
opaque sm2Verifies : Nat → List (BitVec 8) → List (BitVec 8) → Bool
/-- The image of slot 0 of a kind that the factory stages (R495). -/
opaque factoryImage : Nat → List (BitVec 8)
/-- The device certificate that the factory writes (Table 16-6). -/
opaque factoryCertificate : List (BitVec 8)
/-- MEASr as the bisque start of a part as shipped leaves it: the images measured are not in the manual (R512). -/
opaque measAtReset : Nat → List (BitVec 8)
/-- Entries of the device log that it leaves (R514). -/
opaque logAtReset : Nat → List (BitVec 8)
/-- The identity public key after `k` re-keys, x then y (R510). -/
opaque identityKey : Nat → List (BitVec 8)
/-- A certificate verifies against the authority key, and its subject key is the given one (R521). -/
opaque certifies : List (BitVec 8) → List (BitVec 8) → Bool

end Sys2Proof.Config
end

