-- ==== Sys2Proof/Machine/State.lean ====
section
/-! DEFINITION. The state of the VG-4416 as plain data, every piece the manual names, and the state after reset
(bisque start just complete, R8 and R482). Large arrays of like things are sparse tables: a list of index and value,
indices strictly rising, no entry equal to what an unlisted index holds. -/
namespace Sys2Proof.Machine
open Sys2Proof

/-- A sparse table. An index that is not listed holds the table's default, which the operation that reads it names. -/
abbrev Tbl (α : Type) := List (Nat × α)

/-- A tile of 32 × 32 words, element (i, j) at index 32 i + j, unlisted elements +0. -/
abbrev TileW := Tbl W32

/-! ### Package, rails and clocks (chapter 1) -/

/-- Straps, rails, clocks and bonds (R24 to R36). -/
structure Pkg where
  /-- Levels of PS0 to PS5 at the latest reading, 3 is Fault (Table 1-6 STRAP_LEVELS). -/
  strapLevels : List Nat
  /-- Levels of the bisque reading, with which a refire compares (R27). -/
  bisqueLevels : List Nat
  posValue : Nat
  posValid : Bool
  posMismatch : Bool
  /-- RAIL_STATUS (Table 1-9). -/
  vstby : Bool
  vfoot : Bool
  vmesh : Bool
  vcm : Bool
  vhost : Bool
  vopt : Bool
  vhbm : BitVec 16
  /-- The input stands at 36 V or more, so the standby converter runs (R30). -/
  inputOn : Bool
  /-- Rails that firmware has enabled in the order of Table 1-8, and a sequence stopped under R31. -/
  enabled : Nat
  seqStopped : Bool
  /-- CLK_STATUS (Table 1-11). -/
  locked : Bool
  refPresent : Bool
  holdover : Bool
  refLossCount : Nat
  /-- Package held in reset by R36, compute stack lost under R32, powered down under R408, R444 or R529. -/
  heldInReset : Bool
  computeLost : Bool
  poweredDown : Bool
  /-- Bond groups with a second failing connection (R14), and wires moved to spares (R485). -/
  bondLost : List (Nat × Nat)
  bondMoves : List (Nat × Nat × Nat)
deriving DecidableEq, Repr

/-! ### Sites, mesh and rill (chapter 2) -/

/-- ROLE of SITE_STATE (Table 2-3). -/
inductive Role where
  | spare | active | retired | failed
deriving DecidableEq, Repr

/-- One SHAPE register (Table 2-5) and its token bucket (R55): tokens in 1/65,536 flit, filled up to `lastUs`. -/
structure Shape where
  rate : Nat
  burst : Nat
  tokens : Nat
  lastUs : Nat
deriving DecidableEq, Repr

/-- The site status entry of a physical site (R47 to R49) and what its resets need (R63, R71, R464). -/
structure Site where
  role : Role
  /-- Logical column 0 to 45; 63 when the site holds none. -/
  lcol : Nat
  inReset : Bool
  gated : Bool
  shiftPending : Bool
  epoch : BitVec 32
  pri : Shape
  resp : Shape
  cas : Shape
  bulk : Shape
  cntSaggar : Nat
  cntEpoch : Nat
  cntReset : Nat
  cntLate : Nat
  /-- Responses discarded in the present reset (R71). -/
  lateNow : Nat
  /-- Times of uncorrectable errors of the site, in µs (R464). -/
  ueTimes : List Nat
deriving DecidableEq, Repr

/-- What a mesh packet asks for (the KIND field; the manual fixes the codes 0x8, 0x9, 0xC, 0xD and 0xE). -/
inductive Kind where
  | read (n : Nat)
  | write
  | nbCommand
  | doorbell
  | casNode
  | allorUp
  | allorDown
  | other (code : Nat)
deriving DecidableEq, Repr

/-- A mesh packet (Table 2-7). `dest` and `src` are the codes of Table 2-10. `core` is the logical core the source
named, before translation under R43. -/
structure Packet where
  dest : Nat
  core : Option Nat
  src : Nat
  vc : Nat
  priv : Bool
  epochCheck : Bool
  kind : Kind
  saggar : Nat
  payload : List Byte
  flits : Nat
  destEpoch : BitVec 32
  tag : Nat
  status : Nat
  isResponse : Bool
  address : Nat
  operand : W64
  inline : List Byte
  /-- The position at the other end of a packet from or to another package (R394 to R396), and for one from another
  package the place there that sent it. -/
  remotePos : Option Nat
  home : Nat
deriving DecidableEq, Repr

/-- A remap change that waits for quiescence (R42). -/
structure Remap where
  die : Nat
  row : Nat
  retired : Nat
  /-- The activated spare, when the row had one (R41, R44). -/
  spare : Option Nat
  /-- New logical columns: site, column. -/
  moves : List (Nat × Nat)
  /-- Saggars whose quiescence the change awaits. -/
  waitFor : List Nat
  sinceUs : Nat
  timeoutSeen : Bool
deriving DecidableEq, Repr

/-- What a rill message tells (R68): an epoch update (R66) or a lag notice (R419). Units are numbered as Table 2-10,
sluices and rings above it. -/
inductive RillMsg where
  | epoch (unit : Nat) (value : BitVec 32) (saggars : List Nat)
  | lagNotice (site saggar job delayUs : Nat)
deriving DecidableEq, Repr

/-- The broadcast of a launch's image (R69, R493), the sites that still lack it and the passes made. -/
structure Bcast where
  launch : Nat
  image : List Byte
  loadAt : Nat
  missing : List Nat
  tries : Nat
deriving DecidableEq, Repr

/-! ### Cores (chapters 3 to 6) -/

/-- FMT_FLAGS (Table 3-8). -/
structure Flags where
  nan : Bool
  inf : Bool
  absurd : Bool
  sat : Bool
  lost : Bool
  bound : Bool
deriving DecidableEq, Repr

/-- A node of a cascade (R129, R134), in a slot of the partial stack: 0 to 23 for nodes, 24 + n for the prefix of
accumulator n (R133). -/
structure Node where
  slot : Nat
  lvl : Nat
  idx : Nat
  isPre : Bool
  val : TileW
deriving DecidableEq, Repr

/-- An export in progress (R138): the nodes sent and not yet answered, with the tags that carry them. -/
structure Exporting where
  waiting : List (Nat × Node)
  bad : Nat
  firstBad : Nat
  /-- A discard has freed the nodes: the answers that are owed are only counted off (R140, R177). -/
  dropped : Bool
deriving DecidableEq, Repr

/-- An accumulator: its state register (Table 4-4) and its reduction (Tables 5-4, 5-5). -/
structure Acc where
  fp16 : Bool
  isOpen : Bool
  groups : Nat
  /-- Reduction: CASn_STATE, CASn_ID, CASn_NB, CASn_NEXT, and the mode it took at open (R136). -/
  redOpen : Bool
  red16 : Bool
  failed : Bool
  exportFault : Bool
  redId : Nat
  nb : Nat
  next : Nat
  nodes : List Node
  preSlot : Option Node
  root : Option Node
  exporting : Option Exporting
deriving DecidableEq, Repr

/-- One aperture register APERn (Table 6-2). -/
structure Aper where
  base : Nat
  epochCheck : Bool
  enable : Bool
deriving DecidableEq, Repr

/-- What a core is doing. -/
inductive CoreRun where
  /-- The runtime waits for a launch. -/
  | idle
  /-- A kernel runs. -/
  | running
  /-- A load reads through apertures: the requests not yet answered (tag, core address, bytes), the bytes that have
  come back by core address, and the first failing status with its core address (R159). -/
  | waitLoad (waiting : List (Nat × Nat × Nat)) (got : List (Nat × Byte)) (bad : Option (Nat × Nat))
  /-- A FENCE waits for the answers to posted stores (R188); whether its successor set includes w. -/
  | waitFence (stores : Bool)
  /-- TCAS.FOLD waits for the root of an accumulator since a time in µs (R139), with the extension granted by lag
  notices (R420). -/
  | waitFold (acc : Nat) (sinceUs : Nat) (extraUs : Nat)
  /-- TAOR.W waits for the result in x[rd] (R178). -/
  | waitAor (rd : Nat)
  /-- A trap entered machine mode and the runtime will end the kernel (R187): cause and KTVAL. -/
  | trapped (cause : Nat) (tval : W32)
  /-- KABORT has stopped the kernel, and its posted stores and exports are being answered (R364). -/
  | stopping
deriving DecidableEq, Repr

/-- The all-or of a core (R146, R147; AOR_STATE, Table 6-18). -/
structure Aor where
  isOpen : Bool
  done : Bool
  expired : Bool
  redId : Nat
  word : W32
  /-- Member index, member count and table address taken at TAOR.C. -/
  self : Nat
  count : Nat
  table : Nat
  /-- Children whose word has not arrived. -/
  waiting : List Nat
  sentUp : Bool
  /-- When the core contributed, in µs, and the extension granted by lag notices (R147, R420). -/
  sinceUs : Nat
  extraUs : Nat
deriving DecidableEq, Repr

/-- The state of one core: registers, tile extension, CSRs of Table 6-15 and what its mesh accesses await. -/
structure Core where
  run : CoreRun
  /-- The runtime has suspended the kernel for a quiescence point (R351). -/
  suspended : Bool
  user : Bool
  pc : W32
  x : Tbl W32
  f : Tbl W32
  v : Tbl Byte
  vl : Nat
  vtype : W32
  vstart : Nat
  vxrm : Nat
  vxsat : Bool
  fflags : Nat
  frm : Nat
  mepc : W32
  mcause : W32
  mtval : W32
  mtvec : W32
  mstatus : W32
  mscratch : W32
  mie : W32
  tl : Tbl Byte
  acw : Tbl W32
  acc0 : Acc
  acc1 : Acc
  acc2 : Acc
  acc3 : Acc
  fmtFlags : Flags
  absLimit : W32
  lossScale : W32
  tepiScale : W32
  tepiTable : Nat
  tepiSegs : Nat
  srSeed : W64
  srTid : W32
  srIdx : Nat
  casWait : Nat
  aor : Aor
  aorTable : Nat
  aorSelf : Nat
  aorCount : Nat
  resRetried : Nat
  resFaults : Nat
  resPending : Bool
  resAcc : Nat
  ktvec : W32
  kepc : W32
  kcause : Nat
  kshort : Bool
  kactive : Bool
  ktval : W32
  ktval2 : W32
  remFirst : Nat
  remCount : Nat
  apers : Tbl Aper
  coreEpoch : BitVec 32
  /-- CORE_US counts from here (R182, Table 6-18). -/
  usBase : Nat
  job : Nat
  /-- Launch that runs here and this core's rank in it. -/
  launch : Option (Nat × Nat)
  /-- Tags of posted stores and of all other requests of the core that have no answer yet (R159). -/
  posted : List Nat
  nextTag : Nat
deriving DecidableEq, Repr

/-! ### Memory and sluices (chapter 7) -/

/-- GRANULE_OWNER (Table 7-3). -/
structure Owner where
  saggar : Nat
  assigned : Bool
  carveout : Bool
deriving DecidableEq, Repr

/-- STATE of SLU_STATE (Table 7-6). -/
inductive SluSt where
  | unbound | idle | running | halted | inReset
deriving DecidableEq, Repr

/-- The registers of a sluice (Table 7-6) and the descriptor it holds. -/
structure Sluice where
  saggar : Nat
  valid : Bool
  ring : Nat
  state : SluSt
  haltStatus : Nat
  epoch : BitVec 32
  faultAddr : Nat
  progress : Nat
  seed : W64
  flags : Flags
  doneCount : Nat
  /-- The running or halted descriptor (a RESHARD's maps and shard tables after it) and its flags so far. -/
  desc : List Byte
  /-- A halt before the descriptor was consumed (R537). -/
  unread : Bool
  dflags : Flags
  /-- Its view of the epochs of its saggar's sites, taken when the descriptor starts or is retried (R65, R225). -/
  view : List (Nat × BitVec 32)
deriving DecidableEq, Repr

/-! ### Near-bank units (chapter 8) -/

/-- What a sequence on a near-bank unit runs (R245, R287, R303). -/
inductive NbWork where
  | uops
  | attn
  | update
  | audit
  | digest
  | compare
deriving DecidableEq, Repr

/-- An accepted sequence (R245 to R250). -/
structure NbSeq where
  work : NbWork
  /-- Serial of the in-flight command, when a ring carried it. -/
  cmd : Option Nat
  opcode : Nat
  saggar : Nat
  tag : Nat
  ring : Nat
  job : Nat
  count : Nat
  addr : Nat
  statusAddr : Nat
  updates : Nat
  seed : W64
  absLimit : W32
  lossScale : W32
  step : Nat
  /-- Status that ends the sequence at the next step boundary, 0 for none (R248, R490). -/
  kill : Nat
deriving DecidableEq, Repr

/-- A slice of a micro-operation: operation index, row, first element and number of elements, and whether it ends
the row and the operation (R241, Table 8-5). -/
structure Slice where
  op : Nat
  row : Nat
  start : Nat
  len : Nat
  lastOfRow : Bool
  lastOfOp : Bool
deriving DecidableEq, Repr

/-- The running sequence of a unit: what is left, and the partial sums carried across a cut (R241). -/
structure NbRunning where
  seq : NbSeq
  ops : List (List Byte)
  /-- Steps left, each a list of slices. -/
  left : List (List Slice)
  opsDone : Nat
  steps : Nat
  flags : Flags
  /-- What is carried across a cut: K-block values and maxima of a row, bytes hashed so far, running triples. -/
  carry : List (List Nat)
  fail : Nat
deriving DecidableEq, Repr

/-- STATE of NB_STATE (Table 8-8). -/
inductive NbSt where
  | idle | inStep | inGap | suspended | inReset
deriving DecidableEq, Repr

/-- A near-bank unit (R228, R254). -/
structure Nb where
  state : NbSt
  epoch : BitVec 32
  maxSteps : Nat
  stepsRun : Nat
  retry : Nat
  gapOver : Nat
  shares : Tbl Nat
  queue : List NbSeq
  running : Option NbRunning
  scratch : Tbl Byte
  scratchBad : List Nat
  /-- A reset waits for the step boundary (R253), with the commands that wait for the unit's return. -/
  resetAsked : Bool
  waiters : List Nat
  /-- Steps run by each saggar: saggar and times in µs (R247). -/
  recent : List (Nat × Nat)
  /-- Ordinary requests that wait for a gap (R243), and those already passed over once. -/
  gapq : List Packet
  gapWaited : Nat
  /-- How many of them were queued when the step ended. -/
  gapReady : Nat
  /-- What the channel's read buffer may still hold for ordinary requests: a 64-byte line's address and its bytes as
  they stood before a near-bank step wrote them since the last FENCE_NB, oldest first (R251). -/
  readBuf : List (Nat × List Byte)
deriving DecidableEq, Repr

/-! ### Host interface (chapter 11) -/

/-- ROLE of a ring (R323). -/
inductive RingRole where
  | disabled | submission | completion | descriptor
deriving DecidableEq, Repr

/-- The registers of a ring (Table 11-4). -/
structure Ring where
  role : RingRole
  saggar : Nat
  oper : Bool
  pair : Nat
  entries : Nat
  base : Nat
  db : Nat
  head : Nat
  tail : Nat
  dbErr : Bool
  stalled : Bool
  stallSince : Nat
  stallSeen : Bool
  inReset : Bool
  halted : Bool
  slotPoisoned : Bool
  slotSeen : Bool
  lost : Nat
  epoch : BitVec 32
  vector : Nat
  coalCount : Nat
  coalUs : Nat
  /-- Interrupt-marked completions pending, and when the first became so (R342). -/
  irqPending : Nat
  irqSince : Nat
deriving DecidableEq, Repr

/-- Where a command came from: a ring, a management session, or (R336) a core. -/
inductive Origin where
  | ring (n : Nat)
  | mgmt (session : Nat)
deriving DecidableEq, Repr

/-- How far an in-flight command has come (R334). -/
inductive Phase where
  | accepted
  /-- Held at a step gate since a time in µs (R298). -/
  | held (since : Nat)
  /-- Queued on its engine or waiting for a condition. -/
  | queued
  | running
  /-- Ended; its completion waits to be written. -/
  | ended
deriving DecidableEq, Repr

/-- An in-flight command: the packet of Table 11-5 and its phase. -/
structure Cmd where
  id : Nat
  origin : Origin
  opcode : Nat
  irq : Bool
  ordered : Bool
  saggar : Nat
  oper : Bool
  tag : Nat
  txn : Nat
  job : Nat
  params : List Byte
  phase : Phase
  /-- Writes of the command's status word so far (R339). -/
  updates : Nat
deriving DecidableEq, Repr

/-- A completion record (Table 11-6) that waits to be written (R338). -/
structure Compl where
  /-- The completion ring, or the management session. -/
  target : Origin
  cmd : Option Nat
  tag : Nat
  status : Nat
  progress : Nat
  r0 : Nat
  r1 : Nat
  r2 : Nat
  r3 : Nat
  ring : Nat
  irq : Bool
  opcode : Nat
  desc : Bool
  job : Nat
deriving DecidableEq, Repr

/-- A configuration entry (R347). -/
structure CfgEntry where
  setting : Nat
  run : Nat
  index : Nat
  value : Nat
deriving DecidableEq, Repr

/-- A transaction (R348 to R350). -/
structure Txn where
  id : Nat
  saggar : Nat
  oper : Bool
  session : Option Nat
  beganUs : Nat
  beganAt : Nat
  entries : List CfgEntry
  committing : Bool
deriving DecidableEq, Repr

/-- A commit that waits for quiescence or is being applied (R350). -/
structure Commit where
  cmd : Nat
  txn : Nat
  waitFor : List Nat
  sinceUs : Nat
  /-- The entries are in force; what is left are the fills (`State.filling`) and the rewets of these sites (R200, R466). -/
  applied : Bool
  waitedUs : Nat
  rewets : List Nat
deriving DecidableEq, Repr

/-- The settings of one saggar and its state (R353; Tables 7-3, 11-10, 12-10, 13-11, 16-9). -/
structure Saggar where
  active : Bool
  inflightShare : Nat
  hashKey : W64
  carveoutAccess : Bool
  fabShare : Nat
  cap : Nat
  fixedCone : Nat
  fixedOn : Bool
  replica : Nat
  replicaValid : Bool
  /-- Session of R396 and the meters of Table 13-10. -/
  fabSession : BitVec 32
  busy : Nat
  idle : Nat
  grantW : Nat
  fixedBroken : Bool
  rotateDue : Bool
  spread : Nat
  /-- Fetching stopped by TWIN_DRAIN is package wide; by a quiescence point it is this (R351). -/
  quiescing : Nat
  runtimeSlot : Option Nat
  /-- Measurement register, log and overflow flag (R512, R514). -/
  smeas : List Byte
  slog : List (List Byte)
  slogOver : Bool
deriving DecidableEq, Repr

/-- An open job (R358, R428). -/
structure Job where
  saggar : Nat
  id : Nat
  busy : Nat
  idle : Nat
  openedUs : Nat
  /-- When a command of the job last completed, in µs (R428). -/
  lastUs : Nat
  /-- The JOB_CLOSE that waits to end it (R359). -/
  closing : Option Nat
deriving DecidableEq, Repr

/-- One rank of a launch (R362). -/
structure Rank where
  core : Nat
  site : Nat
  ended : Bool
  outcome : Nat
  cause : Nat
  value : W32
deriving DecidableEq, Repr

/-- A kernel launch (R360 to R364). -/
structure Launch where
  cmd : Nat
  saggar : Nat
  job : Nat
  statusAddr : Nat
  desc : List Byte
  started : Bool
  imageReady : Bool
  ranks : List Rank
  /-- KABORT commands that wait for the launch to end, with the cores each stopped (R364). -/
  aborts : List (Nat × Nat)
deriving DecidableEq, Repr

/-- A reset of Table 16-5 in progress, and the units it still waits for. -/
structure ResetRun where
  cmd : Option Nat
  sites : List Nat
  sluices : List Nat
  rings : List Nat
  /-- Near-bank units whose step must end before the saggar's sequence there does (R490). -/
  units : List Nat
  /-- SAGGAR_CLOSE: the saggar whose close goes on when the reset ends (R356). -/
  closing : Option Nat
  /-- PWR_WAKE waits for its sites: no reset of Table 16-5. -/
  wake : Bool
deriving DecidableEq, Repr

/-- Host interface registers (Table 11-3), MSI-X (R322) and what the host last read over CXL.mem. -/
structure HostIf where
  ready : Bool
  modules : List Nat
  rwtIgnored : Nat
  dbErrors : Nat
  unsupported : Nat
  refused : Nat
  msixTable : Tbl Byte
  msixPending : List Nat
  /-- Vectors raised, newest last. -/
  raised : List Nat
  /-- Answer to the latest CXL.mem read: bytes, or none for poison (R201). -/
  lastRead : Option (List Byte)
  /-- Round-robin places of R333. -/
  lastSaggar : Nat
  /-- The ring that each saggar was served from last. -/
  lastRing : Tbl Nat
  nextId : Nat
  nextTxn : Nat
  commitSerial : Nat
deriving DecidableEq, Repr

/-! ### Fabric (chapter 12) -/

/-- STATE of FAB_STATE (Table 12-8). -/
inductive PortSt where
  | disabled | dark | noKey | ranging | up | fault
deriving DecidableEq, Repr

/-- How far a pour has come at its sender (R381, Table 12-6). -/
inductive PourSt where
  | waiting
  /-- RESERVE sent; ACCEPT or REFUSE awaited. -/
  | reserved
  /-- Accepted; the segments start at slot S. -/
  | accepted
  /-- Segments sent; DONE awaited. -/
  | sent
  /-- A clear DONE of the first hop has come; RELAYED awaited. -/
  | relaying
  /-- A busy REFUSE has come; RESERVE is sent again after 50 µs. -/
  | backoff
deriving DecidableEq, Repr

/-- A pour of this package as sender (R378 to R384): a FAB_POUR, a cascade pour of packets (R395), or the second hop of a
pour that this package relays (R393). -/
structure Pour where
  cmd : Option Nat
  saggar : Nat
  peer : Nat
  src : Nat
  offset : Nat
  length : Nat
  destPos : Nat
  window : Nat
  hops : Nat
  auto : Bool
  statusAddr : Nat
  pourId : Nat
  tag : Nat
  job : Nat
  cascade : List Packet
  isCascade : Bool
  /-- Relay: slot, port and position that the pour came from, its POUR_ID there, its source position, and its frames
  without their payload. -/
  relay : Option (Nat × Nat × Nat)
  origin : Nat
  frames : List DataFrame
  stage : PourSt
  /-- Time in µs from which the pour's timer runs. -/
  sinceUs : Nat
  sends : Nat
  busyRetries : Nat
  queries : Nat
  rounds : Nat
  restarted : Bool
  /-- Segments acknowledged, and bytes delivered. -/
  acked : Nat
  bytes : Nat
  retransmitted : Nat
  collisions : Nat
deriving DecidableEq, Repr

/-- A reservation at a receiving port (R381): the hop's sender, the pour's own source and destination, and what it asks
for. -/
structure Resv where
  hopPos : Nat
  srcPort : Nat
  srcPos : Nat
  srcSaggar : Nat
  dstPos : Nat
  dstSaggar : Nat
  pourId : Nat
  tag : Nat
  cascade : Bool
  length : Nat
  window : Nat
  offset : Nat
deriving DecidableEq, Repr

/-- A pour being received (R383, R384, R388). -/
structure Recv where
  resv : Resv
  /-- Relay slot used, when this package is only the relay. -/
  relay : Option Nat
  /-- The window as it was when the reservation was taken: base and arrival ring (R385). -/
  base : Nat
  arriveRing : Nat
  /-- Frames that passed every check and whose segment is not yet written: segment × 16 + frame, payload. -/
  frames : List (Nat × List Byte)
  /-- Relay: the frames as they came, without their payload. -/
  kept : List DataFrame
  written : List Nat
  bytes : Nat
  /-- DONE frames sent, and the segment whose last frame ends the present round. -/
  rounds : Nat
  lastSeg : Nat
  /-- Slot S has been fixed, a frame has come, and the time in µs from which the receiver's timer runs. -/
  timed : Bool
  started : Bool
  sinceUs : Nat
  /-- Cascade pour: place and tag of each packet at its sender, and its answer. -/
  answers : List (Nat × Nat × Option Nat)
  /-- The last segment has come, and DONE waits for the answers. -/
  closing : Bool
deriving DecidableEq, Repr

/-- A control frame that waits to be sent (R377): tries made, the time in µs before which it is not tried again, and the time
of the first try. -/
structure TxFrame where
  frame : CtlFrame
  tries : Nat
  notBefore : Nat
  firstUs : Nat
  /-- The packet that a MESH frame carries, to answer it when the frame is abandoned. -/
  packet : Option Packet
deriving DecidableEq, Repr

/-- An optical port (Tables 12-8, 12-9) and its protocol state. -/
structure Port where
  state : PortSt
  leader : Bool
  leaderComb : Nat
  echoNs : Nat
  faultCause : Nat
  present : List Nat
  misplaced : List Nat
  /-- When each comb was last heard, and when event 0x5004 was last recorded for a position, in µs. -/
  heardUs : Tbl Nat
  misplacedUs : Tbl Nat
  counters : Tbl Nat
  /-- A beacon times the port's slots, and when the last one came, or the port reached UP, in µs (R373, R374). -/
  synced : Bool
  beaconUs : Nat
  helloUs : Nat
  txq : List TxFrame
  /-- The last frame put on the control wavelength. -/
  txLast : Option CtlFrame
  queue : List Pour
  current : Option Pour
  /-- Pours that await RELAYED. -/
  awaiting : List Pour
  /-- Weighted round robin: the saggar served last and its starts in this turn, for pours and for reservations. -/
  lastSaggar : Nat
  turn : Nat
  resvs : List Resv
  lastResvSaggar : Nat
  resvTurn : Nat
  recv : Option Recv
  /-- DONE frames kept for finished pours, each with its time in µs (Table 12-6). -/
  kept : List (Nat × CtlFrame)
  authFails : Nat
  nextPour : Nat
deriving DecidableEq, Repr

/-- A receive window (R385). -/
structure Window where
  isOpen : Bool
  base : Nat
  length : Nat
  srcPos : Nat
  anyPos : Bool
  ring : Nat
deriving DecidableEq, Repr

/-- Packets that an optical attach port gathers for one destination (R395). -/
structure Gather where
  attach : Nat
  destPos : Nat
  saggar : Nat
  packets : List Packet
  sinceUs : Nat
deriving DecidableEq, Repr

/-- A management session (R401, R402, R520). -/
structure MgmtSession where
  id : Nat
  key : Nat
  seqs : List Nat
  lastUs : Nat
  sender : Nat
  /-- The last 256 completions. -/
  record : List (Nat × List Byte)
  /-- Completions sent in datagrams, newest last. -/
  sent : List (List Byte)
deriving DecidableEq, Repr

/-- Fabric-wide state (R392, R396, R401, R404, R406). -/
structure Fab where
  peers : Tbl Nat
  relayBase : Nat
  relayOn : Bool
  relayBusy : List Nat
  windows : Tbl Window
  peerSessions : Tbl Nat
  gathers : List Gather
  sessions : List MgmtSession
  linkUp : Bool
  mgmtDropped : Nat
  /-- Data frames of each port's latest transmission. -/
  dataOut : Tbl (List DataFrame)
deriving DecidableEq, Repr

/-! ### Power and thermal control (chapters 13 and 14) -/

/-- Power and thermal state of one cluster (Table 13-10, R410 to R419, R442). -/
structure Cluster where
  saggar : Nat
  assigned : Bool
  cone : Nat
  phasesOk : BitVec 4
  derated : Bool
  dark : Bool
  asleep : Bool
  staging : Bool
  budgetMw : Nat
  waitPm : Nat
  p0 : Nat
  thermalCone : Nat
  /-- The lower cone that the latest updates gave, how many gave it, and when the cone last fell (R442). -/
  lowerCone : Nat
  lowerCount : Nat
  lowerUs : Nat
  /-- Points whose hardware clamp holds the cluster (R443). -/
  clamps : List Nat
  /-- Switching on: waits for its turn, next bank, interval multiplier, deferred (R412, R413). -/
  wantOn : Bool
  bank : Nat
  mult : Nat
  deferred : Bool
deriving DecidableEq, Repr

/-- Telemetry entry of a domain (Table 13-7). -/
structure Domain where
  mean : Nat
  least : Nat
  greatest : Nat
  voltMv : Nat
  window : Nat
  energy : Nat
deriving DecidableEq, Repr

/-- Power held under R421 or R422: watts, peer position, the lender's offer count, whether its time runs, and the time in µs
from which it does. -/
structure Lease where
  watts : Nat
  peer : Nat
  seq : Nat
  running : Bool
  sinceUs : Nat
deriving DecidableEq, Repr

/-- Package power state (Tables 13-10, 13-11). -/
structure Power where
  capEff : Nat
  borrowed : List Lease
  lent : List Lease
  inputMv : Nat
  undervolt : Bool
  capUnreachable : Bool
  overhead : Nat
  meters : Tbl (Nat × Nat)
  pkgCap : Nat
  ringGroup : Tbl Nat
  powerGroup : Nat
  lendMax : Nat
  stageNs : Nat
  shiftMax : Nat
  /-- W_NEEDED of the LAG frames since the last recomputation, by sending position (R421). -/
  lagSums : Tbl Nat
  lendSeq : Nat
  lastRecompute : Nat
deriving DecidableEq, Repr

/-- One sensor: reading code of R434, flags of Table 14-7, and the counts of R438 and R439. -/
structure Sensor where
  temp : Nat
  suspect : Bool
  failed : Bool
  departs : Nat
deriving DecidableEq, Repr

/-- One sensed point of the stack: bias, control value and forecast (R436), in 1/16 °C (bias in 1/320 K). -/
structure Point where
  bias : Int
  control : Int
  forecast : Int
  valid : Bool
deriving DecidableEq, Repr

/-- Thermal registers of a block (Table 14-6) and the counts of R440. -/
structure Block where
  hiddenL1 : Bool
  hiddenA : Bool
  coldL1 : Nat
  coldA : Nat
  warmL1 : Nat
  warmA : Nat
  tCone : Nat
  /-- Column memory refresh at double rate in layer 0 and layer 1 (R209), and rows refreshed. -/
  double0 : Bool
  double1 : Bool
  refreshes : Nat
deriving DecidableEq, Repr

/-- Wear region (Table 14-7, R451): half cycles by bin and the rainflow turning points. -/
structure Wear where
  b0 : Nat
  b1 : Nat
  b2 : Nat
  b3 : Nat
  stack : List Int
deriving DecidableEq, Repr

/-- Thermal state of the package (Tables 14-6, 14-8). -/
structure Thermal where
  inlet : Nat
  outlet : Nat
  flow : Nat
  dp : Nat
  heatW : Nat
  flowWant : Nat
  coolantOor : Bool
  flowLimited : Bool
  kilnStale : Bool
  heatMismatch : Bool
  lastUpdateUs : Nat
  staleRaises : Nat
  sensors : Tbl Sensor
  points : Tbl Point
  blocks : Tbl Block
  nbHalf : BitVec 16
  nbHeld : BitVec 16
  rotSpread : Nat
  flowAsk : Bool
  wear : Tbl Wear
  wearLedger : Tbl Wear
deriving DecidableEq, Repr

/-! ### Reliability and the cistern (chapter 15) -/

/-- An error region (Table 15-6). -/
structure Region where
  level : Nat
  above : Bool
  ceTotal : Nat
  ueTotal : Nat
deriving DecidableEq, Repr

/-- A queued or running scrub (R459). -/
structure Scrub where
  cmd : Nat
  addr : Nat
  length : Nat
  statusAddr : Nat
  started : Bool
  read : Nat
  corrected : Nat
  bad : Nat
  marked : Nat
  status : Nat
deriving DecidableEq, Repr

/-- A cistern entry (Table 15-3); SUPPRESSED, JOB and the payload bytes as stored. -/
structure Entry where
  seq : Nat
  /-- Its place in the entry window (R475). -/
  slot : Nat
  code : Nat
  severity : Nat
  mirrored : Bool
  hasSaggar : Bool
  saggar : Nat
  domain : Nat
  index : Nat
  originCount : W64
  suppressed : Nat
  job : Nat
  payload : List Byte
deriving DecidableEq, Repr

/-- The weir of one event code (R471): WEIR_RATE and WEIR_BURST, tokens in millionths, filled up to `lastUs`. -/
structure Weir where
  rate : Nat
  burst : Nat
  tokens : Nat
  lastUs : Nat
  held : Nat
deriving DecidableEq, Repr

/-- A CHANNEL_RETIRE slot (Table 15-7). -/
structure ChanRetire where
  channel : Nat
  valid : Bool
  donor : Nat
deriving DecidableEq, Repr

/-- The cistern and the reliability registers (Table 15-6, Table 15-7). -/
structure Rel where
  bootCount : Nat
  nextSeq : Nat
  entries : List Entry
  drops : Tbl Nat
  mirror : List Entry
  /-- Entries of severity 5 or 6 not yet written to the mirror (R473). -/
  toMirror : List Entry
  mirrorDrop : Nat
  pending : Bool
  weirs : Tbl Weir
  ceThreshold : Nat
  ceLeakS : Nat
  /-- When the buckets last leaked, in µs (R457). -/
  leakUs : Nat
  autoRetire : Bool
  cisIrqMin : Nat
  regions : Tbl Region
  granState : Tbl Nat
  scrubs : List Scrub
  /-- CHANNEL_RETIRE as committed, and as the last bisque start applied it (R462). -/
  retireSet : Tbl ChanRetire
  retireNow : Tbl ChanRetire
deriving DecidableEq, Repr

/-! ### Ledger, firmware and security (chapters 16 and 17) -/

/-- An image slot of the ledger die (R495, Table 16-7). -/
structure ImageSlot where
  image : List Byte
  ok : Bool
deriving DecidableEq, Repr

/-- A management controller (R498). -/
structure Mc where
  working : Bool
  /-- Image slot of kind 0 that it runs. -/
  slot : Nat
  /-- Time in µs at which it took a role on the new image. -/
  tookUs : Nat
deriving DecidableEq, Repr

/-- A live activation of a management image (R499). -/
structure Activation where
  cmd : Nat
  slot : Nat
  floor : Bool
  /-- Roles taken on the new image. -/
  moved : List Nat
  lastUs : Nat
deriving DecidableEq, Repr

/-- A core runtime activation (R500): saggars left, and those updated. -/
structure RtActivation where
  cmd : Nat
  slot : Nat
  floor : Bool
  /-- ALL was set. -/
  all : Bool
  left : List Nat
  sites : Nat
  sinceUs : Nat
  started : Bool
deriving DecidableEq, Repr

/-- Firmware, ledger and reset state (chapter 16). -/
structure Fw where
  variant : Nat
  pendingVariant : Option Nat
  qualified : Nat
  leftVariant : Nat
  leftIdentity : Nat
  leftOwner : Nat
  history : List (List Byte)
  hostCarveout : Nat
  carveoutNow : Nat
  slotsMgmt : Tbl ImageSlot
  slotsRun : Tbl ImageSlot
  activeMgmt : Nat
  activeRun : Nat
  /-- The management slot that becomes active at the next refire, and whether FLOOR then rises (R499). -/
  refireMgmt : Option Nat
  refireFloor : Bool
  minMgmt : Nat
  minRun : Nat
  roles : Tbl Nat
  mcs : Tbl Mc
  activation : Option Activation
  rtActivation : Option RtActivation
  drained : Bool
  /-- TWIN_DRAIN commands that wait, with the commands each waits on (R506). -/
  draining : List (Nat × Nat)
  resets : List ResetRun
  twinPeer : Nat
  twinValid : Bool
  mgmtLost : Bool
  /-- Bring-up stopped under R483. -/
  stopped : Bool
  /-- A bring-up that RST_PACKAGE has asked for: a bisque start (true) or a refire (false). -/
  bringup : Option Bool
deriving DecidableEq, Repr

/-- A pair key or pond key of the key store, with the previous key during its grace (R522, R524). -/
structure PairKey where
  key : Nat
  previous : Option Nat
  changedUs : Nat
deriving DecidableEq, Repr

/-- Highest counter accepted and the window below it, for one key and source port (R390). -/
structure Replay where
  top : Nat
  seen : List Nat
deriving DecidableEq, Repr

/-- Identity, measurements and keys (chapter 17). -/
structure Sec where
  identityOk : Bool
  rekeys : Nat
  /-- The device certificate; none is that of the factory. -/
  certificate : Option (List Byte)
  ownerHash : List Byte
  owned : Bool
  candidate : Bool
  meas : Tbl (List Byte)
  dlog : List (List Byte)
  dlogOver : Bool
  pondKeys : Tbl Nat
  pairKeys : Tbl PairKey
  wrapKeys : Tbl Nat
  /-- Counters sent under each key, and replay windows of each key and source port. -/
  txCounters : Tbl Nat
  replays : Tbl Replay
deriving DecidableEq, Repr

/-! ### The whole state -/

/-- The state of the block. -/
structure State where
  /-- Commands that wait, first in first out. -/
  pending : List Instr
  /-- The management counter in µs. -/
  nowUs : Nat
  /-- The model's own: free values drawn so far. No statement rests on its value. -/
  free : Nat
  pkg : Pkg
  sites : Tbl Site
  cores : Tbl Core
  clusters : Tbl Cluster
  /-- Packets that wait for injection, and packets in flight, oldest first. -/
  outq : List Packet
  net : List Packet
  remaps : List Remap
  rill : List RillMsg
  /-- Epochs the cores of each saggar have received: saggar × 65,536 + unit (R66). -/
  heard : Tbl (BitVec 32)
  bcasts : List Bcast
  /-- Memory by linear address: channel-linear stack memory, column memory, core stores. Unlisted bytes read 0. -/
  mem : Tbl Byte
  /-- Poisoned units, and units that hold an undetected correctable or uncorrectable pattern (R208). -/
  poison : List Nat
  latentCe : List Nat
  latentUe : List Nat
  /-- Code bytes as a fetch may still see them: bytes changed in core stores since FENCE.I (R190). -/
  stale : List (Nat × Byte)
  /-- Bytes of sites as they stood before sluices wrote them, until the core's FENCE r,r; and as they stood before the core
  of the site wrote them, until its FENCE w,w (R189). -/
  unseen : List (Nat × Byte)
  unsent : List (Nat × Byte)
  owners : Tbl Owner
  filling : List Nat
  sluices : Tbl Sluice
  nbs : Tbl Nb
  /-- KV services on sluices in acceptance order: command, pages named, writer (R282). -/
  kvs : List (Nat × List Nat × Bool)
  gatesSeen : List (Nat × Nat)
  rings : Tbl Ring
  cmds : List Cmd
  compls : List Compl
  txns : List Txn
  commits : List Commit
  /-- Settings that commits wrote while a transaction was open: setting, first index, run, serial of the commit (R350). -/
  changed : List (Nat × Nat × Nat × Nat)
  saggars : Tbl Saggar
  jobs : List Job
  launches : List Launch
  host : HostIf
  ports : Tbl Port
  fab : Fab
  power : Power
  domains : Tbl Domain
  thermal : Thermal
  rel : Rel
  fw : Fw
  sec : Sec
deriving DecidableEq, Repr

/-- Faults: none is raised. The block has no fault of its own: it answers every command with a status, an event or
no change, so the inductive holds one constructor that no meaning uses (safe). -/
inductive Fault where
  /-- Raised by nothing; safe. -/
  | none
deriving DecidableEq, Repr

/-- Refusals. -/
inductive Refusal where
  /-- Raised by the arms of `exec` whose command has no meaning yet; safe, the machine stops there. -/
  | notModelled (mnemonic : String)
deriving DecidableEq, Repr

/-! ### The state after reset -/

/-- First carve-out granule for a carve-out of `gib` GiB (R317). -/
def firstCarveGranule (gib : Nat) : Nat := 524288 - 512 * gib

/-- A ring that nothing configures, at bisque (Table 11-4). -/
def Ring.unset : Ring :=
  { role := .disabled, saggar := 0, oper := false, pair := 0, entries := 0, base := 0, db := 0, head := 0, tail := 0,
    dbErr := false, stalled := false, stallSince := 0, stallSeen := false, inReset := false, halted := false,
    slotPoisoned := false, slotSeen := false, lost := 0, epoch := 1, vector := 0, coalCount := 1, coalUs := 0,
    irqPending := 0, irqSince := 0 }

/-- Rings 0 and 1 at bisque for a carve-out whose first granule is `f` (Table 11-4). -/
def Ring.bisque (f n : Nat) : Ring :=
  if n = 0 then { Ring.unset with role := .submission, oper := true, pair := 1, entries := 256, base := f * 0x200000 }
  else if n = 1 then { Ring.unset with role := .completion, entries := 256, base := f * 0x200000 + 0x4000 }
  else Ring.unset

/-- The package right after bisque start: every strap at level 0, every rail good, clock locked (Tables 1-6, 1-9, 1-11). -/
def Pkg.bisque : Pkg :=
  { strapLevels := [0, 0, 0, 0, 0, 0], bisqueLevels := [0, 0, 0, 0, 0, 0], posValue := 0, posValid := true, posMismatch := false,
    vstby := true, vfoot := true, vmesh := true, vcm := true, vhost := true, vopt := true, vhbm := 0xFFFF,
    inputOn := true, enabled := 7, seqStopped := false, locked := true, refPresent := true, holdover := false,
    refLossCount := 0, heldInReset := false, computeLost := false, poweredDown := false, bondLost := [], bondMoves := [] }

/-- The host interface at bisque (Table 11-3). -/
def HostIf.bisque : HostIf :=
  { ready := true, modules := List.range 16, rwtIgnored := 0, dbErrors := 0, unsupported := 0, refused := 0,
    msixTable := [], msixPending := [], raised := [], lastRead := none, lastSaggar := 63,
    lastRing := [], nextId := 1, nextTxn := 1, commitSerial := 0 }

/-- Fabric-wide state at bisque. -/
def Fab.bisque : Fab :=
  { peers := [], relayBase := 0, relayOn := false, relayBusy := [], windows := [], peerSessions := [], gathers := [],
    sessions := [], linkUp := false, mgmtDropped := 0, dataOut := [] }

/-- Package ceiling in W of a variant (Table 0-1). -/
def ceilingW (variant : Nat) : Nat := if variant = 0 then 3800 else if variant = 1 then 3200 else 2600

/-- Power state at bisque (Tables 13-10, 13-11). -/
def Power.bisque (variant : Nat) : Power :=
  { capEff := ceilingW variant, borrowed := [], lent := [], inputMv := 48000, undervolt := false,
    capUnreachable := false, overhead := 0, meters := [], pkgCap := ceilingW variant, ringGroup := [],
    powerGroup := 0, lendMax := 0, stageNs := 200, shiftMax := 25, lagSums := [], lendSeq := 0, lastRecompute := 0 }

/-- Thermal state at bisque (Tables 14-6 to 14-8); the measured fields hold the coolant supply's typical values. -/
def Thermal.bisque : Thermal :=
  { inlet := 480, outlet := 480, flow := 4500, dp := 850, heatW := 0, flowWant := 0, coolantOor := false,
    flowLimited := false, kilnStale := false, heatMismatch := false, lastUpdateUs := 0, staleRaises := 0,
    sensors := [], points := [], blocks := [], nbHalf := 0, nbHeld := 0, rotSpread := 6, flowAsk := true,
    wear := [], wearLedger := [] }

/-- The cistern and reliability state at bisque for a boot count (Tables 15-6, 15-7). -/
def Rel.bisque (boot : Nat) : Rel :=
  { bootCount := boot, nextSeq := boot * 2 ^ 40, entries := [], drops := [], mirror := [], toMirror := [],
    mirrorDrop := 0, pending := false, weirs := [], ceThreshold := 64, ceLeakS := 10, leakUs := 0, autoRetire := true,
    cisIrqMin := 4, regions := [], granState := [], scrubs := [], retireSet := [], retireNow := [] }

/-- Firmware and ledger state of a part as shipped (R535, Table 16-8), MC0 to MC5 carrying roles 0 to 5. -/
def Fw.shipped : Fw :=
  { variant := 0, pendingVariant := none, qualified := 7, leftVariant := 4, leftIdentity := 8, leftOwner := 16,
    history := [], hostCarveout := 64, carveoutNow := 64, slotsMgmt := [], slotsRun := [], activeMgmt := 0,
    activeRun := 0, refireMgmt := none, refireFloor := false, minMgmt := 0, minRun := 0, roles := [], mcs := [], activation := none,
    rtActivation := none, drained := false, draining := [], resets := [], twinPeer := 0,
    twinValid := false, mgmtLost := false, stopped := false, bringup := none }

/-- Identity and keys of a part as shipped: unowned, no key installed (R518). -/
def Sec.shipped : Sec :=
  { identityOk := true, rekeys := 0, certificate := none, ownerHash := List.replicate 32 0, owned := false,
    candidate := false, meas := [], dlog := (List.range 3).map Config.logAtReset, dlogOver := false, pondKeys := [], pairKeys := [],
    wrapKeys := [], txCounters := [], replays := [] }

/-- The machine right after reset: bisque start has just completed on a part as shipped. -/
def State.reset : State :=
  { pending := [], nowUs := 0, free := 0, pkg := Pkg.bisque, sites := [], cores := [], clusters := [], outq := [],
    net := [], remaps := [], rill := [], heard := [], bcasts := [], mem := [], poison := [], latentCe := [],
    latentUe := [], stale := [], unseen := [], unsent := [], owners := [], filling := [], sluices := [], nbs := [], kvs := [], gatesSeen := [],
    rings := [], cmds := [], compls := [], txns := [], commits := [], changed := [], saggars := [], jobs := [],
    launches := [], host := HostIf.bisque, ports := [], fab := Fab.bisque, power := Power.bisque 0, domains := [],
    thermal := Thermal.bisque, rel := Rel.bisque 1, fw := Fw.shipped, sec := Sec.shipped }

end Sys2Proof.Machine
end

