-- ==== Sys2Proof/Machine/Ops.lean ====
section
/-! DEFINITION. The operations every meaning is built from: sparse tables, what each table holds where nothing is listed
(the At bisque columns of the manual), the accessors of `State`, and the numbering of R2 and R3. -/
namespace Sys2Proof.Machine
open Sys2Proof

/-- What a command's meaning answers. -/
abbrev Out := Host.Outcome State Fault Refusal

/-! ### Sparse tables -/

/-- Entry `k` of a table whose unlisted entries are given by `d`. -/
def Tbl.get {α : Type} (d : Nat → α) (t : Tbl α) (k : Nat) : α :=
  match t with
  | [] => d k
  | (i, v) :: r => if i = k then v else Tbl.get d r k

/-- The table without entry `k`. -/
def Tbl.drop {α : Type} (t : Tbl α) (k : Nat) : Tbl α := t.filter (fun p => p.1 != k)

/-- The table with `(k, v)` before the first larger index. -/
def Tbl.place {α : Type} (t : Tbl α) (k : Nat) (v : α) : Tbl α :=
  match t with
  | [] => [(k, v)]
  | (i, w) :: r => if k < i then (k, v) :: (i, w) :: r else (i, w) :: Tbl.place r k v

/-- The table with entry `k` changed to `v`; the entry is not listed when `v` is what an unlisted entry holds. -/
def Tbl.put {α : Type} [DecidableEq α] (d : Nat → α) (t : Tbl α) (k : Nat) (v : α) : Tbl α :=
  if v = d k then t.drop k else (t.drop k).place k v

/-- Indices strictly rising. -/
def Tbl.sorted {α : Type} : Tbl α → Bool
  | [] => true
  | [_] => true
  | (i, _) :: (j, w) :: r => decide (i < j) && Tbl.sorted ((j, w) :: r)

/-- The canonical form of a table: indices strictly rising and no entry equal to what an unlisted index holds. -/
def Tbl.wf {α : Type} [DecidableEq α] (d : Nat → α) (t : Tbl α) : Bool :=
  Tbl.sorted t && t.all (fun p => decide (p.2 ≠ d p.1))

/-- Replace the first list entry that satisfies `p`. -/
def replaceFirst {α : Type} (p : α → Bool) (f : α → α) : List α → List α
  | [] => []
  | a :: r => if p a then f a :: r else a :: replaceFirst p f r

/-- Remove the first list entry that satisfies `p`. -/
def removeFirst {α : Type} (p : α → Bool) : List α → List α
  | [] => []
  | a :: r => if p a then r else a :: removeFirst p r

/-- The list without entry `k`. -/
def dropAt {α : Type} : List α → Nat → List α
  | [], _ => []
  | _ :: r, 0 => r
  | a :: r, k + 1 => a :: dropAt r k

/-- Numbers `lo`, `lo + 1`, … up to and not including `lo + n`. -/
def span (lo n : Nat) : List Nat := (List.range n).map (lo + ·)

/-- Insert into a rising list of numbers without repeats. -/
def insertNat (k : Nat) : List Nat → List Nat
  | [] => [k]
  | i :: r => if k < i then k :: i :: r else if k = i then i :: r else i :: insertNat k r

/-- Little-endian field of a byte list: `n` bytes from byte `lo`; bytes past the end read 0 (R5). -/
def fieldAt (bs : List Byte) (lo n : Nat) : Nat := leNat ((bs.drop lo).take n)

/-- The first failing number of a list of check results, 0 when every check passes; with several failures the lowest
(R11). -/
def lowest (l : List Nat) : Nat := l.foldl (fun a b => if b = 0 then a else if a = 0 then b else min a b) 0

/-- `c` reported when `p` holds, else 0. -/
def check (p : Bool) (c : Nat) : Nat := if p then c else 0

/-- Checks in stages: the lowest status of the first stage that fails (R11). -/
def staged : List (List Nat) → Nat
  | [] => 0
  | st :: r => if lowest st ≠ 0 then lowest st else staged r

/-- The largest value of an `n`-bit counter that saturates. -/
def top (n : Nat) : Nat := 2 ^ n - 1

/-! ### Numbering (R2, R3, Table 2-10) -/

def sitesN : Nat := 4608
def siteDie (s : Nat) : Nat := s / 2304
def siteRow (s : Nat) : Nat := s % 2304 / 48
def siteCol (s : Nat) : Nat := s % 48
def siteAt (die row col : Nat) : Nat := die * 2304 + row * 48 + col
/-- Cluster of a site (Table 0-4). -/
def clusterOf (s : Nat) : Nat := siteDie s * 576 + siteRow s / 2 * 24 + siteCol s / 2
/-- The four sites of a cluster, ascending. -/
def clusterSites (c : Nat) : List Nat :=
  let base := siteAt (c / 576) (c % 576 / 24 * 2) (c % 24 * 2)
  [base, base + 1, base + 48, base + 49]
/-- Row of a die, numbered die × 48 + row. -/
def siteRowKey (s : Nat) : Nat := s / 48
/-- The 48 sites of a row of a die. -/
def rowSites (key : Nat) : List Nat := span (key * 48) 48
def channelCode (n : Nat) : Nat := 4608 + n
def ucieCode (u g : Nat) : Nat := 5120 + 4 * u + g
def opticalCode (p k : Nat) : Nat := 5184 + 2 * p + k
/-- Numbers that the model gives the units of R63 in epoch updates: sites and near-bank units by mesh code,
sluices from 8,192 and rings from 16,384. -/
def sluiceUnit (n : Nat) : Nat := 8192 + n
def ringUnit (n : Nat) : Nat := 16384 + n

/-! ### What each table holds where nothing is listed (At bisque) -/

def Shape.priBisque : Shape := { rate := 0, burst := 1, tokens := 65536, lastUs := 0 }
def Shape.openBisque : Shape := { rate := 65535, burst := 255, tokens := 255 * 65536, lastUs := 0 }

/-- A site at bisque of a part without factory repair: columns 46 and 47 spare (R40, Tables 2-3 to 2-6). -/
def Site.bisque (s : Nat) : Site :=
  { role := if siteCol s < 46 then .active else .spare, lcol := if siteCol s < 46 then siteCol s else 63,
    inReset := false, gated := decide (46 ≤ siteCol s), shiftPending := false, epoch := 1,
    pri := Shape.priBisque, resp := Shape.openBisque, cas := Shape.openBisque, bulk := Shape.openBisque,
    cntSaggar := 0, cntEpoch := 0, cntReset := 0, cntLate := 0, lateNow := 0, ueTimes := [] }

def Flags.none : Flags := { nan := false, inf := false, absurd := false, sat := false, lost := false, bound := false }

def Acc.clear : Acc :=
  { fp16 := false, isOpen := false, groups := 0, redOpen := false, red16 := false, failed := false,
    exportFault := false, redId := 0, nb := 0, next := 0, nodes := [], preSlot := none, root := none,
    exporting := none }

def Aor.clear : Aor :=
  { isOpen := false, done := false, expired := false, redId := 0, word := 0, self := 0, count := 1, table := 0,
    waiting := [], sentUp := false, sinceUs := 0, extraUs := 0 }

def Aper.bisque : Aper := { base := 0, epochCheck := true, enable := false }

/-- A core after bisque start or rewet: the runtime waits in machine mode and every register holds 0, but for the
values of Tables 5-5, 6-2 and 6-16 to 6-18. -/
def Core.bisque : Core :=
  { run := .idle, suspended := false, user := false, pc := 0, x := [], f := [], v := [], vl := 0, vtype := 0x80000000, vstart := 0,
    vxrm := 0, vxsat := false, fflags := 0, frm := 0, mepc := 0, mcause := 0, mtval := 0, mtvec := 0, mstatus := 0,
    mscratch := 0, mie := 0, tl := [], acw := [], acc0 := Acc.clear, acc1 := Acc.clear, acc2 := Acc.clear, acc3 := Acc.clear,
    fmtFlags := Flags.none, absLimit := 0, lossScale := 0x3F800000, tepiScale := 0x3F800000, tepiTable := 0,
    tepiSegs := 1, srSeed := 0, srTid := 0, srIdx := 0, casWait := 1000, aor := Aor.clear, aorTable := 0,
    aorSelf := 0, aorCount := 1, resRetried := 0, resFaults := 0, resPending := false, resAcc := 0, ktvec := 0,
    kepc := 0, kcause := 0, kshort := false, kactive := false, ktval := 0, ktval2 := 0, remFirst := 0, remCount := 0,
    apers := [], coreEpoch := 1, usBase := 0, job := 0, launch := none, posted := [], nextTag := 0 }

/-- A cluster at bisque: unassigned, cone 0, every phase working (Table 13-10). -/
def Cluster.bisque : Cluster :=
  { saggar := 0, assigned := false, cone := 0, phasesOk := 0xF, derated := false, dark := false, asleep := false,
    staging := false, budgetMw := 0, waitPm := 0, p0 := 0, thermalCone := 0, lowerCone := 0,
    lowerCount := 0, lowerUs := 0, clamps := [], wantOn := false, bank := 0, mult := 1, deferred := false }

/-- Ownership of a granule at bisque: the carve-out of `gib` GiB is the top of stack memory (Table 7-3). -/
def Owner.bisque (gib g : Nat) : Owner :=
  { saggar := 0, assigned := false, carveout := decide (firstCarveGranule gib ≤ g ∧ g < 524288) }

def Sluice.bisque : Sluice :=
  { saggar := 0, valid := false, ring := 0, state := .unbound, haltStatus := 0, epoch := 1, faultAddr := 0,
    progress := 0, seed := 0, flags := Flags.none, doneCount := 0, desc := [], unread := false, dflags := Flags.none,
    view := [] }

def Nb.bisque : Nb :=
  { state := .idle, epoch := 1, maxSteps := 65536, stepsRun := 0, retry := 0, gapOver := 0, shares := [], queue := [],
    running := none, scratch := [], scratchBad := [], resetAsked := false, waiters := [], recent := [],
    gapq := [], gapWaited := 0, gapReady := 0, readBuf := [] }

/-- A saggar at bisque: inactive, with no resource (R488; Tables 7-3, 11-10, 12-10, 13-10, 13-11, 16-9). -/
def Saggar.bisque : Saggar :=
  { active := false, inflightShare := 0, hashKey := 0, carveoutAccess := false, fabShare := 0, cap := 0, fixedCone := 0,
    fixedOn := false, replica := 0, replicaValid := false, fabSession := 0, busy := 0, idle := 0, grantW := 0,
    fixedBroken := false, rotateDue := false, spread := 0, quiescing := 0, runtimeSlot := none,
    smeas := List.replicate 32 0, slog := [], slogOver := false }

def Port.bisque (st : PortSt) : Port :=
  { state := st, leader := false, leaderComb := 0, echoNs := 0, faultCause := 0, present := [], misplaced := [],
    heardUs := [], misplacedUs := [], counters := [], synced := false, beaconUs := 0, helloUs := 0, txq := [], txLast := none,
    queue := [], current := none, awaiting := [], lastSaggar := 63, turn := 0, resvs := [], lastResvSaggar := 63, resvTurn := 0,
    recv := none, kept := [], authFails := 0, nextPour := 1 }

def Domain.bisque : Domain := { mean := 0, least := 0, greatest := 0, voltMv := 0, window := 0, energy := 0 }
/-- A sensor at bisque: its measured value is an input, 30.0 °C until one arrives (DESIGN CHOICE). -/
def Sensor.bisque : Sensor := { temp := 480, suspect := false, failed := false, departs := 0 }
def Point.bisque : Point := { bias := 0, control := 480, forecast := 480, valid := false }
def Block.bisque : Block :=
  { hiddenL1 := false, hiddenA := false, coldL1 := 0, coldA := 0, warmL1 := 0, warmA := 0, tCone := 0,
    double0 := false, double1 := false, refreshes := 0 }
def Wear.none : Wear := { b0 := 0, b1 := 0, b2 := 0, b3 := 0, stack := [] }
def Region.bisque : Region := { level := 0, above := false, ceTotal := 0, ueTotal := 0 }
def Weir.bisque : Weir := { rate := 16, burst := 64, tokens := 64000000, lastUs := 0, held := 0 }
def ChanRetire.none : ChanRetire := { channel := 0, valid := false, donor := 0 }
def ImageSlot.empty : ImageSlot := { image := [], ok := false }
/-- The image slots of a kind as the factory leaves them: slot 0 holds a good image, slot 1 none. -/
def ImageSlot.factory (kind slot : Nat) : ImageSlot :=
  if slot = 0 then { image := Config.factoryImage kind, ok := true } else ImageSlot.empty
def Mc.bisque (_ : Nat) : Mc := { working := true, slot := 0, tookUs := 0 }
def Window.closed : Window := { isOpen := false, base := 0, length := 0, srcPos := 0, anyPos := false, ring := 0 }
/-- Byte of the MSI-X table after reset: every vector masked (byte 12, bit 0 of its entry), as MSI-X defines. -/
def msixBisque (o : Nat) : Byte := if o % 16 = 12 then 1 else 0

/-! ### Accessors -/

namespace State

def site (s : State) (i : Nat) : Site := s.sites.get Site.bisque i
def setSite (s : State) (i : Nat) (v : Site) : State := { s with sites := s.sites.put Site.bisque i v }
def modSite (s : State) (i : Nat) (f : Site → Site) : State := s.setSite i (f (s.site i))
def core (s : State) (i : Nat) : Core := s.cores.get (fun _ => Core.bisque) i
def setCore (s : State) (i : Nat) (v : Core) : State := { s with cores := s.cores.put (fun _ => Core.bisque) i v }
def modCore (s : State) (i : Nat) (f : Core → Core) : State := s.setCore i (f (s.core i))
def cluster (s : State) (i : Nat) : Cluster := s.clusters.get (fun _ => Cluster.bisque) i
def setCluster (s : State) (i : Nat) (v : Cluster) : State :=
  { s with clusters := s.clusters.put (fun _ => Cluster.bisque) i v }
def modCluster (s : State) (i : Nat) (f : Cluster → Cluster) : State := s.setCluster i (f (s.cluster i))
def owner (s : State) (g : Nat) : Owner := s.owners.get (Owner.bisque s.fw.carveoutNow) g
def setOwner (s : State) (g : Nat) (v : Owner) : State :=
  { s with owners := s.owners.put (Owner.bisque s.fw.carveoutNow) g v }
def sluice (s : State) (i : Nat) : Sluice := s.sluices.get (fun _ => Sluice.bisque) i
def setSluice (s : State) (i : Nat) (v : Sluice) : State :=
  { s with sluices := s.sluices.put (fun _ => Sluice.bisque) i v }
def modSluice (s : State) (i : Nat) (f : Sluice → Sluice) : State := s.setSluice i (f (s.sluice i))
def nb (s : State) (i : Nat) : Nb := s.nbs.get (fun _ => Nb.bisque) i
def setNb (s : State) (i : Nat) (v : Nb) : State := { s with nbs := s.nbs.put (fun _ => Nb.bisque) i v }
def modNb (s : State) (i : Nat) (f : Nb → Nb) : State := s.setNb i (f (s.nb i))
def ring (s : State) (i : Nat) : Ring := s.rings.get (Ring.bisque (firstCarveGranule s.fw.carveoutNow)) i
def setRing (s : State) (i : Nat) (v : Ring) : State :=
  { s with rings := s.rings.put (Ring.bisque (firstCarveGranule s.fw.carveoutNow)) i v }
def modRing (s : State) (i : Nat) (f : Ring → Ring) : State := s.setRing i (f (s.ring i))
def saggar (s : State) (i : Nat) : Saggar := s.saggars.get (fun _ => Saggar.bisque) i
def setSaggar (s : State) (i : Nat) (v : Saggar) : State :=
  { s with saggars := s.saggars.put (fun _ => Saggar.bisque) i v }
def modSaggar (s : State) (i : Nat) (f : Saggar → Saggar) : State := s.setSaggar i (f (s.saggar i))
/-- STATE of a port right after bring-up: disabled without a valid position (R26), else without a pond key (R369). -/
def portStart (s : State) : PortSt := if s.pkg.posValid then .noKey else .disabled
def port (s : State) (i : Nat) : Port := s.ports.get (fun _ => Port.bisque .noKey) i
def setPort (s : State) (i : Nat) (v : Port) : State := { s with ports := s.ports.put (fun _ => Port.bisque .noKey) i v }
def modPort (s : State) (i : Nat) (f : Port → Port) : State := s.setPort i (f (s.port i))
def domain (s : State) (i : Nat) : Domain := s.domains.get (fun _ => Domain.bisque) i
def setDomain (s : State) (i : Nat) (v : Domain) : State :=
  { s with domains := s.domains.put (fun _ => Domain.bisque) i v }
def region (s : State) (i : Nat) : Region := s.rel.regions.get (fun _ => Region.bisque) i
def setRegion (s : State) (i : Nat) (v : Region) : State :=
  { s with rel := { s.rel with regions := s.rel.regions.put (fun _ => Region.bisque) i v } }
def modRegion (s : State) (i : Nat) (f : Region → Region) : State := s.setRegion i (f (s.region i))
def weir (s : State) (c : Nat) : Weir := s.rel.weirs.get (fun _ => Weir.bisque) c
def setWeir (s : State) (c : Nat) (v : Weir) : State :=
  { s with rel := { s.rel with weirs := s.rel.weirs.put (fun _ => Weir.bisque) c v } }
/-- GRANULE_STATE as kept: 0 in service, 1 RETIRE_PENDING, 2 RETIRED; donor runs are found from the slots. -/
def granState (s : State) (g : Nat) : Nat := s.rel.granState.get (fun _ => 0) g
def setGranState (s : State) (g v : Nat) : State :=
  { s with rel := { s.rel with granState := s.rel.granState.put (fun _ => 0) g v } }
def retireSet (s : State) (j : Nat) : ChanRetire := s.rel.retireSet.get (fun _ => ChanRetire.none) j
def retireNow (s : State) (j : Nat) : ChanRetire := s.rel.retireNow.get (fun _ => ChanRetire.none) j
def sensor (s : State) (i : Nat) : Sensor := s.thermal.sensors.get (fun _ => Sensor.bisque) i
def setSensor (s : State) (i : Nat) (v : Sensor) : State :=
  { s with thermal := { s.thermal with sensors := s.thermal.sensors.put (fun _ => Sensor.bisque) i v } }
def point (s : State) (i : Nat) : Point := s.thermal.points.get (fun _ => Point.bisque) i
def setPoint (s : State) (i : Nat) (v : Point) : State :=
  { s with thermal := { s.thermal with points := s.thermal.points.put (fun _ => Point.bisque) i v } }
def block (s : State) (i : Nat) : Block := s.thermal.blocks.get (fun _ => Block.bisque) i
def setBlock (s : State) (i : Nat) (v : Block) : State :=
  { s with thermal := { s.thermal with blocks := s.thermal.blocks.put (fun _ => Block.bisque) i v } }
def wear (s : State) (i : Nat) : Wear := s.thermal.wear.get (fun _ => Wear.none) i
def mc (s : State) (i : Nat) : Mc := s.fw.mcs.get Mc.bisque i
def setMc (s : State) (i : Nat) (v : Mc) : State := { s with fw := { s.fw with mcs := s.fw.mcs.put Mc.bisque i v } }
/-- Controller that carries a role (R498): MC r carries role r until a takeover or an activation moves it. -/
def roleMc (s : State) (r : Nat) : Nat := s.fw.roles.get id r
def setRoleMc (s : State) (r c : Nat) : State := { s with fw := { s.fw with roles := s.fw.roles.put id r c } }
def window (s : State) (sag w : Nat) : Window := s.fab.windows.get (fun _ => Window.closed) (sag * 16 + w)
def setWindow (s : State) (sag w : Nat) (v : Window) : State :=
  { s with fab := { s.fab with windows := s.fab.windows.put (fun _ => Window.closed) (sag * 16 + w) v } }

/-- The device certificate (R517). -/
def certificateNow (s : State) : List Byte := s.sec.certificate.getD Config.factoryCertificate

/-- Draw a free value: the count advances, so that no two draws are the same by definition. -/
def draw (s : State) : State := { s with free := s.free + 1 }

/-! ### Derived facts about sites, clusters and packets -/

/-- The saggar that owns a site's cluster, if any (R62). -/
def siteOwner (s : State) (i : Nat) : Option Nat :=
  if (s.cluster (clusterOf i)).assigned then some (s.cluster (clusterOf i)).saggar else none

/-- The saggar that owns a granule, if any. -/
def granOwner (s : State) (g : Nat) : Option Nat :=
  if (s.owner g).assigned then some (s.owner g).saggar else none

/-- Logical column as SITE_STATE reports it (Table 2-3): 63 when the site is not active or is moving. -/
def lcolSeen (s : State) (i : Nat) : Nat :=
  if (s.site i).role = .active ∧ (s.site i).shiftPending = false then (s.site i).lcol else 63

/-- Logical core of a site, 0x1FFF when none (Table 2-4). -/
def coreOf (s : State) (i : Nat) : Nat :=
  if s.lcolSeen i = 63 then 0x1FFF else siteDie i * 2208 + siteRow i * 46 + s.lcolSeen i

/-- The site that holds a logical core number, none when the column is absent (R43). -/
def siteOfCore (s : State) (c : Nat) : Option Nat :=
  if c < 4416 then (rowSites (c / 46)).find? (fun i => s.coreOf i == c) else none

/-- Active sites of a cluster. -/
def clusterActive (s : State) (c : Nat) : List Nat := (clusterSites c).filter (fun i => decide ((s.site i).role = .active))

/-- Clusters that a saggar owns: an unlisted cluster is assigned to none. -/
def saggarClusters (s : State) (sag : Nat) : List Nat :=
  (s.clusters.filter (fun p => p.2.assigned && p.2.saggar == sag)).map (·.1)

/-- Sites of the clusters that a saggar owns. -/
def saggarSites (s : State) (sag : Nat) : List Nat := (s.saggarClusters sag).flatMap clusterSites

end State
end Sys2Proof.Machine
end

