-- ==== Sys2Proof/Machine/Operands.lean ====
section
/-! DEFINITION. The operand forms of a command packet (R331, Table 11-5): numbers, 52-bit addresses and the ring number that
events carry. Bits that a parameter's rule reserves are ignored (R9). -/
namespace Sys2Proof.Machine
open Sys2Proof

/-- Parameter bytes `lo` to `lo + n - 1` of a command as a number (R331). -/
def Cmd.p (c : Cmd) (lo n : Nat) : Nat := fieldAt c.params lo n
/-- A 52-bit address in parameter bytes `lo` to `lo + 7`: bits [63:52] are reserved and ignored (R331). -/
def Cmd.addr (c : Cmd) (lo : Nat) : Nat := c.p lo 8 % 2 ^ 52
/-- Ring number of a command, 0xFFFF for a management session (R490). -/
def Cmd.ringNo (c : Cmd) : Nat :=
  match c.origin with
  | .ring n => n
  | .mgmt _ => 0xFFFF

/-- Stands for no status word: an address outside the 52-bit space. -/
def noAddr : Nat := 2 ^ 52
/-- The status word address of a command for which 0 means none (R339). -/
def wordOrNone (a : Nat) : Nat := if a = 0 then noAddr else a

end Sys2Proof.Machine
end

