-- ==== Sys2Proof/Machine/Cistern.lean ====
section
/-! DEFINITION. The cistern: how an event passes the weir and is recorded (R467 to R473), the device event interrupt
(R477), MSI-X vectors (R322, R342), and the counters of correctable and uncorrectable errors (R455 to R458). -/
namespace Sys2Proof.Machine
open Sys2Proof

/-- A payload item of 4 bytes (R538). -/
def p4 (v : Nat) : List Byte := leBytes 4 v
/-- A payload item of 8 bytes: an address, a step number, a SEQ value, BOOT_COUNT or an energy (R538). -/
def p8 (v : Nat) : List Byte := leBytes 8 v
/-- A signed payload item, sign-extended to 4 bytes (R538). -/
def pInt (v : Int) : List Byte := leBytes 4 (v % 4294967296).toNat

/-- Severity of an event code; in every event table the number decides (R468). -/
def severityOf (code : Nat) : Nat :=
  if code ∈ [0x1004, 0x1007, 0x6002, 0x7006, 0x9008] then 6
  else if code ∈ [0x1003, 0x8005, 0x8010, 0x9003, 0x900B, 0xA002, 0xA008, 0xA009] then 5
  else if code ∈ [0x1001, 0x1002, 0x1008, 0x2002, 0x2003, 0x2006, 0x2011, 0x2020, 0x2021, 0x2022, 0x2040, 0x3020,
      0x4001, 0x4003, 0x5002, 0x5003, 0x5007, 0x500B, 0x6001, 0x6004, 0x6006, 0x6009, 0x8002, 0x8011, 0x9004, 0x9006,
      0x9007, 0x9009, 0x900E, 0xA007, 0xB002, 0xB004, 0xB005, 0xC003, 0xC004, 0xC005, 0xC006, 0xC007] then 4
  else if code ∈ [0x1005, 0x1006, 0x2001, 0x2004, 0x2010, 0x2012, 0x2023, 0x2030, 0x2031, 0x3010, 0x3021, 0x3030,
      0x3040, 0x3042, 0x4002, 0x4004, 0x4005, 0x5004, 0x5006, 0x5008, 0x6003, 0x600A, 0x7002, 0x7003, 0x7005, 0x7007,
      0x7009, 0x700A, 0x700B, 0x8001, 0x8006, 0xA004, 0xB001, 0xB003, 0xB007, 0xB008, 0xC001] then 3
  else if code ∈ [0x5001, 0x5005, 0x7001, 0x700C, 0x8003, 0x8004, 0x9001, 0x9002, 0x9005, 0x900A, 0x900C, 0x900D,
      0xA003, 0xA005] then 2
  else 1

/-- A bucket with the tokens that have arrived by `now`; tokens are in millionths (R471). -/
def Weir.refill (w : Weir) (now : Nat) : Weir :=
  { w with tokens := min (w.burst * 1000000) (w.tokens + w.rate * (now - w.lastUs)), lastUs := now }

/-- The lowest entry slot that holds no entry. -/
def freeSlot (l : List Entry) : Nat :=
  ((List.range (l.length + 1)).find? (fun n => !(l.any (fun e => e.slot == n)))).getD 0

/-- Put an entry into a store of `cap` entries kept in SEQ order: a full store gives up the entry of lowest SEQ among
those of the new severity or below, and none is given up when there is no such entry (R472). -/
def storeEntry (cap : Nat) (l : List Entry) (e : Entry) : Option (List Entry) :=
  if l.length < cap then some (l ++ [{ e with slot := freeSlot l }])
  else
    match l.find? (fun o => decide (o.severity ≤ e.severity)) with
    | none => none
    | some o => some (removeFirst (fun x => x.seq == o.seq) l ++ [{ e with slot := o.slot }])

namespace State

/-- Vector `v` is masked: bit 0 of the vector control word of its table entry. -/
def vectorMasked (s : State) (v : Nat) : Bool := (s.host.msixTable.get msixBisque (v * 16 + 12)).toNat % 2 == 1

/-- Raise an MSI-X vector: a masked vector sets its pending bit instead (R322, R342). -/
def raiseVector (s : State) (v : Nat) : State :=
  if s.vectorMasked v then { s with host := { s.host with msixPending := insertNat v s.host.msixPending } }
  else { s with host := { s.host with raised := s.host.raised ++ [v] } }

/-- Set PENDING, and raise vector 0 when it changes from 0 to 1 (R477). -/
def eventInterrupt (s : State) : State :=
  if s.rel.pending then s else { s with rel := { s.rel with pending := true } }.raiseVector 0

/-- Record an entry that has passed the weir: it takes the next SEQ, may displace an older entry or be dropped (R472),
waits for the mirror when its severity is 5 or 6 (R473), and may raise the device event interrupt (R477). -/
def arrive (s : State) (e : Entry) : State :=
  let s := { s with rel := { s.rel with nextSeq := s.rel.nextSeq + 1 } }
  let s := if 5 ≤ e.severity then { s with rel := { s.rel with toMirror := s.rel.toMirror ++ [e] } } else s
  match storeEntry 65536 s.rel.entries e with
  | none =>
    { s with rel := { s.rel with
        drops := s.rel.drops.put (fun _ => 0) e.severity
          (satAdd (top 32) (s.rel.drops.get (fun _ => 0) e.severity) 1) } }
  | some l =>
    let s := { s with rel := { s.rel with entries := l } }
    if s.rel.cisIrqMin ≤ e.severity then s.eventInterrupt else s

/-- An event arises at origin (`dom`, `idx`) (Table 15-5), with the saggar of the resource it names (R470), the job and
the payload items of its table (R467). Severities 0 to 4 pass the weir first (R471). -/
def record (s : State) (code dom idx : Nat) (sag : Option Nat) (job : Nat) (payload : List Byte) : State :=
  let e : Entry :=
    { seq := s.rel.nextSeq, slot := 0, code := code, severity := severityOf code, mirrored := false,
      hasSaggar := sag.isSome, saggar := sag.getD 0, domain := dom, index := idx,
      originCount := Config.originCount s.free, suppressed := 0, job := job,
      payload := (payload ++ List.replicate 32 0).take 32 }
  if 5 ≤ severityOf code then s.draw.arrive e
  else
    let w := (s.weir code).refill s.nowUs
    if 1000000 ≤ w.tokens then
      ((s.setWeir code { w with tokens := w.tokens - 1000000, held := 0 }).draw).arrive { e with suppressed := w.held }
    else s.setWeir code { w with held := satAdd (top 32) w.held 1 }

/-- An event that firmware raises names the controller that carries the raising role (R469). -/
def recordFw (s : State) (role code : Nat) (sag : Option Nat) (job : Nat) (payload : List Byte) : State :=
  s.record code 0 (s.roleMc role) sag job payload

/-- Write one waiting entry of severity 5 or 6 to the ledger mirror, with MIRRORED set in both copies (R473). -/
def mirrorOne (s : State) (e : Entry) : State :=
  let s := { s with rel := { s.rel with toMirror := removeFirst (fun x => x.seq == e.seq) s.rel.toMirror } }
  match storeEntry 8192 s.rel.mirror { e with mirrored := true } with
  | none => { s with rel := { s.rel with mirrorDrop := satAdd (top 32) s.rel.mirrorDrop 1 } }
  | some l =>
    let marked := s.rel.entries.map (fun x => if x.seq = e.seq then { x with mirrored := true } else x)
    { s with rel := { s.rel with mirror := l, entries := marked } }

/-- Write every waiting mirror entry, as firmware does before it removes a rail (R473). -/
def mirrorAll (s : State) : State := s.rel.toMirror.foldl mirrorOne s

/-! ### Error counters -/

/-- Origin of the events of a region (Table 15-1, Table 15-5). -/
def regionOrigin (s : State) (r : Nat) : Nat × Nat :=
  if r < 4608 then (1, r) else if r < 5120 then (4, r - 4608) else if r < 5632 then (4, r - 5120)
  else (0, s.roleMc 4)

/-- Owner of the region's resource, for sites (R470). -/
def regionSaggar (s : State) (r : Nat) : Option Nat := if r < 4608 then s.siteOwner r else none

/-- LEVEL has passed CE_THRESHOLD while OVER is 0: OVER sets, event 0x8001 is recorded and the device event interrupt
is raised (R457). -/
def thresholdCross (s : State) (r : Nat) : State :=
  let g := s.region r
  if s.rel.ceThreshold < g.level ∧ g.above = false then
    let s := s.setRegion r { g with above := true }
    let o := s.regionOrigin r
    (s.record 0x8001 o.1 o.2 (s.regionSaggar r) 0 (p4 r ++ p4 g.level)).eventInterrupt
  else s

/-- Count one correctable error in a region (R455, R457). -/
def countCe (s : State) (r : Nat) : State :=
  (s.modRegion r (fun g => { g with level := satAdd (top 16) g.level 1, ceTotal := satAdd (top 32) g.ceTotal 1 })).thresholdCross r

/-- A granule becomes RETIRE_PENDING: event 0x8003 once for that granule, with its owner (R461). -/
def retirePending (s : State) (g : Nat) : State :=
  if s.granState g = 0 then
    (s.setGranState g 1).recordFw 4 0x8003 (s.granOwner g) 0 (p4 g ++ p4 ((s.granOwner g).getD 0))
  else s

/-- Count one uncorrectable error of a region and record event 0x8002 with the reader's path (R458, R536). `path` is
the code of Table 15-10 and `src` the mesh code of the reader, 0xFFFF when it has none. -/
def countUe (s : State) (r addr path src : Nat) (sag : Option Nat) : State :=
  let s := s.modRegion r (fun g => { g with ueTotal := satAdd (top 32) g.ueTotal 1 })
  let o := s.regionOrigin r
  s.record 0x8002 o.1 o.2 sag 0 (p4 r ++ p8 addr ++ p4 (path + src * 65536))

end State
end Sys2Proof.Machine
end

