-- ==== Sys2Proof/Machine/Flags.lean ====
section
/-! DEFINITION. The sticky format flags of a core, a sluice or a sequence as a register (Table 3-8): union, the register's
word, and the clearing write. What sets them is tested where the values are (R93, R94). -/
namespace Sys2Proof.Machine
open Sys2Proof

/-- The union of two sets of flags: they are sticky (R93). -/
def Flags.or (a b : Flags) : Flags :=
  { nan := a.nan || b.nan, inf := a.inf || b.inf, absurd := a.absurd || b.absurd, sat := a.sat || b.sat,
    lost := a.lost || b.lost, bound := a.bound || b.bound }

/-- FMT_FLAGS as a register (Table 3-8). -/
def Flags.word (f : Flags) : Nat :=
  b2n f.nan + 2 * b2n f.inf + 4 * b2n f.absurd + 8 * b2n f.sat + 16 * b2n f.lost + 32 * b2n f.bound

/-- A write of `v` to the register: bits written 1 clear (Table 3-8). -/
def Flags.clearBits (f : Flags) (v : Nat) : Flags :=
  { nan := f.nan && !bitAt v 0, inf := f.inf && !bitAt v 1, absurd := f.absurd && !bitAt v 2,
    sat := f.sat && !bitAt v 3, lost := f.lost && !bitAt v 4, bound := f.bound && !bitAt v 5 }

/-- The flags that the six low bits of a word name. -/
def Flags.ofWord (v : Nat) : Flags :=
  { nan := bitAt v 0, inf := bitAt v 1, absurd := bitAt v 2, sat := bitAt v 3, lost := bitAt v 4, bound := bitAt v 5 }

end Sys2Proof.Machine
end

