-- ==== Sys2Proof/Machine/Num.lean ====
section
/-! DEFINITION. Number formats, exact values, rounding and conversion (chapter 3). A value is held exactly, as a signed
fraction times a power of two, and rounded once. -/
namespace Sys2Proof.Machine
open Sys2Proof

/-- An exact value: NaN, an infinity, or (-1)^neg · num / den · 2^e. Zero keeps its sign. -/
inductive Val where
  | nan
  | inf (neg : Bool)
  | fin (neg : Bool) (num den : Nat) (e : Int)
deriving DecidableEq, Repr

/-- The function `mix` of R84, modulo 2⁶⁴. -/
def mix (x : Nat) : Nat :=
  let a := x ^^^ (x >>> 33)
  let b := a * 0x8F3C5A27E19D4B63 % 2 ^ 64
  let c := b ^^^ (b >>> 29)
  let d := c * 0xC2B694F13D7A0E5B % 2 ^ 64
  d ^^^ (d >>> 32)

/-- The 24 random bits of an element (R84). -/
def srBits (seed tid idx : Nat) : Nat :=
  mix (mix (mix (seed % 2 ^ 64 ^^^ 0x71D4A8E25B39C60F) ^^^ tid) ^^^ idx) >>> 40

/-! ### Formats (R72 to R74) -/

/-- Element width in bits of a format code (Table 3-1). -/
def fmtWidth : Nat → Nat
  | 0 => 32 | 1 => 16 | 2 => 16 | 3 => 8 | 4 => 8 | 5 => 6 | 6 => 4 | _ => 8
/-- Exponent bits, fraction bits and bias (Table 3-2). -/
def fmtExp : Nat → Nat
  | 0 => 8 | 1 => 8 | 2 => 5 | 3 => 4 | 4 => 5 | 5 => 3 | _ => 2
def fmtFrac : Nat → Nat
  | 0 => 23 | 1 => 7 | 2 => 10 | 3 => 3 | 4 => 2 | 5 => 2 | _ => 1
def fmtBias : Nat → Nat
  | 0 => 127 | 1 => 127 | 2 => 15 | 3 => 7 | 4 => 15 | 5 => 3 | _ => 1
/-- Encoding of the largest finite magnitude. -/
def fmtMax : Nat → Nat
  | 0 => 0x7F7FFFFF | 1 => 0x7F7F | 2 => 0x7BFF | 3 => 0x7E | 4 => 0x7B | 5 => 0x1F | _ => 0x7
/-- Canonical NaN (Table 3-3). -/
def fmtNan : Nat → Nat
  | 0 => 0x7FC00000 | 1 => 0x7FC0 | 2 => 0x7E00 | 3 => 0x7F | 4 => 0x7E | _ => 0
/-- Encoding of +∞. -/
def fmtInf : Nat → Nat
  | 0 => 0x7F800000 | 1 => 0x7F80 | 2 => 0x7C00 | _ => 0x7C
/-- E3M2 and E2M1 carry block scales. -/
def fmtBlock (c : Nat) : Bool := c == 5 || c == 6
/-- Bytes of `n` elements (R75). -/
def fmtBytes (c n : Nat) : Nat := fmtWidth c * n / 8

/-- A two's complement integer of `w` bits. -/
def sInt (w v : Nat) : Int := if v % 2 ^ w < 2 ^ (w - 1) then (v % 2 ^ w : Nat) else (v % 2 ^ w : Nat) - (2 ^ w : Nat)

def Val.ofInt (i : Int) : Val := .fin (decide (i < 0)) i.natAbs 1 0

/-- The value an element encodes, before any scale (R73, R74, R79). -/
def decodeElem (c bits : Nat) : Val :=
  if c = 7 then Val.ofInt (sInt 8 bits)
  else
    let f := fmtFrac c
    let w := fmtWidth c
    let neg := bitAt bits (w - 1)
    let ex := bits / 2 ^ f % 2 ^ fmtExp c
    let fr := bits % 2 ^ f
    if c ∈ [0, 1, 2, 4] ∧ ex = 2 ^ fmtExp c - 1 then (if fr = 0 then .inf neg else .nan)
    else if c = 3 ∧ bits % 128 = 127 then .nan
    else if ex = 0 then .fin neg fr 1 (1 - (fmtBias c : Int) - f)
    else .fin neg (2 ^ f + fr) 1 ((ex : Int) - fmtBias c - f)

/-- The value of an E8M0 scale: a power of two, or NaN for 0xFF (R76). -/
def decodeScale (b : Nat) : Val := if b % 256 = 255 then .nan else .fin false 1 1 ((b % 256 : Nat) - 127)

/-- An FP32 encoding's value. -/
def f32 (b : Nat) : Val := decodeElem 0 b

def Val.isNan : Val → Bool
  | .nan => true
  | _ => false
def Val.isInf : Val → Bool
  | .inf _ => true
  | _ => false
def Val.isFin : Val → Bool
  | .fin .. => true
  | _ => false
def Val.isZero : Val → Bool
  | .fin _ n _ _ => n == 0
  | _ => false
def Val.neg : Val → Bool
  | .nan => false
  | .inf n => n
  | .fin n .. => n
def Val.flip : Val → Val
  | .nan => .nan
  | .inf n => .inf (!n)
  | .fin n a d e => .fin (!n) a d e
def Val.abs : Val → Val
  | .nan => .nan
  | .inf _ => .inf false
  | .fin _ a d e => .fin false a d e
def Val.zero : Val := .fin false 0 1 0
def Val.one : Val := .fin false 1 1 0

/-! ### Exact arithmetic -/

/-- `n · 2^k` for an exponent that is not negative. -/
def shl (n : Nat) (k : Int) : Nat := n * 2 ^ k.toNat

/-- Exact product; 0 × ∞ is NaN. -/
def Val.mul : Val → Val → Val
  | .fin s a d e, .fin s' a' d' e' => .fin (s != s') (a * a') (d * d') (e + e')
  | .inf s, .fin s' a' _ _ => if a' = 0 then .nan else .inf (s != s')
  | .fin s a _ _, .inf s' => if a = 0 then .nan else .inf (s != s')
  | .inf s, .inf s' => .inf (s != s')
  | _, _ => .nan

/-- Signed numerator. -/
def sgn (neg : Bool) (n : Nat) : Int := if neg then -(n : Int) else n

/-- Exact sum; ∞ − ∞ is NaN, and a zero sum is −0 only when both terms are −0 or negative zero. -/
def Val.add : Val → Val → Val
  | .fin s a d e, .fin s' a' d' e' =>
    let m := min e e'
    let t := sgn s (shl a (e - m) * d') + sgn s' (shl a' (e' - m) * d)
    if t = 0 then .fin (s && s' && a == 0 && a' == 0) 0 1 0 else .fin (decide (t < 0)) t.natAbs (d * d') m
  | .inf s, .fin .. => .inf s
  | .fin .., .inf s => .inf s
  | .inf s, .inf s' => if s = s' then .inf s else .nan
  | _, _ => .nan

def Val.sub (a b : Val) : Val := a.add b.flip

/-- Exact quotient; x / 0 is an infinity, 0 / 0 and ∞ / ∞ are NaN. -/
def Val.div : Val → Val → Val
  | .fin s a d e, .fin s' a' d' e' =>
    if a' = 0 then (if a = 0 then .nan else .inf (s != s')) else .fin (s != s') (a * d') (d * a') (e - e')
  | .inf s, .fin s' .. => .inf (s != s')
  | .fin s .., .inf s' => .fin (s != s') 0 1 0
  | _, _ => .nan

/-- Exact order of two finite or infinite values: -1, 0 or 1. NaN compares equal to nothing; callers test it first. -/
def Val.cmp : Val → Val → Int
  | .fin s a d e, .fin s' a' d' e' =>
    let m := min e e'
    let t := sgn s (shl a (e - m) * d') - sgn s' (shl a' (e' - m) * d)
    if t < 0 then -1 else if t = 0 then 0 else 1
  | .inf s, .inf s' => if s = s' then 0 else if s then -1 else 1
  | .inf s, _ => if s then -1 else 1
  | _, .inf s' => if s' then 1 else -1
  | _, _ => 0

def Val.lt (a b : Val) : Bool := !a.isNan && !b.isNan && a.cmp b == -1
def Val.le (a b : Val) : Bool := !a.isNan && !b.isNan && a.cmp b != 1
def Val.eq (a b : Val) : Bool := !a.isNan && !b.isNan && a.cmp b == 0

/-- floor(log2(num / den)) for a nonzero fraction. -/
def fracLog2 (num den : Nat) : Int :=
  let k : Int := (Nat.log2 num : Int) - Nat.log2 den
  if shl den k ≤ shl num (-k) then k else k - 1

/-! ### Rounding (R80 to R83) -/

/-- How to round: mode 0 to nearest even, 1 toward zero, 2 stochastic with 24 random bits; the E4M3 overflow bit. -/
structure Rnd where
  mode : Nat
  ovf : Bool
  r : Nat
deriving DecidableEq, Repr

/-- N / D rounded to a natural number. -/
def roundNat (rd : Rnd) (n d : Nat) : Nat :=
  let q := n / d
  let m := n % d
  if rd.mode = 1 then q
  else if rd.mode = 2 then (if 2 ^ 24 ≤ m * 2 ^ 24 / d + rd.r then q + 1 else q)
  else if 2 * m < d then q
  else if d < 2 * m then q + 1
  else q + q % 2

/-- The magnitude of a nonzero fraction rounded to the grid of a floating-point format with unbounded range above: the
encoding without its sign, which may exceed the largest finite one (R81). -/
def roundMag (c : Nat) (rd : Rnd) (num den : Nat) (e : Int) : Nat :=
  let f := fmtFrac c
  let k := fracLog2 num den + e
  let emin : Int := 1 - (fmtBias c : Int)
  let q := max k emin - f
  let n := shl num (e - q)
  let d := shl den (q - e)
  let m := roundNat rd n d
  if k < emin then m else ((k + fmtBias c).toNat * 2 ^ f + m) - 2 ^ f

/-- Set the sign of an encoding. -/
def withSign (c : Nat) (neg : Bool) (b : Nat) : Nat := b + b2n neg * 2 ^ (fmtWidth c - 1)

/-- Encoding of an INT8 integer. -/
def int8Bits (neg : Bool) (m : Nat) : Nat := if neg then (256 - m) % 256 else m

/-- Round a value into a format: its encoding, and the flags that writing it sets (R81, R87, Table 3-6). -/
def encodeElem (c : Nat) (rd : Rnd) : Val → Nat × Flags
  | .nan =>
    if c ≤ 4 then (fmtNan c, { Flags.none with nan := true }) else (0, { Flags.none with lost := true })
  | .inf neg =>
    if c = 3 then
      (if rd.ovf then (0x7F, { Flags.none with nan := true })
       else (withSign 3 neg (fmtMax 3), { Flags.none with lost := true }))
    else if c ≤ 4 then (withSign c neg (fmtInf c), { Flags.none with inf := true })
    else if c = 7 then (int8Bits neg (if neg then 128 else 127), { Flags.none with lost := true })
    else (withSign c neg (fmtMax c), { Flags.none with lost := true })
  | .fin neg num den e =>
    if num = 0 then (if c = 7 then 0 else withSign c neg 0, Flags.none)
    else if c = 7 then
      let m := roundNat rd (shl num e) (shl den (-e))
      let big := if neg then 128 else 127
      if big < m then (int8Bits neg big, { Flags.none with sat := true }) else (int8Bits neg m, Flags.none)
    else
      let m := roundMag c rd num den e
      if m ≤ fmtMax c then (withSign c neg m, Flags.none)
      else if c = 3 then
        (if rd.ovf then (0x7F, { Flags.none with nan := true })
         else (withSign 3 neg (fmtMax 3), { Flags.none with sat := true }))
      else if c ≤ 4 ∧ rd.mode ≠ 1 then (withSign c neg (fmtInf c), { Flags.none with inf := true })
      else (withSign c neg (fmtMax c), { Flags.none with sat := true })

/-- Round to nearest even. -/
def rne : Rnd := { mode := 0, ovf := false, r := 0 }

/-- Round a value to FP32, to nearest even: the encoding only. -/
def toF32 (v : Val) : Nat := (encodeElem 0 rne v).1

/-! ### Tests of R93 and R94 -/

/-- Test of an input or a written value for NaN and infinity (R93). -/
def testVal (v : Val) : Flags := { Flags.none with nan := v.isNan, inf := v.isInf }

/-- The absurd test: the value is finite and its magnitude exceeds L × S, when L and S are positive and finite (R94). -/
def absurd (l sc : Nat) (v : Val) : Bool :=
  match f32 l, f32 sc with
  | .fin false ln ld le, .fin false sn sd se =>
    decide (ln ≠ 0) && decide (sn ≠ 0) && v.isFin && (Val.fin false (ln * sn) (ld * sd) (le + se)).lt v.abs
  | _, _ => false

/-! ### Packing (R75) -/

/-- Elements packed from bit 0 upward: every format of R75 is little-endian packing at its element width. -/
def packNat (w : Nat) : List Nat → Nat
  | [] => 0
  | b :: r => b % 2 ^ w + 2 ^ w * packNat w r

/-- The bytes of a run of elements. -/
def packElems (c : Nat) (l : List Nat) : List Byte := leBytes (fmtBytes c l.length) (packNat (fmtWidth c) l)

/-- `n` elements from the bytes that hold them. -/
def unpackElems (c n : Nat) (bs : List Byte) : List Nat :=
  let v := leNat bs
  (List.range n).map (fun i => bits v (i * fmtWidth c) (fmtWidth c))

/-! ### Choosing scales (R89, R90) -/

/-- The largest magnitude of a list of finite values. -/
def amax (l : List Val) : Val := l.foldl (fun a v => if a.lt v.abs then v.abs else a) Val.zero

/-- Largest exponent of an element format: 4 for E3M2, 2 for E2M1. -/
def emaxElem (c : Nat) : Int := if c = 5 then 4 else 2

/-- A block of 32 values converted to E3M2 or E2M1 with its exponent clamped at `hi`: the scale code, the element codes,
and the flags (R89). `rnd i` is the rounding of element `i`. -/
def encodeBlockTo (hi : Int) (c : Nat) (rnd : Nat → Rnd) (l : List Val) : Nat × List Nat × Flags :=
  if l.any (fun v => !v.isFin) then
    (255, l.map (fun _ => 0),
      { Flags.none with lost := false, nan := true })
  else
    match amax l with
    | .fin _ num den e =>
      if num = 0 then (127, l.map (fun v => withSign c v.neg 0), Flags.none)
      else
        let x0 := fracLog2 num den + e - emaxElem c
        let x := min (max x0 (-127)) hi
        let els := l.zipIdx.map (fun p => encodeElem c (rnd p.2) (p.1.mul (.fin false 1 1 (-x))))
        let sat := els.any (fun r => r.2.sat) && decide (hi < x0)
        ((x + 127).toNat, els.map (·.1), { Flags.none with sat := sat })
    | _ => (255, l.map (fun _ => 0), Flags.none)

/-- R89 as it stands: x is clamped at 127. -/
def encodeBlock (c : Nat) (rnd : Nat → Rnd) (l : List Val) : Nat × List Nat × Flags := encodeBlockTo 127 c rnd l

/-- The computed row scale of an INT8 row as an FP32 encoding (R90). -/
def rowScale (l : List Val) : Nat :=
  if l.any (fun v => !v.isFin) then fmtNan 0
  else if (amax l).isZero then 0x3F800000
  else
    let b := toF32 ((amax l).div (.fin false 127 1 0))
    if b = 0 then 1 else b

/-- One element converted to INT8 under a row scale: the exact quotient, rounded once and saturated (R90). A scale that is
not finite makes the element decode to NaN (R79), and a nonzero finite source over a scale of 0 saturates. -/
def int8Quot (sc : Val) (rd : Rnd) (v : Val) : Nat × Flags :=
  let q := v.div sc
  if !sc.isFin then ((encodeElem 7 rd q).1, { Flags.none with nan := true })
  else if v.isZero then (0, Flags.none)
  else if q.isInf && v.isFin then (int8Bits q.neg (if q.neg then 128 else 127), { Flags.none with sat := true })
  else encodeElem 7 rd q

/-- A row converted to INT8 under a row scale (R90). -/
def encodeInt8Row (sc : Nat) (rnd : Nat → Rnd) (l : List Val) : List (Nat × Flags) :=
  l.zipIdx.map (fun p => int8Quot (f32 sc) (rnd p.2) p.1)

/-- Any of a list of flag sets. -/
def Flags.any (l : List Flags) : Flags := l.foldl Flags.or Flags.none

end Sys2Proof.Machine
end

