-- ==== Sys2Proof/Machine/Space.lean ====
section
/-! DEFINITION. The physical address space (R194 to R198, R203), channel retirement (R462, R463), who may reach what
(R198, R200, R202), and reads and writes of protected storage (R206 to R208, R458). Storage is kept by linear address:
channel-linear for stack memory. -/
namespace Sys2Proof.Machine
open Sys2Proof

/-- The windows of Table 7-1. -/
inductive Win where
  | hashed | linear | column | store
deriving DecidableEq, Repr

def linearBase : Nat := 0x010000000000
def columnBase : Nat := 0x020000000000
def columnEnd : Nat := 0x020480000000
def storeBase : Nat := 0x030000000000
def storeEnd : Nat := 0x030090000000

/-- The window that holds an address and its end (Table 7-1). -/
def winOf (a : Nat) : Option (Win × Nat) :=
  if a < linearBase then some (.hashed, linearBase)
  else if a < columnBase then some (.linear, columnBase)
  else if a < columnEnd then some (.column, columnEnd)
  else if storeBase ≤ a ∧ a < storeEnd then some (.store, storeEnd)
  else none

/-- Linear address of offset `c` of a channel (R196). -/
def linOf (n c : Nat) : Nat := linearBase + n * 0x80000000 + c
/-- Address of an offset of a site's column memory and core store (R195). -/
def columnAddr (site o : Nat) : Nat := columnBase + site * 0x400000 + o
def storeAddr (site o : Nat) : Nat := storeBase + site * 0x80000 + o

/-- Channel of a linear stack address, frame offset within the channel, and site of a site address. -/
def chanOf (lin : Nat) : Nat := (lin - linearBase) / 0x80000000
def chanOff (lin : Nat) : Nat := (lin - linearBase) % 0x80000000
def siteOfAddr (lin : Nat) : Nat :=
  if lin < storeBase then (lin - columnBase) / 0x400000 else (lin - storeBase) / 0x80000
def isStack (lin : Nat) : Bool := decide (lin < columnBase)

/-- Bytes of the protected unit at a linear address (R206). -/
def unitOf (lin : Nat) : Nat := if isStack lin then 64 else 8
/-- Error region of a linear address (Table 15-1). -/
def regionOf (lin : Nat) : Nat := if isStack lin then 4608 + chanOf lin else siteOfAddr lin

/-- Channel and block within the frame of block `u` of a granule under a hash key (R197). -/
def hashBlock (key g u : Nat) : Nat × Nat :=
  let h := mix (key ^^^ g)
  (u % 512 ^^^ h % 512, bits u 9 4 ^^^ bits h 9 4)

/-- A stretch of an access: its first address as the access names it, its linear address and its length. -/
structure Seg where
  acc : Nat
  lin : Nat
  len : Nat
deriving DecidableEq, Repr

/-- The authority of an access: saggar, PRIV, and whether carve-out granules are open to it (R198, Table 7-3). -/
structure Auth where
  saggar : Nat
  isPriv : Bool
  carve : Bool
deriving DecidableEq, Repr

def Auth.firmware : Auth := { saggar := 0, isPriv := true, carve := true }

/-- Cut a range within protected units. -/
def unitPieces (unit : Nat) : Nat → Nat → Nat → List (Nat × Nat)
  | 0, _, _ => []
  | f + 1, a, n =>
    if n = 0 then [] else
    let k := min n (unit - a % unit)
    (a, k) :: unitPieces unit f (a + k) (n - k)

namespace State

/-! ### Channel retirement (R462, R463) -/

/-- Retired channels and their donor bases, in slot order, as the last bisque start applied them. -/
def retiredRuns (s : State) : List (Nat × Nat) :=
  (List.range 4).filterMap (fun j => let r := s.retireNow j; if r.valid then some (r.channel, r.donor) else none)

def chanRetired (s : State) (n : Nat) : Bool := s.retiredRuns.any (fun r => r.1 == n)
/-- Granule lies in a donor run. -/
def isDonor (s : State) (g : Nat) : Bool := s.retiredRuns.any (fun r => decide (r.2 ≤ g ∧ g < r.2 + 1024))

/-- Channels that are not retired, ascending. -/
def liveChannels (s : State) : List Nat := (List.range 512).filter (fun n => !s.chanRetired n)

/-- Channel and offset of byte `b` of block `q` of frame `g` sent to channel `n` (R463). -/
def frameAt (s : State) (n g q b : Nat) : Nat :=
  match s.retiredRuns.find? (fun r => r.1 == n) with
  | none => linOf n (g * 4096 + q * 256 + b)
  | some run =>
    let live := 512 - s.retiredRuns.length
    let k := g - 1024 * (s.retiredRuns.filter (fun r => decide (r.2 + 1024 ≤ g))).length
    linOf (s.liveChannels.getD (k % live) 0) ((run.2 + k / live) * 4096 + q * 256 + b)

/-- Hash key of the owner of a granule, 0 for a carve-out or unassigned one (R197). -/
def keyOf (s : State) (g : Nat) : Nat :=
  match s.granOwner g with
  | some o => (s.saggar o).hashKey.toNat
  | none => 0

/-- Linear address of a hashed-window address under a key (R197, R463). -/
def hashLin (s : State) (key a : Nat) : Nat :=
  let g := a / 0x200000
  let nq := hashBlock key g (a / 256 % 8192)
  s.frameAt nq.1 g nq.2 (a % 256)

/-- The stretches of a hashed-window range, one per 256-byte block. -/
def hashSegs (s : State) : Nat → Nat → Nat → List Seg
  | 0, _, _ => []
  | f + 1, a, n =>
    if n = 0 then [] else
    let k := min n (256 - a % 256)
    { acc := a, lin := s.hashLin (s.keyOf (a / 0x200000)) a, len := k } :: hashSegs s f (a + k) (n - k)

/-- The stretches of a range that lies in one window. -/
def segs (s : State) (a n : Nat) : List Seg :=
  if a < linearBase then s.hashSegs (n / 256 + 2) a n else [{ acc := a, lin := a, len := n }]

/-! ### Who may reach what -/

/-- The granules that a stack memory range touches; frame `g` of every channel is of granule `g` (R196). -/
def gransOf (a n : Nat) : List Nat :=
  if a < linearBase then span (a / 0x200000) ((a + n - 1) / 0x200000 + 1 - a / 0x200000)
  else (span (chanOff a / 4096) ((chanOff a + n - 1) / 4096 + 1 - chanOff a / 4096)).map (· % 524288)

/-- An access with this authority may reach a granule (R198, R199). -/
def mayGran (s : State) (au : Auth) (g : Nat) : Bool :=
  au.isPriv || (if (s.owner g).assigned then (s.owner g).saggar == au.saggar else (s.owner g).carveout && au.carve)

/-- The sites that a column memory or core store range touches. -/
def sitesOf (a n : Nat) : List Nat :=
  span (siteOfAddr a) (siteOfAddr (a + n - 1) + 1 - siteOfAddr a)

/-- Offsets of a core store that a range touches lie in `[lo, hi)` of some site. -/
def touchesStore (a n lo hi : Nat) : Bool :=
  (sitesOf a n).any (fun i => decide (a < storeAddr i hi ∧ storeAddr i lo < a + n))

/-- The status an access of `n` bytes at `a` is answered with: 0x0170 and 0x0101 under R194, 0x05E0 for a retired
channel (R463), 0x0220 and 0x0210 for ownership (R198, R202), 0x0602 for a granule being filled (R200) or a site in
reset (R67), else 0. -/
def reach (s : State) (au : Auth) (write : Bool) (a n : Nat) : Nat :=
  match winOf a with
  | none => 0x0170
  | some (w, hi) =>
    if hi < a + n then 0x0101 else
    match w with
    | .hashed | .linear =>
      if (gransOf a n).any (fun g => !s.mayGran au g || (decide (w = .hashed) && s.isDonor g)) then 0x0220
      else if w = .linear ∧ (span (chanOf a) (chanOf (a + n - 1) + 1 - chanOf a)).any s.chanRetired then 0x05E0
      else if (gransOf a n).any (fun g => decide (g ∈ s.filling)) then 0x0602
      else 0
    | .column | .store =>
      if !au.isPriv && (sitesOf a n).any (fun i => s.siteOwner i != some au.saggar) then 0x0210
      else if !au.isPriv && decide (w = .store) &&
          (touchesStore a n 0 0x10000 || (write && touchesStore a n 0x64000 0x80000)) then 0x0220
      else if (sitesOf a n).any (fun i => (s.site i).inReset) then 0x0602
      else 0

/-- Authority of a saggar's foot die engines, with its CARVEOUT_ACCESS. -/
def engineAuth (s : State) (sag : Nat) : Auth :=
  { saggar := sag, isPriv := false, carve := (s.saggar sag).carveoutAccess }

/-! ### Bytes -/

def byteAt (s : State) (lin : Nat) : Byte := s.mem.get (fun _ => 0) lin

/-- Consecutive bytes stored from a linear address. Bytes that a store changes in a core store are remembered until
FENCE.I, because a fetch may still see them (R190). -/
def putBytes (s : State) (lin : Nat) : List Byte → State
  | [] => s
  | b :: r =>
    let old := s.byteAt lin
    let s := { s with mem := s.mem.put (fun _ => 0) lin b }
    let s := if storeBase ≤ lin ∧ old ≠ b ∧ !s.stale.any (fun p => p.1 == lin) then
        { s with stale := s.stale ++ [(lin, old)] } else s
    putBytes s (lin + 1) r

/-- A linear address lies in the partial stack of a site (R133). -/
def inPartial (lin : Nat) : Bool := decide (storeBase ≤ lin ∧ 0x64000 ≤ (lin - storeBase) % 0x80000)

/-- The earlier contents of the line of a stack memory address that a channel's read buffer may still hold: the lines as
they stood before near-bank steps wrote them, oldest first (R251). -/
def oldLines (s : State) (lin : Nat) : List (List Byte) :=
  if isStack lin then
    ((s.nb (chanOf lin)).readBuf.filter (fun p => p.1 == lin / 64 * 64)).map (·.2)
  else []

/-- A byte as a reader gets it. In the partial stack it is a free value: the manual fixes no place for a node there
(R133). A line that near-bank steps have written since the last FENCE_NB may read as it stood before any of them: a free
value of the line chooses (R251, R252). -/
def readByte (s : State) (lin : Nat) : Byte :=
  if inPartial lin then Config.partialStackByte (s.free + lin)
  else match s.oldLines lin with
    | [] => s.byteAt lin
    | l => ((l[(Config.freeWord (s.free + lin / 64)).toNat % (l.length + 1)]?).map (fun b => b.getD (lin % 64) 0)).getD
        (s.byteAt lin)

/-- A read of this stretch draws free values. -/
def readsFree (s : State) (lin n : Nat) : Bool :=
  inPartial lin || inPartial (lin + n - 1) ||
  (isStack lin && (s.nb (chanOf lin)).readBuf.any (fun p => decide (lin < p.1 + 64 ∧ p.1 < lin + n)))

/-- Bytes written by an ordinary request reach the lines that the channel's read buffer may hold. -/
def patchLines (s : State) (lin : Nat) (bs : List Byte) : State :=
  if isStack lin ∧ (s.nb (chanOf lin)).readBuf ≠ [] then
    s.modNb (chanOf lin) (fun u => { u with
      readBuf := u.readBuf.map (fun p => (p.1, p.2.zipIdx.map (fun b =>
        if lin ≤ p.1 + b.2 ∧ p.1 + b.2 < lin + bs.length then bs.getD (p.1 + b.2 - lin) b.1 else b.1))) })
  else s

def getBytes (s : State) (lin n : Nat) : List Byte := (List.range n).map (fun i => s.readByte (lin + i))

/-- Bytes of a list of stretches, as storage holds them. -/
def segBytes (s : State) (l : List Seg) : List Byte := l.flatMap (fun g => s.getBytes g.lin g.len)

/-- A mesh code that names a sluice as the source of an access. -/
def isSluiceSrc (src : Nat) : Bool := decide (4608 ≤ src ∧ src < 5120)

/-- The earlier contents that a reader may still get (R189): a core that loads from its own site, of what a sluice wrote
there; a sluice, of what a core wrote in its own site. -/
def lateFor (s : State) (path src lin : Nat) : List (Nat × Byte) :=
  if path = 1 ∧ siteOfAddr lin = src then s.unseen
  else if path ≠ 1 ∧ isSluiceSrc src then s.unsent else []

/-- A byte of storage as a reader of a path gets it: one that a fence has not made visible may read as it was (R189). -/
def lateByte (s : State) (path src lin : Nat) : Byte :=
  match (s.lateFor path src lin).find? (fun p => p.1 == lin) with
  | some p => if Config.freeBit (s.free + lin) then p.2 else s.readByte lin
  | none => s.readByte lin

/-- A read of this stretch may get earlier contents. -/
def readsLate (s : State) (path src lin n : Nat) : Bool :=
  (s.lateFor path src lin).any (fun p => decide (lin ≤ p.1 ∧ p.1 < lin + n))

/-- Bytes of a list of stretches as a reader of a path gets them. -/
def lateBytes (s : State) (path src : Nat) (l : List Seg) : List Byte :=
  if l.any (fun g => s.readsLate path src g.lin g.len) then
    l.flatMap (fun g => (List.range g.len).map (fun i => s.lateByte path src (g.lin + i)))
  else s.segBytes l

/-- Earlier contents joined by those of the changed bytes of a stretch that stand under no earlier entry. -/
def addOld (before after : State) (lins : List Nat) (l : List (Nat × Byte)) : List (Nat × Byte) :=
  l ++ (lins.filter (fun a => before.byteAt a != after.byteAt a && !l.any (fun p => p.1 == a))).map
    (fun a => (a, before.byteAt a))

/-- What a write to sites leaves to fences (R189): a sluice may still read what its core's own store replaced, and the core
may still load what a sluice's write replaced. A core reads its own stores at once (R188), and a sluice reads every other
acknowledged write (R222). `s` is the state after the write. -/
def noteLate (before s : State) (path src : Nat) (l : List Seg) : State :=
  let lins := (l.flatMap (fun g => span g.lin g.len)).filter (fun a => decide (columnBase ≤ a))
  let other := fun p : Nat × Byte => !lins.contains p.1
  if path = 2 ∧ src < 4608 then
    { s with unseen := s.unseen.filter other, unsent := addOld before s lins s.unsent }
  else if isSluiceSrc src then
    { s with unseen := addOld before s lins s.unseen, unsent := s.unsent.filter other }
  else { s with unsent := s.unsent.filter other }

/-- Fill a linear range with ECC-valid zeros: nothing listed, no poison, no latent error. -/
def zeroLin (s : State) (lo n : Nat) : State :=
  let out := fun k : Nat => !decide (lo ≤ k ∧ k < lo + n)
  { s with
    mem := s.mem.filter (fun p => out p.1)
    poison := s.poison.filter out
    latentCe := s.latentCe.filter out
    latentUe := s.latentUe.filter out
    stale := s.stale.filter (fun p => out p.1)
    unseen := s.unseen.filter (fun p => out p.1)
    unsent := s.unsent.filter (fun p => out p.1) }

/-- Whether a linear address holds a byte of a granule: its frame in a live channel, or the frames that stand in for it
in donor runs. -/
def inGranule (s : State) (g lin : Nat) : Bool :=
  isStack lin && decide (linearBase ≤ lin) &&
  (chanOff lin / 4096 == g ||
   (s.retiredRuns.any (fun r => (List.range 16).any (fun q => s.frameAt r.1 g q 0 / 256 == lin / 256))))

/-- Fill a granule with ECC-valid zeros (R200). -/
def zeroGranule (s : State) (g : Nat) : State :=
  let out := fun k : Nat => !s.inGranule g k
  { s with
    mem := s.mem.filter (fun p => out p.1)
    poison := s.poison.filter out
    latentCe := s.latentCe.filter out
    latentUe := s.latentUe.filter out }

/-! ### Protected reads and writes (R207, R208, R455, R458) -/

/-- Storage upsets reach the protected units at the given linear addresses. -/
def strike (s : State) (x : Strikes) : State :=
  { s with
    latentCe := x.ce.foldl (fun l a => insertNat (a / unitOf a * unitOf a) l) s.latentCe
    latentUe := x.ue.foldl (fun l a => insertNat (a / unitOf a * unitOf a) l) s.latentUe }

/-- The owner that an uncorrectable error's event names (R470). -/
def linOwner (s : State) (acc lin : Nat) : Option Nat :=
  if isStack lin then s.granOwner (if acc < linearBase then acc / 0x200000 else chanOff acc / 4096)
  else s.siteOwner (siteOfAddr lin)

/-- An uncorrectable unit is read: it is poisoned and counted, its granule becomes RETIRE_PENDING, and an error of a site
is noted with its time (R208, R458, R464). `acc` is the unit's address as the reader names it. -/
def uncorrectable (s : State) (acc lin path src : Nat) : State :=
  let s := { s with poison := insertNat lin s.poison, latentUe := s.latentUe.filter (fun u => u != lin) }
  let s := s.countUe (regionOf lin) acc path src (s.linOwner acc lin)
  if isStack lin then s.retirePending (if acc < linearBase then acc / 0x200000 else chanOff acc / 4096)
  else s.modSite (siteOfAddr lin) (fun x => { x with ueTimes := x.ueTimes ++ [s.nowUs] })

/-- Correct the correctable units of a stretch: each is written back corrected and counted (R208, R455). -/
def correctSeg (s : State) (lin n : Nat) : State :=
  let u := unitOf lin
  let hit := s.latentCe.filter (fun k => decide (lin < k + u ∧ k < lin + n))
  hit.foldl (fun s k => { s with latentCe := s.latentCe.filter (fun x => x != k) }.countCe (regionOf k)) s

/-- The first uncorrectable unit of a stretch. -/
def badUnit (s : State) (lin n : Nat) : Option Nat :=
  let u := unitOf lin
  ((s.poison ++ s.latentUe).filter (fun k => decide (lin < k + u ∧ k < lin + n))).foldl
    (fun a k => match a with | none => some k | some m => some (min m k)) none

/-- Read stretches in order: the first uncorrectable unit, if any, by the address the reader names. -/
def readSegs (s : State) (path src : Nat) : List Seg → State × Option Nat
  | [] => (s, none)
  | g :: r =>
    let s := s.correctSeg g.lin g.len
    match s.badUnit g.lin g.len with
    | some k => (s.uncorrectable (g.acc + k - g.lin) k path src, some (g.acc + k - g.lin))
    | none => readSegs s path src r

/-- Read `n` bytes at an address that the reader may reach: the state after, the address of an uncorrectable unit if
one was met, and the bytes. -/
def readMem (s : State) (path src a n : Nat) : State × Option Nat × List Byte :=
  let l := s.segs a n
  let r := s.readSegs path src l
  let bs := if r.2.isSome then [] else r.1.lateBytes path src l
  (if l.any (fun g => s.readsFree g.lin g.len || s.readsLate path src g.lin g.len) then
    { r.1 with free := r.1.free + storeEnd } else r.1, r.2, bs)

/-- Write one piece that lies in one protected unit. A whole unit gets fresh check bits; a partial write corrects a
correctable unit, and is not applied to an uncorrectable one (R207, R208). -/
def writePiece (s : State) (path src acc lin : Nat) (bs : List Byte) : State × Option Nat :=
  let u := unitOf lin
  let base := lin / u * u
  if bs.length = u then
    let keep := fun k : Nat => k != base
    (({ s with
        poison := s.poison.filter keep
        latentCe := s.latentCe.filter keep
        latentUe := s.latentUe.filter keep }).putBytes lin bs, none)
  else if base ∈ s.poison ∨ base ∈ s.latentUe then
    (s.uncorrectable (acc + base - lin) base path src, some (acc + base - lin))
  else ((s.correctSeg base u).putBytes lin bs, none)

/-- Write pieces in order; the first refused piece ends the write, and what stands before it stays written. -/
def writePieces (s : State) (path src : Nat) : List (Nat × Nat × List Byte) → State × Option Nat
  | [] => (s, none)
  | (acc, lin, bs) :: r =>
    let w := s.writePiece path src acc lin bs
    if w.2.isSome then w else writePieces (w.1.patchLines lin bs) path src r

/-- The pieces of a write. -/
def piecesOf (l : List Seg) (bs : List Byte) : List (Nat × Nat × List Byte) :=
  (l.foldl (fun (st : List (Nat × Nat × List Byte) × List Byte) g =>
    (unitPieces (unitOf g.lin) (g.len / unitOf g.lin + 2) g.lin g.len).foldl
      (fun st p => (st.1 ++ [(g.acc + p.1 - g.lin, p.1, st.2.take p.2)], st.2.drop p.2)) st) ([], bs)).1

/-- Write bytes at an address that the writer may reach: the state after, with what fences must still make visible (R189),
and the address of an uncorrectable unit that a partial write met. -/
def writeMem (s : State) (path src a : Nat) (bs : List Byte) : State × Option Nat :=
  let l := s.segs a bs.length
  let r := s.writePieces path src (piecesOf l bs)
  (noteLate s r.1 path src l, r.2)

end State
end Sys2Proof.Machine
end

