-- ==== Sys2Proof/Machine/Commands.lean ====
section
/-! DEFINITION. Commands in flight (R331, R334, R335), their completions and status words (R337 to R340), and the end of
a launch (R362, R363). -/
namespace Sys2Proof.Machine
open Sys2Proof

namespace State

def cmd? (s : State) (id : Nat) : Option Cmd := s.cmds.find? (fun c => c.id == id)

/-- Replace a command by its serial. -/
def setCmd (s : State) (c : Cmd) : State := { s with cmds := replaceFirst (fun x => x.id == c.id) (fun _ => c) s.cmds }

/-- Commands of the same ring or session that were fetched before this one and are still in flight. -/
def earlier (s : State) (c : Cmd) : List Cmd := s.cmds.filter (fun x => decide (x.id < c.id) && x.origin == c.origin)

/-- A command may be dispatched: nothing before it in its ring waits to be dispatched, and with ORDERED set every
earlier command of its ring has completed (R335). -/
def dispatchable (s : State) (c : Cmd) : Bool :=
  c.phase == .accepted && (s.earlier c).all (fun x => x.phase != .accepted) && (!c.ordered || (s.earlier c).isEmpty)

/-- Commands that start a reset: those of Table 16-5, RING_RESET and SAGGAR_CLOSE. -/
def startsReset (op : Nat) : Bool := op ∈ [0x010, 0x020, 0x910, 0x911, 0x912, 0x913, 0x914]

/-- Resets start in acceptance order: no earlier one that could start waits (R492). -/
def resetTurn (s : State) (c : Cmd) : Bool :=
  s.cmds.all (fun x => !(startsReset x.opcode && decide (x.id < c.id) && s.dispatchable x))

/-- The command `id` with this opcode, when it may be dispatched now. -/
def ready (s : State) (id opcode : Nat) : Option Cmd :=
  match s.cmd? id with
  | some c => if c.opcode = opcode ∧ s.dispatchable c then some c else none
  | none => none

/-- The command `id` with this opcode in a given phase. -/
def inPhase (s : State) (id opcode : Nat) (ph : Phase) : Option Cmd :=
  match s.cmd? id with
  | some c => if c.opcode = opcode ∧ c.phase = ph then some c else none
  | none => none

end State

/-- Results of a command: PROGRESS and result words 0 to 3. -/
structure Result where
  progress : Nat
  r0 : Nat
  r1 : Nat
  r2 : Nat
  r3 : Nat
deriving DecidableEq, Repr

def Result.zero : Result := { progress := 0, r0 := 0, r1 := 0, r2 := 0, r3 := 0 }
def Result.w0 (a : Nat) : Result := { Result.zero with r0 := a }
def Result.w01 (a b : Nat) : Result := { Result.zero with r0 := a, r1 := b }
/-- A 64-bit value in result words 0 and 1. -/
def Result.wide (v : Nat) : Result := { Result.zero with r0 := v % 2 ^ 32, r1 := v / 2 ^ 32 % 2 ^ 32 }

/-- STATE of a status word at the end: 4 for 0x0000 and 0x0001, else 5 (R340). -/
def endState (status : Nat) : Nat := if status ≤ 1 then 4 else 5

/-- The 64 bytes of a status word (Table 11-7). -/
def statusBytes (tag st status opcode updates : Nat) (r : Result) (ring : Nat) : List Byte :=
  leBytes 2 tag ++ leBytes 1 st ++ [0] ++ leBytes 2 status ++ leBytes 2 (opcode % 4096) ++ leBytes 8 updates ++
  leBytes 4 r.progress ++ leBytes 4 r.r0 ++ leBytes 4 r.r1 ++ leBytes 4 r.r2 ++ leBytes 4 r.r3 ++
  leBytes 2 (ring % 16384) ++ List.replicate 26 0

/-- The 32 bytes of a completion (Table 11-6). -/
def complBytes (c : Compl) (phase : Bool) : List Byte :=
  leBytes 2 c.tag ++ leBytes 2 c.status ++ leBytes 4 c.progress ++ leBytes 4 c.r0 ++ leBytes 4 c.r1 ++
  leBytes 4 c.r2 ++ leBytes 4 c.r3 ++
  leBytes 2 (c.ring % 16384 + 16384 * b2n c.irq + 32768 * b2n phase) ++
  leBytes 2 (c.opcode % 4096 + 32768 * b2n c.desc) ++ leBytes 2 c.job ++ [0, 0]

namespace State

/-- Write the 64 bytes of a status word for a saggar, as one aligned write. A word whose place the saggar may no longer
reach loses the write. -/
def putStatusWord (s : State) (sag addr : Nat) (bs : List Byte) : State :=
  if s.reach (s.engineAuth sag) true addr 64 ≠ 0 then s else (s.writeMem 12 0xFFFF addr bs).1

/-- Update the status word of a command (R340). -/
def statusWord (s : State) (id addr st status : Nat) (r : Result) : State :=
  match s.cmd? id with
  | none => s
  | some c =>
    if addr = noAddr then s else
    (s.setCmd { c with updates := c.updates + 1 }).putStatusWord c.saggar addr
      (statusBytes c.tag st status c.opcode (c.updates + 1) r c.ringNo)

/-- Status of a status word address: 0x0103 when it is not a multiple of 64, 0x0220 when the saggar may not write it;
an address of 0 means none where the owning chapter allows it (R339). -/
def statusAddrCheck (s : State) (sag addr : Nat) (zeroOk : Bool) : Nat :=
  if addr = 0 ∧ zeroOk then 0
  else lowest [check (addr % 64 ≠ 0) 0x0103,
    check (decide (addr % 64 = 0) && s.reach (s.engineAuth sag) true addr 64 ∉ [0, 0x0602]) 0x0220,
    check (!decide (addr < columnBase)) 0x0220]

/-- The completion ring of a ring's commands (R323). -/
def pairOf (s : State) : Origin → Origin
  | .ring n => .ring (s.ring n).pair
  | .mgmt k => .mgmt k

/-- End a command: its completion joins those that wait to be written, and the command stays in flight until then
(R334, R338). A command ends once. -/
def finish (s : State) (id status : Nat) (r : Result) : State :=
  match s.cmd? id with
  | none => s
  | some c =>
    if c.phase = .ended then s else
    let k : Compl :=
      { target := s.pairOf c.origin, cmd := some id, tag := c.tag, status := status, progress := r.progress, r0 := r.r0,
        r1 := r.r1, r2 := r.r2, r3 := r.r3, ring := c.ringNo, irq := c.irq, opcode := c.opcode, desc := false,
        job := c.job }
    { s.setCmd { c with phase := .ended } with compls := s.compls ++ [k] }

/-- Refuse a command at acceptance: its completion carries the status, REFUSED counts it, and no status word is written
(R332). -/
def refuse (s : State) (id status : Nat) : State :=
  { s with host := { s.host with refused := satAdd (top 32) s.host.refused 1 } }.finish id status Result.zero

/-- End a command that keeps a status word: the final write precedes the completion (R340). -/
def finishWord (s : State) (id addr status : Nat) (r : Result) : State :=
  (s.statusWord id addr (endState status) status r).finish id status r

/-- Mark a dispatched command as queued or running on its engine. -/
def setPhase (s : State) (id : Nat) (ph : Phase) : State :=
  match s.cmd? id with
  | none => s
  | some c => s.setCmd { c with phase := ph }

/-- Every command in flight that has not ended ends with a status (R32, R36, R408, R444, R489, R498). -/
def endAll (s : State) (status : Nat) : State :=
  (s.cmds.filter (fun c => c.phase != .ended)).foldl (fun s c => s.finish c.id status Result.zero) s

/-! ### The end of a launch (R362, R363) -/

def launch? (s : State) (id : Nat) : Option Launch := s.launches.find? (fun l => l.cmd == id)
def setLaunch (s : State) (l : Launch) : State :=
  { s with launches := replaceFirst (fun x => x.cmd == l.cmd) (fun _ => l) s.launches }

/-- Status of a rank's outcome (R363, R187). -/
def outcomeStatus (outcome cause : Nat) : Nat :=
  if outcome = 0 then 0
  else if outcome = 1 then (if cause = 24 ∨ cause = 25 ∨ cause = 26 then 0x0530 else 0x0161)
  else if outcome = 3 then 0x0001
  else 0x0602

/-- Status and result words of a launch whose ranks have all ended (R363). -/
def launchResult (ranks : List Rank) : Nat × Result :=
  let okN := (ranks.filter (fun r => r.outcome == 0)).length
  match ranks.zipIdx.find? (fun p => p.1.outcome != 0) with
  | none => (0, { progress := 0, r0 := okN, r1 := 0, r2 := 0xFFFFFFFF, r3 := 0 })
  | some (r, k) =>
    (outcomeStatus r.outcome r.cause,
      { progress := 0, r0 := okN, r1 := ranks.length - okN + r.cause * 65536, r2 := k, r3 := r.value.toNat })

/-- The exit record of a rank (R362). -/
def exitRecord (r : Rank) : List Byte :=
  leBytes 4 r.value.toNat ++ leBytes 1 r.outcome ++ leBytes 1 r.cause ++ [0, 0] ++ leBytes 2 r.core ++
  leBytes 2 r.site ++ [0, 0, 0, 0]

/-- Complete a launch when every rank has ended. -/
def launchDone (s : State) (l : Launch) : State :=
  if l.ranks.all (fun r => r.ended) then
    let res := launchResult l.ranks
    let s := { s with launches := s.launches.filter (fun x => x.cmd != l.cmd) }
    l.aborts.foldl (fun s a => s.finish a.1 0 (Result.w0 a.2)) (s.finishWord l.cmd l.statusAddr res.1 res.2)
  else s

/-- Rank `k` of a launch ends: its exit record is written, its core returns to the runtime, and the launch completes with
its last rank (R362, R363). -/
def endRank (s : State) (id k outcome cause : Nat) (value : W32) : State :=
  match s.launch? id with
  | none => s
  | some l =>
    match l.ranks[k]? with
    | none => s
    | some r =>
      if r.ended then s else
      let r := { r with ended := true, outcome := outcome, cause := cause, value := value }
      let l := { l with ranks := l.ranks.set k r }
      let s := s.setLaunch l
      let a := fieldAt l.desc 48 8 % 2 ^ 52 + 16 * k
      let s := if s.reach (s.engineAuth l.saggar) true a 16 ≠ 0 then s else (s.writeMem 12 0xFFFF a (exitRecord r)).1
      let s := s.modCore r.site (fun c =>
        if c.launch = some (id, k) then { c with run := .idle, user := false, launch := none, job := 0 } else c)
      s.launchDone l

end State
end Sys2Proof.Machine
end

