-- ==== Sys2Proof/Machine/Reset.lean ====
section
/-! DEFINITION. Epochs and the rill (R63, R66), the reset and rewet of sites, sluices and rings (R67, R226, R329, R465),
site retirement and the remap (R41 to R46, R464), and quiescence (R351). -/
namespace Sys2Proof.Machine
open Sys2Proof

namespace State

/-! ### Epochs (R63, R66) -/

/-- Saggars whose sites hear of a unit's epoch (R66). -/
def epochAudience (s : State) (unit : Nat) : List Nat :=
  if unit < 4608 then (s.siteOwner unit).toList
  else if unit < 5120 then (List.range 64).filter (fun g => (s.nb (unit - 4608)).shares.get (fun _ => 0) g != 0)
  else if unit < 16384 then
    (if (s.sluice (unit - 8192)).valid then [(s.sluice (unit - 8192)).saggar] else [])
  else [(s.ring (unit - 16384)).saggar]

/-- Send an epoch update on the rill (R66). -/
def tellEpoch (s : State) (unit : Nat) (e : BitVec 32) : State :=
  { s with rill := s.rill ++ [.epoch unit e (s.epochAudience unit)] }

/-! ### Sessions with peers (R396) -/

/-- The peer saggar of a saggar at a position, when FAB_PEER is valid (Table 12-10). -/
def peerOf (s : State) (sag pos : Nat) : Option Nat :=
  let v := s.fab.peers.get (fun _ => 0) (sag * 256 + pos)
  if bitAt v 6 then some (v % 64) else none

/-- The port of a plane by which a position is reached, or by which its route begins (R371). -/
def routePort (s : State) (pos plane : Nat) : Nat :=
  if s.pkg.posValue / 16 ≠ pos / 16 ∧ s.pkg.posValue % 16 = pos % 16 then 16 + plane else plane

/-- The port that a short frame to a position leaves by: that of the lowest plane whose port is UP. -/
def shortPort (s : State) (pos : Nat) : Nat :=
  s.routePort pos (((List.range 16).find? (fun q => (s.port (s.routePort pos q)).state == .up)).getD 0)

/-- A control frame of this package under a pair key; its counter and tag are filled in when it is sent. -/
def pairFrame (s : State) (type dstPos port sag peer pour : Nat) (body : List Byte) : CtlFrame :=
  { type := type, pondKey := false, srcPos := s.pkg.posValue, dstPos := dstPos, srcPort := port, srcSaggar := sag,
    dstSaggar := peer, pourId := pour, counter := 0, body := (body ++ List.replicate 192 0).take 192, tag := [],
    crcOk := true }

/-- Queue a control frame on a port (R377). -/
def queueFrame (s : State) (port : Nat) (f : CtlFrame) : State :=
  s.modPort port (fun p => { p with
    txq := p.txq ++ [{ frame := f, tries := 0, notBefore := s.nowUs, firstUs := 0, packet := none }] })

/-- The session of a saggar increments, and SESSION goes to each position whose FAB_PEER is valid (R396). -/
def bumpSession (s : State) (sag : Nat) : State :=
  let s := s.modSaggar sag (fun x => { x with fabSession := x.fabSession + 1 })
  (List.range 256).foldl (fun s pos =>
    match (if s.pkg.posValid ∧ pos ≠ s.pkg.posValue then s.peerOf sag pos else none) with
    | some peer =>
      let port := s.shortPort pos
      s.queueFrame port (s.pairFrame 10 pos port sag peer 0 (leBytes 4 (s.saggar sag).fabSession.toNat))
    | none => s) s

def bumpSessions (s : State) (l : List Nat) : State := l.foldl bumpSession s

/-! ### Sites -/

/-- A site enters reset: its epoch becomes even, an update goes out, packets that wait in its injection queue are
discarded, its core stops, and the rank that ran there ends with OUTCOME 2 (R63, R67, R192, R362). A site already in
reset stays as it is (R492). -/
def enterSite (s : State) (i : Nat) : State :=
  if (s.site i).inReset then s else
  let s := s.modSite i (fun x => { x with inReset := true, epoch := x.epoch + 1, lateNow := 0 })
  let s := (s.tellEpoch i (s.site i).epoch).bumpSessions (s.siteOwner i).toList
  let s := { s with outq := s.outq.filter (fun p => p.src != i) }
  let s := match (s.core i).launch with
    | some (id, k) => s.endRank id k 2 0 0
    | none => s
  s.modCore i (fun c => { c with run := .idle, suspended := false, user := false, launch := none, job := 0, posted := [] })

/-- What rewet clears in a site: column memory and core store filled with zeros, and every register of the core
(R465, Table 15-2). -/
def rewetSite (s : State) (i : Nat) : State :=
  let s := (s.zeroLin (columnAddr i 0) 0x400000).zeroLin (storeAddr i 0) 0x80000
  s.setCore i { Core.bisque with usBase := s.nowUs, coreEpoch := (s.site i).epoch }

/-- The package is up: not powered down, nor held in reset. -/
def up (s : State) : Bool := !s.pkg.poweredDown && !s.pkg.heldInReset

/-- A site that returns when its cluster's rail is on: active or spare (R44, R493). -/
def siteServes (s : State) (i : Nat) : Bool := (s.site i).role == .active || (s.site i).role == .spare

/-- A site in reset that nothing holds there returns once it has rewet. -/
def siteMayReturn (s : State) (i : Nat) : Bool :=
  (s.site i).inReset && s.siteServes i && !(s.site i).gated && !(s.cluster (clusterOf i)).asleep &&
  !(s.cluster (clusterOf i)).dark && !s.pkg.computeLost && !s.fw.stopped && s.up

/-- A site returns after rewet with an odd epoch (R63, R465). Event 0x2005 tells the responses that this reset discarded
(R71). -/
def returnSite (s : State) (i : Nat) : State :=
  let late := (s.site i).lateNow
  let s := if 0 < late then s.record 0x2005 1 i (s.siteOwner i) 0 (p4 late) else s
  let s := s.modSite i (fun x => { x with inReset := false, epoch := x.epoch + 1 })
  (s.rewetSite i).tellEpoch i (s.site i).epoch

/-- Reset and return in one: the epoch advances by 2 and the site rewets (R42, R465). -/
def cycleSite (s : State) (i : Nat) : State := if (s.site i).inReset then s else (s.enterSite i).returnSite i

/-! ### Quiescence (R351) -/

/-- Packets to or from a saggar's cores are on their way, or a request of theirs has not been answered. -/
def meshBusy (s : State) (sag : Nat) : Bool :=
  let own := fun c : Nat => decide (c < 4608) && s.siteOwner c == some sag
  (s.outq ++ s.net).any (fun p => own p.src || own p.dest) ||
  (s.saggarSites sag).any (fun i =>
    match (s.core i).run with
    | .waitLoad .. => true
    | _ => !(s.core i).posted.isEmpty ||
      [(s.core i).acc0, (s.core i).acc1, (s.core i).acc2, (s.core i).acc3].any (fun a => a.exporting.isSome))

/-- No pour of the saggar is being sent or received (R398). -/
def poursQuiet (s : State) (sag : Nat) : Bool :=
  s.ports.all (fun p =>
    (p.2.current.toList ++ p.2.awaiting).all (fun x => x.saggar != sag || x.relay.isSome) &&
    p.2.recv.all (fun r => r.resv.dstSaggar != sag || r.relay.isSome))

/-- Every running kernel of a saggar is suspended by its runtime. -/
def kernelsSuspended (s : State) (sag : Nat) : Bool :=
  (s.saggarSites sag).all (fun i => (s.core i).run == .idle || (s.core i).suspended)

def sluicesQuiet (s : State) (sag : Nat) : Bool :=
  s.sluices.all (fun p => p.2.saggar != sag || !p.2.valid || p.2.state != .running)

def nbsQuiet (s : State) (sag : Nat) : Bool :=
  s.nbs.all (fun p => match p.2.running with
    | some r => r.seq.saggar != sag || p.2.state == .suspended || p.2.state == .inReset
    | none => true)

/-- A saggar that the device is bringing to a quiescence point has reached it; one that is not active needs no wait
(R350, R351). -/
def quiescent (s : State) (sag : Nat) : Bool :=
  !(s.saggar sag).active ||
  (decide (0 < (s.saggar sag).quiescing) && s.sluicesQuiet sag && s.nbsQuiet sag && s.kernelsSuspended sag &&
    !s.meshBusy sag && s.poursQuiet sag)

/-- Start to bring saggars to a quiescence point. -/
def holdSaggars (s : State) (l : List Nat) : State :=
  l.foldl (fun s g => s.modSaggar g (fun x => { x with quiescing := x.quiescing + 1 })) s

/-- Let saggars go on: kernels that were suspended resume when no other quiescence point holds them. -/
def releaseSaggars (s : State) (l : List Nat) : State :=
  l.foldl (fun s g =>
    let s := s.modSaggar g (fun x => { x with quiescing := x.quiescing - 1 })
    if (s.saggar g).quiescing = 0 then
      (s.saggarSites g).foldl (fun s i => s.modCore i (fun c => { c with suspended := false })) s
    else s) s

/-! ### Resets in progress (R490, R492) -/

/-- A site has returned, or will not return: no reset waits for it any longer. -/
def siteReturned (s : State) (i : Nat) : State :=
  { s with fw := { s.fw with resets := s.fw.resets.map (fun r => { r with sites := r.sites.filter (· != i) }) } }

/-! ### Retirement and the remap (R41 to R46, R464) -/

/-- The logical column a site holds once the remap changes that wait have applied. -/
def plannedCol (s : State) (i : Nat) : Nat :=
  s.remaps.foldl (fun c r => match r.moves.find? (fun m => m.1 == i) with
    | some m => m.2
    | none => c) (s.site i).lcol

/-- The sites of a row that move when `spare` takes over from `i`, with their new columns: the sites between the two and
the spare, in ascending order, take the columns of the retired site and those between (R41). -/
def remapMoves (s : State) (i spare : Nat) : List (Nat × Nat) :=
  let lo := min i spare
  let hi := max i spare
  let between := (span (lo + 1) (hi - lo - 1)).filter (fun j => decide ((s.site j).role = .active))
  if i < spare then (between ++ [spare]).zip ((i :: between).map s.plannedCol)
  else ([spare] ++ between).zip ((between ++ [i]).map s.plannedCol)

/-- A cluster whose last active site has gone belongs to no saggar and is gated (R46). -/
def gateCheck (s : State) (c : Nat) : State :=
  if (s.clusterActive c).isEmpty then
    let s := s.modCluster c (fun x => { x with assigned := false, saggar := 0 })
    (clusterSites c).foldl (fun s i => s.modSite i (fun x => { x with gated := true })) s
  else s

/-- Saggars that own a cluster holding one of these sites. -/
def ownersOf (s : State) (sites : List Nat) : List Nat :=
  ((sites.filterMap s.siteOwner).foldl (fun l g => insertNat g l) [])

/-- Retire an active site to a spare of its row: it is held in reset, its column reads absent, and a remap change waits
for the quiescence of the saggars it concerns; with no spare left, event 0x2002 (R41 to R44). `role` is 2, or 3 for a
site that failed its rewet. -/
def retireSite (s : State) (i : Nat) (role : Role) : State :=
  let s := (s.enterSite i).siteReturned i
  let owner := s.siteOwner i
  let spare := (rowSites (siteRowKey i)).find? (fun j => decide ((s.site j).role = .spare))
  match spare with
  | none =>
    let s := s.modSite i (fun x => { x with role := role, lcol := 63 })
    (s.recordFw 5 0x2002 owner 0 (p4 i)).gateCheck (clusterOf i)
  | some sp =>
    let moves := s.remapMoves i sp
    let wait := s.ownersOf (i :: moves.map (·.1))
    let s := s.modSite i (fun x => { x with role := role, lcol := 63, shiftPending := true })
    let s := s.modSite sp (fun x => { x with role := .active })
    let s := moves.foldl (fun s m => s.modSite m.1 (fun x => { x with shiftPending := true })) s
    let s := (clusterSites (clusterOf sp)).foldl (fun s j => s.modSite j (fun x => { x with gated := false })) s
    let s := s.gateCheck (clusterOf i)
    let r : Remap :=
      { die := siteDie i, row := siteRow i, retired := i, spare := some sp, moves := moves, waitFor := wait,
        sinceUs := s.nowUs, timeoutSeen := false }
    ({ s with remaps := s.remaps ++ [r] }).holdSaggars wait

/-- Retire a site automatically, with event 0x8006 (R464). Causes: 1 a second uncorrectable error, 2 a failed rewet. -/
def autoRetire (s : State) (i cause : Nat) (role : Role) : State :=
  let owner := s.siteOwner i
  ((s.retireSite i role).recordFw 4 0x8006 owner 0 (p4 i ++ p4 cause))

/-- A site has noted an uncorrectable error: with AUTO_RETIRE at 1, the second within 24 hours retires it (R464). -/
def siteErrorCheck (s : State) (i : Nat) : State :=
  let day := 86400000000
  let recent := (s.site i).ueTimes.filter (fun t => decide (s.nowUs < t + day))
  if s.rel.autoRetire ∧ (s.site i).role = .active ∧ 2 ≤ recent.length then s.autoRetire i 1 .retired else s

/-! ### Sluices and rings -/

/-- A sluice enters reset: its descriptor stops without a completion, and HALTED clears on its ring (R226, R343). -/
def enterSluice (s : State) (n : Nat) : State :=
  let x := s.sluice n
  if x.state = .inReset then s else
  let s := s.setSluice n { x with state := .inReset, epoch := x.epoch + 1 }
  let s := if x.valid then s.modRing x.ring (fun r => { r with halted := false }) else s
  (s.tellEpoch (sluiceUnit n) (x.epoch + 1)).bumpSessions (if x.valid then [x.saggar] else [])

/-- A sluice returns after rewet: unbound, its seed and count kept (R226). -/
def returnSluice (s : State) (n : Nat) : State :=
  let x := s.sluice n
  (s.setSluice n { Sluice.bisque with epoch := x.epoch + 1, seed := x.seed, doneCount := x.doneCount }).tellEpoch
    (sluiceUnit n) (x.epoch + 1)

/-- The sluice bound to a descriptor ring. -/
def sluiceOf (s : State) (ring : Nat) : Option Nat :=
  (s.sluices.find? (fun p => p.2.valid && p.2.ring == ring)).map (·.1)

/-- Address of slot `k` of a ring of `bytes`-byte slots. -/
def slotAddr (r : Ring) (k bytes : Nat) : Nat := r.base + k % r.entries * bytes

/-- Completion of a ring entry that the ring's reset left unconsumed (R329). -/
def lostEntry (s : State) (n : Nat) (r : Ring) (k : Nat) : State :=
  let rd := s.readMem 7 0xFFFF (slotAddr r k 64) 64
  let c : Compl :=
    { target := .ring r.pair, cmd := none, tag := fieldAt rd.2.2 4 2, status := 0x0602, progress := 0, r0 := 0, r1 := 0,
      r2 := 0, r3 := 0, ring := n, irq := bitAt (fieldAt rd.2.2 2 1) (if r.role = .descriptor then 5 else 0),
      opcode := if r.role = .descriptor then 0 else fieldAt rd.2.2 0 2 % 4096, desc := r.role == .descriptor,
      job := if r.role = .descriptor then 0 else fieldAt rd.2.2 8 2 }
  { rd.1 with compls := rd.1.compls ++ [c] }

/-- The free-running slot numbers of the entries between HEAD and TAIL: every second one on a descriptor ring. -/
def openSlots (r : Ring) : List Nat :=
  let n := (r.tail + 2 ^ 32 - r.head) % 2 ^ 32
  if r.role = .descriptor then (List.range (n / 2)).map (fun k => r.head + 2 * k)
  else (List.range n).map (fun k => r.head + k)

/-- A ring enters reset: its epoch becomes even, each unconsumed entry completes into PAIR with 0x0602, and the sluice
of a descriptor ring resets, its interrupted descriptor's TAG in event 0xB008 (R329). -/
def enterRing (s : State) (n : Nat) : State :=
  let r := s.ring n
  if r.inReset then s else
  let s := s.setRing n { r with inReset := true, epoch := r.epoch + 1 }
  let s := (s.tellEpoch (ringUnit n) (r.epoch + 1)).bumpSession r.saggar
  let s := if r.role = .submission ∨ r.role = .descriptor then
      (openSlots r).foldl (fun s k => s.lostEntry n r k) s else s
  match (if r.role = .descriptor then s.sluiceOf n else none) with
  | none => s
  | some u =>
    let x := s.sluice u
    let s := if x.state = .running ∨ (x.state = .halted ∧ x.unread = false) then
        s.recordFw 1 0xB008 (some r.saggar) 0 (p4 n ++ p4 1 ++ p4 (fieldAt x.desc 4 2)) else s
    s.enterSluice u

/-- A ring returns from reset: HEAD and TAIL read 0 and the configuration is kept (R329). -/
def returnRing (s : State) (n : Nat) : State :=
  let r := s.ring n
  (s.setRing n { r with
      inReset := false, epoch := r.epoch + 1, head := 0, tail := 0, db := 0, stalled := false, stallSeen := false,
      slotPoisoned := false, slotSeen := false, halted := false, irqPending := 0 }).tellEpoch (ringUnit n) (r.epoch + 1)

/-- A sluice or ring has returned. -/
def sluiceReturned (s : State) (n : Nat) : State :=
  { s with fw := { s.fw with resets := s.fw.resets.map (fun r => { r with sluices := r.sluices.filter (· != n) }) } }
def unitReturned (s : State) (n : Nat) : State :=
  { s with fw := { s.fw with resets := s.fw.resets.map (fun r => { r with units := r.units.filter (· != n) }) } }
def ringReturned (s : State) (n : Nat) : State :=
  { s with fw := { s.fw with resets := s.fw.resets.map (fun r => { r with rings := r.rings.filter (· != n) }) } }

/-! ### Accesses with the count toward automatic retirement (R458, R464) -/

/-- An uncorrectable unit met in a site counts toward the site's retirement. -/
def afterBad (s : State) (bad : Option Nat) : State :=
  match bad with
  | some a => if columnBase ≤ a then s.siteErrorCheck (siteOfAddr a) else s
  | none => s

/-- Read with every consequence of an error (R458, R464). -/
def load (s : State) (path src a n : Nat) : State × Option Nat × List Byte :=
  let r := s.readMem path src a n
  (r.1.afterBad r.2.1, r.2)

/-- Write with every consequence of an error (R208, R458, R464). -/
def store (s : State) (path src a : Nat) (bs : List Byte) : State × Option Nat :=
  let r := s.writeMem path src a bs
  (r.1.afterBad r.2, r.2)

end State

/-- Every unit of a reset has returned. -/
def ResetRun.isOver (r : ResetRun) : Bool := r.sites.isEmpty && r.sluices.isEmpty && r.rings.isEmpty && r.units.isEmpty

end Sys2Proof.Machine
end

