-- ==== Sys2Proof/Machine/Kernel.lean ====
section
/-! DEFINITION. What every instruction of a core shares (chapter 6): registers, the core's address view (R157, R158),
fetching (R190), reads and writes of its own stores and through apertures (R159, R185), and traps (R186). -/
namespace Sys2Proof.Machine
open Sys2Proof

/-- What an instruction comes to. -/
inductive Eff where
  /-- It retires; `posted` says that it sent a posted store. -/
  | done (s : State) (posted : Bool)
  /-- It traps with a cause, KTVAL and KTVAL2. -/
  | trap (s : State) (cause tval tval2 : Nat)
  /-- It needs bytes that lie behind apertures: core addresses and lengths (R159). -/
  | far (s : State) (need : List (Nat × Nat))
  /-- It cannot issue yet (R177). -/
  | wait

/-- Where a core address leads (Table 6-1). -/
inductive Place where
  /-- The core store or column memory of the site, by physical address. -/
  | own (phys : Nat)
  /-- Through an aperture: physical address, EPOCH_CHECK. -/
  | aper (phys : Nat) (check : Bool)
deriving DecidableEq, Repr

namespace Core

/-- x[n]; x0 reads 0. -/
def getX (c : Core) (n : Nat) : Nat := if n % 32 = 0 then 0 else (c.x.get (fun _ => 0) (n % 32)).toNat
/-- Write x[n]; a write of x0 is discarded. -/
def setX (c : Core) (n v : Nat) : Core :=
  if n % 32 = 0 then c else { c with x := c.x.put (fun _ => 0) (n % 32) (BitVec.ofNat 32 v) }
def getF (c : Core) (n : Nat) : Nat := (c.f.get (fun _ => 0) (n % 32)).toNat
def setF (c : Core) (n v : Nat) : Core := { c with f := c.f.put (fun _ => 0) (n % 32) (BitVec.ofNat 32 v) }
/-- Byte `o` of the vector register file: byte o mod 256 of v[o div 256]. -/
def getVByte (c : Core) (o : Nat) : Byte := c.v.get (fun _ => 0) o
def setVByte (c : Core) (o : Nat) (b : Byte) : Core := { c with v := c.v.put (fun _ => 0) o b }
/-- Byte `o` of the tile registers: byte o mod 1,024 of TL[o div 1024]. -/
def getTByte (c : Core) (o : Nat) : Byte := c.tl.get (fun _ => 0) o
def getTBytes (c : Core) (o n : Nat) : List Byte := (List.range n).map (fun k => c.getTByte (o + k))
def setTBytes (c : Core) (o : Nat) : List Byte → Core
  | [] => c
  | b :: r => setTBytes { c with tl := c.tl.put (fun _ => 0) o b } (o + 1) r

/-- Element (i, j) of an accumulator: the FP32 or FP16 encoding it holds (R161). -/
def getAc (c : Core) (a i j : Nat) : Nat := (c.acw.get (fun _ => 0) (a * 1024 + i * 32 + j)).toNat
/-- The 1,024 elements of an accumulator, row-major. -/
def acTile (c : Core) (a : Nat) : List Nat := (List.range 1024).map (fun k => (c.acw.get (fun _ => 0) (a * 1024 + k)).toNat)
def setAcFrom (c : Core) (o : Nat) : List Nat → Core
  | [] => c
  | v :: r => setAcFrom { c with acw := c.acw.put (fun _ => 0) o (BitVec.ofNat 32 v) } (o + 1) r
/-- Write all 1,024 elements of an accumulator. -/
def setAcTile (c : Core) (a : Nat) (l : List Nat) : Core := c.setAcFrom (a * 1024) l
/-- Every element of an accumulator becomes +0. -/
def clearAc (c : Core) (a : Nat) : Core := { c with acw := c.acw.filter (fun p => p.1 / 1024 != a) }

def acc (c : Core) : Nat → Acc
  | 0 => c.acc0 | 1 => c.acc1 | 2 => c.acc2 | _ => c.acc3
def setAcc (c : Core) (a : Nat) (v : Acc) : Core :=
  match a with
  | 0 => { c with acc0 := v }
  | 1 => { c with acc1 := v }
  | 2 => { c with acc2 := v }
  | _ => { c with acc3 := v }

def addFlags (c : Core) (f : Flags) : Core := { c with fmtFlags := c.fmtFlags.or f }
def adv (c : Core) (len : Nat) : Core := { c with pc := c.pc + BitVec.ofNat 32 len }

end Core

/-- A trap cause may be delivered to a kernel handler (Table 6-19). -/
def kernelCause (cause : Nat) : Bool := decide (26 ≤ cause ∧ cause ≤ 30)

namespace State

/-- The core of a site executes instructions: not in reset, powered, with a program that runs and is not suspended. -/
def live (s : State) (i : Nat) : Bool :=
  decide (i < sitesN) && !(s.site i).inReset && !(s.site i).gated && (s.core i).run == .running && !(s.core i).suspended

/-- Take a trap (R186): a kernel trap stays in user mode and jumps to KTVEC; every other trap enters machine mode, and
one from user mode leaves the kernel to the runtime (R187). `len` is the length of the trapping instruction. -/
def takeTrap (s : State) (i cause tval tval2 len : Nat) : State :=
  s.modCore i (fun c =>
    if kernelCause cause ∧ c.user ∧ c.ktvec ≠ 0 ∧ c.kactive = false then
      { c with
        kepc := c.pc, kcause := cause, kshort := len == 2, kactive := true, ktval := BitVec.ofNat 32 tval
        ktval2 := BitVec.ofNat 32 tval2, pc := c.ktvec, run := .running }
    else
      { c with
        mepc := c.pc, mcause := BitVec.ofNat 32 cause, mtval := BitVec.ofNat 32 tval
        mstatus := BitVec.ofNat 32 ((if c.user then 0 else 0x1800) + bits c.mstatus.toNat 3 1 * 128)
        pc := c.mtvec, user := false
        run := if c.user then .trapped cause (BitVec.ofNat 32 tval) else .running })

/-- Where an access of `n` bytes leads, none when Table 6-1 does not allow it. -/
def place (s : State) (i : Nat) (write fetch : Bool) (a n : Nat) : Option Place :=
  let c := s.core i
  if a + n ≤ 0x80000 then
    if a < 0x10000 ∧ c.user then none
    else if 0x64000 < a + n ∧ (write || fetch) then none
    else some (.own (storeAddr i a))
  else if 0x400000 ≤ a ∧ a + n ≤ 0x800000 then (if fetch then none else some (.own (columnAddr i (a - 0x400000))))
  else if 0x80000000 ≤ a ∧ a + n ≤ 2 ^ 32 then
    let k := (a - 0x80000000) / 0x10000000
    let r := c.apers.get (fun _ => Aper.bisque) k
    if fetch ∨ r.enable = false ∨ (a + n - 1 - 0x80000000) / 0x10000000 ≠ k then none
    else some (.aper (r.base * 0x10000000 + (a - 0x80000000) % 0x10000000) r.epochCheck)
  else none

/-! ### Mesh requests of a core (R158, R159) -/

/-- The epoch of a destination as the cores of a saggar last heard it; every unit begins with 1 (R66, R63). -/
def heardEpoch (s : State) (sag unit : Nat) : BitVec 32 := s.heard.get (fun _ => 1) (sag * 65536 + unit)

/-- Destination code of a physical access from a site of saggar `sag`, hashed with the saggar's own key, or the status
that answers it at the source (R194, R198, R463). -/
def routeOf (s : State) (sag a n : Nat) : Nat ⊕ Nat :=
  match winOf a with
  | none => .inl 0x0170
  | some (w, hi) =>
    if hi < a + n then .inl 0x0101 else
    match w with
    | .hashed => .inr (channelCode (chanOf (s.hashLin (s.saggar sag).hashKey.toNat a)))
    | .linear => if s.chanRetired (chanOf a) then .inl 0x05E0 else .inr (channelCode (chanOf a))
    | .column | .store => .inr (siteOfAddr a)

/-- A request packet of a site, on the bulk channel. -/
def requestOf (s : State) (i sag dest tag a : Nat) (check : Bool) (k : Kind) (payload : List Byte) : Packet :=
  { dest := dest, core := none, src := i, vc := 3, priv := false, epochCheck := check, kind := k, saggar := sag,
    payload := payload, flits := ceilDiv payload.length 64, destEpoch := s.heardEpoch sag dest, tag := tag, status := 0,
    isResponse := false, address := a, operand := 0, inline := [], remotePos := none, home := 0 }

/-- Record a posted store that was answered with a failing status (R159). -/
def remoteStatus (s : State) (i status : Nat) : State :=
  let c := s.core i
  let s := s.setCore i { c with
    remFirst := if c.remCount = 0 then status else c.remFirst
    remCount := satAdd (top 16) c.remCount 1 }
  s.record 0x2031 1 i (s.siteOwner i) c.job (p4 i ++ p4 status)

/-- Post a store through an aperture (R159). A request that cannot be sent is answered at the source (R62, R194). -/
def postStore (s : State) (i a : Nat) (check : Bool) (bs : List Byte) : State :=
  match s.siteOwner i with
  | none => s.remoteStatus i 0x0210
  | some sag =>
    match s.routeOf sag a bs.length with
    | .inl st => s.remoteStatus i st
    | .inr dest =>
      let t := (s.core i).nextTag
      let s := s.modCore i (fun c => { c with nextTag := (t + 1) % 65536, posted := c.posted ++ [t] })
      { s with outq := s.outq ++ [s.requestOf i sag dest t a check .write bs] }

/-- Send the read requests of a load; the core waits for their answers, or traps when none could be sent (R159). -/
def issueLoads (s : State) (i len : Nat) (need : List (Nat × Nat)) : State :=
  let step := fun (st : State × List (Nat × Nat × Nat) × Option (Nat × Nat)) (q : Nat × Nat) =>
    let s := st.1
    let fail := fun code => (s, st.2.1, if st.2.2.isSome then st.2.2 else some (code, q.1))
    match s.siteOwner i, s.place i false false q.1 q.2 with
    | some sag, some (.aper a check) =>
      (match s.routeOf sag a q.2 with
      | .inl code => fail code
      | .inr dest =>
        let t := (s.core i).nextTag
        let s := s.modCore i (fun c => { c with nextTag := (t + 1) % 65536 })
        ({ s with outq := s.outq ++ [s.requestOf i sag dest t a check (.read q.2) []] },
          st.2.1 ++ [(t, q.1, q.2)], st.2.2))
    | _, _ => fail 0x0210
  let r := need.foldl step (s, [], none)
  match r.2.1, r.2.2 with
  | [], some (code, a) => r.1.takeTrap i 30 code a len
  | w, bad => r.1.modCore i (fun c => { c with run := .waitLoad w [] bad })

/-! ### Reads and writes of a core -/

/-- What a read of a core gives. -/
inductive Rd where
  | ok (bs : List Byte)
  | trap (cause tval : Nat)
  | far

/-- Bytes that have come back through apertures, by core address. -/
def gotBytes (got : List (Nat × Byte)) (a n : Nat) : Option (List Byte) :=
  (List.range n).mapM (fun k => (got.find? (fun p => p.1 == a + k)).map (·.2))

/-- Read `n` bytes at a core address (R157, R185). -/
def coreRead (s : State) (i a n : Nat) (got : List (Nat × Byte)) : State × Rd :=
  match s.place i false false a n with
  | none => (s, .trap 5 a)
  | some (.own p) =>
    let r := s.load 1 i p n
    if r.2.1.isSome then (r.1, .trap 25 a)
    else (r.1, .ok r.2.2)
  | some (.aper ..) =>
    match gotBytes got a n with
    | some bs => (s, .ok bs)
    | none => (s, .far)

/-- The cause of a store that Table 6-1 does not allow, 0 when it is allowed. -/
def storeFault (s : State) (i a n : Nat) : Nat := if (s.place i true false a n).isNone then 7 else 0

/-- Write bytes at a core address that the core may write: a store of its own, or a posted one. A store that covers part
of a poisoned unit traps with cause 25 and writes nothing (R185). -/
def coreWrite (s : State) (i a : Nat) (bs : List Byte) : Eff :=
  match s.place i true false a bs.length with
  | none => .trap s 7 a 0
  | some (.own p) =>
    let r := s.store 2 i p bs
    if r.2.isSome then .trap r.1 25 a 0 else .done r.1 false
  | some (.aper p check) => .done (s.postStore i p check bs) true

/-- Several writes in order. -/
def coreWrites (s : State) (i : Nat) : List (Nat × List Byte) → Eff
  | [] => .done s false
  | (a, bs) :: r =>
    match s.coreWrite i a bs with
    | .done s p =>
      (match coreWrites s i r with
      | .done s q => .done s (p || q)
      | e => e)
    | e => e

/-! ### Fetching -/

/-- A code byte as a fetch sees it: a byte stored since the last FENCE.I may still read as it was (R190). -/
def codeByte (s : State) (lin : Nat) : Byte :=
  match s.stale.find? (fun p => p.1 == lin) with
  | some p => if Config.freeBit (s.free + lin) then p.2 else s.byteAt lin
  | none => s.byteAt lin

/-- Fetch a 16-bit parcel. -/
def parcel (s : State) (i a : Nat) : State × (Nat ⊕ Nat) :=
  match s.place i false true a 2 with
  | none => (s, .inr 1)
  | some (.own p) =>
    let r := s.load 0 i p 2
    if r.2.1.isSome then (r.1, .inr 24) else (r.1, .inl (leNat [r.1.codeByte p, r.1.codeByte (p + 1)]))
  | some (.aper ..) => (s, .inr 1)

/-- Fetch the instruction at pc: its word and length, or the cause and address of a fetch trap (R155, R157, R185). -/
def fetch (s : State) (i : Nat) : State × ((Nat × Nat) ⊕ (Nat × Nat)) :=
  let a := (s.core i).pc.toNat
  let r := s.parcel i a
  match r.2 with
  | .inr c => (r.1, .inr (c, a))
  | .inl lo =>
    if lo % 4 = 3 then
      let q := r.1.parcel i (a + 2)
      match q.2 with
      | .inr c => (q.1, .inr (c, a + 2))
      | .inl hi => (q.1.draw, .inl (lo + hi * 65536, 4))
    else (r.1.draw, .inl (lo, 2))

/-- Bring an instruction's outcome about. -/
def settle (s : State) (i len : Nat) : Eff → State
  | .done s _ => s
  | .trap s cause tval tval2 => s.takeTrap i cause tval tval2 len
  | .far s need => s.issueLoads i len need
  | .wait => s

/-- Retire an instruction of a core: the pc moves past it. -/
def retire (s : State) (i len : Nat) (f : Core → Core) : Eff := .done (s.modCore i (fun c => (f c).adv len)) false

end State

/-- An illegal instruction: cause 2 with the word in mtval. -/
def illegal (s : State) (w : Nat) : Eff := .trap s 2 w 0
/-- A tile instruction rejected with a status: cause 29 (R163). -/
def rejected (s : State) (st : Nat) : Eff := .trap s 29 st 0

end Sys2Proof.Machine
end

