-- ==== Sys2Proof/Machine/Matrix.lean ====
section
/-! DEFINITION. The arithmetic of the matrix array and the epilogue (chapters 3, 4 and 6): tiles in the tile registers
(R160), group sums (R104 to R108), accumulation (R105, R109), the exponential (R121), the steps of TEPI (R120 to R126),
TCVT (R171) and OSM (R172, R173), as functions of the encodings. -/
namespace Sys2Proof.Machine
open Sys2Proof

/-! ### FP32 operations, each rounded once to nearest even -/

def fadd (a b : Nat) : Nat := toF32 ((f32 a).add (f32 b))
def fsub (a b : Nat) : Nat := toF32 ((f32 a).sub (f32 b))
def fmul (a b : Nat) : Nat := toF32 ((f32 a).mul (f32 b))
def fdiv (a b : Nat) : Nat := toF32 ((f32 a).div (f32 b))
def fma (a b c : Nat) : Nat := toF32 (((f32 a).mul (f32 b)).add (f32 c))

/-- Encodings of 1.0, +∞, −∞ and the canonical NaN in FP32. -/
def f32One : Nat := 0x3F800000
def f32Inf : Nat := 0x7F800000
def f32NegInf : Nat := 0xFF800000
def f32Nan : Nat := 0x7FC00000

/-- The larger of two FP32 values, +0 above −0; NaN when either is NaN (R121). -/
def fmax (a b : Nat) : Nat :=
  if (f32 a).isNan || (f32 b).isNan then f32Nan
  else if (f32 a).lt (f32 b) then b
  else if (f32 b).lt (f32 a) then a
  else if (f32 a).neg then b else a

/-- ln 2 in units of 2⁻¹⁹². -/
def ln2Scaled : Nat := 4350955369971217654477563090224794165364344896676135745069

/-- Terms of the exponential series of `r / 2^192`: the sum so far and the latest term, in units of 2⁻¹⁹². -/
def expSeries (r : Nat) : Nat → Nat → Nat → Nat → Nat
  | 0, _, _, sum => sum
  | f + 1, n, term, sum =>
    let t := term * r / 2 ^ 192 / n
    expSeries r f (n + 1) t (sum + t)

/-- e raised to an FP32 argument, correctly rounded to nearest even (R121). The argument is reduced by ln 2 and summed to
192 fraction bits. -/
def expF32 (x : Nat) : Nat :=
  match f32 x with
  | .nan => f32Nan
  | .inf neg => if neg then 0 else f32Inf
  | .fin neg num den e =>
    if (Val.fin false 200 1 0).lt (.fin false num den e) then (if neg then 0 else f32Inf)
    else
      let m := shl num (e + 192)
      let k : Int := (if neg then -(m : Int) else m) / (ln2Scaled : Int)
      let r := ((if neg then -(m : Int) else m) % (ln2Scaled : Int)).toNat
      toF32 (.fin false (expSeries r 45 1 (2 ^ 192) (2 ^ 192)) 1 (k - 192))

/-! ### Tiles in the tile registers (R160) -/

/-- Registers of a group, bytes of a line and the place of the scales (Table 6-3). -/
def groupRegs : Nat → Nat
  | 0 => 4 | 1 => 2 | 2 => 2 | _ => 1
def lineBytes (c : Nat) : Nat := fmtBytes c 32
def scaleOff (c : Nat) : Nat := if c = 5 then 768 else 512

/-- Status of a format code and a group start: 0x0104 for a reserved code, 0x0103 for a start that is not a multiple of
the group (R72, R160). -/
def groupCheck (c t : Nat) : Nat := if 8 ≤ c then 0x0104 else check (t % groupRegs c ≠ 0) 0x0103

/-- A line of a tile: its element codes and the value of its scale. -/
structure Line where
  els : List Nat
  scale : Val
deriving DecidableEq, Repr

namespace Core

def line (k : Core) (c t n : Nat) : Line :=
  { els := unpackElems c 32 (k.getTBytes (t * 1024 + n * lineBytes c) (lineBytes c))
    scale := if fmtBlock c then decodeScale (k.getTByte (t * 1024 + scaleOff c + n)).toNat else Val.one }

def tile (k : Core) (c t : Nat) : List Line := (List.range 32).map (k.line c t)

/-- Write one line's elements, and its scale when the format has one. -/
def putLine (k : Core) (c t n : Nat) (els : List Nat) (scale : Nat) : Core :=
  let k := k.setTBytes (t * 1024 + n * lineBytes c) (packElems c els)
  if fmtBlock c then k.setTBytes (t * 1024 + scaleOff c + n) [BitVec.ofNat 8 scale] else k

/-- Write a whole tile, lines as element codes with a scale code. -/
def putTile (k : Core) (c t : Nat) (l : List (List Nat × Nat)) : Core :=
  l.zipIdx.foldl (fun k p => k.putLine c t p.2 p.1.1 p.1.2) k

/-- FP32 word `n` of a tile register. -/
def tileWord (k : Core) (t n : Nat) : Nat := leNat (k.getTBytes (t * 1024 + 4 * n) 4)
def tileWords (k : Core) (t n : Nat) : List Nat := (List.range 32).map (fun i => k.tileWord t (n + i))
/-- Write words from word `n` of a tile register. -/
def putWords (k : Core) (t n : Nat) (l : List Nat) : Core := k.setTBytes (t * 1024 + 4 * n) (l.flatMap (leBytes 4))

/-- The value of each element of an accumulator, an FP16 one widened exactly. -/
def acValues (k : Core) (a : Nat) : List Val := (k.acTile a).map (decodeElem (if (k.acc a).fp16 then 2 else 0))
/-- The elements of an accumulator as FP32 encodings, in rows. -/
def acRows (k : Core) (a : Nat) : List (List Nat) :=
  (List.range 32).map (fun i => (List.range 32).map (fun j =>
    if (k.acc a).fp16 then toF32 (decodeElem 2 (k.getAc a i j)) else k.getAc a i j))

end Core

/-- The values a line represents: each element times the line's scale. -/
def Line.values (l : Line) (c : Nat) : List Val := l.els.map (fun b => (decodeElem c b).mul l.scale)

/-! ### Operand pairs (R100, R101) -/

/-- How a pair is summed: refused, in an exact window, or aligned to a number of bits (Table 4-1). -/
inductive PairKind where
  | refused | exact | aligned (bits : Nat)
deriving DecidableEq, Repr

/-- Table 4-1; `w` is the accumulation width, true for FP16. -/
def pairKind (a b : Nat) (w : Bool) : PairKind :=
  if a = 7 ∧ b = 7 then .exact
  else if a ∈ [3, 5, 6] ∧ b ∈ [3, 5, 6] then .exact
  else if (a = 4 ∧ b ∈ [3, 4, 5, 6]) ∨ (b = 4 ∧ a ∈ [3, 4, 5, 6]) then .exact
  else if (a = 1 ∧ b = 1) ∨ (a = 2 ∧ b = 2) then .aligned 43
  else if a = 0 ∧ b = 0 ∧ w = false then .aligned 73
  else .refused

/-! ### The group sum (R104 to R108) -/

/-- Exponent of the smallest subnormal of a format; 0 for INT8 (R104). -/
def lsbExp (c : Nat) : Int := if c = 7 then 0 else 1 - (fmtBias c : Int) - fmtFrac c

/-- An element as an integer in units of its format's smallest subnormal (R104, R116). -/
def elemInt (c b : Nat) : Int :=
  if c = 7 then sInt 8 b
  else
    let f := fmtFrac c
    let ex := b / 2 ^ f % 2 ^ fmtExp c
    let m := if ex = 0 then b % 2 ^ f else (2 ^ f + b % 2 ^ f) * 2 ^ (ex - 1)
    sgn (bitAt b (fmtWidth c - 1)) m

def elemNeg (c b : Nat) : Bool := bitAt b (fmtWidth c - 1)

/-- Element is NaN or infinite. -/
def elemOdd (c b : Nat) : Bool := !(decodeElem c b).isFin

/-- A line holds a value that is not finite. -/
def Line.odd (l : Line) (c : Nat) : Bool := l.scale.isNan || l.els.any (elemOdd c)

/-- A group with a value that is not finite (R107): the products in IEEE arithmetic, without their finite parts. -/
def oddGroup (fa fb : Nat) (a b : Line) : Val :=
  if a.scale.isNan || b.scale.isNan then .nan
  else
    let ps := (a.els.zip b.els).map (fun p => (decodeElem fa p.1).mul (decodeElem fb p.2))
    if ps.any Val.isNan then .nan
    else if ps.any (fun p => p == .inf false) then (if ps.any (fun p => p == .inf true) then .nan else .inf false)
    else .inf true

/-- Every product of a group is −0. -/
def allNegZero (fa fb : Nat) (a b : Line) : Bool :=
  (a.els.zip b.els).all (fun p => (elemInt fa p.1 == 0 || elemInt fb p.2 == 0) && (elemNeg fa p.1 != elemNeg fb p.2))

/-- The exponent that a finite scale contributes. -/
def Val.expOf : Val → Int
  | .fin _ _ _ e => e
  | _ => 0

/-- The window integer of an exact group (R104). -/
def windowSum (fa fb : Nat) (a b : Line) : Int :=
  (a.els.zip b.els).foldl (fun t p => t + elemInt fa p.1 * elemInt fb p.2) 0

/-- The value of a group whose elements are finite, in an exact window (R105, R108). -/
def exactGroup (fa fb : Nat) (a b : Line) : Val :=
  let t := windowSum fa fb a b
  if t = 0 then .fin (fa != 7 && allNegZero fa fb a b) 0 1 0
  else .fin (decide (t < 0)) t.natAbs 1 (lsbExp fa + lsbExp fb + a.scale.expOf + b.scale.expOf)

/-- The value of an aligned group: every product is truncated toward zero to a multiple of 2^(E − n), where E is the
exponent of the largest (R106). Products are integers in units of 2^w. -/
def alignedGroup (fa fb n : Nat) (a b : Line) : Val :=
  let w := lsbExp fa + lsbExp fb
  let ps := (a.els.zip b.els).map (fun p => elemInt fa p.1 * elemInt fb p.2)
  let big := ps.foldl (fun m p => max m p.natAbs) 0
  if big = 0 then .fin (allNegZero fa fb a b) 0 1 0
  else
    let drop := Nat.log2 big - n
    let t := ps.foldl (fun t p => t + (if p < 0 then -((p.natAbs / 2 ^ drop : Nat) : Int) else (p.natAbs / 2 ^ drop : Nat))) 0
    if t = 0 then .fin false 0 1 0 else .fin (decide (t < 0)) t.natAbs 1 (w + drop)

/-- The group value of row line `a` and column line `b` (R104 to R108). -/
def groupValue (k : PairKind) (fa fb : Nat) (a b : Line) : Val :=
  if a.odd fa || b.odd fb then oddGroup fa fb a b
  else match k with
    | .aligned n => alignedGroup fa fb n a b
    | _ => exactGroup fa fb a b

/-- The 1,024 accumulator elements after a group: the first group of a K-block leaves round(g), each later one
round(AC + g) (R105, R109). -/
def addGroup (k : PairKind) (fa fb : Nat) (fp16 first : Bool) (old : List Nat) (a b : List Line) : List Nat :=
  let c := if fp16 then 2 else 0
  let gs := a.flatMap (fun r => b.map (fun q => groupValue k fa fb r q))
  (old.zip gs).map (fun p => (encodeElem c rne (if first then p.2 else (decodeElem c p.1).add p.2)).1)

/-- The columns of a residue-checked TMMA that are checked: those without a group handled under R107 (R116). -/
def checkedColumns (fa fb : Nat) (a b : List Line) : Nat :=
  if a.any (fun l => l.odd fa) then 0
  else b.zipIdx.foldl (fun m p => if p.1.odd fb then m else m + 2 ^ p.2) 0

/-- Flags of values written in format `c` (R93, R94). -/
def writtenFlags (l sc c : Nat) (bs : List Nat) : Flags :=
  bs.foldl (fun f b => let v := decodeElem c b; f.or { testVal v with absurd := absurd l sc v }) Flags.none

/-- Flags of input values (R93). -/
def inputFlags (vs : List Val) : Flags := vs.foldl (fun f v => f.or (testVal v)) Flags.none

/-! ### Writing a tile in a format (R89, R90, R126, R171) -/

/-- A line of values converted to a format: element codes, scale code, the flags of the conversion, and the values that
the written elements represent. -/
structure Conv where
  els : List Nat
  scale : Nat
  flags : Flags
  vals : List Val
deriving DecidableEq, Repr

/-- Convert a line without a computed row scale. -/
def convLine (c : Nat) (rnd : Nat → Rnd) (l : List Val) : Conv :=
  if fmtBlock c then
    let r := encodeBlock c rnd l
    { els := r.2.1, scale := r.1, flags := r.2.2
      vals := r.2.1.map (fun b => (decodeElem c b).mul (decodeScale r.1)) }
  else
    let r := l.zipIdx.map (fun p => encodeElem c (rnd p.2) p.1)
    { els := r.map (·.1), scale := 0, flags := Flags.any (r.map (·.2)), vals := r.map (fun x => decodeElem c x.1) }

/-- Convert a line to INT8 with a computed row scale; `scale` is the FP32 encoding (R90). -/
def convScaled (rnd : Nat → Rnd) (l : List Val) : Conv :=
  let sc := rowScale l
  let r := encodeInt8Row sc rnd l
  { els := r.map (·.1), scale := sc, flags := Flags.any (r.map (·.2))
    vals := r.map (fun x => (decodeElem 7 x.1).mul (f32 sc)) }

/-- Flags that writing a converted line sets. -/
def Conv.written (l sc : Nat) (c : Conv) : Flags :=
  c.vals.foldl (fun f v => f.or { testVal v with absurd := absurd l sc v }) c.flags

/-! ### The epilogue (R120 to R126) -/

/-- What a TEPI works on: the option word, the format, rounding and its stochastic inputs, the accumulator as FP32
encodings, the parameter block and the activation table. -/
structure TepiIn where
  opt : Nat
  fmt : Nat
  rm : Nat
  seed : Nat
  tid : Nat
  idx : Nat
  limit : Nat
  loss : Nat
  s : Nat
  x : List (List Nat)
  rs : List Nat
  cs : List Nat
  bias : List Nat
  refMax : List Nat
  refSum : List Nat
  mask : List Nat
  table : List (List Nat)
deriving DecidableEq, Repr

def TepiIn.on (t : TepiIn) (b : Nat) : Bool := bitAt t.opt b

/-- Entry `i` of a vector, as an FP32 encoding. -/
def at0 (l : List Nat) (i : Nat) : Nat := l.getD i 0

/-- One activation (R122): entries hold bp, c0, c1, c2, c3. -/
def actEval (table : List (List Nat)) (x : Nat) : Nat :=
  if (f32 x).isNan then f32Nan
  else
    let sel := table.zipIdx.foldl (fun s p => if p.2 ≠ 0 ∧ (f32 (at0 p.1 0)).le (f32 x) then p.2 else s) 0
    let c := fun q => at0 (table.getD sel []) (q + 1)
    let nz := fun q => !(f32 (c q)).isZero
    if nz 3 then fma (fma (fma (c 3) x (c 2)) x (c 1)) x (c 0)
    else if nz 2 then fma (fma (c 2) x (c 1)) x (c 0)
    else if nz 1 then fma (c 1) x (c 0)
    else if nz 0 then toF32 (f32 (c 0))
    else 0

/-- t[i][j]: scaled, biased and activated (R120). -/
def TepiIn.t (p : TepiIn) : List (List Nat) :=
  p.x.zipIdx.map (fun r => r.1.zipIdx.map (fun e =>
    let v := f32 e.1
    let v := if p.on 0 then v.mul (f32 (at0 p.rs r.2)) else v
    let v := if p.on 1 then v.mul (f32 (at0 p.cs e.2)) else v
    let v := v.mul (f32 p.s)
    let v := if p.on 2 then v.add (f32 (at0 p.bias e.2)) else v
    let t := toF32 v
    if p.on 3 then actEval p.table t else t))

/-- Column j is admissible in row i (R120). -/
def TepiIn.adm (p : TepiIn) (i j : Nat) : Bool := if p.on 4 then bitAt (at0 p.mask i) j else true

/-- Row maximum, row sum, exponentials and emptiness of row `i` (R120, R121). -/
structure RowStat where
  m : Nat
  l : Nat
  e : List Nat
  empty : Bool
deriving DecidableEq, Repr

def TepiIn.row (p : TepiIn) (i : Nat) (t : List Nat) : RowStat :=
  let ok := t.zipIdx.filter (fun q => p.adm i q.2)
  match ok with
  | [] => { m := f32NegInf, l := 0, e := t.map (fun _ => 0), empty := true }
  | q :: r =>
    let m := r.foldl (fun m q => fmax m q.1) (fmax q.1 q.1)
    let e := t.zipIdx.map (fun q => if p.adm i q.2 then expF32 (fsub q.1 m) else 0)
    let l := (e.zipIdx.filter (fun q => p.adm i q.2)).foldl
      (fun (a : Option Nat) q => match a with | none => some q.1 | some s => some (fadd s q.1)) none
    { m := m, l := l.getD 0, e := e, empty := false }

/-- The reference maximum and sum of a row for the mass (R124). -/
def TepiIn.refs (p : TepiIn) (i : Nat) (r : RowStat) : Nat × Nat :=
  if p.on 8 then (at0 p.refMax i, at0 p.refSum i) else (r.m, r.l)

/-- Row i contributes to the mass of column j. -/
def TepiIn.contributes (p : TepiIn) (i j : Nat) (r : RowStat) : Bool :=
  p.adm i j && !((f32 (p.refs i r).2).le Val.zero)

/-- Column mass (R124): terms in ascending row order. -/
def TepiIn.mass (p : TepiIn) (t : List (List Nat)) (rows : List RowStat) (j : Nat) : Nat :=
  (t.zip rows).zipIdx.foldl (fun a q =>
    if p.contributes q.2 j q.1.2 then
      fadd a (fdiv (expF32 (fsub (at0 q.1.1 j) (p.refs q.2 q.1.2).1)) (p.refs q.2 q.1.2).2)
    else a) 0

/-- What a TEPI writes: lines of the output tile, row scales for INT8 with ISCALE, the statistics block, and its
flags. -/
structure TepiOut where
  lines : List (List Nat × Nat)
  scales : List Nat
  m : List Nat
  l : List Nat
  mass : List Nat
  empty : Nat
  flags : Flags
deriving DecidableEq, Repr

/-- STATS, EXPOUT or MASS is set: the row statistics are computed and written (R120, R125). -/
def TepiIn.stats (p : TepiIn) : Bool := p.on 5 || p.on 6 || p.on 7
/-- ISCALE is in effect. -/
def TepiIn.iscale (p : TepiIn) : Bool := p.on 10 && p.fmt == 7

/-- Rows and columns exchanged. -/
def transpose32 (l : List (List Nat)) : List (List Nat) :=
  (List.range 32).map (fun j => l.map (fun r => at0 r j))

/-- The whole epilogue. -/
def TepiIn.run (p : TepiIn) : TepiOut :=
  let t := p.t
  let rows := if p.stats then t.zipIdx.map (fun r => p.row r.2 r.1) else []
  let out := if p.on 6 then rows.map (·.e) else t
  let rnd := fun i j => { mode := p.rm, ovf := p.on 9, r := srBits p.seed p.tid ((p.idx + 32 * i + j) % 2 ^ 48) : Rnd }
  let cv := out.zipIdx.map (fun r =>
    if p.iscale then convScaled (rnd r.2) (r.1.map f32) else convLine p.fmt (rnd r.2) (r.1.map f32))
  let mass := if p.on 7 then (List.range 32).map (p.mass t rows) else List.replicate 32 0
  let refs := if p.on 7 ∧ p.on 8 then
      (rows.zipIdx.filter (fun r => (List.range 32).any (fun j => p.contributes r.2 j r.1))).flatMap
        (fun r => [f32 (at0 p.refMax r.2), f32 (at0 p.refSum r.2)]) else []
  let ins := (p.x.flatMap (fun r => r.map f32)) ++ (if p.on 0 then p.rs.map f32 else []) ++
    (if p.on 1 then p.cs.map f32 else []) ++ (if p.on 2 then p.bias.map f32 else []) ++ refs
  let fl := (cv.map (Conv.written p.limit p.loss)).foldl Flags.or (inputFlags ins)
  let fl := if p.iscale then fl.or (writtenFlags p.limit p.loss 0 (cv.map (·.scale))) else fl
  let fl := if p.stats then
      (fl.or (writtenFlags p.limit p.loss 0 ((rows.filter (fun r => !r.empty)).map (·.m)))).or
        (writtenFlags p.limit p.loss 0 (rows.map (·.l) ++ mass)) else fl
  let els := cv.map (·.els)
  { lines := (if p.on 11 then transpose32 els else els).zip (cv.map (·.scale))
    scales := cv.map (·.scale)
    m := rows.map (·.m)
    l := rows.map (·.l)
    mass := mass
    empty := rows.zipIdx.foldl (fun a r => if r.1.empty then a + 2 ^ r.2 else a) 0
    flags := fl }

/-! ### OSM (R172, R173) -/

/-- One row of a running result: maximum, sum, empty bit and the 32 outputs. -/
structure OsmRow where
  m : Nat
  l : Nat
  empty : Bool
  o : List Nat
deriving DecidableEq, Repr

/-- An FP32 encoding with a NaN made canonical (R74). -/
def canonF32 (x : Nat) : Nat := if (f32 x).isNan then f32Nan else x

/-- Merge a new row into a running row (R172); a row that is copied carries no NaN payload (R74). -/
def osmMerge (d n : OsmRow) : OsmRow :=
  if n.empty then d
  else if d.empty then { m := canonF32 n.m, l := canonF32 n.l, empty := false, o := n.o.map canonF32 }
  else
    let m := fmax d.m n.m
    let ad := expF32 (fsub d.m m)
    let as := expF32 (fsub n.m m)
    { m := m, l := fadd (fmul d.l ad) (fmul n.l as), empty := false
      o := (d.o.zip n.o).map (fun p => fadd (fmul p.1 ad) (fmul p.2 as)) }

/-- Normalise a row by its sum (R173). -/
def osmNorm (d : OsmRow) : List Nat := if d.empty then d.o.map (fun _ => 0) else d.o.map (fun x => fdiv x d.l)

/-- Row `i` of the triple (accumulator `a`, statistics block `t`). -/
def Core.osmRow (k : Core) (a t i : Nat) : OsmRow :=
  { m := k.tileWord t i, l := k.tileWord t (32 + i), empty := bitAt (k.tileWord t 96) i
    o := (List.range 32).map (k.getAc a i) }

/-- Flags of the triple of a row as an input: an empty row's maximum is exempt (R93). -/
def OsmRow.flags (r : OsmRow) : Flags :=
  inputFlags ((if r.empty then [] else [f32 r.m]) ++ f32 r.l :: r.o.map f32)

end Sys2Proof.Machine
end

