-- ==== Sys2Proof/Machine/Cascade.lean ====
section
/-! DEFINITION. The cascade (R129 to R142): the tree, the node store, closing, opening, exporting and folding; and the
all-or reduction of a core (R146, R147, R178). -/
namespace Sys2Proof.Machine
open Sys2Proof

/-! ### Node tiles -/

/-- A tile from its 1,024 encodings, row-major. -/
def tileOf (l : List Nat) : TileW :=
  l.zipIdx.filterMap (fun p => if p.1 = 0 then none else some (p.2, BitVec.ofNat 32 p.1))
def TileW.at (t : TileW) (k : Nat) : Nat := (t.get (fun _ => 0) k).toNat
def TileW.list (t : TileW) : List Nat := (List.range 1024).map t.at
/-- Elementwise FP32 addition, rounded to nearest even (R130). -/
def TileW.plus (a b : TileW) : TileW := tileOf ((List.range 1024).map (fun k => fadd (a.at k) (b.at k)))

/-! ### Reductions -/

/-- Run level G of a reduction (R129). -/
def Acc.g (r : Acc) : Nat := if r.red16 then 8 else 24
/-- Number of runs (R131). -/
def Acc.nr (r : Acc) : Nat := ceilDiv r.nb (2 ^ r.g)
def Acc.rootReady (r : Acc) : Bool := r.root.isSome
/-- First block and the block after the last that a node covers (R129). -/
def Node.first (n : Node) : Nat := if n.isPre then 0 else n.idx * 2 ^ n.lvl
def Node.last (n : Node) : Nat := (n.idx + 1) * 2 ^ n.lvl
/-- The nodes a reduction holds: pending nodes, the prefix and the root. -/
def Acc.held (r : Acc) : List Node := r.preSlot.toList ++ r.nodes ++ r.root.toList
/-- Pending nodes in ascending order of the first block covered, or the root (R138). -/
def Acc.exportOrder (r : Acc) : List Node :=
  match r.root with
  | some n => [n]
  | none => r.preSlot.toList ++ (r.nodes.foldl (fun l n =>
      (l.takeWhile (fun m => decide (m.first ≤ n.first))) ++ n :: l.dropWhile (fun m => decide (m.first ≤ n.first))) [])
/-- The blocks `[lo, hi)` overlap a held node. -/
def Acc.covered (r : Acc) (lo hi : Nat) : Bool := r.held.any (fun n => decide (lo < min n.last r.nb ∧ n.first < hi))

namespace Core

/-- Node slots in use by the four accumulators (R133). -/
def slotsUsed (k : Core) : List Nat := (k.acc0.nodes ++ k.acc1.nodes ++ k.acc2.nodes ++ k.acc3.nodes).map (·.slot)
/-- The lowest free node slot of the 24. -/
def freeNodeSlot (k : Core) : Option Nat := (List.range 24).find? (fun n => !(k.slotsUsed.contains n))
def modAcc (k : Core) (a : Nat) (f : Acc → Acc) : Core := k.setAcc a (f (k.acc a))

end Core

namespace State

/-- Linear address of a slot of the partial stack; 24 + a is the prefix slot of accumulator a. -/
def slotLin (i slot : Nat) : Nat := storeAddr i (0x64000 + slot * 4096)

/-- FAILED sets on a reduction: event 0x2020 with the site, accumulator, RED_ID and status (R135, R142). -/
def failReduction (s : State) (i a st : Nat) : State :=
  let r := (s.core i).acc a
  if r.failed then s else
  (s.modCore i (fun k => k.modAcc a (fun r => { r with failed := true }))).record 0x2020 1 i (s.siteOwner i) (s.core i).job
    (p4 i ++ p4 a ++ p4 r.redId ++ p4 st)

/-- Read a held node: a correctable error is corrected, and an uncorrectable one is counted and fails the reduction, so
that the node is not used (Table 7-4, R458). -/
def useNode (s : State) (i a : Nat) (n : Node) : State × Bool :=
  let lin := slotLin i n.slot
  let s := s.correctSeg lin 4096
  match s.badUnit lin 4096 with
  | none => (s, true)
  | some k => (((s.uncorrectable k k 8 i).afterBad (some k)).failReduction i a 0x0520, false)

/-- Store a node in a slot, which gets fresh check bits. -/
def putNode (s : State) (i a : Nat) (n : Node) : State :=
  let keep := fun k : Nat => !decide (slotLin i n.slot ≤ k ∧ k < slotLin i n.slot + 4096)
  let s : State := { s with
    poison := s.poison.filter keep
    latentCe := s.latentCe.filter keep
    latentUe := s.latentUe.filter keep }
  s.modCore i (fun k => k.modAcc a (fun r =>
    if n.slot < 24 then { r with nodes := r.nodes ++ [n] } else { r with preSlot := some n }))

/-- Node insertion (R134): the state after, and whether the node found a slot when it needed one (R135). The first
argument bounds the promotions and additions of one insertion. -/
def insertNode : Nat → State → Nat → Nat → Nat → Nat → Bool → TileW → State × Bool
  | 0, s, _, _, _, _, _, _ => (s, true)
  | f + 1, s, i, a, lvl, idx, pre, val =>
    let r := (s.core i).acc a
    let pre := pre || (lvl == r.g && idx == 0)
    let take := fun (n : Node) (k : State → State × Bool) =>
      let u := s.useNode i a n
      if u.2 then k (u.1.modCore i (fun c => c.modAcc a (fun r =>
          if n.slot < 24 then { r with nodes := removeFirst (fun m => m.slot == n.slot) r.nodes }
          else { r with preSlot := none })))
      else (u.1, true)
    let keep := fun (_ : Unit) =>
      match (s.core i).freeNodeSlot with
      | none => (s, false)
      | some sl => (s.putNode i a { slot := sl, lvl := lvl, idx := idx, isPre := false, val := val }, true)
    if pre && idx == r.nr - 1 then
      (s.modCore i (fun c => c.modAcc a (fun r =>
        { r with root := some { slot := 24 + a, lvl := r.g, idx := idx, isPre := true, val := val } })), true)
    else if pre then
      match r.nodes.find? (fun n => n.lvl == r.g && n.idx == idx + 1) with
      | none => (s.putNode i a { slot := 24 + a, lvl := r.g, idx := idx, isPre := true, val := val }, true)
      | some n => take n (fun s => insertNode f s i a r.g (idx + 1) true (val.plus n.val))
    else if lvl == r.g then
      match r.preSlot with
      | some p => if p.idx + 1 = idx then take p (fun s => insertNode f s i a r.g idx true (p.val.plus val)) else keep ()
      | none => keep ()
    else
      let sib := idx ^^^ 1
      if r.nb ≤ sib * 2 ^ lvl then insertNode f s i a (lvl + 1) (idx / 2) false val
      else match r.nodes.find? (fun n => n.lvl == lvl && n.idx == sib) with
        | none => keep ()
        | some n =>
          take n (fun s => insertNode f s i a (lvl + 1) (idx / 2) false
            (if sib < idx then n.val.plus val else val.plus n.val))

/-- An insertion bound that no tree reaches: 24 levels, then at most 256 runs. -/
def insertFuel : Nat := 512

/-! ### Closing a K-block (R110, R137) -/

/-- Groups of a full K-block (R109). -/
def fullBlock (fp16 : Bool) : Nat := if fp16 then 8 else 32

/-- The status that refuses a close: `groups` is the count the block would close with (R137, R135). -/
def closeCheck (s : State) (i a groups : Nat) (isExplicit : Bool) : Nat :=
  let r := (s.core i).acc a
  if r.redOpen = false then 0x0144
  else if r.nb ≤ r.next then 0x0101
  else lowest
    [check (r.covered r.next (r.next + 1)) 0x0140,
      check (isExplicit && decide (groups < fullBlock r.fp16 ∧ r.next ≠ r.nb - 1)) 0x0147,
      check (!(insertNode insertFuel s i a 0 r.next false []).2) 0x0313]

/-- Close the open K-block: node (0, NEXT) enters the tree, NEXT increments and the accumulator is empty (R110, R137). -/
def closeBlock (s : State) (i a : Nat) : State :=
  let k := s.core i
  let val := tileOf ((k.acRows a).flatMap id)
  let s := (insertNode insertFuel s i a 0 (k.acc a).next false val).1
  s.modCore i (fun k => (k.clearAc a).modAcc a (fun r =>
    { r with isOpen := false, groups := 0, next := (r.next + 1) % 2 ^ 32 }))

/-! ### Packets across the mesh and between packages (R141, R394) -/

/-- Optical attach port that a packet for another package leaves by (R394). -/
def remoteAttach (s : State) (pos core i : Nat) : Nat :=
  let q := core % 16
  let own := s.pkg.posValue
  let p := if own / 16 ≠ pos / 16 ∧ own % 16 = pos % 16 then 16 + q else q
  opticalCode p (if s.coreOf i = 0x1FFF then 0 else s.coreOf i % 2)

/-- A request on the cascade channel to a core of some package. The destination site and the epoch of a core of this
package are filled in at injection (R43, R141). -/
def cascadePacket (s : State) (i sag pos core tag : Nat) (k : Kind) (operand : W64) (payload inline : List Byte) : Packet :=
  let here := decide (pos = s.pkg.posValue)
  { dest := if here then 0x1FFF else s.remoteAttach pos core i, core := if here then some core else none, src := i, vc := 2
    priv := false, epochCheck := true, kind := k, saggar := sag, payload := payload
    flits := ceilDiv payload.length 64, destEpoch := 0, tag := tag, status := 0, isResponse := false
    address := if here then 0 else pos + core * 256, operand := operand, inline := inline
    remotePos := if here then none else some pos, home := 0 }

/-- OPERAND of a cascade packet (Table 5-1). -/
def nodeOperand (acc redId : Nat) (n : Node) : W64 :=
  BitVec.ofNat 64 (acc + n.lvl * 4 + b2n n.isPre * 128 + n.idx % 2 ^ 32 * 256 + redId * 2 ^ 40)

/-- Status that refuses an export (R138). -/
def exportCheck (s : State) (i a w : Nat) : Nat :=
  let r := (s.core i).acc a
  let core := bits w 0 13
  let here := bits w 13 8 = s.pkg.posValue
  lowest [check (!r.redOpen) 0x0144, check r.isOpen 0x0145, check (decide (here ∧ 4415 < core)) 0x0101,
    check (decide (here ∧ core ≤ 4415) && (s.siteOfCore core).isNone) 0x0354]

/-- One answer to an exported node: 0x0000 frees the node; the last answer completes the export or sets EXPORT_FAULT with
event 0x2023 (R138). An answer to a discarded export only ends a wait. -/
def exportAnswer (s : State) (i a tag st : Nat) : State :=
  match ((s.core i).acc a).exporting with
  | none => s
  | some x =>
    match x.waiting.find? (fun p => p.1 == tag) with
    | none => s
    | some (_, n) =>
      let x : Exporting :=
        { waiting := removeFirst (fun p => p.1 == tag) x.waiting, bad := x.bad + b2n (st != 0)
          firstBad := if x.bad = 0 ∧ st ≠ 0 then st else x.firstBad, dropped := x.dropped }
      if x.dropped then s.modCore i (fun k => k.modAcc a (fun r =>
        { r with exporting := if x.waiting.isEmpty then none else some x }))
      else
      let s := if st = 0 then s.modCore i (fun k => k.modAcc a (fun r =>
          { r with
            nodes := r.nodes.filter (fun m => m != n)
            preSlot := if r.preSlot = some n then none else r.preSlot
            root := if r.root = some n then none else r.root })) else s
      if !x.waiting.isEmpty then s.modCore i (fun k => k.modAcc a (fun r => { r with exporting := some x }))
      else if x.bad = 0 then
        s.modCore i (fun k => k.modAcc a (fun r =>
          { r with exporting := none, redOpen := false, exportFault := false }))
      else
        let s := s.modCore i (fun k => k.modAcc a (fun r => { r with exporting := none, exportFault := true }))
        s.record 0x2023 1 i (s.siteOwner i) (s.core i).job
          (p4 i ++ p4 a ++ p4 ((s.core i).acc a).redId ++ p4 x.firstBad ++ p4 x.bad)

/-- Send every pending node of a reduction, or its root (R138). A site that no saggar owns sends nothing, and each node
counts as answered 0x0210 (R62). -/
def exportNodes (s : State) (i a w : Nat) : State :=
  let k := s.core i
  let r := k.acc a
  let core := bits w 0 13
  let pos := bits w 13 8
  let acc := bits w 21 2
  let nodes := r.exportOrder
  if nodes.isEmpty then
    s.modCore i (fun k => k.modAcc a (fun r => { r with redOpen := false, exportFault := false }))
  else
    let sent := nodes.foldl (fun (st : State × List (Nat × Node)) n =>
      let u := st.1.useNode i a n
      if !u.2 then (u.1, st.2) else
      let t := (u.1.core i).nextTag
      let s := u.1.modCore i (fun k => { k with nextTag := (t + 1) % 65536 })
      let p := s.cascadePacket i ((s.siteOwner i).getD 0) pos core t .casNode (nodeOperand acc r.redId n)
        (n.val.list.flatMap (leBytes 4)) []
      ((if (s.siteOwner i).isSome then { s with outq := s.outq ++ [p] } else s), st.2 ++ [(t, n)])) (s, [])
    let lost := nodes.length - sent.2.length
    let x := if sent.2.isEmpty then none else
      some { waiting := sent.2, bad := lost, firstBad := if lost = 0 then 0 else 0x0520, dropped := false : Exporting }
    let s := sent.1.modCore i (fun k => k.modAcc a (fun r => { r with exporting := x }))
    if (s.siteOwner i).isSome then s else sent.2.foldl (fun s p => s.exportAnswer i a p.1 0x0210) s

/-! ### Fold and discard (R139, R140) -/

/-- The reduction of an accumulator after it closes: slots freed, OPEN, ROOT_READY and PENDING 0. -/
def Acc.shut (r : Acc) : Acc := { r with redOpen := false, nodes := [], preSlot := none, root := none }

/-- Write the root into the accumulator and close the reduction (R139). The root must be held. -/
def foldRoot (s : State) (i a : Nat) (root : Node) : State :=
  let k := s.core i
  let r := k.acc a
  let above := decide (2 ^ r.g < r.nb)
  let vals := root.val.list
  let fl : Flags := { writtenFlags k.absLimit.toNat k.lossScale.toNat 0 vals with bound := above }
  let s' := s.setCore i (((k.setAcTile a vals).modAcc a (fun r =>
    { Acc.shut r with fp16 := false, isOpen := false, groups := 0 })).addFlags fl)
  if above && !k.fmtFlags.bound then s'.record 0x2012 1 i (s.siteOwner i) k.job [] else s'

/-! ### All-or (R146, R147) -/

/-- Bit positions below the lowest set bit of `m`, or every position for member 0. -/
def childrenOf (m count : Nat) : List Nat :=
  ((List.range 17).filter (fun b => decide (m % 2 ^ (b + 1) = 0 ∧ m + 2 ^ b < count))).map (fun b => m + 2 ^ b)
/-- The parent of member m: m with its lowest set bit cleared. -/
def parentOf (m : Nat) : Nat :=
  match (List.range 17).find? (fun b => bitAt m b) with
  | some b => m - 2 ^ b
  | none => 0

/-- The member table entry of member `m`, none when it cannot be read: the all-or then expires (Table 7-4). -/
def memberEntry (s : State) (i table m : Nat) : State × Option Nat :=
  if 0x80000 < table + 4 * m + 4 then (s, none)
  else
    let r := s.load 8 i (storeAddr i (table + 4 * m)) 4
    (r.1, if r.2.1.isSome then none else some (leNat r.2.2))

/-- The all-or of a core ends with 0x0603: event 0x2022 (R147). -/
def aorExpire (s : State) (i : Nat) : State :=
  (s.modCore i (fun k => { k with aor := { k.aor with isOpen := false, done := false, expired := true } })).record
    0x2022 1 i (s.siteOwner i) (s.core i).job []

/-- Send a word to one member as a header-only cascade packet: RED_ID in OPERAND as in Table 5-1, the word inline. -/
def aorSend (s : State) (i m : Nat) (k : Kind) (word : W32) : State × Bool :=
  let o := (s.core i).aor
  let e := s.memberEntry i o.table m
  match e.2 with
  | none => (e.1, false)
  | some v =>
    match e.1.siteOwner i with
    | none => (e.1, true)
    | some sag =>
      let t := (e.1.core i).nextTag
      let s := e.1.modCore i (fun c => { c with nextTag := (t + 1) % 65536 })
      let p := s.cascadePacket i sag (bits v 13 8) (bits v 0 13) t k (BitVec.ofNat 64 (o.redId * 2 ^ 40)) []
        (leBytes 4 word.toNat)
      ({ s with outq := s.outq ++ [p] }, true)

/-- Send the result to every child (R147). -/
def aorDown (s : State) (i : Nat) : State :=
  let o := (s.core i).aor
  let r := (childrenOf o.self o.count).foldl (fun (st : State × Bool) m =>
    let x := st.1.aorSend i m .allorDown o.word
    (x.1, st.2 && x.2)) (s, true)
  if r.2 then r.1 else r.1.aorExpire i

/-- Go on when every child's word has arrived: member 0 holds the result and sends it down, any other member sends its
word up (R147). -/
def aorAdvance (s : State) (i : Nat) : State :=
  let o := (s.core i).aor
  if o.isOpen = false ∨ o.sentUp ∨ !o.waiting.isEmpty then s
  else if o.self = 0 then
    (s.modCore i (fun k => { k with aor := { k.aor with done := true, sentUp := true } })).aorDown i
  else
    let r := (s.modCore i (fun k => { k with aor := { k.aor with sentUp := true } })).aorSend i (parentOf o.self) .allorUp o.word
    if r.2 then r.1 else r.1.aorExpire i

/-- A wait that began at `since` with an extension has reached CAS_WAIT (R139, R147, R420). -/
def waitOver (s : State) (i since extra : Nat) : Bool := decide (since + (s.core i).casWait + extra ≤ s.nowUs)

/-- TAOR.W's result: the all-or closes (R178). -/
def aorTake (s : State) (i rd : Nat) : State :=
  s.modCore i (fun k =>
    { k.setX rd k.aor.word.toNat with aor := { k.aor with isOpen := false, done := false } })

/-- Status that refuses TAOR.C (R178, R11). -/
def aorCheck (k : Core) : Nat :=
  if k.aorCount = 0 then 0x0102
  else lowest [check (decide (65536 < k.aorCount ∨ k.aorCount ≤ k.aorSelf)) 0x0101, check (k.aorTable % 4 ≠ 0) 0x0103,
    check k.aor.isOpen 0x0143]

/-- Contribute a word (R147, R178). With CAS_WAIT at 0 a member whose result is not held expires at once. -/
def aorOpen (s : State) (i redId : Nat) (word : W32) : State :=
  let k := s.core i
  let s := s.setCore i { k with aor :=
    { isOpen := true, done := false, expired := false, redId := redId, word := word, self := k.aorSelf, count := k.aorCount
      table := k.aorTable, waiting := childrenOf k.aorSelf k.aorCount, sentUp := false, sinceUs := s.nowUs, extraUs := 0 } }
  let s := s.aorAdvance i
  if k.casWait = 0 ∧ (s.core i).aor.isOpen ∧ (s.core i).aor.done = false then s.aorExpire i else s

end State
end Sys2Proof.Machine
end

