-- ==== Sys2Proof/Machine/Tile.lean ====
section
/-! DEFINITION. The tile extension (R160 to R179): decoding of the four custom opcodes and the effect of each tile
instruction, and the commands that carry one out at a core whose next instruction it is. -/
namespace Sys2Proof.Machine
open Sys2Proof

/-- The instructions of Table 6-4. -/
inductive TileOp where
  | tld | tst | taclr | tmv | tmma
  | casOpen | casClose | casExport | casFold | casDiscard | taorC | taorW | tret
  | tepi | tcvt | osm
deriving DecidableEq, Repr

/-- The tile instruction a word decodes to; none for another opcode, an unlisted funct3 or a reserved bit set (R162). -/
def tileOp (w : Nat) : Option TileOp :=
  let ok := fun (p : Bool) (o : TileOp) => if p then some o else none
  let z := fun lo n => bits w lo n == 0
  let f3 := bits w 12 3
  let op := w % 128
  if op = 0x0B then
    match f3 with
    | 0 => ok (z 10 2 && z 28 4) .tld
    | 1 => ok (z 10 2 && z 28 4) .tst
    | 2 => ok (z 10 2 && z 15 17) .taclr
    | 3 => ok (z 22 10 && (decide (bits w 20 2 < 2) || z 17 1)) .tmv
    | _ => none
  else if op = 0x2B then ok (z 10 2 && z 26 6) .tmma
  else if op = 0x5B then
    match f3 with
    | 0 => ok (z 9 3 && z 25 2) .casOpen
    | 1 => ok (z 9 3 && z 15 17) .casClose
    | 2 => ok (z 9 3 && z 20 12) .casExport
    | 3 => ok (z 9 3 && z 15 17) .casFold
    | 4 => ok (z 9 3 && z 15 17) .casDiscard
    | 5 => ok (z 7 5 && z 25 7) .taorC
    | 6 => ok (z 15 17) .taorW
    | _ => ok (z 7 5 && z 15 17) .tret
  else if op = 0x7B then
    match f3 with
    | 0 => some .tepi
    | 1 => ok (z 27 5) .tcvt
    | 2 => ok (z 21 11) .osm
    | _ => none
  else none

namespace State

/-! ### TLD and TST (R164, R165) -/

/-- Rows, bytes of a row, first register byte, and whether the rows are strided (Table 6-6). -/
def tldShape : Nat → Nat × Nat × Nat × Bool
  | 0 => (1, 1024, 0, false)
  | 1 => (32, 32, 0, true)
  | 2 => (16, 64, 0, true)
  | 3 => (8, 128, 0, true)
  | 4 => (32, 24, 0, true)
  | 5 => (32, 16, 0, true)
  | 6 => (1, 32, 768, false)
  | _ => (1, 32, 512, false)

/-- Core addresses of the rows of a TLD or TST. -/
def tldRows (k : Core) (w : Nat) : List Nat :=
  (List.range (tldShape (bits w 25 3)).1).map (fun r => (k.getX (bits w 15 5) + r * k.getX (bits w 20 5)) % 2 ^ 32)

/-- 0x0103 when the base, or the pitch of a strided shape, is not a multiple of 8. -/
def tldCheck (k : Core) (w : Nat) : Nat :=
  check (k.getX (bits w 15 5) % 8 ≠ 0 || ((tldShape (bits w 25 3)).2.2.2 && k.getX (bits w 20 5) % 8 ≠ 0)) 0x0103

/-- Cut a run of core addresses at multiples of 64: each piece through an aperture is one mesh packet (R159). -/
def linesOf (a n : Nat) : List (Nat × Nat) := unitPieces 64 (n / 64 + 2) a n

/-- The pieces of reads that lie behind apertures and have not come back. -/
def farPieces (s : State) (i : Nat) (got : List (Nat × Byte)) (l : List (Nat × Nat)) : List (Nat × Nat) :=
  (l.flatMap (fun q => match s.place i false false q.1 q.2 with
    | some (.aper ..) => linesOf q.1 q.2
    | _ => [])).filter (fun q => (gotBytes got q.1 q.2).isNone)

/-- Read several runs of core addresses in order: the bytes of all, or the first trap. -/
def coreReads (s : State) (i : Nat) (got : List (Nat × Byte)) : List (Nat × Nat) → State × Rd
  | [] => (s, .ok [])
  | (a, n) :: r =>
    let x := s.coreRead i a n got
    match x.2 with
    | .ok bs =>
      let y := coreReads x.1 i got r
      (match y.2 with
      | .ok cs => (y.1, .ok (bs ++ cs))
      | o => (y.1, o))
    | o => (x.1, o)

/-- TLD (R164, R165). -/
def tldEff (s : State) (i w : Nat) (got : List (Nat × Byte)) : Eff :=
  let k := s.core i
  let sh := tldShape (bits w 25 3)
  let rows := (tldRows k w).map (fun a => (a, sh.2.1))
  if tldCheck k w ≠ 0 then rejected s (tldCheck k w)
  else match rows.find? (fun q => (s.place i false false q.1 q.2).isNone) with
    | some q => .trap s 5 q.1 0
    | none =>
      match s.farPieces i got rows with
      | [] =>
        let r := s.coreReads i got rows
        (match r.2 with
        | .ok bs => r.1.retire i 4 (fun k => k.setTBytes (bits w 7 3 * 1024 + sh.2.2.1) bs)
        | .trap c a => .trap r.1 c a 0
        | .far => .wait)
      | need => .far s need

/-- TST (R164, R165): rows are written in ascending order; a row behind an aperture is posted line by line (R159). -/
def tstEff (s : State) (i w : Nat) : Eff :=
  let k := s.core i
  let sh := tldShape (bits w 25 3)
  let rows := tldRows k w
  if tldCheck k w ≠ 0 then rejected s (tldCheck k w)
  else match rows.find? (fun a => (s.place i true false a sh.2.1).isNone) with
    | some a => .trap s 7 a 0
    | none =>
      let parts := rows.zipIdx.flatMap (fun q => (linesOf q.1 sh.2.1).map (fun p =>
        (p.1, k.getTBytes (bits w 7 3 * 1024 + sh.2.2.1 + q.2 * sh.2.1 + (p.1 - q.1)) p.2)))
      match s.coreWrites i parts with
      | .done s p => .done (s.modCore i (fun k => k.adv 4)) p
      | e => e

/-! ### TACLR, TMMA (R166, R167) -/

def exporting (s : State) (i a : Nat) : Bool := ((s.core i).acc a).exporting.isSome

/-- TACLR (R166). -/
def taclrEff (s : State) (i w : Nat) : Eff :=
  let a := bits w 7 2
  let fp := bitAt w 9
  let r := (s.core i).acc a
  if s.exporting i a then .wait
  else if r.redOpen && r.red16 != fp then rejected s 0x0130
  else s.retire i 4 (fun k => (k.clearAc a).modAcc a (fun r => { r with fp16 := fp, isOpen := false, groups := 0 }))

/-- Status that refuses a TMMA: operand groups, pair, width, and the checks of the close that it would bring about
(R101, R111, R160, R167). -/
def tmmaCheck (s : State) (i w : Nat) : Nat :=
  let a := bits w 7 2
  let r := (s.core i).acc a
  lowest [groupCheck (bits w 18 4) (bits w 12 3), groupCheck (bits w 22 4) (bits w 15 3),
    check (pairKind (bits w 18 4) (bits w 22 4) (bitAt w 9) == .refused) 0x0104, check (bitAt w 9 != r.fp16) 0x0130,
    if r.groups + 1 = fullBlock r.fp16 then s.closeCheck i a (r.groups + 1) false else 0]

/-- Add the group of a TMMA to its accumulator, with its flags, and close the block when it is full (R105, R109, R110). -/
def tmmaAdd (s : State) (i w : Nat) : State :=
  let k := s.core i
  let a := bits w 7 2
  let r := k.acc a
  let fa := bits w 18 4
  let fb := bits w 22 4
  let ta := k.tile fa (bits w 12 3)
  let tb := k.tile fb (bits w 15 3)
  let out := addGroup (pairKind fa fb r.fp16) fa fb r.fp16 (!r.isOpen) (k.acTile a) ta tb
  let fl := (inputFlags ((ta.flatMap (fun l => l.values fa)) ++ tb.flatMap (fun l => l.values fb))).or
    (writtenFlags k.absLimit.toNat k.lossScale.toNat (if r.fp16 then 2 else 0) out)
  let s := s.setCore i (((k.setAcTile a out).modAcc a (fun r =>
    { r with isOpen := true, groups := r.groups + 1 })).addFlags fl)
  if r.groups + 1 = fullBlock r.fp16 then s.closeBlock i a else s

/-- Columns of a TMMA that its residues may mismatch in. -/
def tmmaColumns (k : Core) (w : Nat) : Nat :=
  let fa := bits w 18 4
  let fb := bits w 22 4
  if pairKind fa fb (bitAt w 9) = .exact then checkedColumns fa fb (k.tile fa (bits w 12 3)) (k.tile fb (bits w 15 3)) else 0

/-- An uncorrected residue fault counts against the site and poisons nothing (R118, R464). -/
def residueFault (s : State) (i a : Nat) : State :=
  let s := s.modCore i (fun k => { k with resFaults := satAdd 255 k.resFaults 1, resPending := true, resAcc := a })
  let s := s.record 0x2011 1 i (s.siteOwner i) (s.core i).job []
  let s := s.modRegion i (fun g => { g with ueTotal := satAdd (top 32) g.ueTotal 1 })
  s.modSite i (fun x => { x with ueTimes := x.ueTimes ++ [s.nowUs] })

/-- TMMA (R99, R118, R167). -/
def tmmaEff (s : State) (i w : Nat) (res : Residue) : Eff :=
  let a := bits w 7 2
  let cols := tmmaColumns (s.core i) w
  let bad1 := res.first.toNat &&& cols
  let bad2 := res.repeat2.toNat &&& cols
  if s.exporting i a then .wait
  else if s.tmmaCheck i w ≠ 0 then rejected s (s.tmmaCheck i w)
  else if bad1 = 0 then .done ((s.tmmaAdd i w).modCore i (fun k => k.adv 4)) false
  else if bad2 = 0 then
    let s := (s.tmmaAdd i w).modCore i (fun k => { k.adv 4 with resRetried := satAdd (top 16) k.resRetried 1 })
    .done ((s.record 0x2010 1 i (s.siteOwner i) (s.core i).job (p4 i ++ p4 a ++ p4 bad1)).countCe i) false
  else .trap (s.residueFault i a) 26 bad2 a

/-! ### TEPI, TCVT, OSM, TMV (R168 to R175) -/

/-- Two runs of tile registers share one. -/
def overlaps (t n u m : Nat) : Bool := decide (t < u + m ∧ u < t + n)

/-- Status that refuses a TEPI (R160, R168, R170, R181). -/
def tepiCheck (k : Core) (w : Nat) : Nat :=
  let opt := k.getX (bits w 15 5)
  let fmt := bits w 26 4
  let stats := bitAt opt 5 || bitAt opt 6 || bitAt opt 7
  let isc := bitAt opt 10 && fmt == 7
  let act := bitAt opt 3
  lowest [groupCheck fmt (bits w 9 3), check (bits w 30 2 = 3) 0x0120,
    check (act && k.tepiTable % 4 ≠ 0) 0x0103, check (act && k.tepiSegs = 0) 0x0102, check (act && decide (32 < k.tepiSegs)) 0x0101,
    check ((stats || isc) && overlaps (bits w 9 3) (groupRegs fmt) (bits w 23 3) 1) 0x0160, check (isc && stats) 0x0160,
    check (bitAt opt 11 && fmtBlock fmt) 0x0160]

/-- The inputs of a TEPI (R120 to R126). -/
def tepiIn (k : Core) (w : Nat) (table : List Byte) : TepiIn :=
  let tp := bits w 20 3
  let word := fun e q => fieldAt table (20 * e + 4 * q) 4
  { opt := k.getX (bits w 15 5), fmt := bits w 26 4, rm := bits w 30 2, seed := k.srSeed.toNat, tid := k.srTid.toNat
    idx := k.srIdx, limit := k.absLimit.toNat, loss := k.lossScale.toNat, s := k.tepiScale.toNat
    x := k.acRows (bits w 7 2), rs := k.tileWords tp 0, cs := k.tileWords tp 32, bias := k.tileWords tp 64
    refMax := k.tileWords tp 96, refSum := k.tileWords tp 128, mask := k.tileWords tp 160
    table := (List.range (table.length / 20)).map (fun e => (List.range 5).map (word e)) }

/-- Write what a TEPI gives: the output tile, and the statistics or scale block (R125, R169). -/
def tepiWrite (k : Core) (w : Nat) (p : TepiIn) : Core :=
  let o := p.run
  let ts := bits w 23 3
  let k := (k.putTile p.fmt (bits w 9 3) o.lines).addFlags o.flags
  if p.iscale then k.putWords ts 0 (o.scales ++ List.replicate 224 0)
  else if p.stats then k.putWords ts 0 (o.m ++ o.l ++ o.mass ++ o.empty :: List.replicate 159 0)
  else k

/-- TEPI (R168). The activation table is read only with ACT, from addresses that a user-mode load may read (R170). -/
def tepiEff (s : State) (i w : Nat) : Eff :=
  let k := s.core i
  let n := 20 * k.tepiSegs
  if s.exporting i (bits w 7 2) then .wait
  else if tepiCheck k w ≠ 0 then rejected s (tepiCheck k w)
  else if bitAt (k.getX (bits w 15 5)) 3 then
    if k.tepiTable < 0x10000 ∨ 0x80000 < k.tepiTable + n then .trap s 5 k.tepiTable 0
    else
      let r := s.coreRead i k.tepiTable n []
      (match r.2 with
      | .ok bs => r.1.retire i 4 (fun k => tepiWrite k w (tepiIn k w bs))
      | .trap c a => .trap r.1 c a 0
      | .far => .wait)
  else s.retire i 4 (fun k => tepiWrite k w (tepiIn k w []))

/-- What TCVT writes: each line of the source, converted to the destination format, and the flags (R77 to R82, R171). -/
def tcvtRun (k : Core) (w : Nat) : Core :=
  let fs := bits w 19 4
  let fd := bits w 23 4
  let src := (k.tile fs (bits w 15 3)).map (fun l => l.values fs)
  let rnd := fun n j => { mode := bits w 10 2, ovf := bitAt w 18
                          r := srBits k.srSeed.toNat k.srTid.toNat ((k.srIdx + 32 * n + j) % 2 ^ 48) : Rnd }
  let out := src.zipIdx.map (fun l => convLine fd (rnd l.2) l.1)
  let fl := (out.map (Conv.written k.absLimit.toNat k.lossScale.toNat)).foldl Flags.or (inputFlags (src.flatMap id))
  (k.putTile fd (bits w 7 3) (out.map (fun c => (c.els, c.scale)))).addFlags fl

/-- Status that refuses a TCVT (R160, R171). -/
def tcvtCheck (w : Nat) : Nat :=
  lowest [groupCheck (bits w 19 4) (bits w 15 3), groupCheck (bits w 23 4) (bits w 7 3), check (bits w 10 2 = 3) 0x0120]

/-- TCVT (R171). -/
def tcvtEff (s : State) (i w : Nat) : Eff :=
  if tcvtCheck w ≠ 0 then rejected s (tcvtCheck w) else s.retire i 4 (fun k => tcvtRun k w)

/-- Status that refuses OSM (R174, R181). -/
def osmCheck (k : Core) (w : Nat) : Nat :=
  let d := k.acc (bits w 7 2)
  let n := k.acc (bits w 10 2)
  if bitAt w 9 then lowest [check d.fp16 0x0130, check d.isOpen 0x0145]
  else lowest [check (d.fp16 || n.fp16) 0x0130, check (d.isOpen || n.isOpen) 0x0145,
    check (bits w 7 2 = bits w 10 2 || bits w 15 3 = bits w 18 3) 0x0160]

/-- What OSM writes (R172, R173). -/
def osmRun (k : Core) (w : Nat) : Core :=
  let acd := bits w 7 2
  let tsd := bits w 15 3
  let d := (List.range 32).map (k.osmRow acd tsd)
  if bitAt w 9 then
    let o := d.map osmNorm
    (k.setAcTile acd (o.flatMap id)).addFlags
      ((Flags.any (d.map (fun r => inputFlags (f32 r.l :: r.o.map f32)))).or
        (writtenFlags k.absLimit.toNat k.lossScale.toNat 0 (o.flatMap id)))
  else
    let n := (List.range 32).map (k.osmRow (bits w 10 2) (bits w 18 3))
    let o := (d.zip n).map (fun p => osmMerge p.1 p.2)
    let wr := (o.zip n).filter (fun p => !p.2.empty)
    let fl := (Flags.any ((d ++ n).map OsmRow.flags)).or
      (writtenFlags k.absLimit.toNat k.lossScale.toNat 0 (wr.flatMap (fun p => p.1.m :: p.1.l :: p.1.o)))
    let e := o.zipIdx.foldl (fun a p => if p.1.empty then a + 2 ^ p.2 else a) 0
    let k := k.setAcTile acd (o.flatMap (·.o))
    (((k.putWords tsd 0 (o.map (·.m))).putWords tsd 32 (o.map (·.l))).putWords tsd 96 [e]).addFlags fl

/-- OSM (R172 to R174). -/
def osmEff (s : State) (i w : Nat) : Eff :=
  let k := s.core i
  if s.exporting i (bits w 7 2) || (!bitAt w 9 && s.exporting i (bits w 10 2)) then .wait
  else if osmCheck k w ≠ 0 then rejected s (osmCheck k w)
  else s.retire i 4 (fun k => osmRun k w)

/-- A kilobyte of vector registers from VD. -/
def vecKib (k : Core) (vd : Nat) : List Byte := (List.range 1024).map (fun o => k.getVByte (vd * 256 + o))
def setVecKib (k : Core) (vd : Nat) (bs : List Byte) : Core :=
  bs.zipIdx.foldl (fun k p => k.setVByte (vd * 256 + p.2) p.1) k

/-- TMV (R175). -/
def tmvEff (s : State) (i w : Nat) : Eff :=
  let k := s.core i
  let vd := bits w 7 5
  let src := bits w 15 3
  let rb := bits w 18 2
  let dir := bits w 20 2
  let a := src % 4
  if 2 ≤ dir ∧ s.exporting i a then .wait
  else
    let st := lowest [check (vd % 4 ≠ 0) 0x0103, check (dir = 3 && (k.acc a).fp16) 0x0130, check (dir = 3 && (k.acc a).isOpen) 0x0145]
    if st ≠ 0 then rejected s st
    else match dir with
      | 0 => s.retire i 4 (fun k => setVecKib k vd (k.getTBytes (src * 1024) 1024))
      | 1 => s.retire i 4 (fun k => k.setTBytes (src * 1024) (vecKib k vd))
      | 2 => s.retire i 4 (fun k => setVecKib k vd (((k.acRows a).flatMap id).drop (rb * 256) |>.take 256 |>.flatMap (leBytes 4)))
      | _ => s.retire i 4 (fun k => k.setAcFrom (a * 1024 + rb * 256) (unpackElems 0 256 (vecKib k vd)))

/-! ### Cascade, all-or and TRET (R136 to R140, R176 to R179) -/

/-- TCAS.OPEN (R136). -/
def casOpenEff (s : State) (i w : Nat) : Eff :=
  let k := s.core i
  let a := bits w 7 2
  let nb := k.getX (bits w 15 5)
  let first := k.getX (bits w 20 5)
  let st := if nb = 0 then 0x0102 else lowest [check (decide (nb ≤ first)) 0x0101, check (k.acc a).redOpen 0x0143]
  if s.exporting i a then .wait
  else if st ≠ 0 then rejected s st
  else s.retire i 4 (fun k => k.modAcc a (fun r =>
    { Acc.shut r with
      redOpen := true, red16 := r.fp16, failed := false, exportFault := false, redId := k.getX (bits w 27 5) % 65536
      nb := nb, next := first }))

/-- TCAS.CLOSE (R110, R137): no effect on an empty accumulator. -/
def casCloseEff (s : State) (i w : Nat) : Eff :=
  let a := bits w 7 2
  let r := (s.core i).acc a
  if s.exporting i a then .wait
  else if r.isOpen = false then s.retire i 4 id
  else if s.closeCheck i a r.groups true ≠ 0 then rejected s (s.closeCheck i a r.groups true)
  else (s.closeBlock i a).retire i 4 id

/-- TCAS.EXPORT (R138). -/
def casExportEff (s : State) (i w : Nat) : Eff :=
  let a := bits w 7 2
  let x := (s.core i).getX (bits w 15 5)
  if s.exporting i a then .wait
  else if s.exportCheck i a x ≠ 0 then rejected s (s.exportCheck i a x)
  else (s.exportNodes i a x).retire i 4 id

/-- Finish a fold that need not wait: the fault of a FAILED reduction, or the root (R139, R177). -/
def foldNow (s : State) (i a : Nat) (root : Node) : Eff :=
  let u := s.useNode i a root
  if u.2 then ((u.1.foldRoot i a root).modCore i (fun k => { k with run := .running })).retire i 4 id
  else .trap (u.1.modCore i (fun k => { k with run := .running })) 27 a 0

/-- A fold or an all-or waits too long: cause 28 (Table 6-19). -/
def foldExpire (s : State) (i a : Nat) : Eff :=
  .trap ((s.record 0x2021 1 i (s.siteOwner i) (s.core i).job []).modCore i (fun k => { k with run := .running })) 28
    (0x0603 + a * 65536) 0

/-- TCAS.FOLD (R139). -/
def casFoldEff (s : State) (i w : Nat) : Eff :=
  let a := bits w 7 2
  let r := (s.core i).acc a
  let st := lowest [check (!r.redOpen) 0x0144, check r.isOpen 0x0145]
  if s.exporting i a then .wait
  else if st ≠ 0 then rejected s st
  else if r.failed then .trap s 27 a 0
  else match r.root with
    | some n => s.foldNow i a n
    | none =>
      if (s.core i).casWait = 0 then s.foldExpire i a
      else .done (s.modCore i (fun k => { k with run := .waitFold a s.nowUs 0 })) false

/-- TCAS.DISCARD (R140): it does not wait for an export, whose answers are still owed but then find nothing (R177). -/
def casDiscardEff (s : State) (i w : Nat) : Eff :=
  s.retire i 4 (fun k => k.modAcc (bits w 7 2) (fun r =>
    { Acc.shut r with
      failed := false, exportFault := false, exporting := r.exporting.map (fun x => { x with dropped := true }), redId := 0, nb := 0, next := 0, red16 := false }))

/-- TAOR.C (R178). -/
def taorCEff (s : State) (i w : Nat) : Eff :=
  let k := s.core i
  if aorCheck k ≠ 0 then rejected s (aorCheck k)
  else (s.aorOpen i (k.getX (bits w 20 5) % 65536) (BitVec.ofNat 32 (k.getX (bits w 15 5)))).retire i 4 id

/-- Trap of TAOR.W at an all-or that expired. -/
def aorTimeout (s : State) (i : Nat) : Eff :=
  .trap (s.modCore i (fun k => { k with run := .running })) 28 (0x0603 + 0x40000) 0

/-- TAOR.W (R178). -/
def taorWEff (s : State) (i w : Nat) : Eff :=
  let o := (s.core i).aor
  if o.isOpen then
    if o.done then (s.aorTake i (bits w 7 5)).retire i 4 id
    else .done (s.modCore i (fun k => { k with run := .waitAor (bits w 7 5) })) false
  else if o.expired then s.aorTimeout i
  else rejected s 0x0144

/-- TRET (R179). -/
def tretEff (s : State) (i w : Nat) : Eff :=
  if (s.core i).kactive then .done (s.modCore i (fun k => { k with pc := k.kepc, kactive := false })) false
  else illegal s w

/-! ### The commands -/

/-- Run the next instruction of a core when the core is live and the instruction is of the kind `sel`; in any other
state the event does not arise. -/
def runIf (s : State) (i : Nat) (sel : Nat → Bool) (f : State → Nat → Nat → Eff) : State :=
  if s.live i then
    match s.fetch i with
    | (t, .inl (w, len)) => if sel w then t.settle i len (f t w len) else s
    | _ => s
  else s

/-- Run a tile instruction. -/
def runTile (s : State) (i : Nat) (o : TileOp) (f : State → Nat → Eff) : State :=
  s.runIf i (fun w => tileOp w == some o) (fun s w _ => f s w)

/-- A core that waits: in service and not suspended. -/
def present (s : State) (i : Nat) : Bool := decide (i < sitesN) && !(s.site i).inReset && !(s.core i).suspended

end State

/-- TLD (R164). -/
def execTld (site : Nat) (strikes : Strikes) (s : State) : Out :=
  .next (s.runTile site .tld (fun s w => (s.strike strikes).tldEff site w []))
/-- TST (R164). -/
def execTst (site : Nat) (strikes : Strikes) (s : State) : Out :=
  .next (s.runTile site .tst (fun s w => (s.strike strikes).tstEff site w))
/-- TACLR (R166). -/
def execTaclr (site : Nat) (s : State) : Out := .next (s.runTile site .taclr (fun s w => s.taclrEff site w))
/-- After a residue fault the site may be due for retirement (R464): the check follows the trap. -/
def State.residueCheck (s t : State) (i : Nat) : State :=
  if (s.site i).ueTimes.length < (t.site i).ueTimes.length then t.siteErrorCheck i else t
/-- TMMA (R167). -/
def execTmma (site : Nat) (residue : Residue) (s : State) : Out :=
  .next (s.residueCheck (s.runTile site .tmma (fun s w => s.tmmaEff site w residue)) site)
/-- TEPI (R168). -/
def execTepi (site : Nat) (s : State) : Out := .next (s.runTile site .tepi (fun s w => s.tepiEff site w))
/-- TCVT (R171). -/
def execTcvt (site : Nat) (s : State) : Out := .next (s.runTile site .tcvt (fun s w => s.tcvtEff site w))
/-- OSM (R172). -/
def execOsm (site : Nat) (s : State) : Out := .next (s.runTile site .osm (fun s w => s.osmEff site w))
/-- TMV (R175). -/
def execTmv (site : Nat) (s : State) : Out := .next (s.runTile site .tmv (fun s w => s.tmvEff site w))
/-- TCAS.OPEN (R136). -/
def execTcasOpen (site : Nat) (s : State) : Out := .next (s.runTile site .casOpen (fun s w => s.casOpenEff site w))
/-- TCAS.CLOSE (R137). -/
def execTcasClose (site : Nat) (s : State) : Out := .next (s.runTile site .casClose (fun s w => s.casCloseEff site w))
/-- TCAS.EXPORT (R138). -/
def execTcasExport (site : Nat) (s : State) : Out := .next (s.runTile site .casExport (fun s w => s.casExportEff site w))
/-- TCAS.FOLD (R139). -/
def execTcasFold (site : Nat) (s : State) : Out := .next (s.runTile site .casFold (fun s w => s.casFoldEff site w))
/-- A waiting fold finds its root, or its reduction FAILED (R139, R177). -/
def execFoldComplete (site : Nat) (s : State) : Out :=
  if s.present site then
    match (s.core site).run with
    | .waitFold a _ _ =>
      if ((s.core site).acc a).failed then
        .next ((s.modCore site (fun k => { k with run := .running })).takeTrap site 27 a 0 4)
      else match ((s.core site).acc a).root with
        | some n => .next (s.settle site 4 (s.foldNow site a n))
        | none => .next s
    | _ => .next s
  else .next s
/-- A waiting fold reaches CAS_WAIT without a root (R139). -/
def execFoldTimeout (site : Nat) (s : State) : Out :=
  if s.present site then
    match (s.core site).run with
    | .waitFold a since extra =>
      if ((s.core site).acc a).root.isNone && s.waitOver site since extra then .next (s.settle site 4 (s.foldExpire site a))
      else .next s
    | _ => .next s
  else .next s
/-- TCAS.DISCARD (R140). -/
def execTcasDiscard (site : Nat) (s : State) : Out := .next (s.runTile site .casDiscard (fun s w => s.casDiscardEff site w))
/-- TAOR.C (R178). -/
def execTaorC (site : Nat) (s : State) : Out := .next (s.runTile site .taorC (fun s w => s.taorCEff site w))
/-- The all-or of a core reaches CAS_WAIT without a result; a core that waits in TAOR.W traps (R147, R178). -/
def execAllorTimeout (site : Nat) (s : State) : Out :=
  let o := (s.core site).aor
  if s.present site then
    let s := if o.isOpen && !o.done && s.waitOver site o.sinceUs o.extraUs then s.aorExpire site else s
    match (s.core site).run with
    | .waitAor _ => if (s.core site).aor.expired then .next (s.settle site 4 (s.aorTimeout site)) else .next s
    | _ => .next s
  else .next s
/-- TAOR.W (R178). -/
def execTaorW (site : Nat) (s : State) : Out := .next (s.runTile site .taorW (fun s w => s.taorWEff site w))
/-- A core that waits in TAOR.W gets the result (R178). -/
def execTaorWComplete (site : Nat) (s : State) : Out :=
  if s.present site then
    match (s.core site).run with
    | .waitAor rd =>
      if (s.core site).aor.done then
        .next ((s.aorTake site rd).modCore site (fun k => { k.adv 4 with run := .running }))
      else .next s
    | _ => .next s
  else .next s
/-- TRET (R179). -/
def execTret (site : Nat) (s : State) : Out := .next (s.runTile site .tret (fun s w => s.tretEff site w))

end Sys2Proof.Machine
end

