-- ==== Sys2Proof/Machine/Scalar.lean ====
section
/-! DEFINITION. The scalar unit (R155, R156): the compressed encodings, RV32IM, F and Zicsr, and the control and status
registers of Tables 6-15 to 6-18 (R182 to R184). What the RISC-V specifications define, and R155 names by reference, is
PRESUMED from them (log entry 21). -/
namespace Sys2Proof.Machine
open Sys2Proof

/-! ### Words and fields -/

/-- Two's complement value of the low `n` bits. -/
def sext (n v : Nat) : Int := sInt n v
/-- An integer as a 32-bit word. -/
def w32 (i : Int) : Nat := (i % 4294967296).toNat
def immI (w : Nat) : Int := sext 12 (bits w 20 12)
def immS (w : Nat) : Int := sext 12 (bits w 7 5 + bits w 25 7 * 32)
def immB (w : Nat) : Int := sext 13 (bits w 8 4 * 2 + bits w 25 6 * 32 + bits w 7 1 * 2048 + bits w 31 1 * 4096)
def immJ (w : Nat) : Int := sext 21 (bits w 21 10 * 2 + bits w 20 1 * 2048 + bits w 12 8 * 4096 + bits w 31 1 * 1048576)

/-- Assemble an I, S, R, B or J type word. -/
def encI (op f3 rd rs1 : Nat) (imm : Int) : Nat := op + rd * 128 + f3 * 4096 + rs1 * 32768 + (imm % 4096).toNat * 1048576
def encS (op f3 rs1 rs2 imm : Nat) : Nat :=
  op + imm % 32 * 128 + f3 * 4096 + rs1 * 32768 + rs2 * 1048576 + imm / 32 % 128 * 33554432
def encR (op f3 f7 rd rs1 rs2 : Nat) : Nat := op + rd * 128 + f3 * 4096 + rs1 * 32768 + rs2 * 1048576 + f7 * 33554432
def encB (f3 rs1 : Nat) (imm : Int) : Nat :=
  let m := (imm % 8192).toNat
  0x63 + bits m 11 1 * 128 + bits m 1 4 * 256 + f3 * 4096 + rs1 * 32768 + bits m 5 6 * 33554432 + bits m 12 1 * 2147483648
def encJ (rd : Nat) (imm : Int) : Nat :=
  let m := (imm % 2097152).toNat
  0x6F + rd * 128 + bits m 12 8 * 4096 + bits m 11 1 * 1048576 + bits m 1 10 * 2097152 + bits m 20 1 * 2147483648

/-- The 32-bit instruction that a compressed one stands for (RV32C with F); none for a reserved encoding. -/
def expandC (h : Nat) : Option Nat :=
  let f3 := bits h 13 3
  let rdp := 8 + bits h 2 3
  let rsp := 8 + bits h 7 3
  let rd := bits h 7 5
  let rs2 := bits h 2 5
  let imm6 := sext 6 (bits h 2 5 + bits h 12 1 * 32)
  let lw := bits h 6 1 * 4 + bits h 10 3 * 8 + bits h 5 1 * 64
  let jimm := sext 12 (bits h 3 3 * 2 + bits h 11 1 * 16 + bits h 2 1 * 32 + bits h 7 1 * 64 + bits h 6 1 * 128 +
    bits h 9 2 * 256 + bits h 8 1 * 1024 + bits h 12 1 * 2048)
  let bimm := sext 9 (bits h 3 2 * 2 + bits h 10 2 * 8 + bits h 2 1 * 32 + bits h 5 2 * 64 + bits h 12 1 * 256)
  let lwsp := bits h 4 3 * 4 + bits h 12 1 * 32 + bits h 2 2 * 64
  let swsp := bits h 9 4 * 4 + bits h 7 2 * 64
  match h % 4, f3 with
  | 0, 0 =>
    let n := bits h 6 1 * 4 + bits h 5 1 * 8 + bits h 11 2 * 16 + bits h 7 4 * 64
    if n = 0 then none else some (encI 0x13 0 rdp 2 n)
  | 0, 2 => some (encI 0x03 2 rdp rsp lw)
  | 0, 3 => some (encI 0x07 2 rdp rsp lw)
  | 0, 6 => some (encS 0x23 2 rsp rdp lw)
  | 0, 7 => some (encS 0x27 2 rsp rdp lw)
  | 1, 0 => some (encI 0x13 0 rd rd imm6)
  | 1, 1 => some (encJ 1 jimm)
  | 1, 2 => some (encI 0x13 0 rd 0 imm6)
  | 1, 3 =>
    if rd = 2 then
      let n := sext 10 (bits h 6 1 * 16 + bits h 2 1 * 32 + bits h 5 1 * 64 + bits h 3 2 * 128 + bits h 12 1 * 512)
      if n = 0 then none else some (encI 0x13 0 2 2 n)
    else if imm6 = 0 then none else some (0x37 + rd * 128 + (imm6 % 1048576).toNat * 4096)
  | 1, 4 =>
    (match bits h 10 2 with
    | 0 => if bitAt h 12 then none else some (encI 0x13 5 rsp rsp rs2)
    | 1 => if bitAt h 12 then none else some (encI 0x13 5 rsp rsp (1024 + rs2))
    | 2 => some (encI 0x13 7 rsp rsp imm6)
    | _ =>
      if bitAt h 12 then none
      else match bits h 5 2 with
        | 0 => some (encR 0x33 0 32 rsp rsp rdp)
        | 1 => some (encR 0x33 4 0 rsp rsp rdp)
        | 2 => some (encR 0x33 6 0 rsp rsp rdp)
        | _ => some (encR 0x33 7 0 rsp rsp rdp))
  | 1, 5 => some (encJ 0 jimm)
  | 1, 6 => some (encB 0 rsp bimm)
  | 1, 7 => some (encB 1 rsp bimm)
  | 2, 0 => if bitAt h 12 then none else some (encI 0x13 1 rd rd rs2)
  | 2, 2 => if rd = 0 then none else some (encI 0x03 2 rd 2 lwsp)
  | 2, 3 => some (encI 0x07 2 rd 2 lwsp)
  | 2, 4 =>
    if bitAt h 12 then
      (if rs2 = 0 then (if rd = 0 then some 0x00100073 else some (encI 0x67 0 1 rd 0)) else some (encR 0x33 0 0 rd rd rs2))
    else if rs2 = 0 then (if rd = 0 then none else some (encI 0x67 0 0 rd 0))
    else some (encR 0x33 0 0 rd 0 rs2)
  | 2, 6 => some (encS 0x23 2 2 rs2 swsp)
  | 2, 7 => some (encS 0x27 2 2 rs2 swsp)
  | _, _ => none

/-- The 32-bit form of a fetched instruction. -/
def expand (w len : Nat) : Option Nat := if len = 2 then expandC w else some w

/-! ### Integer arithmetic (RV32IM) -/

/-- OP and OP-IMM results; `alt` is bit 30 where it selects SUB or SRA. -/
def aluOp (f3 : Nat) (alt : Bool) (a b : Nat) : Nat :=
  match f3 with
  | 0 => if alt then (a + 2 ^ 32 - b) % 2 ^ 32 else (a + b) % 2 ^ 32
  | 1 => a * 2 ^ (b % 32) % 2 ^ 32
  | 2 => b2n (decide (sext 32 a < sext 32 b))
  | 3 => b2n (decide (a < b))
  | 4 => a ^^^ b
  | 5 => if alt then w32 (sext 32 a / (2 ^ (b % 32) : Nat)) else a / 2 ^ (b % 32)
  | 6 => a ||| b
  | _ => a &&& b

/-- Signed quotient and remainder truncated toward zero, with the RISC-V results for division by zero. -/
def divTrunc (n : Nat) (a b : Nat) : Nat × Nat :=
  let x := sext n a
  let y := sext n b
  if b % 2 ^ n = 0 then (2 ^ n - 1, a % 2 ^ n)
  else (((x.tdiv y) % (2 ^ n : Nat)).toNat, ((x.tmod y) % (2 ^ n : Nat)).toNat)

def mulOp (f3 a b : Nat) : Nat :=
  match f3 with
  | 0 => a * b % 2 ^ 32
  | 1 => w32 (sext 32 a * sext 32 b / 4294967296)
  | 2 => w32 (sext 32 a * (b : Int) / 4294967296)
  | 3 => a * b / 2 ^ 32
  | 4 => (divTrunc 32 a b).1
  | 5 => if b = 0 then 2 ^ 32 - 1 else a / b
  | 6 => (divTrunc 32 a b).2
  | _ => if b = 0 then a else a % b

/-! ### FP32 with the RISC-V rounding modes (R155) -/

/-- fflags bits. -/
def flNX : Nat := 1
def flUF : Nat := 2
def flOF : Nat := 4
def flDZ : Nat := 8
def flNV : Nat := 16

/-- Round the magnitude n / d under a RISC-V rounding mode: 0 RNE, 1 RTZ, 2 RDN, 3 RUP, 4 RMM. -/
def rvRoundNat (rm : Nat) (neg : Bool) (n d : Nat) : Nat :=
  let q := n / d
  let m := n % d
  if m = 0 then q
  else match rm with
    | 0 => if 2 * m < d then q else if d < 2 * m then q + 1 else q + q % 2
    | 1 => q
    | 2 => if neg then q + 1 else q
    | 3 => if neg then q else q + 1
    | _ => if 2 * m < d then q else q + 1

/-- Round an exact value to FP32 with its exception flags; tininess is detected after rounding (R82). -/
def rvRound (rm : Nat) : Val → Nat × Nat
  | .nan => (f32Nan, 0)
  | .inf neg => (withSign 0 neg (fmtInf 0), 0)
  | .fin neg num den e =>
    if num = 0 then (withSign 0 neg 0, 0)
    else
      let k := fracLog2 num den + e
      let q := max k (-126) - 23
      let n := shl num (e - q)
      let d := shl den (q - e)
      let m := rvRoundNat rm neg n d
      let inexact := n % d ≠ 0
      let enc := if k < -126 then m else ((k + 127).toNat * 2 ^ 23 + m) - 2 ^ 23
      let q' := k - 23
      let tiny := decide (k < -126) &&
        !(k == -127 && rvRoundNat rm neg (shl num (e - q')) (shl den (q' - e)) == 2 ^ 24)
      if 0x7F800000 ≤ enc then
        let toInf := rm = 0 ∨ rm = 4 ∨ (rm = 2 ∧ neg) ∨ (rm = 3 ∧ !neg)
        (withSign 0 neg (if toInf then 0x7F800000 else 0x7F7FFFFF), flOF + flNX)
      else (withSign 0 neg enc, if inexact then flNX + (if tiny then flUF else 0) else 0)

/-- A NaN encoding whose top fraction bit is 0. -/
def isSnan (a : Nat) : Bool := (f32 a).isNan && !bitAt a 22

/-- The sum with the sign of an exact zero that the rounding mode gives. -/
def addVal (rm : Nat) (a b : Val) : Val :=
  let r := a.add b
  if r.isZero then .fin (if a.neg == b.neg then a.neg else rm == 2) 0 1 0 else r

/-- A result with NV when a NaN came of inputs none of which is one, or an input is a signalling NaN. -/
def rvResult (rm : Nat) (ins : List Nat) (v : Val) (extra : Nat) : Nat × Nat :=
  let r := rvRound rm v
  let nv := ins.any isSnan || (v.isNan && !(ins.any (fun a => (f32 a).isNan)))
  (r.1, r.2 ||| (if nv then flNV else extra))

def rvAdd (rm a b : Nat) : Nat × Nat := rvResult rm [a, b] (addVal rm (f32 a) (f32 b)) 0
def rvSub (rm a b : Nat) : Nat × Nat := rvResult rm [a, b] (addVal rm (f32 a) (f32 b).flip) 0
def rvMul (rm a b : Nat) : Nat × Nat := rvResult rm [a, b] ((f32 a).mul (f32 b)) 0
def rvDiv (rm a b : Nat) : Nat × Nat :=
  let dz := (f32 a).isFin && !(f32 a).isZero && (f32 b).isZero
  rvResult rm [a, b] ((f32 a).div (f32 b)) (if dz then flDZ else 0)
/-- ±(a × b) ± c; 0 × ∞ raises NV whatever c is. -/
def rvFma (rm : Nat) (negP negC : Bool) (a b c : Nat) : Nat × Nat :=
  let p := (f32 a).mul (f32 b)
  let p := if negP then p.flip else p
  let c' := if negC then (f32 c).flip else f32 c
  let r := rvResult rm [a, b, c] (addVal rm p c') 0
  if p.isNan && !(f32 a).isNan && !(f32 b).isNan then (r.1, r.2 ||| flNV) else r

/-- Integer square root by bits, from bit `f` down. -/
def sqrtBits (n : Nat) : Nat → Nat → Nat
  | 0, r => r
  | f + 1, r => let c := r + 2 ^ f; sqrtBits n f (if c * c ≤ n then c else r)

def rvSqrt (rm a : Nat) : Nat × Nat :=
  match f32 a with
  | .nan => (f32Nan, if isSnan a then flNV else 0)
  | .inf neg => if neg then (f32Nan, flNV) else (f32Inf, 0)
  | .fin neg num _ e =>
    if num = 0 then (a, 0)
    else if neg then (f32Nan, flNV)
    else
      let odd := (e % 2).toNat
      let n := num * 2 ^ (64 + odd)
      let r := sqrtBits n 48 0
      let x := (e - odd) / 2 - 32
      if r * r = n then rvRound rm (.fin false r 1 x) else rvRound rm (.fin false (2 * r + 1) 1 (x - 1))

/-- FMIN and FMAX: −0 lies below +0, and a single NaN gives the other operand. -/
def rvMinMax (isMax : Bool) (a b : Nat) : Nat × Nat :=
  let fl := if isSnan a || isSnan b then flNV else 0
  let x := f32 a
  let y := f32 b
  if x.isNan && y.isNan then (f32Nan, fl)
  else if x.isNan then (b, fl)
  else if y.isNan then (a, fl)
  else
    let aLess := x.lt y || (x.eq y && x.neg && !y.neg)
    (if aLess == isMax then b else a, fl)

/-- Comparison: 0 FLE, 1 FLT, 2 FEQ. -/
def rvCmp (k a b : Nat) : Nat × Nat :=
  let n := (f32 a).isNan || (f32 b).isNan
  let s := isSnan a || isSnan b
  match k with
  | 0 => (b2n ((f32 a).le (f32 b)), if n then flNV else 0)
  | 1 => (b2n ((f32 a).lt (f32 b)), if n then flNV else 0)
  | _ => (b2n ((f32 a).eq (f32 b)), if s then flNV else 0)

/-- FP32 to an integer of `n` bits, signed or not, saturating with NV. -/
def rvToInt (rm n : Nat) (signed : Bool) (a : Nat) : Nat × Nat :=
  let hi : Int := if signed then (2 ^ (n - 1) : Nat) - 1 else (2 ^ n : Nat) - 1
  let lo : Int := if signed then -((2 ^ (n - 1) : Nat) : Int) else 0
  let word := fun (i : Int) => (i % ((2 ^ n : Nat) : Int)).toNat
  match f32 a with
  | .nan => (word hi, flNV)
  | .inf neg => (word (if neg then lo else hi), flNV)
  | .fin neg num den e =>
    let p := shl num e
    let d := shl den (-e)
    let m := rvRoundNat rm neg p d
    let v : Int := if neg then -(m : Int) else m
    if hi < v then (word hi, flNV) else if v < lo then (word lo, flNV)
    else (word v, if p % d ≠ 0 then flNX else 0)

/-- An integer to FP32. -/
def rvFromInt (rm : Nat) (i : Int) : Nat × Nat := rvRound rm (Val.ofInt i)

/-- FCLASS. -/
def rvClass (a : Nat) : Nat :=
  let neg := bitAt a 31
  match f32 a with
  | .nan => if isSnan a then 256 else 512
  | .inf n => if n then 1 else 128
  | .fin _ num _ _ =>
    if num = 0 then (if neg then 8 else 16)
    else if bits a 23 8 = 0 then (if neg then 4 else 32)
    else (if neg then 2 else 64)

/-- Sign injection: 0 FSGNJ, 1 FSGNJN, 2 FSGNJX. -/
def rvSgnj (k a b : Nat) : Nat :=
  let s := match k with
    | 0 => bitAt b 31
    | 1 => !bitAt b 31
    | _ => bitAt a 31 != bitAt b 31
  a % 2 ^ 31 + b2n s * 2 ^ 31

/-- The rounding mode of an instruction: 7 takes frm; none when it is reserved. -/
def rmOf (k : Core) (rm : Nat) : Option Nat :=
  let r := if rm = 7 then k.frm else rm
  if r ≤ 4 then some r else none

/-! ### Control and status registers (R182 to R184) -/

/-- ACCn_STATE (Table 4-4). -/
def Acc.stateWord (r : Acc) : Nat := b2n r.fp16 + 2 * b2n r.isOpen + (if r.isOpen then 4 * r.groups else 0)
/-- CASn_STATE (Table 5-4). -/
def Acc.casWord (r : Acc) : Nat :=
  b2n r.redOpen + 2 * b2n r.rootReady + 4 * b2n r.failed + 8 * b2n r.exportFault + 16 * b2n (decide (2 ^ r.g < r.nb)) +
  32 * b2n r.preSlot.isSome + 256 * r.nodes.length

namespace State

/-- A custom CSR of Table 6-15; none for an unlisted address. -/
def customCsr (s : State) (i n : Nat) : Option Nat :=
  let k := s.core i
  match n with
  | 0x800 => some k.fmtFlags.word
  | 0x801 => some k.absLimit.toNat
  | 0x802 => some k.lossScale.toNat
  | 0x803 => some k.tepiScale.toNat
  | 0x804 => some k.tepiTable
  | 0x805 => some k.tepiSegs
  | 0x806 => some (k.srSeed.toNat % 2 ^ 32)
  | 0x807 => some (k.srSeed.toNat / 2 ^ 32)
  | 0x808 => some k.srTid.toNat
  | 0x809 => some (k.srIdx % 2 ^ 32)
  | 0x80A => some (k.srIdx / 2 ^ 32)
  | 0x80B => some k.casWait
  | 0x80C => some k.aorTable
  | 0x80D => some k.aorSelf
  | 0x80E => some k.aorCount
  | 0x80F => some (k.resRetried + k.resFaults * 2 ^ 16 + b2n k.resPending * 2 ^ 24 + k.resAcc * 2 ^ 25)
  | 0x810 => some k.ktvec.toNat
  | 0x811 => some k.kepc.toNat
  | 0x812 => some (k.kcause + 64 * b2n k.kshort + 2 ^ 31 * b2n k.kactive)
  | 0x813 => some k.ktval.toNat
  | 0x814 => some k.ktval2.toNat
  | 0x815 => some (k.remFirst + k.remCount * 2 ^ 16)
  | 0xCD4 => some (b2n k.aor.isOpen + 2 * b2n k.aor.done + 4 * b2n k.aor.expired + k.aor.redId * 2 ^ 16)
  | 0xCD5 => some (s.coreOf i + i * 2 ^ 13)
  | 0xCD6 =>
    let c := s.cluster (clusterOf i)
    some ((if c.assigned then c.saggar + 64 else 0) + k.job * 2 ^ 16)
  | 0xCD7 => some k.coreEpoch.toNat
  | 0xCD8 => some ((s.nowUs - k.usBase) % 2 ^ 32)
  | n =>
    if 0x818 ≤ n ∧ n ≤ 0x81F then
      let r := k.apers.get (fun _ => Aper.bisque) (n - 0x818)
      some (r.base + b2n r.epochCheck * 2 ^ 24 + b2n r.enable * 2 ^ 25)
    else if 0xCC0 ≤ n ∧ n ≤ 0xCD3 then
      let r := k.acc (n % 4)
      match (n - 0xCC0) / 4 with
      | 0 => some r.stateWord
      | 1 => some r.casWord
      | 2 => some r.redId
      | 3 => some r.nb
      | _ => some r.next
    else none

/-- Write a custom CSR: `v` is the value that the instruction forms, `m` the operand that clears W1C bits (R183). -/
def writeCustom (s : State) (i n v m : Nat) : State :=
  s.modCore i (fun k =>
    match n with
    | 0x800 => { k with fmtFlags := k.fmtFlags.clearBits m }
    | 0x801 => { k with absLimit := BitVec.ofNat 32 v }
    | 0x802 => { k with lossScale := BitVec.ofNat 32 v }
    | 0x803 => { k with tepiScale := BitVec.ofNat 32 v }
    | 0x804 => { k with tepiTable := v % 2 ^ 19 }
    | 0x805 => { k with tepiSegs := v % 64 }
    | 0x806 => { k with srSeed := BitVec.ofNat 64 (v + k.srSeed.toNat / 2 ^ 32 * 2 ^ 32) }
    | 0x807 => { k with srSeed := BitVec.ofNat 64 (k.srSeed.toNat % 2 ^ 32 + v * 2 ^ 32) }
    | 0x808 => { k with srTid := BitVec.ofNat 32 v }
    | 0x809 => { k with srIdx := v + k.srIdx / 2 ^ 32 * 2 ^ 32 }
    | 0x80A => { k with srIdx := k.srIdx % 2 ^ 32 + v % 2 ^ 16 * 2 ^ 32 }
    | 0x80B => { k with casWait := v % 2 ^ 20 }
    | 0x80C => { k with aorTable := v % 2 ^ 19 }
    | 0x80D => { k with aorSelf := v % 2 ^ 16 }
    | 0x80E => { k with aorCount := v % 2 ^ 17 }
    | 0x80F => { k with resPending := k.resPending && !bitAt m 24 }
    | 0x810 => { k with ktvec := BitVec.ofNat 32 (v / 4 * 4) }
    | 0x811 => { k with kepc := BitVec.ofNat 32 v }
    | 0x812 => { k with kcause := v % 64 }
    | 0x813 => { k with ktval := BitVec.ofNat 32 v }
    | 0x814 => { k with ktval2 := BitVec.ofNat 32 v }
    | 0x815 => { k with remFirst := v % 2 ^ 16, remCount := v / 2 ^ 16 % 2 ^ 16 }
    | _ => { k with apers := k.apers.put (fun _ => Aper.bisque) (n - 0x818)
                      { base := v % 2 ^ 24, epochCheck := bitAt v 24, enable := bitAt v 25 } })

/-- mstatus as kept: MIE, MPIE and MPP. -/
def mstatusMask (v : Nat) : Nat := (v &&& 0x88) + (if bits v 11 2 = 3 then 0x1800 else 0)

/-- A standard CSR of RISC-V (PRESUMED); none when it does not exist. -/
def stdCsr (s : State) (i n : Nat) : Option Nat :=
  let k := s.core i
  match n with
  | 0x001 => some k.fflags
  | 0x002 => some k.frm
  | 0x003 => some (k.fflags + 32 * k.frm)
  | 0x008 => some k.vstart
  | 0x009 => some (b2n k.vxsat)
  | 0x00A => some k.vxrm
  | 0x00F => some (b2n k.vxsat + 2 * k.vxrm)
  | 0xC20 => some k.vl
  | 0xC21 => some k.vtype.toNat
  | 0xC22 => some 256
  | 0x300 => some k.mstatus.toNat
  | 0x301 => some 0x40101124
  | 0x304 => some k.mie.toNat
  | 0x305 => some k.mtvec.toNat
  | 0x340 => some k.mscratch.toNat
  | 0x341 => some k.mepc.toNat
  | 0x342 => some k.mcause.toNat
  | 0x343 => some k.mtval.toNat
  | 0x344 => some 0
  | 0xB00 | 0xB02 | 0xB80 | 0xB82 => some ((Config.freeWord s.free).toNat % 2 ^ 32)
  | 0xF14 => some i
  | n =>
    if n ∈ [0x306, 0x310, 0x320, 0xF11, 0xF12, 0xF13, 0xF15] ∨ (0x323 ≤ n ∧ n ≤ 0x33F) ∨ (0xB03 ≤ n ∧ n ≤ 0xB1F) ∨
        (0xB83 ≤ n ∧ n ≤ 0xB9F) then some 0 else none

def writeStd (s : State) (i n v : Nat) : State :=
  s.modCore i (fun k =>
    match n with
    | 0x001 => { k with fflags := v % 32 }
    | 0x002 => { k with frm := v % 8 }
    | 0x003 => { k with fflags := v % 32, frm := bits v 5 3 }
    | 0x008 => { k with vstart := v % 2048 }
    | 0x009 => { k with vxsat := bitAt v 0 }
    | 0x00A => { k with vxrm := v % 4 }
    | 0x00F => { k with vxsat := bitAt v 0, vxrm := bits v 1 2 }
    | 0x300 => { k with mstatus := BitVec.ofNat 32 (mstatusMask v) }
    | 0x304 => { k with mie := BitVec.ofNat 32 (v &&& 0x888) }
    | 0x305 => { k with mtvec := BitVec.ofNat 32 (v / 4 * 4) }
    | 0x340 => { k with mscratch := BitVec.ofNat 32 v }
    | 0x341 => { k with mepc := BitVec.ofNat 32 (v / 2 * 2) }
    | 0x342 => { k with mcause := BitVec.ofNat 32 v }
    | 0x343 => { k with mtval := BitVec.ofNat 32 v }
    | _ => k)

/-- The current value of a CSR that exists and that the mode may reach. -/
def csr (s : State) (i n : Nat) : Option Nat :=
  if (s.core i).user ∧ bits n 8 2 ≠ 0 then none
  else match s.customCsr i n with
    | some v => some v
    | none => s.stdCsr i n

/-- A CSR instruction writes: CSRRW always, the others when their operand field is not 0. -/
def csrWrites (w : Nat) : Bool := bits w 12 2 == 1 || bits w 15 5 != 0

/-- A CSR instruction that writes a register of 0x800 to 0x8FF. -/
def isCustomWrite (w : Nat) : Bool :=
  w % 128 == 0x73 && bits w 12 2 != 0 && csrWrites w && decide (0x800 ≤ bits w 20 12 ∧ bits w 20 12 ≤ 0x8FF)

/-- A CSR instruction (R183): it returns the value before the write. -/
def csrEff (s : State) (i w : Nat) : Eff :=
  let n := bits w 20 12
  let k := s.core i
  let op := if bitAt w 14 then bits w 15 5 else k.getX (bits w 15 5)
  match s.csr i n with
  | none => illegal s w
  | some old =>
    if csrWrites w ∧ bits n 10 2 = 3 then illegal s w
    else
      let v := match bits w 12 2 with
        | 1 => op
        | 2 => old ||| op
        | _ => old &&& (2 ^ 32 - 1 - op)
      let t := if csrWrites w then (if 0x800 ≤ n ∧ n ≤ 0x8FF then s.writeCustom i n v op else s.writeStd i n v) else s
      (if bits n 8 4 = 0xB then t.draw else t).retire i 4 (fun k => k.setX (bits w 7 5) old)

/-! ### Loads and stores -/

/-- Load `n` bytes at a core address and give the value to `put`; a misaligned address takes cause 4 (R159). -/
def loadEff (s : State) (i a n len : Nat) (got : List (Nat × Byte)) (put : Core → Nat → Core) : Eff :=
  if a % n ≠ 0 then .trap s 4 a 0
  else
    let r := s.coreRead i a n got
    match r.2 with
    | .ok bs => r.1.retire i len (fun k => put k (leNat bs))
    | .trap c t => .trap r.1 c t 0
    | .far => .far s [(a, n)]

/-- Pieces of a store that would cover part of an uncorrectable unit of the core's own stores (R185). -/
def partBad (s : State) (i : Nat) (l : List (Nat × List Byte)) : Option (Nat × List Byte) :=
  l.find? (fun q => match s.place i true false q.1 q.2.length with
    | some (.own p) => (s.poison ++ s.latentUe).any (fun k =>
        decide (p < k + 8 ∧ k < p + q.2.length) && !decide (p ≤ k ∧ k + 8 ≤ p + q.2.length))
    | _ => false)

/-- Write pieces that the core may all write; the whole store is refused when one piece covers part of a poisoned unit. -/
def storeEff (s : State) (i len : Nat) (l : List (Nat × List Byte)) : Eff :=
  match l.find? (fun q => (s.place i true false q.1 q.2.length).isNone) with
  | some q => .trap s 7 q.1 0
  | none =>
    match s.partBad i l with
    | some q => s.coreWrite i q.1 q.2
    | none =>
      match s.coreWrites i l with
      | .done s p => .done (s.modCore i (fun k => k.adv len)) p
      | e => e

/-- Jump. -/
def jump (s : State) (i dest : Nat) (f : Core → Core) : Eff :=
  .done (s.modCore i (fun k => { f k with pc := BitVec.ofNat 32 dest })) false

/-- Set fflags and write a result. -/
def fpDone (s : State) (i len : Nat) (r : Nat × Nat) (put : Core → Nat → Core) : Eff :=
  s.retire i len (fun k => { put k r.1 with fflags := k.fflags ||| r.2 })

/-! ### Floating point (F) -/

def fpEff (s : State) (i w w0 len : Nat) : Eff :=
  let k := s.core i
  let rd := bits w 7 5
  let a := k.getF (bits w 15 5)
  let b := k.getF (bits w 20 5)
  let f3 := bits w 12 3
  let toF := fun r => s.fpDone i len r (fun k v => k.setF rd v)
  let toX := fun r => s.fpDone i len r (fun k v => k.setX rd v)
  let rounded := fun (f : Nat → Nat × Nat) (fin : Nat × Nat → Eff) =>
    match rmOf k f3 with
    | some rm => fin (f rm)
    | none => illegal s w0
  match bits w 25 7 with
  | 0x00 => rounded (fun rm => rvAdd rm a b) toF
  | 0x04 => rounded (fun rm => rvSub rm a b) toF
  | 0x08 => rounded (fun rm => rvMul rm a b) toF
  | 0x0C => rounded (fun rm => rvDiv rm a b) toF
  | 0x2C => if bits w 20 5 = 0 then rounded (fun rm => rvSqrt rm a) toF else illegal s w0
  | 0x10 => if f3 ≤ 2 then toF (rvSgnj f3 a b, 0) else illegal s w0
  | 0x14 => if f3 ≤ 1 then toF (rvMinMax (f3 == 1) a b) else illegal s w0
  | 0x50 => if f3 ≤ 2 then toX (rvCmp f3 a b) else illegal s w0
  | 0x60 => if bits w 20 5 ≤ 1 then rounded (fun rm => rvToInt rm 32 (bits w 20 5 == 0) a) toX else illegal s w0
  | 0x68 =>
    let x := k.getX (bits w 15 5)
    if bits w 20 5 ≤ 1 then rounded (fun rm => rvFromInt rm (if bits w 20 5 = 0 then sext 32 x else (x : Int))) toF
    else illegal s w0
  | 0x70 =>
    if bits w 20 5 ≠ 0 then illegal s w0
    else if f3 = 0 then toX (a, 0)
    else if f3 = 1 then toX (rvClass a, 0)
    else illegal s w0
  | 0x78 => if bits w 20 5 = 0 ∧ f3 = 0 then toF (k.getX (bits w 15 5), 0) else illegal s w0
  | _ => illegal s w0

/-- FMADD, FMSUB, FNMSUB, FNMADD. -/
def fmaEff (s : State) (i w w0 len : Nat) (negP negC : Bool) : Eff :=
  let k := s.core i
  match rmOf k (bits w 12 3) with
  | some rm =>
    if bits w 25 2 = 0 then
      s.fpDone i len (rvFma rm negP negC (k.getF (bits w 15 5)) (k.getF (bits w 20 5)) (k.getF (bits w 27 5)))
        (fun k v => k.setF (bits w 7 5) v)
    else illegal s w0
  | none => illegal s w0

/-! ### SYSTEM -/

/-- MRET (PRESUMED from the RISC-V privileged specification). -/
def mretEff (s : State) (i : Nat) : Eff :=
  .done (s.modCore i (fun k =>
    let m := k.mstatus.toNat
    { k with
      pc := k.mepc, user := bits m 11 2 != 3
      mstatus := BitVec.ofNat 32 (bits m 7 1 * 8 + 0x80) })) false

/-- ECALL, EBREAK, MRET, WFI and the CSR instructions. -/
def systemEff (s : State) (i w w0 len : Nat) : Eff :=
  let k := s.core i
  if bits w 12 3 = 0 then
    if w = 0x00000073 then .trap s (if k.user then 8 else 11) 0 0
    else if w = 0x00100073 then .trap s 3 0 0
    else if w = 0x10500073 then s.retire i len id
    else if w = 0x30200073 ∧ !k.user then s.mretEff i
    else illegal s w0
  else if bits w 12 2 = 0 then illegal s w0
  else s.csrEff i w

/-! ### The scalar unit -/

/-- An RV32IMC, Zicsr or F instruction in its 32-bit form `w`; `w0` is the word as fetched. FENCE and FENCE.I have
commands of their own. -/
def scalarEff (s : State) (i w w0 len : Nat) (got : List (Nat × Byte)) : Eff :=
  let k := s.core i
  let pc := k.pc.toNat
  let rd := bits w 7 5
  let a := k.getX (bits w 15 5)
  let b := k.getX (bits w 20 5)
  let f3 := bits w 12 3
  let next := (pc + len) % 2 ^ 32
  match w % 128 with
  | 0x37 => s.retire i len (fun k => k.setX rd (w / 4096 * 4096))
  | 0x17 => s.retire i len (fun k => k.setX rd ((pc + w / 4096 * 4096) % 2 ^ 32))
  | 0x6F => s.jump i (w32 (pc + immJ w)) (fun k => k.setX rd next)
  | 0x67 => if f3 = 0 then s.jump i (w32 (a + immI w) / 2 * 2) (fun k => k.setX rd next) else illegal s w0
  | 0x63 =>
    let taken : Option Bool := match f3 with
      | 0 => some (a == b)
      | 1 => some (a != b)
      | 4 => some (decide (sext 32 a < sext 32 b))
      | 5 => some (decide (sext 32 b ≤ sext 32 a))
      | 6 => some (decide (a < b))
      | 7 => some (decide (b ≤ a))
      | _ => none
    (match taken with
    | none => illegal s w0
    | some t => s.jump i (if t then w32 (pc + immB w) else next) id)
  | 0x03 =>
    let ad := w32 (a + immI w)
    (match f3 with
    | 0 => s.loadEff i ad 1 len got (fun k v => k.setX rd (w32 (sext 8 v)))
    | 1 => s.loadEff i ad 2 len got (fun k v => k.setX rd (w32 (sext 16 v)))
    | 2 => s.loadEff i ad 4 len got (fun k v => k.setX rd v)
    | 4 => s.loadEff i ad 1 len got (fun k v => k.setX rd v)
    | 5 => s.loadEff i ad 2 len got (fun k v => k.setX rd v)
    | _ => illegal s w0)
  | 0x23 =>
    let ad := w32 (a + immS w)
    if 2 < f3 then illegal s w0
    else if ad % 2 ^ f3 ≠ 0 then .trap s 6 ad 0
    else s.storeEff i len [(ad, leBytes (2 ^ f3) b)]
  | 0x13 =>
    if f3 = 1 ∧ bits w 25 7 ≠ 0 ∨ f3 = 5 ∧ bits w 25 7 ≠ 0 ∧ bits w 25 7 ≠ 32 then illegal s w0
    else s.retire i len (fun k => k.setX rd (aluOp f3 (f3 == 5 && bitAt w 30) a (w32 (immI w))))
  | 0x33 =>
    (match bits w 25 7 with
    | 0 => s.retire i len (fun k => k.setX rd (aluOp f3 false a b))
    | 32 => if f3 = 0 ∨ f3 = 5 then s.retire i len (fun k => k.setX rd (aluOp f3 true a b)) else illegal s w0
    | 1 => s.retire i len (fun k => k.setX rd (mulOp f3 a b))
    | _ => illegal s w0)
  | 0x73 => s.systemEff i w w0 len
  | 0x07 => if f3 = 2 then s.loadEff i (w32 (a + immI w)) 4 len got (fun k v => k.setF rd v) else illegal s w0
  | 0x27 =>
    let ad := w32 (a + immS w)
    if f3 ≠ 2 then illegal s w0
    else if ad % 4 ≠ 0 then .trap s 6 ad 0
    else s.storeEff i len [(ad, leBytes 4 (k.getF (bits w 20 5)))]
  | 0x43 => s.fmaEff i w w0 len false false
  | 0x47 => s.fmaEff i w w0 len false true
  | 0x4B => s.fmaEff i w w0 len true false
  | 0x4F => s.fmaEff i w w0 len true true
  | 0x53 => s.fpEff i w w0 len
  | _ => illegal s w0

end State
end Sys2Proof.Machine
end

