-- ==== Sys2Proof/Machine/Vector.lean ====
section
/-! DEFINITION. The vector unit (R155): Zve32f of the RISC-V V 1.0 specification with VLEN 2,048 and ELEN 32, with the
format flags of R93 and R94. What the V specification defines is PRESUMED from it (log entry 21); masked-off and tail
elements keep their values. -/
namespace Sys2Proof.Machine
open Sys2Proof

/-! ### Configuration -/

/-- LMUL × 8 of a vlmul code; 0 when reserved. -/
def lmul8 : Nat → Nat
  | 0 => 8 | 1 => 16 | 2 => 32 | 3 => 64 | 5 => 1 | 6 => 2 | 7 => 4 | _ => 0

/-- The settings of vtype and vl that an operation uses: element bytes and LMUL × 8. -/
structure VCfg where
  sew : Nat
  lm : Nat
  vl : Nat
  start : Nat
deriving DecidableEq, Repr

/-- Largest vl of a vtype, 0 when it is not supported. -/
def vlmaxOf (vtype : Nat) : Nat :=
  let l := lmul8 (bits vtype 0 3)
  let e := bits vtype 3 3
  if l = 0 ∨ 2 < e ∨ vtype / 256 ≠ 0 ∨ 32 * l < 8 * 8 * 2 ^ e ∧ l < 8 then 0 else 2048 * l / 8 / (8 * 2 ^ e)

def Core.vcfg (k : Core) : Option VCfg :=
  if vlmaxOf k.vtype.toNat = 0 then none
  else some { sew := 2 ^ bits k.vtype.toNat 3 3, lm := lmul8 (bits k.vtype.toNat 0 3), vl := k.vl, start := k.vstart }

/-- Registers of a group of EMUL × 8. -/
def groupLen (e : Nat) : Nat := max 1 (e / 8)
/-- A group is well placed. -/
def okReg (e r : Nat) : Bool := decide (1 ≤ e ∧ e ≤ 64 ∧ r % groupLen e = 0 ∧ r + groupLen e ≤ 32)
/-- Two groups share no register. -/
def apart (e r e' r' : Nat) : Bool := decide (r + groupLen e ≤ r' ∨ r' + groupLen e' ≤ r)
/-- A destination of element bytes `dw` may overlap a source of element bytes `sw` (V 1.0, 5.2). -/
def okOverlap (dw de d sw se s : Nat) : Bool :=
  apart de d se s || dw == sw || (decide (dw < sw) && d == s) ||
  (decide (sw < dw ∧ 8 ≤ se) && s + groupLen se == d + groupLen de)

namespace Core

/-- Element `n` of `e` bytes of the group that starts at a register. -/
def velem (k : Core) (e r n : Nat) : Nat := leNat ((List.range e).map (fun b => k.getVByte (r * 256 + n * e + b)))
def setVelem (k : Core) (e r n v : Nat) : Core :=
  (leBytes e v).zipIdx.foldl (fun k p => k.setVByte (r * 256 + n * e + p.2) p.1) k
def vbit (k : Core) (r n : Nat) : Bool := bitAt (k.getVByte (r * 256 + n / 8)).toNat (n % 8)
def setVbit (k : Core) (r n : Nat) (b : Bool) : Core :=
  let o := r * 256 + n / 8
  let v := (k.getVByte o).toNat
  k.setVByte o (BitVec.ofNat 8 (v - b2n (bitAt v (n % 8)) * 2 ^ (n % 8) + b2n b * 2 ^ (n % 8)))
/-- Element n takes part: unmasked, or its bit of v0 is 1. -/
def vact (k : Core) (vm : Bool) (n : Nat) : Bool := vm || k.vbit 0 n

end Core

/-- Body elements from vstart to vl − 1. -/
def VCfg.body (c : VCfg) : List Nat := span c.start (c.vl - c.start)

/-- Finish a vector instruction: vstart becomes 0. -/
def State.vdone (s : State) (i len : Nat) (f : Core → Core) : Eff := s.retire i len (fun k => { f k with vstart := 0 })

/-! ### Integer elements -/

/-- Fixed-point rounding of `v / 2^d` under vxrm. -/
def vround (rm : Nat) (v : Int) (d : Nat) : Int :=
  let q := v / (2 ^ d : Nat)
  let m := (v % ((2 ^ d : Nat) : Int)).toNat
  let half := 2 ^ d / 2
  let up := match rm with
    | 0 => decide (half ≤ m ∧ 0 < d)
    | 1 => decide (0 < d) && (decide (half < m) || (m == half && q % 2 != 0))
    | 2 => false
    | _ => m != 0 && q % 2 == 0
  if up then q + 1 else q

/-- Saturate to `n` bits: the value and whether it was changed. -/
def vsat (n : Nat) (signed : Bool) (v : Int) : Nat × Bool :=
  let hi : Int := if signed then (2 ^ (n - 1) : Nat) - 1 else (2 ^ n : Nat) - 1
  let lo : Int := if signed then -((2 ^ (n - 1) : Nat) : Int) else 0
  let r := if hi < v then hi else if v < lo then lo else v
  ((r % ((2 ^ n : Nat) : Int)).toNat, r != v)

def wrapN (n : Nat) (v : Int) : Nat := (v % ((2 ^ n : Nat) : Int)).toNat

/-- Single-width OPI operations: `n` bits, vs2, operand 1, vxrm; the result and saturation. `x` tells VX, `imm` VI. -/
def opiFn (f6 : Nat) (n a b rm : Nat) : Option (Nat × Bool) :=
  let sa := sext n a
  let sb := sext n b
  let sh := b % n
  let r := fun (v : Nat) => some (v, false)
  match f6 with
  | 0x00 => r ((a + b) % 2 ^ n)
  | 0x02 => r ((a + 2 ^ n - b) % 2 ^ n)
  | 0x03 => r ((b + 2 ^ n - a) % 2 ^ n)
  | 0x04 => r (min a b)
  | 0x05 => r (if sa < sb then a else b)
  | 0x06 => r (max a b)
  | 0x07 => r (if sa < sb then b else a)
  | 0x09 => r (a &&& b)
  | 0x0A => r (a ||| b)
  | 0x0B => r (a ^^^ b)
  | 0x20 => some (vsat n false ((a : Int) + b))
  | 0x21 => some (vsat n true (sa + sb))
  | 0x22 => some (vsat n false ((a : Int) - b))
  | 0x23 => some (vsat n true (sa - sb))
  | 0x25 => r (a * 2 ^ sh % 2 ^ n)
  | 0x27 => some (vsat n true (vround rm (sa * sb) (n - 1)))
  | 0x28 => r (a / 2 ^ sh)
  | 0x29 => r (wrapN n (sa / ((2 ^ sh : Nat) : Int)))
  | 0x2A => r (wrapN n (vround rm (a : Int) sh))
  | 0x2B => r (wrapN n (vround rm sa sh))
  | _ => none

/-- Comparisons of OPI. -/
def opiCmp (f6 n a b : Nat) : Option Bool :=
  match f6 with
  | 0x18 => some (a == b)
  | 0x19 => some (a != b)
  | 0x1A => some (decide (a < b))
  | 0x1B => some (decide (sext n a < sext n b))
  | 0x1C => some (decide (a ≤ b))
  | 0x1D => some (decide (sext n a ≤ sext n b))
  | 0x1E => some (decide (b < a))
  | 0x1F => some (decide (sext n b < sext n a))
  | _ => none

/-- Single-width OPM operations; `d` is the old destination element. -/
def opmFn (f6 n a b d rm : Nat) : Option Nat :=
  let sa := sext n a
  let sb := sext n b
  match f6 with
  | 0x08 => some (wrapN n (vround rm ((a : Int) + b) 1))
  | 0x09 => some (wrapN n (vround rm (sa + sb) 1))
  | 0x0A => some (wrapN n (vround rm ((a : Int) - b) 1))
  | 0x0B => some (wrapN n (vround rm (sa - sb) 1))
  | 0x20 => some (if b = 0 then 2 ^ n - 1 else a / b)
  | 0x21 => some (divTrunc n a b).1
  | 0x22 => some (if b = 0 then a else a % b)
  | 0x23 => some (divTrunc n a b).2
  | 0x24 => some (a * b / 2 ^ n)
  | 0x25 => some (a * b % 2 ^ n)
  | 0x26 => some (wrapN n (sa * (b : Int) / ((2 ^ n : Nat) : Int)))
  | 0x27 => some (wrapN n (sa * sb / ((2 ^ n : Nat) : Int)))
  | 0x29 => some ((b * d + a) % 2 ^ n)
  | 0x2B => some (wrapN n ((a : Int) - (b * d : Nat)))
  | 0x2D => some ((b * a + d) % 2 ^ n)
  | 0x2F => some (wrapN n ((d : Int) - (b * a : Nat)))
  | _ => none

/-- Widening OPM operations: `n` source bits, 2n result bits; `d` is the old destination, `a` is already wide for the
.w forms. -/
def opmWide (f6 n a b d : Nat) : Option Nat :=
  let sa := sext n a
  let sb := sext n b
  let w := fun (v : Int) => some (wrapN (2 * n) v)
  match f6 with
  | 0x30 => w ((a : Int) + b)
  | 0x31 => w (sa + sb)
  | 0x32 => w ((a : Int) - b)
  | 0x33 => w (sa - sb)
  | 0x34 => w ((a : Int) + b)
  | 0x35 => w (sext (2 * n) a + sb)
  | 0x36 => w ((a : Int) - b)
  | 0x37 => w (sext (2 * n) a - sb)
  | 0x38 => w ((a : Int) * b)
  | 0x3A => w (sa * b)
  | 0x3B => w (sa * sb)
  | 0x3C => w ((a : Int) * b + d)
  | 0x3D => w (sa * sb + d)
  | 0x3E => w ((sa) * b + d)
  | 0x3F => w ((a : Int) * sb + d)
  | _ => none

/-- Reduction step of OPM 0x00 to 0x07. -/
def redFn (f6 n a b : Nat) : Nat :=
  match f6 with
  | 0 => (a + b) % 2 ^ n
  | 1 => a &&& b
  | 2 => a ||| b
  | 3 => a ^^^ b
  | 4 => min a b
  | 5 => if sext n a < sext n b then a else b
  | 6 => max a b
  | _ => if sext n a < sext n b then b else a

/-! ### FP32 elements -/

/-- 7-bit reciprocal estimate of V 1.0. -/
def rec7Sig (i : Nat) : Nat := min 127 ((2 * (128 * (255 - 2 * i)) + (257 + 2 * i)) / (2 * (257 + 2 * i)))
/-- 7-bit reciprocal square root estimate of V 1.0; bit 6 of the index is the low exponent bit. -/
def rsqrt7Sig (i : Nat) : Nat :=
  let x := (129 + 2 * (i % 64)) * (if i < 64 then 2 else 1)
  ((List.range 128).filter (fun v => decide (0 < v ∧ (2 * v + 255) ^ 2 * x ≤ 33554432))).length

def vfrec7 (rm a : Nat) : Nat × Nat :=
  let neg := bitAt a 31
  let e0 := bits a 23 8
  let m0 := a % 2 ^ 23
  match f32 a with
  | .nan => (f32Nan, if isSnan a then flNV else 0)
  | .inf n => (withSign 0 n 0, 0)
  | .fin _ num _ _ =>
    if num = 0 then (withSign 0 neg f32Inf, flDZ)
    else if e0 = 0 ∧ m0 < 2 ^ 21 then
      let big := rm = 1 ∨ (rm = 2 ∧ !neg) ∨ (rm = 3 ∧ neg)
      (withSign 0 neg (if big then 0x7F7FFFFF else f32Inf), flOF + flNX)
    else
      let e : Int := if e0 ≠ 0 then e0 else if bitAt m0 22 then 0 else -1
      let m := if e0 ≠ 0 then m0 else if bitAt m0 22 then m0 * 2 % 2 ^ 23 else m0 * 4 % 2 ^ 23
      let o := 253 - e
      let g := rec7Sig (m / 2 ^ 16) * 2 ^ 16
      let r := if o = 0 then 2 ^ 22 + g / 2 else if o = -1 then 2 ^ 21 + g / 4 else o.toNat * 2 ^ 23 + g
      (withSign 0 neg r, 0)

def vfrsqrt7 (a : Nat) : Nat × Nat :=
  match f32 a with
  | .nan => (f32Nan, if isSnan a then flNV else 0)
  | .inf n => if n then (f32Nan, flNV) else (0, 0)
  | .fin neg num _ _ =>
    if num = 0 then (withSign 0 neg f32Inf, flDZ)
    else if neg then (f32Nan, flNV)
    else
      let lz := 22 - Nat.log2 num
      let e : Int := if bits a 23 8 ≠ 0 then bits a 23 8 else -(lz : Int)
      let m := if bits a 23 8 ≠ 0 then a % 2 ^ 23 else num * 2 ^ (lz + 1) % 2 ^ 23
      let o := ((380 - e) / 2).toNat
      (o * 2 ^ 23 + rsqrt7Sig ((e % 2).toNat * 64 + m / 2 ^ 17) * 2 ^ 16, 0)

/-- FP operations on two operands, `a` from vs2 and `b` operand 1; `d` is the old destination. -/
def opfFn (f6 rm a b d : Nat) : Option (Nat × Nat) :=
  match f6 with
  | 0x00 => some (rvAdd rm a b)
  | 0x02 => some (rvSub rm a b)
  | 0x04 => some (rvMinMax false a b)
  | 0x06 => some (rvMinMax true a b)
  | 0x08 => some (rvSgnj 0 a b, 0)
  | 0x09 => some (rvSgnj 1 a b, 0)
  | 0x0A => some (rvSgnj 2 a b, 0)
  | 0x20 => some (rvDiv rm a b)
  | 0x21 => some (rvDiv rm b a)
  | 0x24 => some (rvMul rm a b)
  | 0x27 => some (rvSub rm b a)
  | 0x28 => some (rvFma rm false false b d a)
  | 0x29 => some (rvFma rm true true b d a)
  | 0x2A => some (rvFma rm false true b d a)
  | 0x2B => some (rvFma rm true false b d a)
  | 0x2C => some (rvFma rm false false b a d)
  | 0x2D => some (rvFma rm true true b a d)
  | 0x2E => some (rvFma rm false true b a d)
  | 0x2F => some (rvFma rm true false b a d)
  | _ => none

/-- FP comparisons. -/
def opfCmp (f6 a b : Nat) : Option (Nat × Nat) :=
  match f6 with
  | 0x18 => some (rvCmp 2 a b)
  | 0x19 => some (rvCmp 0 a b)
  | 0x1B => some (rvCmp 1 a b)
  | 0x1C => some (1 - (rvCmp 2 a b).1, (rvCmp 2 a b).2)
  | 0x1D => some (rvCmp 1 b a)
  | 0x1F => some (rvCmp 0 b a)
  | _ => none

/-! ### Executing element operations -/

/-- Write results into body elements of a group: `f n` gives element n's value, none for an element left alone. -/
def vwrite (k : Core) (e vd : Nat) (body : List Nat) (f : Nat → Option Nat) : Core :=
  body.foldl (fun c n => match f n with
    | some v => c.setVelem e vd n v
    | none => c) k
def vwriteBits (k : Core) (vd : Nat) (body : List Nat) (f : Nat → Option Bool) : Core :=
  body.foldl (fun c n => match f n with
    | some v => c.setVbit vd n v
    | none => c) k

/-- Record FP exception flags and format flags of inputs and written values (R93, R94). -/
def fpNote (k : Core) (fl : Nat) (ins outs : List Nat) : Core :=
  ({ k with fflags := k.fflags ||| fl }).addFlags
    ((inputFlags (ins.map f32)).or (writtenFlags k.absLimit.toNat k.lossScale.toNat 0 outs))

namespace State

/-- vsetvli, vsetivli and vsetvl. -/
def vsetEff (s : State) (i w len : Nat) : Eff :=
  let k := s.core i
  let rd := bits w 7 5
  let rs1 := bits w 15 5
  let isI := bits w 30 2 = 3
  let reg := bits w 30 2 = 2
  if reg ∧ bits w 25 5 ≠ 0 then illegal s w
  else
    let vt := if isI then bits w 20 10 else if reg then k.getX (bits w 20 5) else bits w 20 11
    let mx := vlmaxOf vt
    let avl := if isI then rs1 else if rs1 ≠ 0 then k.getX rs1 else if rd ≠ 0 then 2 ^ 32 else k.vl
    let vl := min avl mx
    s.vdone i len (fun k =>
      { k.setX rd vl with vl := vl, vtype := if mx = 0 then 0x80000000 else BitVec.ofNat 32 vt })

/-- Vector loads and stores (V 1.0, 7): the elements moved as address, field register byte offset and index. -/
def vmemElems (k : Core) (w : Nat) (store : Bool) : Option (Nat × List (Nat × Nat × Nat)) :=
  let e := match bits w 12 3 with
    | 0 => 1 | 5 => 2 | 6 => 4 | _ => 0
  let nf := bits w 29 3 + 1
  let mop := bits w 26 2
  let um := bits w 20 5
  let vm := bitAt w 25
  let vd := bits w 7 5
  let base := k.getX (bits w 15 5)
  if e = 0 ∨ bitAt w 28 then none
  else if mop = 0 ∧ um = 8 then
    if vm ∧ nf ∈ [1, 2, 4, 8] ∧ vd % nf = 0 ∧ (!store ∨ e = 1) then
      some (e, (span k.vstart (nf * 256 / e - k.vstart)).map (fun n => ((base + n * e) % 2 ^ 32, vd * 256 + n * e, n)))
    else none
  else match k.vcfg with
    | none => none
    | some c =>
      if mop = 0 ∧ um = 11 then
        if vm ∧ nf = 1 ∧ e = 1 then
          some (1, (span k.vstart (ceilDiv k.vl 8 - k.vstart)).map (fun n => ((base + n) % 2 ^ 32, vd * 256 + n, n)))
        else none
      else if mop = 0 ∧ um ≠ 0 ∧ !(um = 16 ∧ !store) then none
      else
        let indexed := mop = 1 ∨ mop = 3
        let de := if indexed then c.sew else e
        let dm := if indexed then c.lm else c.lm * e / c.sew
        let im := c.lm * e / c.sew
        let ok := (if indexed then okReg dm vd && okReg im um && (c.lm * e % c.sew == 0) &&
              (store || (okOverlap de dm vd e im um && (nf == 1 || apart (groupLen dm * 8 * nf) vd im um)))
            else okReg dm vd && (c.lm * e % c.sew == 0)) &&
          decide (groupLen dm * nf ≤ 8 ∧ vd + groupLen dm * nf ≤ 32) && (vm || store || vd != 0)
        if !ok then none
        else
          some (de, (c.body.filter (k.vact vm)).flatMap (fun n => (List.range nf).map (fun f =>
            let a := if indexed then base + k.velem e um n + f * de
              else if mop = 2 then base + n * k.getX um + f * de else base + (n * nf + f) * de
            (a % 2 ^ 32, (vd + f * groupLen dm) * 256 + n * de, n))))

/-- Join element runs that follow on one another. -/
def mergeRuns : List (Nat × Nat) → List (Nat × Nat)
  | [] => []
  | (a, n) :: r =>
    match mergeRuns r with
    | (b, m) :: q => if a + n = b then (a, n + m) :: q else (a, n) :: (b, m) :: q
    | [] => [(a, n)]

/-- Join stores that follow on one another. -/
def mergeStores : List (Nat × List Byte) → List (Nat × List Byte)
  | [] => []
  | (a, bs) :: r =>
    match mergeStores r with
    | (b, cs) :: q => if a + bs.length = b then (a, bs ++ cs) :: q else (a, bs) :: (b, cs) :: q
    | [] => [(a, bs)]

/-- Cut a store at multiples of 64. -/
def cutStore (q : Nat × List Byte) : List (Nat × List Byte) :=
  (linesOf q.1 q.2.length).map (fun p => (p.1, (q.2.drop (p.1 - q.1)).take p.2))

/-- A vector load. Every element's address is checked before anything moves; the fault-only-first form cuts vl at a later
element that would fault. -/
def vloadEff (s : State) (i w len : Nat) (got : List (Nat × Byte)) : Eff :=
  let k := s.core i
  match vmemElems k w false with
  | none => illegal s w
  | some (e, l) =>
    let ff := bits w 26 2 = 0 ∧ bits w 20 5 = 16
    let bad := fun (q : Nat × Nat × Nat) => q.1 % e ≠ 0 || (s.place i false false q.1 e).isNone
    let firstBad : Option (Nat × Nat × Nat) := l.find? bad
    let cut : Option Nat := match firstBad with
      | some q => if ff ∧ q.2.2 ≠ 0 then some q.2.2 else none
      | none => none
    match firstBad, cut with
    | some q, none => .trap s (if q.1 % e ≠ 0 then 4 else 5) q.1 0
    | _, _ =>
      let l := match cut with
        | some n => l.filter (fun (q : Nat × Nat × Nat) => decide (q.2.2 < n))
        | none => l
      let runs := (mergeRuns (l.map (fun (q : Nat × Nat × Nat) => (q.1, e)))).flatMap (fun q => linesOf q.1 q.2)
      match s.farPieces i got runs with
      | [] =>
        let r := s.coreReads i got runs
        (match r.2 with
        | .ok bs => r.1.vdone i len (fun k =>
            let k := (l.foldl (fun (st : Core × List Byte) (q : Nat × Nat × Nat) =>
              (((st.2.take e).zipIdx.foldl (fun c p => c.setVByte (q.2.1 + p.2) p.1) st.1), st.2.drop e)) (k, bs)).1
            match cut with
            | some n => { k with vl := n }
            | none => k)
        | .trap c a => .trap r.1 c a 0
        | .far => .wait)
      | need => .far s need

/-- A vector store. -/
def vstoreEff (s : State) (i w len : Nat) : Eff :=
  let k := s.core i
  match vmemElems k w true with
  | none => illegal s w
  | some (e, l) =>
    match l.find? (fun q => q.1 % e ≠ 0) with
    | some q => .trap s 6 q.1 0
    | none =>
      match s.storeEff i len ((mergeStores (l.map (fun q =>
          (q.1, (List.range e).map (fun b => k.getVByte (q.2.1 + b)))))).flatMap cutStore) with
      | .done s p => .done (s.modCore i (fun k => { k with vstart := 0 })) p
      | x => x

/-- Operand 1 of element n: a vector element, the immediate or the scalar, cut to `e` bytes. -/
def operand1 (k : Core) (w e n : Nat) : Nat :=
  match bits w 12 3 with
  | 0 | 1 | 2 => k.velem e (bits w 15 5) n
  | 3 => wrapN (8 * e) (sext 5 (bits w 15 5))
  | 5 => k.getF (bits w 15 5) % 2 ^ (8 * e)
  | _ => wrapN (8 * e) (sext 32 (k.getX (bits w 15 5)))

/-- OPIVV, OPIVX and OPIVI. -/
def opiEff (s : State) (i w len : Nat) : Eff :=
  let k := s.core i
  let f3 := bits w 12 3
  let f6 := bits w 26 6
  let vm := bitAt w 25
  let vd := bits w 7 5
  let v2 := bits w 20 5
  let v1 := bits w 15 5
  let vv := f3 == 0
  let vi := f3 == 3
  match k.vcfg with
  | none =>
    if f6 = 0x27 ∧ vi ∧ vm ∧ v1 + 1 ∈ [1, 2, 4, 8] ∧ vd % (v1 + 1) = 0 ∧ v2 % (v1 + 1) = 0 then
      s.vdone i len (fun k => vwrite k 1 vd (List.range ((v1 + 1) * 256)) (fun n => some ((s.core i).velem 1 v2 n)))
    else illegal s w
  | some c =>
    let e := c.sew
    let n := 8 * e
    let op := fun j => operand1 k w e j
    let uop := fun j => if vi then v1 else op j
    let regs := okReg c.lm vd && okReg c.lm v2 && (!vv || okReg c.lm v1) && (vm || vd != 0)
    let act := k.vact vm
    let put := fun (f : Nat → Nat) => s.vdone i len (fun k => vwrite k e vd c.body (fun j => if act j then some (f j) else none))
    let a := fun j => k.velem e v2 j
    let shiftOp := f6 ∈ [0x25, 0x28, 0x29, 0x2A, 0x2B]
    let allowed := match f6 with
      | 0x02 | 0x22 | 0x23 | 0x04 | 0x05 | 0x06 | 0x07 => !vi
      | 0x03 => !vv
      | 0x27 => !vi
      | _ => true
    let cmpOk := match f6 with
      | 0x1A | 0x1B => !vi
      | 0x1E | 0x1F => !vv
      | _ => true
    let maskDest := okReg c.lm v2 && (!vv || okReg c.lm v1) && okOverlap 0 8 vd e c.lm v2 && (!vv || okOverlap 0 8 vd e c.lm v1)
    if f6 = 0x27 ∧ vi then
      if vm ∧ v1 + 1 ∈ [1, 2, 4, 8] ∧ vd % (v1 + 1) = 0 ∧ v2 % (v1 + 1) = 0 then
        s.vdone i len (fun k0 => vwrite k0 1 vd (List.range ((v1 + 1) * 256)) (fun j => some (k.velem 1 v2 j)))
      else illegal s w
    else if f6 = 0x0C then
      let src := fun j => let x := uop j; if x < vlmaxOf k.vtype.toNat then k.velem e v2 x else 0
      if regs && apart c.lm vd c.lm v2 && (!vv || apart c.lm vd c.lm v1) then
        (if vv then put src else
          let x := if vi then v1 else k.getX v1
          put (fun _ => if x < vlmaxOf k.vtype.toNat then k.velem e v2 x else 0))
      else illegal s w
    else if f6 = 0x0E ∧ vv then
      let im := c.lm * 2 / e
      if okReg c.lm vd && okReg c.lm v2 && okReg im v1 && (c.lm * 2 % e == 0) && (vm || vd != 0) && apart c.lm vd c.lm v2 &&
          apart c.lm vd im v1 then
        put (fun j => let x := k.velem 2 v1 j; if x < vlmaxOf k.vtype.toNat then k.velem e v2 x else 0)
      else illegal s w
    else if f6 = 0x0E then
      let x := if vi then v1 else k.getX v1
      if okReg c.lm vd && okReg c.lm v2 && (vm || vd != 0) && apart c.lm vd c.lm v2 then
        s.vdone i len (fun k0 => vwrite k0 e vd c.body (fun j => if act j && decide (x ≤ j) then some (k.velem e v2 (j - x)) else none))
      else illegal s w
    else if f6 = 0x0F ∧ !vv then
      let x := if vi then v1 else k.getX v1
      if okReg c.lm vd && okReg c.lm v2 && (vm || vd != 0) then
        put (fun j => if j + x < vlmaxOf k.vtype.toNat then k.velem e v2 (j + x) else 0)
      else illegal s w
    else if f6 = 0x10 ∨ f6 = 0x12 ∧ !vi then
      if !vm && regs && vd != 0 then
        s.vdone i len (fun k0 => vwrite k0 e vd c.body (fun j =>
          let cy := b2n (k.vbit 0 j)
          some (if f6 = 0x10 then (a j + op j + cy) % 2 ^ n else wrapN n ((a j : Int) - op j - cy))))
      else illegal s w
    else if f6 = 0x11 ∨ f6 = 0x13 ∧ !vi then
      if maskDest then
        s.vdone i len (fun k0 => vwriteBits k0 vd c.body (fun j =>
          let cy := if vm then 0 else b2n (k.vbit 0 j)
          some (if f6 = 0x11 then decide (2 ^ n ≤ a j + op j + cy) else decide (a j < op j + cy))))
      else illegal s w
    else if f6 = 0x17 then
      if vm && v2 != 0 then illegal s w
      else if okReg c.lm vd && (!vv || okReg c.lm v1) && (vm || (okReg c.lm v2 && vd != 0)) then
        s.vdone i len (fun k0 => vwrite k0 e vd c.body (fun j => some (if vm || k.vbit 0 j then op j else a j)))
      else illegal s w
    else if 0x18 ≤ f6 ∧ f6 ≤ 0x1F then
      if cmpOk && maskDest then
        s.vdone i len (fun k0 => vwriteBits k0 vd c.body (fun j => if act j then opiCmp f6 n (a j) (op j) else none))
      else illegal s w
    else if 0x2C ≤ f6 ∧ f6 ≤ 0x2F then
      if decide (e ≤ 2) && okReg c.lm vd && okReg (2 * c.lm) v2 && (!vv || okReg c.lm v1) && (vm || vd != 0) &&
          okOverlap e c.lm vd (2 * e) (2 * c.lm) v2 then
        let res := fun j =>
          let x := k.velem (2 * e) v2 j
          let sh := uop j % (2 * n)
          match f6 with
          | 0x2C => (x / 2 ^ sh % 2 ^ n, false)
          | 0x2D => (wrapN n (sext (2 * n) x / ((2 ^ sh : Nat) : Int)), false)
          | 0x2E => vsat n false (vround k.vxrm (x : Int) sh)
          | _ => vsat n true (vround k.vxrm (sext (2 * n) x) sh)
        s.vdone i len (fun k0 =>
          let k1 := vwrite k0 e vd c.body (fun j => if act j then some (res j).1 else none)
          { k1 with vxsat := k1.vxsat || c.body.any (fun j => act j && (res j).2) })
      else illegal s w
    else if (f6 = 0x30 ∨ f6 = 0x31) ∧ vv then
      if decide (e ≤ 2) && okReg c.lm v2 && c.start == 0 then
        if c.vl = 0 then s.vdone i len id
        else
          let r := c.body.foldl (fun acc j => if act j then
              (acc + wrapN (2 * n) (if f6 = 0x30 then (a j : Int) else sext n (a j))) % 2 ^ (2 * n) else acc) (k.velem (2 * e) v1 0)
          s.vdone i len (fun k0 => k0.setVelem (2 * e) vd 0 r)
      else illegal s w
    else
      let b := fun j => if shiftOp then uop j else op j
      if allowed && regs && (opiFn f6 n 0 0 0).isSome then
        s.vdone i len (fun k0 =>
          let f := fun j => (opiFn f6 n (a j) (b j) k.vxrm).getD (0, false)
          let k1 := vwrite k0 e vd c.body (fun j => if act j then some (f j).1 else none)
          { k1 with vxsat := k1.vxsat || c.body.any (fun j => act j && (f j).2) })
      else illegal s w

/-- Mask and permutation forms of OPM that write x or a mask, and the single-element moves. -/
def opmUnary (s : State) (i w len : Nat) (k : Core) (c : VCfg) : Eff :=
  let f6 := bits w 26 6
  let vm := bitAt w 25
  let vd := bits w 7 5
  let v2 := bits w 20 5
  let v1 := bits w 15 5
  let e := c.sew
  let act := k.vact vm
  let isX := bits w 12 3 = 6
  if f6 = 0x10 ∧ isX then
    if vm && v2 == 0 then
      s.vdone i len (fun k0 => if c.start < c.vl then k0.setVelem e vd 0 (wrapN (8 * e) (sext 32 (k.getX v1))) else k0)
    else illegal s w
  else if f6 = 0x10 then
    match v1 with
    | 0 => if vm then s.vdone i len (fun k0 => k0.setX vd (w32 (sext (8 * e) (k.velem e v2 0)))) else illegal s w
    | 16 =>
      if c.start = 0 then
        s.vdone i len (fun k0 => k0.setX vd ((List.range c.vl).filter (fun j => act j && k.vbit v2 j)).length)
      else illegal s w
    | 17 =>
      if c.start = 0 then
        s.vdone i len (fun k0 => k0.setX vd (((List.range c.vl).find? (fun j => act j && k.vbit v2 j)).getD (2 ^ 32 - 1)))
      else illegal s w
    | _ => illegal s w
  else if f6 = 0x12 ∧ !isX then
    let div := match v1 with
      | 4 | 5 => 4
      | 6 | 7 => 2
      | _ => 8
    let se := e / div
    let sm := c.lm / div
    if decide (4 ≤ v1 ∧ v1 ≤ 7 ∧ 1 ≤ se ∧ c.lm % div = 0) && okReg c.lm vd && okReg sm v2 && (vm || vd != 0) &&
        okOverlap e c.lm vd se sm v2 then
      s.vdone i len (fun k0 => vwrite k0 e vd c.body (fun j =>
        let x := k.velem se v2 j
        if act j then some (if v1 % 2 = 1 then wrapN (8 * e) (sext (8 * se) x) else x) else none))
    else illegal s w
  else if f6 = 0x14 ∧ !isX then
    let firstSet := (List.range c.vl).find? (fun j => act j && k.vbit v2 j)
    match v1 with
    | 1 | 2 | 3 =>
      if c.start == 0 && vd != v2 && (vm || vd != 0) then
        s.vdone i len (fun k0 => vwriteBits k0 vd (List.range c.vl) (fun j =>
          if act j then
            match firstSet with
            | none => some (v1 != 2)
            | some q => some (match v1 with
              | 1 => decide (j < q)
              | 2 => j == q
              | _ => decide (j ≤ q))
          else none))
      else illegal s w
    | 16 =>
      if c.start == 0 && okReg c.lm vd && apart c.lm vd 8 v2 && (vm || vd != 0) then
        s.vdone i len (fun k0 => vwrite k0 e vd (List.range c.vl) (fun j =>
          if act j then some (((List.range j).filter (fun q => act q && k.vbit v2 q)).length % 2 ^ (8 * e)) else none))
      else illegal s w
    | 17 =>
      if v2 == 0 && okReg c.lm vd && (vm || vd != 0) then
        s.vdone i len (fun k0 => vwrite k0 e vd c.body (fun j => if act j then some (j % 2 ^ (8 * e)) else none))
      else illegal s w
    | _ => illegal s w
  else if f6 = 0x17 ∧ !isX then
    if vm && c.start == 0 && okReg c.lm vd && okReg c.lm v2 && apart c.lm vd c.lm v2 && apart c.lm vd 8 v1 then
      let sel := (List.range c.vl).filter (k.vbit v1)
      s.vdone i len (fun k0 => vwrite k0 e vd (List.range sel.length) (fun j => some (k.velem e v2 (sel.getD j 0))))
    else illegal s w
  else if 0x18 ≤ f6 ∧ f6 ≤ 0x1F ∧ !isX then
    if vm then
      s.vdone i len (fun k0 => vwriteBits k0 vd c.body (fun j =>
        let a := k.vbit v2 j
        let b := k.vbit v1 j
        some (match f6 with
          | 0x18 => a && !b
          | 0x19 => a && b
          | 0x1A => a || b
          | 0x1B => a != b
          | 0x1C => a || !b
          | 0x1D => !(a && b)
          | 0x1E => !(a || b)
          | _ => a == b)))
    else illegal s w
  else if (f6 = 0x0E ∨ f6 = 0x0F) ∧ isX then
    if okReg c.lm vd && okReg c.lm v2 && (vm || vd != 0) && (f6 == 0x0F || apart c.lm vd c.lm v2) then
      let x := wrapN (8 * e) (sext 32 (k.getX v1))
      s.vdone i len (fun k0 => vwrite k0 e vd c.body (fun j =>
        if !act j then none
        else if f6 = 0x0E then some (if j = 0 then x else k.velem e v2 (j - 1))
        else some (if j + 1 = c.vl then x else k.velem e v2 (j + 1))))
    else illegal s w
  else illegal s w

/-- OPMVV and OPMVX. -/
def opmEff (s : State) (i w len : Nat) : Eff :=
  let k := s.core i
  let f6 := bits w 26 6
  let vm := bitAt w 25
  let vd := bits w 7 5
  let v2 := bits w 20 5
  let v1 := bits w 15 5
  let vv := bits w 12 3 == 2
  match k.vcfg with
  | none => illegal s w
  | some c =>
    let e := c.sew
    let n := 8 * e
    let act := k.vact vm
    let op := fun j => operand1 k w e j
    if f6 < 8 then
      if vv && okReg c.lm v2 && c.start == 0 then
        if c.vl = 0 then s.vdone i len id
        else
          let r := c.body.foldl (fun acc j => if act j then redFn f6 n acc (k.velem e v2 j) else acc) (k.velem e v1 0)
          s.vdone i len (fun k0 => k0.setVelem e vd 0 r)
      else illegal s w
    else if 0x30 ≤ f6 then
      let wideA := decide (0x34 ≤ f6 ∧ f6 ≤ 0x37)
      let ok := decide (e ≤ 2) && okReg (2 * c.lm) vd && (vm || vd != 0) && (!vv || (okReg c.lm v1 && okOverlap (2 * e) (2 * c.lm) vd e c.lm v1)) &&
        (if wideA then okReg (2 * c.lm) v2 else okReg c.lm v2 && okOverlap (2 * e) (2 * c.lm) vd e c.lm v2) &&
        (f6 != 0x3E || !vv)
      let f := fun j =>
        let a := if wideA then k.velem (2 * e) v2 j else k.velem e v2 j
        let d := k.velem (2 * e) vd j
        opmWide f6 n a (op j) d
      if ok && (opmWide f6 n 0 0 0).isSome then
        s.vdone i len (fun k0 => vwrite k0 (2 * e) vd c.body (fun j => if act j then f j else none))
      else illegal s w
    else if (opmFn f6 n 0 0 0 0).isSome then
      if okReg c.lm vd && okReg c.lm v2 && (!vv || okReg c.lm v1) && (vm || vd != 0) then
        s.vdone i len (fun k0 => vwrite k0 e vd c.body (fun j =>
          if act j then opmFn f6 n (k.velem e v2 j) (op j) (k.velem e vd j) k.vxrm else none))
      else illegal s w
    else s.opmUnary i w len k c

/-- Element moves, conversions and unary operations of OPF. -/
def opfUnary (s : State) (i w len : Nat) (k : Core) (c : VCfg) (rm : Nat) : Eff :=
  let f6 := bits w 26 6
  let vm := bitAt w 25
  let vd := bits w 7 5
  let v2 := bits w 20 5
  let v1 := bits w 15 5
  let act := k.vact vm
  let isF := bits w 12 3 = 5
  let each := fun (e' vd' : Nat) (f : Nat → Nat × Nat) (ins : List Nat) (fpOut : Bool) =>
    let l := c.body.filter act
    let fl := l.foldl (fun a j => a ||| (f j).2) 0
    s.vdone i len (fun k0 => fpNote (vwrite k0 e' vd' c.body (fun j => if act j then some (f j).1 else none)) fl ins
      (if fpOut then l.map (fun j => (f j).1) else []))
  let src := fun e => (c.body.filter act).map (fun j => k.velem e v2 j)
  if f6 = 0x10 ∧ isF then
    if vm && v2 == 0 && c.sew == 4 then
      s.vdone i len (fun k0 => if c.start < c.vl then fpNote (k0.setVelem 4 vd 0 (k.getF v1)) 0 [k.getF v1] [k.getF v1] else k0)
    else illegal s w
  else if f6 = 0x10 then
    if vm && v1 == 0 && c.sew == 4 then
      s.vdone i len (fun k0 => fpNote (k0.setF vd (k.velem 4 v2 0)) 0 [k.velem 4 v2 0] [])
    else illegal s w
  else if f6 = 0x12 ∧ !isF then
    let n := 8 * c.sew
    let ok1 := c.sew == 4 && okReg c.lm vd && okReg c.lm v2 && (vm || vd != 0)
    let okW := c.sew == 2 && okReg (2 * c.lm) vd && okReg c.lm v2 && (vm || vd != 0) && okOverlap 4 (2 * c.lm) vd 2 c.lm v2
    let okN := c.sew == 2 && okReg c.lm vd && okReg (2 * c.lm) v2 && (vm || vd != 0) && okOverlap 2 c.lm vd 4 (2 * c.lm) v2
    let x := fun j => k.velem 4 v2 j
    let x2 := fun j => k.velem 2 v2 j
    let toInt := fun (ok : Bool) (r : Nat) (sg : Bool) =>
      if ok then each c.sew vd (fun j => rvToInt r n sg (x j)) (src 4) false else illegal s w
    match v1 with
    | 0 => toInt ok1 rm false
    | 1 => toInt ok1 rm true
    | 2 => if ok1 then each 4 vd (fun j => rvFromInt rm (x j : Int)) [] true else illegal s w
    | 3 => if ok1 then each 4 vd (fun j => rvFromInt rm (sext 32 (x j))) [] true else illegal s w
    | 6 => toInt ok1 1 false
    | 7 => toInt ok1 1 true
    | 10 => if okW then each 4 vd (fun j => rvFromInt rm (x2 j : Int)) [] true else illegal s w
    | 11 => if okW then each 4 vd (fun j => rvFromInt rm (sext 16 (x2 j))) [] true else illegal s w
    | 16 => toInt okN rm false
    | 17 => toInt okN rm true
    | 22 => toInt okN 1 false
    | 23 => toInt okN 1 true
    | _ => illegal s w
  else if f6 = 0x13 ∧ !isF then
    let ok := c.sew == 4 && okReg c.lm vd && okReg c.lm v2 && (vm || vd != 0)
    let x := fun j => k.velem 4 v2 j
    match v1 with
    | 0 => if ok then each 4 vd (fun j => rvSqrt rm (x j)) (src 4) true else illegal s w
    | 4 => if ok then each 4 vd (fun j => vfrsqrt7 (x j)) (src 4) true else illegal s w
    | 5 => if ok then each 4 vd (fun j => vfrec7 rm (x j)) (src 4) true else illegal s w
    | 16 => if ok then each 4 vd (fun j => (rvClass (x j), 0)) (src 4) false else illegal s w
    | _ => illegal s w
  else if f6 = 0x17 ∧ isF then
    if vm && v2 != 0 then illegal s w
    else if c.sew == 4 && okReg c.lm vd && (vm || (okReg c.lm v2 && vd != 0)) then
      let y := k.getF v1
      let r := fun j => if vm || k.vbit 0 j then y else k.velem 4 v2 j
      s.vdone i len (fun k0 => fpNote (vwrite k0 4 vd c.body (fun j => some (r j))) 0
        (y :: (if vm then [] else c.body.map (fun j => k.velem 4 v2 j))) (c.body.map r))
    else illegal s w
  else if (f6 = 0x0E ∨ f6 = 0x0F) ∧ isF then
    if c.sew == 4 && okReg c.lm vd && okReg c.lm v2 && (vm || vd != 0) && (f6 == 0x0F || apart c.lm vd c.lm v2) then
      let y := k.getF v1
      let r := fun j => if f6 = 0x0E then (if j = 0 then y else k.velem 4 v2 (j - 1))
        else (if j + 1 = c.vl then y else k.velem 4 v2 (j + 1))
      s.vdone i len (fun k0 => fpNote (vwrite k0 4 vd c.body (fun j => if act j then some (r j) else none)) 0 (y :: src 4)
        ((c.body.filter act).map r))
    else illegal s w
  else illegal s w

/-- OPFVV and OPFVF. -/
def opfEff (s : State) (i w len : Nat) : Eff :=
  let k := s.core i
  let f6 := bits w 26 6
  let vm := bitAt w 25
  let vd := bits w 7 5
  let v2 := bits w 20 5
  let v1 := bits w 15 5
  let vv := bits w 12 3 == 1
  match k.vcfg, rmOf k 7 with
  | some c, some rm =>
    let act := k.vact vm
    let l := c.body.filter act
    let op := fun j => operand1 k w 4 j
    let a := fun j => k.velem 4 v2 j
    let d := fun j => k.velem 4 vd j
    let fma := decide (0x28 ≤ f6 ∧ f6 ≤ 0x2F)
    let ins := l.map a ++ (if vv then l.map op else [k.getF v1]) ++ (if fma then l.map d else [])
    let regs := c.sew == 4 && okReg c.lm v2 && (!vv || okReg c.lm v1)
    if f6 ∈ [0x01, 0x03, 0x05, 0x07] ∧ vv then
      if c.sew == 4 && okReg c.lm v2 && c.start == 0 then
        if c.vl = 0 then s.vdone i len id
        else
          let step := fun x y => match f6 with
            | 0x05 => rvMinMax false x y
            | 0x07 => rvMinMax true x y
            | _ => rvAdd rm x y
          let r := l.foldl (fun (acc : Nat × Nat) j => let q := step acc.1 (a j); (q.1, acc.2 ||| q.2)) (k.velem 4 v1 0, 0)
          s.vdone i len (fun k0 => fpNote (k0.setVelem 4 vd 0 r.1) r.2 (k.velem 4 v1 0 :: l.map a) [r.1])
      else illegal s w
    else if (opfCmp f6 0 0).isSome ∧ (f6 ∉ [0x1D, 0x1F] ∨ !vv) then
      if regs && okOverlap 0 8 vd 4 c.lm v2 && (!vv || okOverlap 0 8 vd 4 c.lm v1) then
        let r := fun j => (opfCmp f6 (a j) (op j)).getD (0, 0)
        s.vdone i len (fun k0 => fpNote (vwriteBits k0 vd c.body (fun j => if act j then some ((r j).1 == 1) else none))
          (l.foldl (fun x j => x ||| (r j).2) 0) ins [])
      else illegal s w
    else if (opfFn f6 0 0 0 0).isSome ∧ (f6 ∉ [0x21, 0x27] ∨ !vv) then
      if regs && okReg c.lm vd && (vm || vd != 0) then
        let r := fun j => (opfFn f6 rm (a j) (op j) (d j)).getD (0, 0)
        s.vdone i len (fun k0 => fpNote (vwrite k0 4 vd c.body (fun j => if act j then some (r j).1 else none))
          (l.foldl (fun x j => x ||| (r j).2) 0) ins (l.map (fun j => (r j).1)))
      else illegal s w
    else s.opfUnary i w len k c rm
  | _, _ => illegal s w

/-- A vector instruction or none: loads and stores of width 8, 16 or 32, and OP-V. -/
def vectorEff (s : State) (i w len : Nat) (got : List (Nat × Byte)) : Eff :=
  match w % 128 with
  | 0x07 => s.vloadEff i w len got
  | 0x27 => s.vstoreEff i w len
  | _ =>
    match bits w 12 3 with
    | 7 => s.vsetEff i w len
    | 0 | 3 | 4 => s.opiEff i w len
    | 2 | 6 => s.opmEff i w len
    | _ => s.opfEff i w len

end State
end Sys2Proof.Machine
end

