-- ==== Sys2Proof/Machine/Program.lean ====
section
/-! DEFINITION. What a core does besides its tile instructions (chapter 6): the scalar and vector units' instructions,
accesses through apertures (R159), FENCE and FENCE.I (R188, R190), writes of custom CSRs (R183), rill interrupts (R156),
lag notices (R420) and the end of a kernel (R187, R192). -/
namespace Sys2Proof.Machine
open Sys2Proof

/-- FENCE and FENCE.I in their 32-bit form. -/
def isFence (w : Nat) : Bool := w % 128 == 0x0F && bits w 12 3 == 0
def isFenceI (w : Nat) : Bool := w % 128 == 0x0F && bits w 12 3 == 1
/-- A FENCE whose predecessor set includes w (R188). -/
def fencesWrites (w : Nat) : Bool := isFence w && bitAt w 24
/-- A FENCE whose predecessor and successor sets include r (R189). -/
def fencesReads (w : Nat) : Bool := isFence w && bitAt w 25 && bitAt w 21

/-- A word that the scalar or vector unit carries out, or that no unit knows: not a tile instruction, a fence or a write
of a custom CSR. -/
def isBase (w : Nat) : Bool := (tileOp w).isNone && !isFence w && !isFenceI w && !State.isCustomWrite w

/-- Vector loads, stores and OP-V. -/
def isVector (w : Nat) : Bool := w % 128 == 0x57 || ((w % 128 == 0x07 || w % 128 == 0x27) && bits w 12 3 != 2)

/-- An outcome that involves no aperture. -/
def Eff.isOwn : Eff → Bool
  | .done _ p => !p
  | .trap .. => true
  | _ => false
def Eff.isFar : Eff → Bool
  | .far .. => true
  | _ => false
def Eff.isPosted : Eff → Bool
  | .done _ p => p
  | _ => false

namespace State

/-- A scalar or vector instruction as fetched: `w0` of `len` bytes. -/
def baseEff (s : State) (i w0 len : Nat) (got : List (Nat × Byte)) : Eff :=
  match expand w0 len with
  | none => illegal s w0
  | some w => if isVector w then s.vectorEff i w len got else s.scalarEff i w w0 len got

/-- Run the next instruction of a core when it is a scalar or vector one whose outcome `pick` accepts. -/
def runBase (s : State) (i : Nat) (strikes : Strikes) (pick : Eff → Bool) : State :=
  if s.live i then
    match s.fetch i with
    | (t, .inl (w, len)) =>
      if len = 4 ∧ !isBase w then s
      else
        let e := (t.strike strikes).baseEff i w len []
        if pick e then t.settle i len e else s
    | (t, .inr (c, a)) => if pick (.trap t c a 0) then t.takeTrap i c a 0 4 else s
  else s

/-- Every byte of a load has come back, or an answer failed: carry the instruction out, or take cause 30 (R159). -/
def resumeLoad (s : State) (i : Nat) : State :=
  match (s.core i).run with
  | .waitLoad [] got bad =>
    let s := s.modCore i (fun k => { k with run := .running })
    (match s.fetch i with
    | (t, .inl (w, len)) =>
      (match bad with
      | some (st, a) => t.takeTrap i 30 st a len
      | none =>
        if len = 4 ∧ tileOp w = some .tld then t.settle i len (t.tldEff i w got) else t.settle i len (t.baseEff i w len got))
    | (t, .inr (c, a)) => t.takeTrap i c a 0 4)
  | _ => s

/-- A FENCE r,r of a core: its loads see what sluices have written in its site (R189). -/
def fencedReads (s : State) (i : Nat) : State :=
  { s with unseen := s.unseen.filter (fun p => !decide (columnBase ≤ p.1 ∧ siteOfAddr p.1 = i)) }

/-- A FENCE w,w of a core: sluices see what it has written in its site (R189). -/
def fencedWrites (s : State) (i : Nat) : State :=
  { s with unsent := s.unsent.filter (fun p => !decide (columnBase ≤ p.1 ∧ siteOfAddr p.1 = i)) }

/-- A FENCE whose earlier posted stores have all been answered (R188); `stores`: its successor set includes w. -/
def fenceDone (s : State) (i : Nat) (stores : Bool) : State :=
  let s := (if stores then s.fencedWrites i else s).modCore i (fun k => { k with run := .running })
  let k := s.core i
  if k.remCount ≠ 0 then s.takeTrap i 30 k.remFirst 0 4 else s.modCore i (fun k => k.adv 4)

/-- FENCE (R188, R189): one whose predecessor set includes w waits for the answers to earlier posted stores. -/
def fenceEff (s : State) (i w : Nat) : Eff :=
  let s := if fencesReads w then s.fencedReads i else s
  if fencesWrites w then
    (if (s.core i).posted.isEmpty then .done (s.fenceDone i (bitAt w 20)) false
     else .done (s.modCore i (fun k => { k with run := .waitFence (bitAt w 20) })) false)
  else s.retire i 4 id

/-- FENCE.I (R190): fetches of this core see every earlier store. -/
def fenceIEff (s : State) (i : Nat) : Eff :=
  { s with stale := s.stale.filter (fun p => !decide (storeAddr i 0 ≤ p.1 ∧ p.1 < storeAddr (i + 1) 0)) }.retire i 4 id

/-- Every posted store and export of a core has been answered (R187, R192). -/
def answered (s : State) (i : Nat) : Bool :=
  let k := s.core i
  k.posted.isEmpty && k.acc0.exporting.isNone && k.acc1.exporting.isNone && k.acc2.exporting.isNone && k.acc3.exporting.isNone

/-- The kernel of a core ends with an outcome: its rank ends, and the runtime waits for a launch (R362). -/
def endKernel (s : State) (i outcome cause : Nat) (value : W32) : State :=
  match (s.core i).launch with
  | some (id, r) => (s.endRank id r outcome cause value).modCore i (fun k => { k with run := .idle, user := false })
  | none => s.modCore i (fun k => { k with run := .idle, user := false })

/-- A kernel that KABORT has stopped ends with OUTCOME 3 once every store and export is answered (R364). -/
def stopDone (s : State) (i : Nat) : State :=
  if (s.core i).run = .stopping ∧ s.answered i then s.endKernel i 3 0 0 else s

/-- The kernel ends by a trap: event 0x2030 (R187). -/
def endByTrap (s : State) (i cause : Nat) (value : W32) : State :=
  (s.record 0x2030 1 i (s.siteOwner i) (s.core i).job
    (p4 i ++ p4 cause ++ p4 value.toNat ++ p4 (s.core i).job)).endKernel i 1 cause value

end State

/-- SCALAR_VECTOR_INSTRUCTION (R155): the next instruction, when it is a scalar or vector one that reaches no aperture. -/
def execScalarVectorInstruction (site : Nat) (strikes : Strikes) (s : State) : Out :=
  .next (s.runBase site strikes Eff.isOwn)
/-- APERTURE_LOAD (R159): a load sends its read requests and waits for their answers. -/
def execApertureLoad (site : Nat) (s : State) : Out := .next (s.runBase site { ce := [], ue := [] } Eff.isFar)
/-- APERTURE_STORE (R159): a store through an aperture is posted. -/
def execApertureStore (site : Nat) (s : State) : Out := .next (s.runBase site { ce := [], ue := [] } Eff.isPosted)
/-- FENCE (R188). -/
def execFence (site : Nat) (s : State) : Out := .next (s.runIf site isFence (fun s w _ => s.fenceEff site w))
/-- FENCE.I (R190). -/
def execFenceI (site : Nat) (s : State) : Out := .next (s.runIf site isFenceI (fun s _ _ => s.fenceIEff site))
/-- A write of a custom CSR (R182, R183). -/
def execCsrWrite (site : Nat) (s : State) : Out := .next (s.runIf site State.isCustomWrite (fun s w _ => s.csrEff site w))
/-- A rill message interrupts the runtime (R156): CORE_EPOCH takes the site's epoch, and a kernel of a saggar that is
being brought to a quiescence point is suspended (R351). -/
def execRillInterrupt (site : Nat) (s : State) : Out :=
  if site < sitesN ∧ (s.site site).inReset = false then
    let hold := match s.siteOwner site with
      | some g => decide (0 < (s.saggar g).quiescing)
      | none => false
    .next (s.modCore site (fun k =>
      { k with coreEpoch := (s.site site).epoch, suspended := k.suspended || (hold && k.run != .idle) }))
  else .next s
/-- A kernel ends with ECALL and a7 = 0, once its stores and exports are answered (R192). -/
def execKernelExit (site : Nat) (s : State) : Out :=
  let k := s.core site
  match k.run with
  | .trapped 8 _ =>
    if s.present site && k.getX 17 == 0 && s.answered site then
      (if k.remCount ≠ 0 then .next (s.endByTrap site 30 (BitVec.ofNat 32 k.remFirst))
       else .next (s.endKernel site 0 0 (BitVec.ofNat 32 (k.getX 10))))
    else .next s
  | _ => .next s
/-- A kernel ends by a trap that entered machine mode, once its stores and exports are answered (R187). -/
def execKernelEndByTrap (site : Nat) (s : State) : Out :=
  let k := s.core site
  match k.run with
  | .trapped cause v =>
    if s.present site && s.answered site && !(cause == 8 && k.getX 17 == 0) then .next (s.endByTrap site cause v) else .next s
  | _ => .next s
/-- A core of the notice's saggar and job that waits in TCAS.FOLD or TAOR.W adds the delay to its wait, at most
3 × CAS_WAIT in all (R420). -/
def State.lagExtend (s : State) (site saggar job d : Nat) : State :=
  let c := s.core site
  if s.siteOwner site = some saggar ∧ c.job = job ∧ (s.site site).inReset = false then
    match c.run with
    | .waitFold a since extra => s.setCore site { c with run := .waitFold a since (min (3 * c.casWait) (extra + d)) }
    | .waitAor _ => s.setCore site { c with aor := { c.aor with extraUs := min (3 * c.casWait) (c.aor.extraUs + d) } }
    | _ => s
  else s

/-- A lag notice reaches a core (R420). -/
def execLagNoticeArrival (k : Nat) (s : State) : Out :=
  match s.rill[k]? with
  | some (.lagNotice site saggar job d) => .next ({ s with rill := dropAt s.rill k }.lagExtend site saggar job d)
  | _ => .next s

end Sys2Proof.Machine
end

