-- ==== Sys2Proof/Machine/Regs.lean ====
section
/-! DEFINITION. The control space (R319, R320): what a read of each register gives, from the register tables of every
chapter, and the numbering of sensors, thermal points and domains that the model uses. -/
namespace Sys2Proof.Machine
open Sys2Proof

/-! ### Numbering of sensors and points (R433, R436) -/

/-- Block of a physical site: eight rows by eight columns (chapter 14). -/
def blockOf (site : Nat) : Nat := siteRow site / 8 * 6 + siteCol site / 8
/-- Block of a cluster. -/
def clusterBlock (c : Nat) : Nat := blockOf ((clusterSites c).headD 0)
/-- Sensors: the pair of each site, one of each block in layers 0 and 1, one of each regulator group, one of each stack. -/
def siteSensor (site k : Nat) : Nat := 2 * site + k
def layerSensor (layer b : Nat) : Nat := 9216 + 36 * layer + b
def regSensor (b : Nat) : Nat := 9288 + b
def hbmSensor (m : Nat) : Nat := 9324 + m
/-- Points: the core pair of each site, then layer 0, layer 1, foot die, die A and die B of each block, then stacks. -/
def layerPoint (layer b : Nat) : Nat := 4608 + 36 * layer + b
def footPoint (b : Nat) : Nat := 4680 + b
def dieNode (die b : Nat) : Nat := 4716 + 36 * die + b
def hbmPoint (m : Nat) : Nat := 4788 + m
/-- Sites of one die in a block. -/
def blockSites (die b : Nat) : List Nat :=
  (List.range 64).map (fun k => siteAt die (b / 6 * 8 + k / 8) (b % 6 * 8 + k % 8))

/-- Place fields into a word: value and lowest bit of each. -/
def packBits (l : List (Nat × Nat)) : Nat := l.foldl (fun a p => a + p.1 * 2 ^ p.2) 0

/-- A temperature in 1/16 °C as a register field (R434). -/
def tempCode (t : Int) : Nat := (t % 65536).toNat

def Role.code : Role → Nat
  | .spare => 0 | .active => 1 | .retired => 2 | .failed => 3
def SluSt.code : SluSt → Nat
  | .unbound => 0 | .idle => 1 | .running => 2 | .halted => 3 | .inReset => 4
def NbSt.code : NbSt → Nat
  | .idle => 0 | .inStep => 1 | .inGap => 2 | .suspended => 3 | .inReset => 4
def PortSt.code : PortSt → Nat
  | .disabled => 0 | .dark => 1 | .noKey => 2 | .ranging => 3 | .up => 4 | .fault => 5
def RingRole.code : RingRole → Nat
  | .disabled => 0 | .submission => 1 | .completion => 2 | .descriptor => 3
def RingRole.ofCode : Nat → RingRole
  | 1 => .submission | 2 => .completion | 3 => .descriptor | _ => .disabled

/-- WEAR_PPM of a region (R451): the weights are 9, 36, 144 and 400 sixty-fourths. -/
def Wear.ppm (w : Wear) : Nat := 1000000 * (9 * w.b0 + 36 * w.b1 + 144 * w.b2 + 400 * w.b3) / (128 * 60000)

/-- RING_CFG as a word (Table 11-4). -/
def Ring.cfgWord (r : Ring) : Nat := packBits [(r.role.code, 0), (r.saggar, 8), (b2n r.oper, 14), (r.pair, 16)]
/-- SHAPE registers as a word (Table 2-5). -/
def Shape.word (x : Shape) : Nat := x.rate + x.burst * 65536
/-- SLU_BIND as a word (Table 7-6). -/
def Sluice.bindWord (x : Sluice) : Nat := packBits [(x.saggar, 0), (b2n x.valid, 6), (x.ring, 8)]

namespace State

/-- Commands in flight from a ring (RING_INFLIGHT). -/
def ringInflight (s : State) (n : Nat) : Nat := (s.cmds.filter (fun c => c.origin == .ring n)).length

/-- A reading as its register shows it: sensors of a site read 0x8000 while its cluster is gated, asleep or dark (R434). -/
def siteTemp (s : State) (i k : Nat) : Nat :=
  let c := s.cluster (clusterOf i)
  if (s.site i).gated ∨ c.asleep ∨ c.dark then 0x8000 else (s.sensor (siteSensor i k)).temp % 65536

/-- A forecast as its register shows it: 0x8000 until the model has given one. -/
def forecastCode (s : State) (p : Nat) : Nat := if (s.point p).valid then tempCode (s.point p).forecast else 0x8000

/-- The hottest forecast among points, 0x8000 when none is valid. -/
def hottest (s : State) (l : List Nat) : Nat :=
  match (l.filter (fun p => (s.point p).valid)).map (fun p => (s.point p).forecast) with
  | [] => 0x8000
  | a :: r => tempCode (r.foldl max a)

/-- Set point of a cluster in mV: VCHAR with the guard band of 45 mV, rounded up to 5 mV (R410). -/
def setMv (s : State) (c : Nat) : Nat := ceilDiv ((Config.vcharMv c s.fw.variant).toNat + 45) 5 * 5

/-- GRANULE_STATE of a granule: 3 in a donor run (Table 15-6). -/
def granCode (s : State) (g : Nat) : Nat := if s.isDonor g then 3 else s.granState g

/-- Root multiplier of the variant (R34). -/
def rootMult (s : State) : Nat := if s.fw.variant = 0 then 45 else if s.fw.variant = 1 then 40 else 35

/-! ### The blocks of Table 11-2 -/

/-- Global, package, MSI-X and counter registers (Tables 1-6, 1-9, 1-11, 11-3; R322). -/
def readGlobal (s : State) (o : Nat) : Option Nat :=
  let h := s.host
  if o = 0 then some (packBits [(0x4416, 0), (s.fw.variant, 16), (Config.stepping.toNat, 24)])
  else if o = 4 then
    some (packBits [(b2n h.ready, 0), (b2n (h.modules.length < 16), 1), (h.modules.length, 2)])
  else if o = 8 then some (packBits [(s.cmds.length, 0), (s.txns.length, 16)])
  else if o = 0x100 then
    let p := s.pkg
    some (packBits (p.strapLevels.zipIdx.map (fun x => (x.1, 2 * x.2))) +
      packBits [(p.posValue, 12), (p.posValue / 16 % 16, 22), (p.posValue % 16, 26), (b2n p.posValid, 30), (b2n p.posMismatch, 31)])
  else if o = 0x108 then
    let p := s.pkg
    some (packBits [(b2n p.vstby, 0), (b2n p.vfoot, 1), (b2n p.vmesh, 2), (b2n p.vcm, 3), (b2n p.vhost, 4), (b2n p.vopt, 5),
      (p.vhbm.toNat, 16)])
  else if o = 0x110 then
    some (packBits [(s.rootMult, 0), (b2n s.pkg.locked, 8), (b2n s.pkg.refPresent, 9), (b2n s.pkg.holdover, 10),
      (s.pkg.refLossCount, 16)])
  else if o = 0x200 then some h.rwtIgnored
  else if o = 0x204 then some h.dbErrors
  else if o = 0x208 then some h.unsupported
  else if o = 0x20C then some h.refused
  else if 0x400 ≤ o ∧ o < 0x628 then
    some (packBits ((List.range 32).map (fun k => (b2n (s.siteOfCore ((o - 0x400) * 8 + k)).isNone, k))))
  else if 0x10000 ≤ o ∧ o < 0x18000 then
    some (leNat ((List.range 4).map (fun k => h.msixTable.get msixBisque (o - 0x10000 + k))))
  else if 0x18000 ≤ o ∧ o < 0x18100 then
    some (packBits ((List.range 32).map (fun k => (b2n (decide ((o - 0x18000) * 8 + k ∈ h.msixPending)), k))))
  else none

/-- Registers of ring `n` at offset `o` (Table 11-4). -/
def readRing (s : State) (n o : Nat) : Option Nat :=
  let r := s.ring n
  if o = 0 then some r.cfgWord
  else if o = 4 then some r.entries
  else if o = 8 then some r.base
  else if o = 0xC then some (r.base / 2 ^ 32)
  else if o = 0x10 then some r.db
  else if o = 0x14 then some r.head
  else if o = 0x18 then some r.tail
  else if o = 0x1C then
    some (packBits [(b2n r.dbErr, 0), (b2n r.stalled, 1), (b2n r.inReset, 2), (b2n r.halted, 3), (b2n r.slotPoisoned, 4),
      (r.lost, 16)])
  else if o = 0x20 then some r.epoch.toNat
  else if o = 0x24 then some (packBits [(r.vector, 0), (r.coalCount, 16), (r.coalUs, 24)])
  else if o = 0x28 then some (s.ringInflight n)
  else none

/-- Registers of a sluice (Tables 7-5, 7-6). -/
def readSluice (s : State) (n o : Nat) : Option Nat :=
  let x := s.sluice n
  if o = 0 then some x.bindWord
  else if o = 4 then some (packBits [(x.state.code, 0), (x.haltStatus, 16)])
  else if o = 8 then some x.epoch.toNat
  else if o = 0x10 then some (x.faultAddr % 2 ^ 52)
  else if o = 0x14 then some (x.faultAddr % 2 ^ 52 / 2 ^ 32)
  else if o = 0x18 then some x.progress
  else if o = 0x1C then some (x.progress / 2 ^ 32)
  else if o = 0x20 then some x.seed.toNat
  else if o = 0x24 then some (x.seed.toNat / 2 ^ 32)
  else if o = 0x28 then some (({ x.flags with bound := false } : Flags).word)
  else if o = 0x2C then some x.doneCount
  else none

/-- Power registers and domain telemetry (Tables 13-7, 13-9, 13-10). -/
def readPower (s : State) (o : Nat) : Option Nat :=
  let p := s.power
  let sum := fun (l : List Lease) => (l.map (·.watts)).foldl (· + ·) 0
  if o < 0x10000 then
    if o = 0 then some p.capEff
    else if o = 4 then some (packBits [(sum p.borrowed, 0), (sum p.lent, 16)])
    else if o = 8 then some (packBits [(p.inputMv / 4 % 65536, 0), (b2n p.undervolt, 16), (b2n p.capUnreachable, 17)])
    else if o = 0x10 then some p.overhead
    else if o = 0x14 then some (p.overhead / 2 ^ 32)
    else none
  else if o < 0x20000 then
    let d := (o - 0x10000) / 0x20
    let e := s.domain d
    if 1175 ≤ d then none else
    match o % 0x20 with
    | 0 => some e.mean
    | 4 => some e.least
    | 8 => some e.greatest
    | 0xC => some e.voltMv
    | 0x10 => some e.window
    | 0x18 => some e.energy
    | 0x1C => some (e.energy / 2 ^ 32)
    | _ => none
  else if o < 0x30000 then
    let c := (o - 0x20000) / 0x10
    let x := s.cluster c
    if 1152 ≤ c then none else
    match o % 0x10 with
    | 0 =>
      some (packBits [(x.cone, 0), (b2n (x.assigned && (s.saggar x.saggar).fixedOn), 3), (x.phasesOk.toNat, 4), (b2n x.derated, 8), (b2n x.dark, 9),
        (b2n x.asleep, 10), (b2n x.staging, 11), (s.setMv c % 1024, 12)])
    | 4 => some (packBits [(min x.budgetMw 0xFFFF, 0), (x.waitPm, 16)])
    | _ => none
  else if 0x40000 ≤ o ∧ o < 0x41000 then
    let g := s.saggar ((o - 0x40000) / 0x40)
    match o % 0x40 with
    | 0 => some g.busy
    | 4 => some (g.busy / 2 ^ 32)
    | 8 => some g.idle
    | 0xC => some (g.idle / 2 ^ 32)
    | 0x10 => some (packBits [(g.grantW % 65536, 0), (b2n g.fixedBroken, 16)])
    | _ => none
  else if 0x50000 ≤ o ∧ o < 0x54000 then
    let m := p.meters.get (fun _ => (0, 0)) ((o - 0x50000) / 0x10)
    match o % 0x10 with
    | 0 => some m.1
    | 4 => some (m.1 / 2 ^ 32)
    | 8 => some m.2
    | _ => some (m.2 / 2 ^ 32)
  else none

/-- Thermal registers, by offset from 0x0320_0000 (Tables 14-6, 14-7). -/
def readThermal (s : State) (o : Nat) : Option Nat :=
  let t := s.thermal
  if o = 0 then some (packBits [(t.inlet % 65536, 0), (t.outlet % 65536, 16)])
  else if o = 4 then some (packBits [(t.flow % 65536, 0), (t.dp % 65536, 16)])
  else if o = 8 then some (packBits [(t.heatW % 65536, 0), (t.flowWant % 65536, 16)])
  else if o = 0xC then
    some (packBits [(b2n t.coolantOor, 0), (b2n t.flowLimited, 1), (b2n t.kilnStale, 2), (b2n t.heatMismatch, 3)])
  else if 0x10000 ≤ o ∧ o < 0x19000 then
    let i := (o - 0x10000) / 8
    let k := o % 8 / 4
    let x := s.sensor (siteSensor i k)
    some (packBits [(s.siteTemp i k, 0), (b2n x.suspect, 16), (b2n x.failed, 17)])
  else if 0x30000 ≤ o ∧ o < 0x30480 then
    let b := (o - 0x30000) / 0x20
    let x := s.block b
    match o % 0x20 with
    | 0 => some (packBits [((s.sensor (layerSensor 0 b)).temp % 65536, 0), ((s.sensor (layerSensor 1 b)).temp % 65536, 16)])
    | 4 => some ((s.sensor (regSensor b)).temp % 65536)
    | 8 => some (packBits [(s.forecastCode (layerPoint 0 b), 0), (s.forecastCode (layerPoint 1 b), 16)])
    | 0xC =>
      some (packBits [(s.hottest (dieNode 0 b :: blockSites 0 b), 0), (s.hottest (dieNode 1 b :: blockSites 1 b), 16)])
    | 0x10 =>
      some (packBits [(s.forecastCode (footPoint b), 0), (b2n x.hiddenL1, 16), (b2n x.hiddenA, 17),
        (b2n (s.sensor (layerSensor 0 b)).suspect, 18), (b2n (s.sensor (layerSensor 1 b)).suspect, 19),
        (b2n (s.sensor (regSensor b)).suspect, 20), (x.tCone, 21)])
    | _ => none
  else if 0x40000 ≤ o ∧ o < 0x40040 then
    let m := (o - 0x40000) / 4
    some (packBits [((s.sensor (hbmSensor m)).temp % 65536, 0), (b2n (t.nbHalf.getLsbD m), 16), (b2n (t.nbHeld.getLsbD m), 17)])
  else if 0x50000 ≤ o ∧ o < 0x50000 + 196 * 0x20 then
    let w := s.wear ((o - 0x50000) / 0x20)
    match o % 0x20 with
    | 0 => some w.b0
    | 4 => some w.b1
    | 8 => some w.b2
    | 0xC => some w.b3
    | 0x10 => some (min w.ppm (top 32))
    | _ => none
  else if 0x60000 ≤ o ∧ o < 0x60100 then
    let g := s.saggar ((o - 0x60000) / 4)
    some (packBits [(b2n g.rotateDue, 0), (g.spread % 65536, 16)])
  else none

end State

/-- The 64 bytes of a cistern entry (Table 15-3). -/
def entryBytes (e : Entry) : List Byte :=
  leBytes 8 e.seq ++ leBytes 2 e.code ++ leBytes 1 (e.severity + 8 * b2n e.mirrored + 16 * b2n e.hasSaggar) ++
  leBytes 1 e.saggar ++ leBytes 4 (e.domain + e.index * 16) ++ leBytes 8 e.originCount.toNat ++ leBytes 4 e.suppressed ++
  leBytes 2 e.job ++ [0, 0] ++ e.payload

namespace State

/-- Cistern registers and the entry window, by offset from 0x0400_0000 (Table 15-6, R475). A slot without an entry reads
zeros. -/
def readCistern (s : State) (o : Nat) : Option Nat :=
  let c := s.rel
  let oldest := (c.entries.map (·.seq)).headD 0
  if o = 0 then some (packBits [(c.entries.length, 0), (c.mirror.length, 17), (b2n c.pending, 31)])
  else if o = 8 then some c.nextSeq
  else if o = 0xC then some (c.nextSeq / 2 ^ 32)
  else if o = 0x10 then some oldest
  else if o = 0x14 then some (oldest / 2 ^ 32)
  else if 0x20 ≤ o ∧ o < 0x3C then some (c.drops.get (fun _ => 0) ((o - 0x20) / 4))
  else if o = 0x40 then some c.mirrorDrop
  else if 0x100000 ≤ o ∧ o < 0x500000 then
    match c.entries.find? (fun e => e.slot == (o - 0x100000) / 0x40) with
    | some e => some (fieldAt (entryBytes e) (o % 0x40) 4)
    | none => some 0
  else none

/-- Fabric ports and the management port, by offset from 0x0500_0000 (Tables 12-8, 12-9; R404, R405). -/
def readFabric (s : State) (o : Nat) : Option Nat :=
  if o < 0x20000 then
    let p := s.port (o / 0x1000)
    let k := o % 0x1000
    if k = 0 then
      some (packBits [(p.state.code, 0), (b2n p.leader, 3), ((if o / 0x1000 < 16 then s.pkg.posValue % 16 else s.pkg.posValue / 16 % 16), 4),
        (p.leaderComb, 8), (p.echoNs % 1024, 12), (p.faultCause, 22)])
    else if k = 4 then some (packBits (p.present.map (fun c => (1, c)) ++ p.misplaced.map (fun c => (1, 16 + c))))
    else if 0x10 ≤ k ∧ k < 0x40 then some (p.counters.get (fun _ => 0) ((k - 0x10) / 4))
    else none
  else if o = 0x20000 then some (packBits [(b2n s.fab.linkUp, 0), (s.fab.sessions.length, 1)])
  else if o = 0x20004 then some s.fab.mgmtDropped
  else none

/-- Reliability registers, by offset from 0x0600_0000 (Table 15-6). -/
def readRel (s : State) (o : Nat) : Option Nat :=
  if o = 0 then
    some (packBits [((s.rel.granState.filter (fun p => p.2 == 2)).length, 0), (s.retiredRuns.length, 19)])
  else if 0x10000 ≤ o ∧ o < 0x10000 + 5634 * 0x10 then
    let r := s.region ((o - 0x10000) / 0x10)
    match o % 0x10 with
    | 0 => some (packBits [(r.level, 0), (b2n r.above, 16)])
    | 4 => some r.ceTotal
    | 8 => some r.ueTotal
    | _ => none
  else if 0x80000 ≤ o ∧ o < 0xA0000 then
    some (packBits ((List.range 16).map (fun k => (s.granCode ((o - 0x80000) * 4 + k), 2 * k))))
  else none

/-- Registers of a near-bank unit (Tables 8-7 to 8-9). -/
def readNb (s : State) (n o : Nat) : Option Nat :=
  let u := s.nb n
  let sh := fun k => u.shares.get (fun _ => 0) k
  if o = 0 then
    some (packBits [(u.state.code, 0), ((u.running.map (·.seq.saggar)).getD 0, 8), (b2n u.running.isSome, 14), (u.queue.length, 16)])
  else if o = 4 then some u.epoch.toNat
  else if o = 8 then
    some (match u.running with
      | some r => packBits [(r.opsDone, 0), (r.seq.tag, 16)]
      | none => 0)
  else if o = 0xC then some u.maxSteps
  else if o = 0x10 then some u.stepsRun
  else if o = 0x14 then some (u.stepsRun / 2 ^ 32)
  else if o = 0x18 then some u.retry
  else if o = 0x1C then some u.gapOver
  else if 0x100 ≤ o ∧ o < 0x140 then
    some (packBits ((List.range 4).map (fun k => (sh (o - 0x100 + k), 8 * k))))
  else none

/-- Security registers, by offset from 0x0800_0000 (Table 17-3). -/
def readSec (s : State) (o : Nat) : Option Nat :=
  if o = 0 then
    some (packBits [(b2n s.sec.identityOk, 0), (b2n s.sec.owned, 1), (b2n s.sec.dlogOver, 2), (s.fab.sessions.length, 3), (s.sec.rekeys, 7)])
  else if 0x100 ≤ o ∧ o < 0x180 then
    some (fieldAt (s.sec.meas.get Config.measAtReset ((o - 0x100) / 0x20)) (o % 0x20) 4)
  else none

/-- The site status entry (Tables 2-2 to 2-6). -/
def readSite (s : State) (i o : Nat) : Option Nat :=
  let x := s.site i
  if o = 0 then
    some (packBits [(x.role.code, 0), (b2n x.inReset, 2), (b2n x.gated, 3), (s.lcolSeen i, 4), ((s.siteOwner i).getD 0, 10),
      (b2n (s.siteOwner i).isSome, 16), (b2n x.shiftPending, 17)])
  else if o = 4 then some (s.coreOf i)
  else if o = 8 then some x.epoch.toNat
  else if o = 0x10 then some x.pri.word
  else if o = 0x14 then some x.resp.word
  else if o = 0x18 then some x.cas.word
  else if o = 0x1C then some x.bulk.word
  else if o = 0x20 then some x.cntSaggar
  else if o = 0x24 then some x.cntEpoch
  else if o = 0x28 then some x.cntReset
  else if o = 0x2C then some x.cntLate
  else none

/-- The register at a control space offset that is a multiple of 4: a register of 64 bits gives its whole value at its
first offset, and its upper half at the next. None where no table defines a register (R9, R319). -/
def regRead (s : State) (o : Nat) : Option Nat :=
  if o < 0x1000000 then s.readGlobal o
  else if o < 0x1400000 then s.readRing ((o - 0x1000000) / 0x100) (o % 0x100)
  else if 0x2000000 ≤ o ∧ o < 0x2100000 then s.readSluice ((o - 0x2000000) / 0x400) (o % 0x400)
  else if 0x3000000 ≤ o ∧ o < 0x3200000 then s.readPower (o - 0x3000000)
  else if 0x3200000 ≤ o ∧ o < 0x4000000 then s.readThermal (o - 0x3200000)
  else if 0x4000000 ≤ o ∧ o < 0x5000000 then s.readCistern (o - 0x4000000)
  else if 0x5000000 ≤ o ∧ o < 0x6000000 then s.readFabric (o - 0x5000000)
  else if 0x6000000 ≤ o ∧ o < 0x7000000 then s.readRel (o - 0x6000000)
  else if 0x7000000 ≤ o ∧ o < 0x7200000 then s.readNb ((o - 0x7000000) / 0x1000) (o % 0x1000)
  else if 0x8000000 ≤ o ∧ o < 0x9000000 then s.readSec (o - 0x8000000)
  else if 0x9000000 ≤ o ∧ o < 0x9120000 then s.readSite ((o - 0x9000000) / 0x100) (o % 0x100)
  else none

end State

/-! ### RWT registers (R7, R346) -/

/-- A register with RWT fields. -/
inductive RwtReg where
  | ringCfg (n : Nat) | ringSize (n : Nat) | ringBaseLo (n : Nat) | ringBaseHi (n : Nat)
  | sluBind (n : Nat)
  | nbMaxSteps (n : Nat) | nbShare (n k : Nat)
  | shape (site k : Nat)
deriving DecidableEq, Repr

/-- The RWT register at a control space offset (Tables 2-5, 7-6, 8-9, 11-4). -/
def rwtAt (o : Nat) : Option RwtReg :=
  if 0x1000000 ≤ o ∧ o < 0x2000000 then
    let n := (o - 0x1000000) / 0x100
    if 16384 ≤ n then none else
    match o % 0x100 with
    | 0 => some (.ringCfg n)
    | 4 => some (.ringSize n)
    | 8 => some (.ringBaseLo n)
    | 0xC => some (.ringBaseHi n)
    | _ => none
  else if 0x2000000 ≤ o ∧ o < 0x2100000 then
    (if o % 0x400 = 0 then some (.sluBind ((o - 0x2000000) / 0x400)) else none)
  else if 0x7000000 ≤ o ∧ o < 0x7200000 then
    let n := (o - 0x7000000) / 0x1000
    if o % 0x1000 = 0xC then some (.nbMaxSteps n)
    else if 0x100 ≤ o % 0x1000 ∧ o % 0x1000 < 0x140 then some (.nbShare n ((o % 0x1000 - 0x100) / 4))
    else none
  else if 0x9000000 ≤ o ∧ o < 0x9120000 then
    (if 0x10 ≤ o % 0x100 ∧ o % 0x100 < 0x20 then some (.shape ((o - 0x9000000) / 0x100) ((o % 0x100 - 0x10) / 4)) else none)
  else none

/-- Replace the bits of `old` that the mask names by those of `new`. -/
def mergeBits (old new mask : Nat) : Nat := (old &&& (mask ^^^ (2 ^ 32 - 1))) ||| (new &&& mask)

/-- Shape of virtual channel `k` of a site: 0 priority, 1 response, 2 cascade, 3 bulk. -/
def Site.shapeOf (x : Site) (k : Nat) : Shape :=
  match k with
  | 0 => x.pri | 1 => x.resp | 2 => x.cas | _ => x.bulk
def Site.setShape (x : Site) (k : Nat) (v : Shape) : Site :=
  match k with
  | 0 => { x with pri := v } | 1 => { x with resp := v } | 2 => { x with cas := v } | _ => { x with bulk := v }

/-- A shape register written: the bucket starts full (R55). -/
def Shape.ofWord (v now : Nat) : Shape :=
  { rate := v % 65536, burst := bits v 16 8, tokens := bits v 16 8 * 65536, lastUs := now }

namespace State

/-- The 32 bits of an RWT register. -/
def rwtGet (s : State) (r : RwtReg) : Nat :=
  match r with
  | .ringCfg n => (s.ring n).cfgWord
  | .ringSize n => (s.ring n).entries
  | .ringBaseLo n => (s.ring n).base % 2 ^ 32
  | .ringBaseHi n => (s.ring n).base / 2 ^ 32
  | .sluBind n => (s.sluice n).bindWord
  | .nbMaxSteps n => (s.nb n).maxSteps
  | .nbShare n k => ((s.readNb n (0x100 + 4 * k)).getD 0)
  | .shape i k => ((s.site i).shapeOf k).word

/-- Set the RWT fields of a register; reserved bits are not kept. -/
def rwtPut (s : State) (r : RwtReg) (v : Nat) : State :=
  match r with
  | .ringCfg n =>
    s.modRing n (fun x => { x with
      role := RingRole.ofCode (v % 4), saggar := bits v 8 6, oper := bitAt v 14, pair := bits v 16 14 })
  | .ringSize n => s.modRing n (fun x => { x with entries := v % 2 ^ 17 })
  | .ringBaseLo n => s.modRing n (fun x => { x with base := x.base / 2 ^ 32 * 2 ^ 32 + v % 2 ^ 32 })
  | .ringBaseHi n => s.modRing n (fun x => { x with base := x.base % 2 ^ 32 + v % 2 ^ 20 * 2 ^ 32 })
  | .sluBind n =>
    s.modSluice n (fun x => if x.bindWord = v then x else { x with
      saggar := v % 64, valid := bitAt v 6, ring := bits v 8 14
      state := if x.state = .inReset then .inReset else if bitAt v 6 then .idle else .unbound })
  | .nbMaxSteps n => s.modNb n (fun x => { x with maxSteps := v % 2 ^ 32 })
  | .nbShare n k =>
    s.modNb n (fun x => { x with
      shares := (List.range 4).foldl (fun t i => t.put (fun _ => 0) (4 * k + i) (bits v (8 * i) 8)) x.shares })
  | .shape i k => s.modSite i (fun x => x.setShape k (Shape.ofWord v s.nowUs))

end State
end Sys2Proof.Machine
end

