-- ==== Sys2Proof/Machine/Mesh.lean ====
section
/-! DEFINITION. The bulk mesh and the rill (chapter 2): injection (R43, R52, R55, R62), requests at a site (R62, R64,
R67, R202), responses (R53, R71), cascade nodes and all-or words (R142, R147), epoch updates (R66), remap changes (R42). -/
namespace Sys2Proof.Machine
open Sys2Proof

namespace State

/-! ### Answers -/

/-- A response reaches the core that sent the request `tag`: a load gets its bytes, a posted store or an exported node its
status (R138, R159). -/
def answerCore (s : State) (i tag st : Nat) (data : List Byte) : State :=
  let k := s.core i
  match k.run with
  | .stopping => (post s).stopDone i
  | .waitLoad w got bad =>
    (match w.find? (fun q => q.1 == tag) with
    | some (_, a, n) =>
      let got := if st = 0 then got ++ ((data.take n).zipIdx.map (fun p => (a + p.2, p.1))) else got
      let bad := if st = 0 ∨ bad.isSome then bad else some (st, a)
      (s.setCore i { k with run := .waitLoad (removeFirst (fun q => q.1 == tag) w) got bad }).resumeLoad i
    | none => post s)
  | _ => post s
where
  /-- The answer to a posted store or an exported node. -/
  post (s : State) : State :=
    let k := s.core i
    if tag ∈ k.posted then
      let s := s.setCore i { k with posted := k.posted.erase tag }
      let s := if st ≠ 0 then s.remoteStatus i st else s
      match (s.core i).run with
      | .waitFence stores => if (s.core i).posted.isEmpty then s.fenceDone i stores else s
      | _ => s
    else
      match (List.range 4).find? (fun a => match (k.acc a).exporting with
        | some x => x.waiting.any (fun p => p.1 == tag)
        | none => false) with
      | some a => s.exportAnswer i a tag st
      | none => s

/-- Answer a request: one response, from the place that was addressed (R53). -/
def respond (s : State) (p : Packet) (st : Nat) (data : List Byte) : State :=
  { s with outq := s.outq ++
      [{ p with
          dest := p.src, core := none, src := p.dest, vc := 1, epochCheck := false, kind := .other 0, payload := data
          flits := ceilDiv data.length 64, status := st, isResponse := true, operand := 0, inline := [] }] }

/-- A request that is not sent is answered at its source (R52, R62). -/
def answerLocal (s : State) (p : Packet) (st : Nat) : State :=
  if p.isResponse then s else if p.src < 4608 then s.answerCore p.src p.tag st [] else s

/-! ### Injection (R52, R55) -/

/-- Mesh cycles in a µs, by variant (Table 0-1). -/
def meshPerUs (s : State) : Nat := if s.fw.variant = 0 then 1125 else if s.fw.variant = 1 then 1000 else 875

/-- The bucket after a packet of `n` flits has gone out, none when it may not yet go (R55). A packet that spends more than
the bucket holds closes the channel until the tokens have come. -/
def Shape.spend (h : Shape) (now cyc n : Nat) : Option Shape :=
  if h.rate = 65535 then some h
  else if h.rate = 0 ∨ now < h.lastUs then none
  else
    let have_ := min (h.burst * 65536) (h.tokens + h.rate * cyc * (now - h.lastUs))
    if have_ < 65536 then none
    else if n * 65536 ≤ have_ then some { h with tokens := have_ - n * 65536, lastUs := now }
    else some { h with tokens := 0, lastUs := now + ceilDiv (n * 65536 - have_) (h.rate * cyc) }

/-- The destination of a packet: a logical core is translated through the row remap at injection (R43), with the epoch of
the site as the source last heard it (R141). -/
def translate (s : State) (p : Packet) : Option Packet :=
  match p.core with
  | none => some p
  | some c => (s.siteOfCore c).map (fun d => { p with dest := d, core := none, destEpoch := s.heardEpoch p.saggar d })

/-- The status that stops a packet at its source, 0 when it may go (R52, R62, R43). -/
def injectCheck (s : State) (p : Packet) : Nat :=
  if p.isResponse then 0
  else if p.src < 4608 ∧ !p.priv ∧ (s.siteOwner p.src).isNone then 0x0210
  else match s.translate p with
    | none => 0x0354
    | some q => lowest [check (decide (64 < p.flits)) 0x0101, check (p.vc = 0 && p.flits ≠ 0) 0x0101,
        check (decide (5248 ≤ q.dest)) 0x0110]

/-! ### Requests at a site -/

/-- The checks of a site before it applies a request: reset, saggar, epoch (R62, R64, R67). The state after counts the
refusal; the status is 0 when the request may be applied. -/
def siteGate (s : State) (p : Packet) : State × Nat :=
  let i := p.dest
  let up := fun (n : Nat) => satAdd (top 32) n 1
  if (s.site i).inReset then (s.modSite i (fun x => { x with cntReset := up x.cntReset }), 0x0602)
  else if !p.priv && s.siteOwner i != some p.saggar then
    ((s.modSite i (fun x => { x with cntSaggar := up x.cntSaggar })).record 0x2004 1 i (s.siteOwner i) 0 [], 0x0210)
  else if p.epochCheck && p.destEpoch != (s.site i).epoch then
    (s.modSite i (fun x => { x with cntEpoch := up x.cntEpoch }), 0x0601)
  else (s, 0)

/-- Apply a read or write at the windows of a site or at stack memory, and answer it (R198, R202, R207, R208). -/
def serveAccess (s : State) (p : Packet) (au : Auth) (path : Nat) : State :=
  match p.kind with
  | .read n =>
    let st := s.reach au false p.address n
    if st ≠ 0 then s.respond p st []
    else
      let r := s.load path p.src p.address n
      if r.2.1.isSome then r.1.respond p 0x0520 [] else r.1.respond p 0 r.2.2
  | .write =>
    let st := s.reach au true p.address p.payload.length
    if st ≠ 0 then s.respond p st []
    else
      let r := s.store path p.src p.address p.payload
      r.1.respond p (if r.2.isSome then 0x0520 else 0) []
  | _ => s.respond p 0x0110 []

/-- Packet `k` of the mesh is the oldest of its source, destination and channel (R50). -/
def meshHead (s : State) (k : Nat) (p : Packet) : Bool :=
  !((s.net.take k).any (fun q => q.src == p.src && q.dest == p.dest && q.vc == p.vc))

/-- The request `k` at a site, with packet `k` taken from the mesh. -/
def siteRequest (s : State) (k : Nat) (want : Kind → Bool) : Option (State × Packet) :=
  match s.net[k]? with
  | some p =>
    if !p.isResponse && decide (p.dest < 4608) && want p.kind && s.meshHead k p then some ({ s with net := dropAt s.net k }, p)
    else none
  | none => none

/-! ### Cascade nodes (R142) -/

/-- The node that a cascade packet carries. -/
def nodeOf (p : Packet) : Node :=
  let o := p.operand.toNat
  { slot := 0, lvl := bits o 2 5, idx := bits o 8 32, isPre := bitAt o 7, val := tileOf (unpackElems 0 1024 p.payload) }

/-- Table 5-2 after the site's own checks: the state after and the answer. -/
def takeNode (s : State) (p : Packet) : State × Nat :=
  let i := p.dest
  let a := bits p.operand.toNat 0 2
  let n := nodeOf p
  let r := (s.core i).acc a
  if r.redOpen = false ∨ r.redId ≠ bits p.operand.toNat 40 16 then (s, 0x0142)
  else if r.g < n.lvl ∨ (if n.isPre then n.lvl ≠ r.g ∨ r.nr ≤ n.idx else r.nb ≤ n.idx * 2 ^ n.lvl) then
    (s.failReduction i a 0x0141, 0x0141)
  else if r.covered n.first n.last then (s.failReduction i a 0x0140, 0x0140)
  else
    let t := insertNode insertFuel s i a n.lvl n.idx n.isPre n.val
    if t.2 then (t.1, 0) else (s.failReduction i a 0x0313, 0x0313)

/-- An all-or word at its member (R147): the state after and the answer. -/
def takeWord (s : State) (p : Packet) : State × Nat :=
  let i := p.dest
  let o := (s.core i).aor
  let w : W32 := BitVec.ofNat 32 (fieldAt p.inline 0 4)
  if o.isOpen = false ∨ o.redId ≠ bits p.operand.toNat 40 16 ∨ o.done then (s, 0x0142)
  else if p.kind = .allorUp then
    (match o.waiting with
    | [] => (s, 0x0142)
    | _ :: r =>
      ((s.modCore i (fun k => { k with aor := { k.aor with word := k.aor.word ||| w, waiting := r } })).aorAdvance i, 0))
  else if o.self = 0 then (s, 0x0142)
  else ((s.modCore i (fun k => { k with aor := { k.aor with word := w, done := true } })).aorDown i, 0)

end State

/-- PACKET_INJECT: packet `k` of the injection queues enters the mesh when it is the oldest of its source and channel and a
token is there (R55), or is answered at its source (R52, R62). -/
def execPacketInject (k : Nat) (s : State) : Out :=
  match s.outq[k]? with
  | none => .next s
  | some p =>
    if (s.outq.take k).any (fun q => q.src == p.src && q.vc == p.vc) then .next s
    else
      let t := { s with outq := dropAt s.outq k }
      if s.injectCheck p ≠ 0 then .next (t.answerLocal p (s.injectCheck p))
      else
        let q := (s.translate p).getD p
        let q := if p.src < 4608 ∧ !p.isResponse ∧ !p.priv then { q with saggar := (s.siteOwner p.src).getD q.saggar } else q
        if p.src < 4608 then
          match State.Shape.spend ((s.site p.src).shapeOf p.vc) s.nowUs s.meshPerUs (p.flits + 1) with
          | none => .next s
          | some h => .next { t.modSite p.src (fun x => x.setShape p.vc h) with net := s.net ++ [q] }
        else .next { t with net := s.net ++ [q] }

/-- MESH_REQUEST_ARRIVAL: a read or write reaches a site, which answers it under its checks or applies it (R62). -/
def execMeshRequestArrival (k : Nat) (strikes : Strikes) (s : State) : Out :=
  match s.siteRequest k (fun q => q != .casNode && q != .allorUp && q != .allorDown) with
  | none => .next s
  | some (t, p) =>
    let g := t.siteGate p
    if g.2 ≠ 0 then .next (g.1.respond p g.2 [])
    else .next ((g.1.strike strikes).serveAccess p { saggar := p.saggar, isPriv := p.priv, carve := false } 3)

/-- MESH_RESPONSE_ARRIVAL: a response reaches its source site, or is discarded and counted while the site is in reset
(R53, R67, R71). -/
def execMeshResponseArrival (k : Nat) (s : State) : Out :=
  match s.net[k]? with
  | some p =>
    if p.isResponse && decide (p.dest < 4608) && s.meshHead k p then
      let t := { s with net := dropAt s.net k }
      if (s.site p.dest).inReset then
        .next (t.modSite p.dest (fun x =>
          { x with cntLate := satAdd (top 32) x.cntLate 1, lateNow := satAdd (top 32) x.lateNow 1 }))
      else .next (t.answerCore p.dest p.tag p.status p.payload)
    else .next s
  | none => .next s

/-- PRIORITY_FLIT_AGED: a router finds a priority flit older than 400 ns (R58). -/
def execPriorityFlitAged (site : Nat) (s : State) : Out :=
  if site < sitesN then .next (s.record 0x2006 2 site (s.siteOwner site) 0 []) else .next s

/-- CASCADE_NODE_ARRIVAL (R142). -/
def execCascadeNodeArrival (k : Nat) (s : State) : Out :=
  match s.siteRequest k (fun q => q == .casNode) with
  | none => .next s
  | some (t, p) =>
    let g := t.siteGate p
    if g.2 ≠ 0 then .next (g.1.respond p g.2 [])
    else let r := g.1.takeNode p
         .next (r.1.respond p r.2 [])

/-- ALLOR_WORD_ARRIVAL (R147). -/
def execAllorWordArrival (k : Nat) (s : State) : Out :=
  match s.siteRequest k (fun q => q == .allorUp || q == .allorDown) with
  | none => .next s
  | some (t, p) =>
    let g := t.siteGate p
    if g.2 ≠ 0 then .next (g.1.respond p g.2 [])
    else let r := g.1.takeWord p
         .next (r.1.respond p r.2 [])

/-- EPOCH_UPDATE: rill message `k` tells the sites of its saggars an epoch (R66). -/
def execEpochUpdate (k : Nat) (s : State) : Out :=
  match s.rill[k]? with
  | some (.epoch unit v l) =>
    .next { s with
      rill := dropAt s.rill k
      heard := l.foldl (fun t g => t.put (fun _ => 1) (g * 65536 + unit) v) s.heard }
  | _ => .next s

/-- The sites of a remap change take their new columns and pass through reset; no move of the retired site waits (R42). -/
def State.moveSites (s : State) (r : Remap) : State :=
  (r.moves.foldl (fun s m =>
    (s.modSite m.1 (fun x => { x with lcol := m.2, shiftPending := false })).cycleSite m.1) s).modSite r.retired
      (fun x => { x with shiftPending := false })

/-- REMAP_APPLY: a remap change applies once every saggar that it concerns is quiescent (R42): the sites take their new
columns, the epoch of every moved site advances by 2, and event 0x2001 is recorded. -/
def execRemapApply (k : Nat) (s : State) : Out :=
  match s.remaps[k]? with
  | none => .next s
  | some r =>
    if r.waitFor.all s.quiescent then
      let s := { s with remaps := dropAt s.remaps k }.moveSites r
      .next ((s.recordFw 5 0x2001 (s.siteOwner r.retired) 0 []).releaseSaggars r.waitFor)
    else .next s

/-- REMAP_QUIESCENCE_TIMEOUT: a remap change has waited 10 s: event 0x2003, and it keeps waiting (R42). -/
def execRemapQuiescenceTimeout (k : Nat) (s : State) : Out :=
  match s.remaps[k]? with
  | none => .next s
  | some r =>
    if r.timeoutSeen = false ∧ r.waitFor.all s.quiescent = false ∧ r.sinceUs + 10000000 ≤ s.nowUs then
      .next ({ s with remaps := s.remaps.set k { r with timeoutSeen := true } }.recordFw 5 0x2003 none 0 [])
    else .next s

end Sys2Proof.Machine
end

