-- ==== Sys2Proof/Machine/Crypto.lean ====
section
/-! DEFINITION. The ciphers that the manual names as published standards: SM3 (GB/T 32905), SM4 (GB/T 32907) and the
Galois/Counter mode over SM4. PRESUMED: the manual cites the standards and does not print them; log entry 22. -/
namespace Sys2Proof.Machine
open Sys2Proof

/-- Rotate a 32-bit word left. -/
def rotl32 (x k : Nat) : Nat := let k := k % 32; (x <<< k ||| x >>> (32 - k)) % 2 ^ 32

/-! ### SM3 -/

def sm3Iv : List Nat :=
  [0x7380166F, 0x4914B2B9, 0x172442D7, 0xDA8A0600, 0xA96F30BC, 0x163138AA, 0xE38DEE4D, 0xB0FB0E4E]
def sm3P0 (x : Nat) : Nat := x ^^^ rotl32 x 9 ^^^ rotl32 x 17
def sm3P1 (x : Nat) : Nat := x ^^^ rotl32 x 15 ^^^ rotl32 x 23

/-- The message words after word 15; the list holds the last sixteen words, newest first. -/
def sm3Expand : Nat → List Nat → List Nat
  | 0, w => w
  | f + 1, w =>
    let g := fun k => w.getD (k - 1) 0
    sm3Expand f ((sm3P1 (g 16 ^^^ g 9 ^^^ rotl32 (g 3) 15) ^^^ rotl32 (g 13) 7 ^^^ g 6) :: w)

/-- One round on the eight words A to H. -/
def sm3Round (j w w' : Nat) (v : List Nat) : List Nat :=
  match v with
  | [a, b, c, d, e, f, g, h] =>
    let t := if j < 16 then 0x79CC4519 else 0x7A879D8A
    let ss1 := rotl32 ((rotl32 a 12 + e + rotl32 t j) % 2 ^ 32) 7
    let ss2 := ss1 ^^^ rotl32 a 12
    let ff := if j < 16 then a ^^^ b ^^^ c else (a &&& b) ||| (a &&& c) ||| (b &&& c)
    let gg := if j < 16 then e ^^^ f ^^^ g else (e &&& f) ||| ((2 ^ 32 - 1 - e) &&& g)
    let tt1 := (ff + d + ss2 + w') % 2 ^ 32
    let tt2 := (gg + h + ss1 + w) % 2 ^ 32
    [tt1, a, rotl32 b 9, c, sm3P0 tt2, e, rotl32 f 19, g]
  | _ => v

/-- Compress one 64-byte block, given as sixteen words. -/
def sm3Block (v w16 : List Nat) : List Nat :=
  let w := (sm3Expand 52 w16.reverse).reverse
  let r := (List.range 64).foldl (fun v j => sm3Round j (w.getD j 0) (w.getD j 0 ^^^ w.getD (j + 4) 0) v) v
  (v.zip r).map (fun p => p.1 ^^^ p.2)

/-- The 64-byte blocks of a message, as words. -/
def sm3Blocks : Nat → List Byte → List Nat → List Nat
  | 0, _, v => v
  | f + 1, bs, v =>
    sm3Blocks f (bs.drop 64) (sm3Block v ((List.range 16).map (fun i => beNat ((bs.drop (4 * i)).take 4))))

/-- The SM3 digest of a byte string, 32 bytes. -/
def sm3 (m : List Byte) : List Byte :=
  let n := m.length
  let pad := 0x80#8 :: (List.replicate ((119 - n % 64) % 64) 0 ++ beBytes 8 (8 * n))
  let all := m ++ pad
  (sm3Blocks (all.length / 64) all sm3Iv).flatMap (beBytes 4)

/-! ### SM4 -/

/-- The S-box, rows of sixteen bytes as big-endian numbers. -/
def sm4Rows : List Nat :=
  [0xd690e9fecce13db716b614c228fb2c05, 0x2b679a762abe04c3aa44132649860699,
   0x9c4250f491ef987a33540b43edcfac62, 0xe4b31ca9c908e89580df94fa758f3fa6,
   0x4707a7fcf37317ba83593c19e6854fa8, 0x686b81b27164da8bf8eb0f4b70569d35,
   0x1e240e5e6358d1a225227c3b01217887, 0xd40046579fd327524c3602e7a0c4c89e,
   0xeabf8ad240c738b5a3f7f2cef96115a1, 0xe0ae5da49b341a55ad933230f58cb1e3,
   0x1df6e22e8266ca60c02923ab0d534e6f, 0xd5db3745defd8e2f03ff6a726d6c5b51,
   0x8d1baf92bbddbc7f11d95c411f105ad8, 0x0ac13188a5cd7bbd2d74d012b8e5b4b0,
   0x8969974a0c96777e65b9f109c56ec684, 0x18f07dec3adc4d2079ee5f3ed7cb3948]
def sm4S (x : Nat) : Nat := bits (sm4Rows.getD (x / 16 % 16) 0) (120 - 8 * (x % 16)) 8
def sm4Tau (x : Nat) : Nat :=
  sm4S (bits x 24 8) * 2 ^ 24 + sm4S (bits x 16 8) * 2 ^ 16 + sm4S (bits x 8 8) * 2 ^ 8 + sm4S (bits x 0 8)
def sm4L (b : Nat) : Nat := b ^^^ rotl32 b 2 ^^^ rotl32 b 10 ^^^ rotl32 b 18 ^^^ rotl32 b 24
def sm4L' (b : Nat) : Nat := b ^^^ rotl32 b 13 ^^^ rotl32 b 23
/-- CK_i: bytes (4 i + j) · 7 mod 256. -/
def sm4Ck (i : Nat) : Nat :=
  (List.range 4).foldl (fun a j => a * 256 + (4 * i + j) * 7 % 256) 0

/-- Round keys from the last four key words. -/
def sm4Keys : Nat → Nat → Nat → Nat → Nat → Nat → List Nat
  | 0, _, _, _, _, _ => []
  | f + 1, i, a, b, c, d =>
    let k := a ^^^ sm4L' (sm4Tau (b ^^^ c ^^^ d ^^^ sm4Ck i))
    k :: sm4Keys f (i + 1) b c d k

/-- Encrypt one 128-bit block. -/
def sm4 (key x : Nat) : Nat :=
  let mk := fun i => bits key (96 - 32 * i) 32
  let ks := sm4Keys 32 0 (mk 0 ^^^ 0xA3B1BAC6) (mk 1 ^^^ 0x56AA3350) (mk 2 ^^^ 0x677D9197) (mk 3 ^^^ 0xB27022DC)
  let r := ks.foldl (fun (v : Nat × Nat × Nat × Nat) k =>
    (v.2.1, v.2.2.1, v.2.2.2, v.1 ^^^ sm4L (sm4Tau (v.2.1 ^^^ v.2.2.1 ^^^ v.2.2.2 ^^^ k))))
    (bits x 96 32, bits x 64 32, bits x 32 32, bits x 0 32)
  r.2.2.2 * 2 ^ 96 + r.2.2.1 * 2 ^ 64 + r.2.1 * 2 ^ 32 + r.1

/-! ### Galois/Counter mode -/

/-- Product in GF(2¹²⁸) with the most significant bit first. -/
def gfMul (x y : Nat) : Nat :=
  ((List.range 128).foldl (fun (zv : Nat × Nat) i =>
    (if bitAt x (127 - i) then zv.1 ^^^ zv.2 else zv.1,
      if zv.2 % 2 = 1 then (zv.2 / 2) ^^^ 0xE1000000000000000000000000000000 else zv.2 / 2)) (0, y)).1

/-- 16-byte blocks as big-endian numbers, the last one padded with zeros. -/
def gcmBlocks : Nat → List Byte → List Nat
  | 0, _ => []
  | f + 1, bs => if bs.isEmpty then [] else beNat (bs.take 16 ++ List.replicate (16 - bs.length) 0) :: gcmBlocks f (bs.drop 16)

def gcmHash (h : Nat) (aad ct : List Byte) : Nat :=
  (gcmBlocks (aad.length / 16 + 1) aad ++ gcmBlocks (ct.length / 16 + 1) ct ++
    [aad.length * 8 * 2 ^ 64 + ct.length * 8]).foldl (fun y b => gfMul (y ^^^ b) h) 0

/-- Key stream from a 96-bit nonce: block 1 is for the tag, blocks 2 onward for the text. -/
def gcmStream (key iv n : Nat) : List Byte :=
  ((List.range (ceilDiv n 16)).flatMap (fun i => beBytes 16 (sm4 key (iv * 2 ^ 32 + i + 2)))).take n

/-- Encrypt or decrypt a text (the operation is its own inverse). -/
def gcmCrypt (key iv : Nat) (t : List Byte) : List Byte := (t.zip (gcmStream key iv t.length)).map (fun p => p.1 ^^^ p.2)
/-- The 16-byte tag of associated data and ciphertext. -/
def gcmTag (key iv : Nat) (aad ct : List Byte) : List Byte :=
  beBytes 16 (gcmHash (sm4 key 0) aad ct ^^^ sm4 key (iv * 2 ^ 32 + 1))

end Sys2Proof.Machine
end

