-- ==== Sys2Proof/Machine/Measure.lean ====
section
/-! DEFINITION. Measurement registers and logs (R512 to R514), which commits, bring-up and the security commands extend. -/
namespace Sys2Proof.Machine
open Sys2Proof

/-- The register after a measurement event (R512). -/
def measStep (m : List Byte) (type : Nat) (digest : List Byte) : List Byte := sm3 (m ++ leBytes 2 type ++ digest)

/-- A log entry of 64 bytes (R514). -/
def logEntry (index reg type data : Nat) (digest : List Byte) : List Byte :=
  leBytes 8 index ++ leBytes 1 reg ++ [0] ++ leBytes 2 type ++ leBytes 4 data ++ digest ++ List.replicate 16 0

def zeroDigest : List Byte := List.replicate 32 0

namespace State

/-- MEASr; an unlisted register stands as the bisque start of the shipped part left it. -/
def meas (s : State) (r : Nat) : List Byte := s.sec.meas.get Config.measAtReset r

/-- A measurement event of MEAS`r`: the register is extended and the device log grows, up to 1,024 entries; a full log
sets its overflow flag, with event 0xA007 once (R512, R514). -/
def extendDev (s : State) (r type data : Nat) (digest : List Byte) : State :=
  let s := { s with sec := { s.sec with
    meas := s.sec.meas.put Config.measAtReset r (measStep (s.meas r) type digest) } }
  if s.sec.dlog.length < 1024 then
    { s with sec := { s.sec with dlog := s.sec.dlog ++ [logEntry s.sec.dlog.length r type data digest] } }
  else if s.sec.dlogOver then s
  else ({ s with sec := { s.sec with dlogOver := true } }).recordFw 5 0xA007 none 0 (p4 0)

/-- A measurement event of SMEAS of a saggar, with its log of 256 entries (R512, R514). -/
def extendSag (s : State) (sag type data : Nat) (digest : List Byte) : State :=
  let s := s.modSaggar sag (fun g => { g with smeas := measStep g.smeas type digest })
  let g := s.saggar sag
  if g.slog.length < 256 then
    s.setSaggar sag { g with slog := g.slog ++ [logEntry g.slog.length 4 type data digest] }
  else if g.slogOver then s
  else (s.setSaggar sag { g with slogOver := true }).recordFw 5 0xA007 (some sag) 0 (p4 (1 + sag))

/-- A bitmap of `n` bytes. -/
def bitmap (n : Nat) (p : Nat → Bool) : List Byte :=
  (List.range n).map (fun k => BitVec.ofNat 8 ((List.range 8).foldl (fun a i => a + b2n (p (8 * k + i)) * 2 ^ i) 0))

/-- The resource image of a saggar (R513): FAB_PEER bytes hold the peer and VALID. -/
def resourceImage (s : State) (sag : Nat) : List Byte :=
  let gran := (s.owners.filter (fun p => p.2.assigned && p.2.saggar == sag)).map (·.1)
  sm3 (bitmap 144 (fun c => decide (c ∈ s.saggarClusters sag)) ++ bitmap 65536 (fun g => decide (g ∈ gran)) ++
    leBytes 1 (b2n (s.saggar sag).carveoutAccess) ++
    (List.range 256).map (fun p => BitVec.ofNat 8 (s.fab.peers.get (fun _ => 0) (sag * 256 + p) % 128)))

end State
end Sys2Proof.Machine
end

