-- ==== Sys2Proof/Machine/Closing.lean ====
section
/-! DEFINITION. The end of a reset (R490, R492) and of SAGGAR_CLOSE (R356): what is left to do when every unit has
returned. -/
namespace Sys2Proof.Machine
open Sys2Proof

namespace State

/-! ### SAGGAR_CLOSE (R356) -/

/-- Granules that a saggar owns. -/
def saggarGranules (s : State) (sag : Nat) : List Nat :=
  (s.owners.filter (fun p => p.2.assigned && p.2.saggar == sag)).map (·.1)

/-- Rings of a saggar that have a role; operator rings are never among those of an active saggar (R355). -/
def saggarRings (s : State) (sag : Nat) : List Nat :=
  (s.rings.filter (fun p => p.2.saggar == sag && p.2.role != .disabled && !p.2.oper)).map (·.1)

/-- Sluices bound to a saggar. -/
def saggarSluices (s : State) (sag : Nat) : List Nat :=
  (s.sluices.filter (fun p => p.2.valid && p.2.saggar == sag)).map (·.1)

/-- Step 3: granules are zero-filled and unassigned, clusters unassigned, rings disabled, sluices unbound and shares
0. -/
def closeResources (s : State) (sag : Nat) : State :=
  let s := (s.saggarGranules sag).foldl (fun s g =>
    (s.zeroGranule g).setOwner g { s.owner g with saggar := 0, assigned := false }) s
  let s := (s.saggarClusters sag).foldl (fun s c => s.modCluster c (fun x => { x with saggar := 0, assigned := false })) s
  let s := (s.saggarRings sag).foldl (fun s n => s.modRing n (fun r => { r with role := .disabled })) s
  let s := (s.saggarSluices sag).foldl (fun s n => s.modSluice n (fun x => { x with saggar := 0, valid := false, ring := 0, state := .unbound })) s
  let s := (s.nbs.map (·.1)).foldl (fun s n => s.modNb n (fun u => { u with shares := u.shares.put (fun _ => 0) sag 0 })) s
  s.modSaggar sag (fun g => { g with inflightShare := 0, fabShare := 0 })

/-- Number of a key in the counters and replay windows: pond key of a port, pair key of saggar and position. -/
def pondKeyId (port : Nat) : Nat := port
def pairKeyId (k : Nat) : Nat := 32 + k

/-- Erase one pair key, with event 0xA005 of kind 2 (R522, R525). -/
def erasePair (s : State) (k : Nat) : State :=
  ({ s with sec := { s.sec with
      pairKeys := s.sec.pairKeys.drop k, txCounters := s.sec.txCounters.filter (fun p => p.1 / 32 != pairKeyId k) } }).recordFw 5 0xA005 (some (k / 256)) 0
    (p4 2 ++ p4 k)

/-- Result words of the close of a job: energy, then µs since JOB_OPEN (R359). -/
def jobResult (s : State) (j : Job) : Result :=
  let e := j.busy + j.idle
  let t := s.nowUs - j.openedUs
  { progress := 0, r0 := e % 2 ^ 32, r1 := e / 2 ^ 32 % 2 ^ 32, r2 := t % 2 ^ 32, r3 := t / 2 ^ 32 % 2 ^ 32 }

/-- Step 4: pair keys, wrap key and HASH_KEY are erased, and the saggar's jobs closed; a JOB_CLOSE that waits for one of them
completes. -/
def closeKeys (s : State) (sag : Nat) : State :=
  let s := ((s.sec.pairKeys.map (·.1)).filter (fun k => k / 256 == sag)).foldl erasePair s
  let s := (s.jobs.filter (fun j => j.saggar == sag)).foldl (fun s j =>
    match j.closing with
    | some id => s.finish id 0 (s.jobResult j)
    | none => s) s
  let s := { s with
    sec := { s.sec with wrapKeys := s.sec.wrapKeys.drop sag }
    jobs := s.jobs.filter (fun j => j.saggar != sag) }
  s.modSaggar sag (fun g => { g with hashKey := 0 })

/-- Steps 3 to 5 of SAGGAR_CLOSE, once the saggar reset has ended. -/
def closeSaggar (s : State) (sag : Nat) (cmd : Option Nat) : State :=
  let e := (s.saggar sag).busy + (s.saggar sag).idle
  let s := (s.closeResources sag).closeKeys sag
  let s := s.modSaggar sag (fun g => { g with
    active := false, smeas := zeroDigest, slog := [], slogOver := false, quiescing := g.quiescing - 1 })
  let s := s.recordFw 1 0xB007 (some sag) 0 (p4 sag ++ p8 e)
  match cmd with
  | some id => s.finish id 0 (Result.wide e)
  | none => s

/-! ### Resets that end (R490, R492) -/

/-- End a reset all of whose units have returned: its command completes, and SAGGAR_CLOSE goes on. -/
def endReset (s : State) (r : ResetRun) : State :=
  match r.closing, r.cmd with
  | some g, c => s.closeSaggar g c
  | none, some id => s.finish id 0 Result.zero
  | none, none => s

/-- End every reset that is over. -/
def settleResets (s : State) : State :=
  let done := s.fw.resets.filter ResetRun.isOver
  done.foldl endReset { s with fw := { s.fw with resets := s.fw.resets.filter (fun r => !r.isOver) } }

/-- A near-bank unit that runs no sequence any more: no reset waits for it. -/
def unitSettle (s : State) (n : Nat) : State :=
  if (s.nb n).running.isNone then (s.unitReturned n).settleResets else s

end State
end Sys2Proof.Machine
end

