-- ==== Sys2Proof/Machine/Memory.lean ====
section
/-! DEFINITION. Stack memory at its attach ports (R198, R207, R208, R243, R244), the host's CXL.mem requests (R201) and
refresh (R209 to R211). -/
namespace Sys2Proof.Machine
open Sys2Proof

namespace State

/-! ### Attach ports -/

/-- Refuse or serve an ordinary read or write at the attach port of channel `n` (R198). A request without PRIV reaches only
granules of its saggar; a refusal for ownership is event 0x3010. -/
def attachServe (s : State) (n : Nat) (p : Packet) (strikes : Strikes) : State :=
  let au : Auth := { saggar := p.saggar, isPriv := p.priv, carve := false }
  let len := match p.kind with
    | .read k => k
    | _ => p.payload.length
  let st := s.reach au (p.kind == .write) p.address len
  let s := if st = 0x0220 then
      let g := (State.gransOf p.address len).headD 0
      s.record 0x3010 4 n (s.granOwner g) 0 (p8 p.address ++ p4 p.saggar) else s
  (s.strike strikes).serveAccess p au 3

/-- While a sequence runs on channel `n`, ordinary requests wait for the gap after a step (R243). -/
def stepsRun (s : State) (n : Nat) : Bool := (s.nb n).state == .inStep || (s.nb n).state == .inGap

/-- 64-byte requests that a packet makes. -/
def gapWeight (p : Packet) : Nat :=
  max 1 (ceilDiv (match p.kind with
    | .read k => k
    | _ => p.payload.length) 64)

/-- How many of the queued requests a gap serves: those that fit 128 requests of 64 bytes (R243). -/
def gapTake : Nat → List Packet → Nat
  | _, [] => 0
  | room, p :: r => if gapWeight p ≤ room then 1 + gapTake (room - gapWeight p) r else 0

/-- Serve the gap of channel `n`: the requests that were queued when the step ended, up to 128 of 64 bytes. Those left over
wait beyond one gap: each counts once in NB_GAP_OVER, with event 0x4006 (R243, Table 8-9). -/
def serveGap (s : State) (n : Nat) : State :=
  let u := s.nb n
  let ready := u.gapq.take u.gapReady
  let k := max (gapTake 128 ready) (min 1 ready.length)
  let left := ready.length - k
  let fresh := left - (u.gapWaited - k)
  let s := s.setNb n { u with
    gapq := u.gapq.drop k
    gapReady := 0
    gapWaited := left
    gapOver := satAdd (top 32) u.gapOver fresh }
  let s := if 0 < fresh then s.record 0x4006 4 n none 0 (p4 fresh) else s
  (ready.take k).foldl (fun s p => s.attachServe n p { ce := [], ue := [] }) s

end State

/-- ATTACH_PORT_REQUEST: request `k` reaches the attach port of a channel, which checks and serves it, or keeps it for the
next gap while a near-bank sequence runs there (R198, R243). -/
def execAttachPortRequest (k : Nat) (strikes : Strikes) (s : State) : Out :=
  match s.net[k]? with
  | some p =>
    if !p.isResponse && decide (4608 ≤ p.dest ∧ p.dest < 5120) && p.kind != .nbCommand && s.meshHead k p then
      let t := { s with net := dropAt s.net k }
      let n := p.dest - 4608
      if t.stepsRun n then .next ((t.strike strikes).modNb n (fun u => { u with gapq := u.gapq ++ [p] }))
      else .next (t.attachServe n p strikes)
    else .next s
  | none => .next s

/-- CXL_MEM_REQUEST: the host reads or writes the 64-byte line at an offset of its HDM range (R201, R317). Outside the
carve-out, or while the granule is filled, a read gives poison, a write is dropped and event 0x3010 names the module. -/
def execCxlMemRequest (module : Nat) (write : Bool) (offset : Nat) (data : List Byte) (strikes : Strikes) (s : State) : Out :=
  if module ∉ s.host.modules ∨ offset % 64 ≠ 0 then .next s
  else
    let a := firstCarveGranule s.fw.carveoutNow * 0x200000 + offset
    let g := a / 0x200000
    let put := fun (s : State) (v : Option (List Byte)) => { s with host := { s.host with lastRead := v } }
    if !(decide (a < linearBase) && (s.owner g).carveout && !(s.owner g).assigned && !decide (g ∈ s.filling) && !s.isDonor g) then
      let t := s.record 0x3010 5 module (s.granOwner g) 0 (p8 a ++ p4 ((s.granOwner g).getD 0))
      .next (if write then t else put t none)
    else
      let s := s.strike strikes
      if write then .next (s.store 6 0xFFFF a ((data ++ List.replicate 64 0).take 64)).1
      else
        let r := s.load 6 0xFFFF a 64
        .next (put r.1 (if r.2.1.isSome then none else some r.2.2))

/-- COLUMN_REFRESH: the refresh controller of a block refreshes its rows in both layers; data does not change (R209,
R210). -/
def execColumnRefresh (block : Nat) (s : State) : Out :=
  if block < 36 then .next (s.setBlock block { s.block block with refreshes := (s.block block).refreshes + 1 }) else .next s

/-- The refresh of a block and layer moves to double rate at a temperature in 1/16 °C, with event 0x3030 (R209, R210). -/
def State.doubleRate (s : State) (block layer temp : Nat) : State :=
  let b := s.block block
  if (if layer = 0 then b.double0 else b.double1) then s
  else
    let s := s.setBlock block (if layer = 0 then { b with double0 := true } else { b with double1 := true })
    s.recordFw 3 0x3030 none 0 (p4 block ++ p4 layer ++ p4 temp)

/-- REFRESH_RATE_CHANGE: the temperature of a block and layer, in 1/16 °C, exceeds 85 °C and its refresh moves to double
rate (R209, R210). -/
def execRefreshRateChange (block layer temp : Nat) (s : State) : Out :=
  if block < 36 ∧ layer < 2 ∧ 1360 < temp then .next (s.doubleRate block layer temp) else .next s

/-- REFRESH_NORMAL_RETURN: the block has stayed at or below 83 °C for 10 ms (R209, R210). While the kiln model does not
run, refresh stays at double rate. -/
def execRefreshNormalReturn (block layer : Nat) (s : State) : Out :=
  let b := s.block block
  if block < 36 ∧ layer < 2 ∧ s.thermal.kilnStale = false ∧ (if layer = 0 then b.double0 else b.double1) = true then
    let s := s.setBlock block (if layer = 0 then { b with double0 := false } else { b with double1 := false })
    .next (s.recordFw 3 0x3031 none 0 [])
  else .next s

/-- HBM_REFRESH: a per-bank refresh is issued within the JEDEC limit (R211). Refresh changes no data, and the model keeps
no time of it. -/
def execHbmRefresh (_channel _bank : Nat) (s : State) : Out := .next s

end Sys2Proof.Machine
end

