-- ==== Sys2Proof/Machine/Sluice.lean ====
section
/-! DEFINITION. Sluices (chapter 7): descriptors (R214, R215), conversion in flight (R216), layout maps and resharding
(R148 to R151, R217), the checks of R219 and R220, halts and resume (R224, R225, R537) and the return from reset (R226).
A descriptor's moves happen as one when it completes or halts. -/
namespace Sys2Proof.Machine
open Sys2Proof

/-! ### Descriptors (Table 7-7) -/

structure Desc where
  type : Nat
  dims : Nat
  idx64 : Bool
  sf : Nat
  df : Nat
  rm : Nat
  ovf : Bool
  iscale : Bool
  rscale : Bool
  irq : Bool
  tag : Nat
  tid : Nat
  c0 : Nat
  c1 : Nat
  c2 : Nat
  src : Nat
  dst : Nat
  ss1 : Nat
  ss2 : Nat
  ds1 : Nat
  ds2 : Nat
  sscale : Nat
  dscale : Nat
  index : Nat
  idx : Nat
  pattern : List Byte
deriving DecidableEq, Repr

/-- The fields of a descriptor; a count that its type does not use is 1. -/
def Desc.of (b : List Byte) : Desc :=
  let f := fieldAt b
  let ad := fun lo => f lo 8 % 2 ^ 52
  let type := f 0 1 % 16
  let dims := bits (f 0 1) 4 2
  let rows := type == 1 || type == 2
  { type := type, dims := dims, idx64 := bitAt (f 0 1) 6, sf := f 1 1 % 16, df := f 1 1 / 16, rm := f 2 1 % 4,
    ovf := bitAt (f 2 1) 2, iscale := bitAt (f 2 1) 3, rscale := bitAt (f 2 1) 4, irq := bitAt (f 2 1) 5, tag := f 4 2,
    tid := f 8 4, c0 := f 12 4, c1 := if rows || decide (2 ≤ dims) then f 16 2 else 1,
    c2 := if !rows && dims == 3 then f 18 2 else 1, src := ad 24, dst := ad 32, ss1 := ad 40, ss2 := ad 48,
    ds1 := ad 56, ds2 := ad 64, sscale := ad 72, dscale := ad 80, index := ad 88, idx := f 96 6,
    pattern := (b.drop 24).take 8 }

/-- GATHER or SCATTER. -/
def Desc.indexed (d : Desc) : Bool := d.type == 1 || d.type == 2
/-- Rows of a COPY, FILL, GATHER or SCATTER. -/
def Desc.rows (d : Desc) : Nat := d.c1 * d.c2
/-- Source and destination of row `q` of a COPY or FILL (Table 7-8). -/
def Desc.rowSrc (d : Desc) (q : Nat) : Nat := d.src + q % d.c1 * d.ss1 + q / d.c1 * d.ss2
def Desc.rowDst (d : Desc) (q : Nat) : Nat := d.dst + q % d.c1 * d.ds1 + q / d.c1 * d.ds2
/-- The elements are converted (R216). -/
def Desc.converts (d : Desc) : Bool := d.sf != d.df
/-- A computed row scale is written (R216, R90). -/
def Desc.rowScaled (d : Desc) : Bool := d.converts && d.df == 7 && d.iscale
/-- Bytes of scales that a row has at its source and destination (R216). -/
def Desc.srcScaleBytes (d : Desc) : Nat := if fmtBlock d.sf then d.c0 / 32 else if d.sf = 7 ∧ d.rscale then 4 else 0
def Desc.dstScaleBytes (d : Desc) : Nat :=
  if fmtBlock d.df then d.c0 / 32 else if d.rowScaled ∨ (d.sf = 7 ∧ d.df = 7 ∧ d.rscale) then 4 else 0
/-- Bytes that an address of a format must be a multiple of (R219). -/
def fmtAlign (c : Nat) : Nat := if fmtBlock c then 8 else fmtBytes c 1

/-! ### Layout maps (R148 to R150) -/

structure LMap where
  rank : Nat
  fmt : Nat
  redDim : Nat
  kb : Nat
  tid : Nat
  ext : List Nat
  chunk : List Nat
  table : Nat
deriving DecidableEq, Repr

def LMap.of (b : List Byte) : LMap :=
  let f := fieldAt b
  let n := min (f 0 1) 4
  { rank := f 0 1, fmt := f 1 1 % 16, redDim := f 2 1, kb := if bitAt (f 3 1) 0 then 256 else 1024, tid := f 4 4,
    ext := (List.range n).map (fun i => f (8 + 6 * i) 6), chunk := (List.range n).map (fun i => f (32 + 6 * i) 6),
    table := f 56 8 % 2 ^ 52 }

def prod (l : List Nat) : Nat := l.foldl (· * ·) 1

/-- Status of a map's own checks, 0 when it is valid (R150). -/
def LMap.check (m : LMap) : Nat :=
  let zero := m.rank == 0 || m.ext.any (· == 0) || m.chunk.any (· == 0)
  let redBad := m.redDim != 255 && decide (m.rank ≤ m.redDim)
  lowest [Machine.check zero 0x0102, Machine.check (decide (4 < m.rank)) 0x0101,
    Machine.check (!zero && decide (2 ^ 48 < prod m.ext)) 0x0101,
    Machine.check (!zero && (m.chunk.zip m.ext).any (fun p => decide (p.2 < p.1))) 0x0101,
    Machine.check (decide (8 ≤ m.fmt)) 0x0104, Machine.check redBad 0x0101,
    Machine.check (!zero && m.redDim != 255 && !redBad && (m.chunk.getD m.redDim 0) % m.kb != 0) 0x0150,
    Machine.check (fmtBlock m.fmt && m.ext.getLastD 0 % 32 != 0) 0x0103]

/-- Shards along each dimension, and in all. -/
def LMap.grid (m : LMap) : List Nat := (m.ext.zip m.chunk).map (fun p => ceilDiv p.1 p.2)
def LMap.shards (m : LMap) : Nat := prod m.grid

/-- Row-major index of coordinates under extents. -/
def rowMajor (ext co : List Nat) : Nat := (ext.zip co).foldl (fun a p => a * p.1 + p.2) 0
/-- Coordinates of a row-major index. -/
def coords (ext : List Nat) (t : Nat) : List Nat :=
  (ext.foldr (fun e (st : Nat × List Nat) => (st.1 / e, (st.1 % e) :: st.2)) (t, [])).2

/-- Where an element lies: its shard, its index in the shard, its place in the shard's innermost row, and the length of
that row. -/
structure Spot where
  shard : Nat
  t : Nat
  x : Nat
  len : Nat
deriving DecidableEq, Repr

def LMap.spot (m : LMap) (co : List Nat) : Spot :=
  let sc := (co.zip m.chunk).map (fun p => p.1 / p.2)
  let ex := (m.ext.zip (m.chunk.zip sc)).map (fun p => min p.2.1 (p.1 - p.2.2 * p.2.1))
  let within := (co.zip m.chunk).map (fun p => p.1 % p.2)
  { shard := rowMajor m.grid sc, t := rowMajor ex within, x := within.getLastD 0, len := ex.getLastD 1 }

/-- Entry `i` of a shard table: elements, scales, position (R149). -/
def shardEntry (tab : List Byte) (i : Nat) : Nat × Nat × Nat :=
  (fieldAt tab (32 * i) 8 % 2 ^ 52, fieldAt tab (32 * i + 8) 8 % 2 ^ 52, fieldAt tab (32 * i + 16) 1)

/-- Address of the scale of an element at a spot: one byte per block or one word per row of the shard (R77, R79). -/
def Spot.scaleAt (p : Spot) (fmt base : Nat) : Nat :=
  if fmtBlock fmt then base + p.t / p.len * ceilDiv p.len 32 + p.x / 32 else base + 4 * (p.t / p.len)

/-! ### Pieces -/

/-- Elements that lie together at the source: bit address, number, stochastic index, place of their scale. -/
structure Run where
  bit : Nat
  n : Nat
  idx : Nat
  scale : Option Nat
deriving DecidableEq, Repr

/-- What moves together: elements that share a destination scale, or the elements of one source unit. `first` counts the
elements of the descriptor before it; `keep` copies bits and scale unchanged. -/
structure Piece where
  first : Nat
  n : Nat
  runs : List Run
  dbit : Nat
  keep : Bool
  dscale : Option Nat
deriving DecidableEq, Repr

/-- The cuts of a row of `n` elements from element `i`: whole for a computed row scale, blocks of 32 for a block-scaled
format, else the elements of one 64-byte unit of the side at `a` with `w`-bit elements. -/
def cutRow (whole block : Bool) (a w : Nat) : Nat → Nat → Nat → List (Nat × Nat)
  | 0, _, _ => []
  | f + 1, i, n =>
    if n ≤ i then [] else
    let k := if whole then n - i else if block then 32 else max 1 ((512 - (a * 8 + i * w) % 512) / w)
    let k := min k (n - i)
    (i, k) :: cutRow whole block a w f (i + k) n

/-- The blocks of 32 elements, each with a scale of its own, of `n` elements from element `i` (R77). -/
def blocksOf (i n : Nat) : List (Nat × Nat) :=
  (List.range (ceilDiv n 32)).map (fun j => (i + 32 * j, min 32 (n - 32 * j)))

/-- The pieces of row `q` of a COPY, FILL, GATHER or SCATTER from source `sa` to destination `da`, from element `i0`. -/
def Desc.rowPieces (d : Desc) (q sa da i0 : Nat) : List Piece :=
  let block := d.type != 4 && (fmtBlock d.sf || fmtBlock d.df)
  let side := if d.type = 4 then (da, fmtWidth d.df) else (sa, fmtWidth d.sf)
  let sscale := fun i => if d.srcScaleBytes = 0 then none
    else some (if fmtBlock d.sf then d.sscale + q * (d.c0 / 32) + i / 32 else d.sscale + 4 * q)
  let dscale := fun i => if d.dstScaleBytes = 0 then none
    else some (if fmtBlock d.df then d.dscale + q * (d.c0 / 32) + i / 32 else d.dscale + 4 * q)
  (cutRow (d.rowScaled && d.type != 4) block side.1 side.2 (d.c0 + 1) (if d.rowScaled then 0 else i0) d.c0).map (fun c =>
    { first := q * d.c0 + c.1, n := c.2
      runs := if d.type = 4 then [] else (if fmtBlock d.sf then blocksOf c.1 c.2 else [c]).map (fun b =>
        { bit := sa * 8 + b.1 * fmtWidth d.sf, n := b.2, idx := d.idx + q * d.c0 + b.1, scale := sscale b.1 })
      dbit := da * 8 + c.1 * fmtWidth d.df
      keep := !d.converts
      dscale := if d.type = 4 then none else dscale c.1 })

/-- The pieces of a RESHARD (R151), in ascending logical index, with those elements that lie in this package at both ends;
`here` is the position of the package. -/
def reshardPieces (d : Desc) (sm dm : LMap) (st dt : List Byte) (here : Nat) : List Piece :=
  let inner := dm.ext.getLastD 1
  let chunk := dm.chunk.getLastD 1
  let rows := prod dm.ext / inner
  let group := fun (row x : Nat) =>
    let co := coords dm.ext (row * inner + x)
    let p := dm.spot co
    if dm.fmt = 7 ∧ (d.iscale ∨ (sm.fmt = 7 ∧ d.rscale)) then p.len else if fmtBlock dm.fmt then min 32 (p.len - p.x) else 1
  let starts := fun (_row : Nat) => (List.range inner).filter (fun x =>
    let o := x % chunk
    if dm.fmt = 7 ∧ (d.iscale ∨ (sm.fmt = 7 ∧ d.rscale)) then o == 0 else if fmtBlock dm.fmt then o % 32 == 0 else true)
  let raw := (List.range rows).flatMap (fun row => (starts row).map (fun x => (row, x, group row x)))
  (raw.foldl (fun (acc : List Piece × Nat) g =>
    let els := (span (g.1 * inner + g.2.1) g.2.2).filter (fun k =>
      (shardEntry st (sm.spot (coords sm.ext k)).shard).2.2 == here && (shardEntry dt (dm.spot (coords dm.ext k)).shard).2.2 == here)
    match els with
    | [] => acc
    | k0 :: _ =>
      let ps := sm.spot (coords sm.ext k0)
      let pd := dm.spot (coords dm.ext k0)
      let ed := shardEntry dt pd.shard
      let scaled := fmtBlock sm.fmt || (sm.fmt == 7 && d.rscale)
      let same := sm.fmt == dm.fmt && (!scaled || (els.length == g.2.2 &&
        (if fmtBlock sm.fmt then ps.x % 32 == 0 && min 32 (ps.len - ps.x) == g.2.2 else ps.x == 0 && ps.len == g.2.2)))
      let dsc := fmtBlock dm.fmt || (dm.fmt == 7 && (if same then d.rscale else d.iscale))
      (acc.1 ++ [{ first := acc.2, n := els.length
                   runs := els.map (fun k =>
                     let p := sm.spot (coords sm.ext k)
                     let e := shardEntry st p.shard
                     { bit := e.1 * 8 + p.t * fmtWidth sm.fmt, n := 1, idx := k,
                       scale := if scaled then some (p.scaleAt sm.fmt e.2.1) else none })
                   dbit := ed.1 * 8 + pd.t * fmtWidth dm.fmt
                   keep := same
                   dscale := if dsc then some (pd.scaleAt dm.fmt ed.2.1) else none }], acc.2 + els.length)) ([], 0)).1

/-! ### Accesses of a sluice -/

namespace State

/-- Mesh code that names a sluice as a reader: the first attach port of its engine (R536, Table 2-10). -/
def sluiceSrc (n : Nat) : Nat := channelCode (8 * (n / 16))

/-- Count a refusal at the sites that an access addressed (R62, R64, R67). -/
def countRefused (s : State) (a st sag : Nat) : State :=
  if a < columnBase ∨ storeEnd ≤ a then s
  else
    let i := siteOfAddr a
    let up := fun (n : Nat) => satAdd (top 32) n 1
    if st = 0x0602 then s.modSite i (fun x => { x with cntReset := up x.cntReset })
    else if st = 0x0601 then s.modSite i (fun x => { x with cntEpoch := up x.cntEpoch })
    else if st = 0x0210 then
      (s.modSite i (fun x => { x with cntSaggar := up x.cntSaggar })).record 0x2004 1 i (s.siteOwner i) sag []
    else s

/-- A failing access names the unit that caused it. -/
def failAt (a st : Nat) : Option (Nat × Nat) := some (st, a / unitOf a * unitOf a)

/-- A sluice of saggar `sag` reads: the state after, the failing status and address, and the bytes. -/
def sluRead (s : State) (n sag a len : Nat) : State × Option (Nat × Nat) × List Byte :=
  if len = 0 then (s, none, []) else
  let st := s.reach (s.engineAuth sag) false a len
  if st ≠ 0 then (s.countRefused a st 0, failAt a st, [])
  else
    let r := s.load 4 (sluiceSrc n) a len
    match r.2.1 with
    | some k => (r.1, some (0x0520, k), [])
    | none => (r.1, none, r.2.2)

/-- A sluice writes, with EPOCH_CHECK against its view (R65). -/
def sluWrite (s : State) (n sag : Nat) (view : List (Nat × BitVec 32)) (a : Nat) (bs : List Byte) : State × Option (Nat × Nat) :=
  let st := s.reach (s.engineAuth sag) true a bs.length
  if st ≠ 0 then (s.countRefused a st 0, failAt a st)
  else if decide (columnBase ≤ a) && (sitesOf a bs.length).any (fun i =>
      view.any (fun v => v.1 == i && v.2 != (s.site i).epoch)) then (s.countRefused a 0x0601 0, failAt a 0x0601)
  else
    let r := s.store 12 (sluiceSrc n) a bs
    (r.1, r.2.map (fun k => (0x0520, k)))

/-- The epochs that a sluice of a saggar takes as its view (R65, R225). -/
def epochView (s : State) (sag : Nat) : List (Nat × BitVec 32) := (s.saggarSites sag).map (fun i => (i, (s.site i).epoch))

end State

/-! ### Moving -/

/-- Bytes that wait for their 64-byte destination unit: the unit, its first element, and the bytes in rising order. -/
structure Sink where
  unit : Nat
  first : Nat
  bytes : List (Nat × Byte)
deriving DecidableEq, Repr

/-- A descriptor in motion. -/
structure Move where
  s : State
  n : Nat
  sag : Nat
  view : List (Nat × BitVec 32)
  data : Option Sink
  scales : Option Sink
  flags : Flags
  /-- Failing status, its address and the first element that depends on it. -/
  halt : Option (Nat × Nat × Nat)
  /-- Status and progress of an end under R220. -/
  stop : Option (Nat × Nat)

/-- Consecutive stretches of bytes. -/
def stretches : List (Nat × Byte) → List (Nat × List Byte)
  | [] => []
  | (a, b) :: r =>
    match stretches r with
    | (a', bs) :: t => if a' = a + 1 then (a, b :: bs) :: t else (a, [b]) :: (a', bs) :: t
    | [] => [(a, [b])]

namespace Move

/-- Write a sink's bytes. -/
def flush (m : Move) (k : Option Sink) : Move :=
  match k with
  | none => m
  | some k =>
    (stretches k.bytes).foldl (fun m w =>
      if m.halt.isSome then m else
      let r := m.s.sluWrite m.n m.sag m.view w.1 w.2
      { m with s := r.1, halt := r.2.map (fun f => (f.1, f.2, k.first)) }) m

def flushData (m : Move) : Move := let t := m.flush m.data; if t.halt.isSome then t else { t with data := none }
def flushScales (m : Move) : Move := let t := m.flush m.scales; if t.halt.isSome then t else { t with scales := none }
def flushAll (m : Move) : Move := let t := m.flushData; if t.halt.isSome then t else t.flushScales

/-- Put one byte of element `e` into a sink, flushing the unit that it leaves. -/
def put (m : Move) (isData : Bool) (a : Nat) (b : Byte) (e : Nat) : Move :=
  if m.halt.isSome then m else
  let k := if isData then m.data else m.scales
  let m := match k with
    | some q => if q.unit = a / 64 then m else if isData then m.flushData else m.flushScales
    | none => m
  if m.halt.isSome then m else
  let k := if isData then m.data else m.scales
  let k' : Sink := match k with
    | some q => { q with bytes := (q.bytes.filter (fun p => p.1 != a)) ++ [(a, b)] }
    | none => { unit := a / 64, first := e, bytes := [(a, b)] }
  if isData then { m with data := some k' } else { m with scales := some k' }

/-- A byte as it stands: in the sink, else in memory. -/
def now (m : Move) (a : Nat) : Byte :=
  match m.data.bind (fun q => q.bytes.find? (fun p => p.1 == a)) with
  | some p => p.2
  | none => (m.s.segs a 1).foldl (fun b g => b ||| m.s.byteAt g.lin) 0

/-- Put `n` elements of `w` bits at a bit address; bits of the edge bytes that no element covers stay. -/
def putBits (m : Move) (bit w n v e : Nat) : Move :=
  let lo := bit / 8
  let cnt := ceilDiv (bit % 8 + n * w) 8
  (List.range cnt).foldl (fun m i =>
    let a := lo + i
    let old := if (i = 0 ∧ bit % 8 ≠ 0) ∨ (i + 1 = cnt ∧ (bit + n * w) % 8 ≠ 0) then (m.now a).toNat else 0
    let covers := fun k => decide (bit ≤ a * 8 + k ∧ a * 8 + k < bit + n * w)
    let byte := (List.range 8).foldl (fun x k =>
      if covers k then x + (if bitAt v (a * 8 + k - bit) then 2 ^ k else 0) else x + bits old k 1 * 2 ^ k) 0
    m.put true a (BitVec.ofNat 8 byte) (e + (a * 8 - bit) / w)) m

/-- Read at the source. -/
def read (m : Move) (a len e : Nat) : Move × List Byte :=
  if m.halt.isSome then (m, []) else
  let r := m.s.sluRead m.n m.sag a len
  ({ m with s := r.1, halt := r.2.1.map (fun f => (f.1, f.2, e)) }, r.2.2)

/-- The element codes of a run, with the value of its scale. -/
def readRun (m : Move) (fmt : Nat) (e : Nat) (r : Run) : Move × List Nat × Val × List Byte :=
  let w := fmtWidth fmt
  let x := m.read (r.bit / 8) (ceilDiv (r.bit % 8 + r.n * w) 8) e
  let y := match r.scale with
    | some a => x.1.read a (if fmtBlock fmt then 1 else 4) e
    | none => (x.1, [])
  let v := leNat x.2 / 2 ^ (r.bit % 8)
  let sc := match r.scale with
    | some _ => if fmtBlock fmt then decodeScale (leNat y.2) else f32 (leNat y.2)
    | none => Val.one
  (y.1, (List.range r.n).map (fun i => bits v (i * w) w), if sc.isFin then sc else .nan, y.2)

/-- Move one piece (R215, R216, R151). -/
def piece (m : Move) (d : Desc) (seed : Nat) (p : Piece) : Move :=
  if m.halt.isSome || m.stop.isSome then m
  else if d.type = 4 then
    m.putBits p.dbit (fmtWidth d.df) p.n (packNat (fmtWidth d.df) (List.replicate p.n (leNat d.pattern))) p.first
  else
    let got := p.runs.foldl (fun (a : Move × List (Nat × Val × Nat) × List Byte) r =>
      let x := a.1.readRun d.sf p.first r
      (x.1, a.2.1 ++ (x.2.1.zipIdx.map (fun b => (b.1, x.2.2.1, r.idx + b.2))), x.2.2.2)) (m, [], [])
    let m := got.1
    if m.halt.isSome then m
    else if p.keep then
      let m := m.putBits p.dbit (fmtWidth d.df) p.n (packNat (fmtWidth d.df) (got.2.1.map (·.1))) p.first
      match p.dscale with
      | some a => got.2.2.zipIdx.foldl (fun m b => m.put false (a + b.2) b.1 p.first) m
      | none => m
    else
      let vals := got.2.1.map (fun x => (decodeElem d.sf x.1).mul x.2.1)
      let rnd := fun i => { mode := d.rm, ovf := d.ovf, r := srBits seed d.tid (((got.2.1.map (·.2.2)).getD i 0) % 2 ^ 48) : Rnd }
      let scaled := d.df == 7 && p.dscale.isSome
      let c := if scaled then convScaled rnd vals else convLine d.df rnd vals
      let m := { m with flags := (m.flags.or (inputFlags vals)).or (c.written 0 0) }
      let m := m.putBits p.dbit (fmtWidth d.df) p.n (packNat (fmtWidth d.df) c.els) p.first
      match p.dscale with
      | some a => (leBytes (if scaled then 4 else 1) c.scale).zipIdx.foldl (fun m b => m.put false (a + b.2) b.1 p.first) m
      | none => m

end Move

namespace State

/-- Status of a range of a descriptor before it starts: windows and ownership (R194, R198, R202); a reset or a fill
shows only when the access is made. -/
def rangeCheck (s : State) (sag : Nat) (write : Bool) (a n : Nat) : Nat :=
  if n = 0 then 0 else
  let st := s.reach (s.engineAuth sag) write a n
  if st = 0x0602 then 0 else st

/-- Two ranges share storage: compared as given in one window, else by the storage they reach (R219). -/
def sharesStorage (s : State) (a n b m : Nat) : Bool :=
  if n = 0 ∨ m = 0 then false
  else if (winOf a).map (·.1) = (winOf b).map (·.1) then decide (a < b + m ∧ b < a + n)
  else (s.segs a n).any (fun g => (s.segs b m).any (fun h => decide (g.lin < h.lin + h.len ∧ h.lin < g.lin + g.len)))

/-- Any two of a list of ranges overlap. -/
def pairOverlap (s : State) : List (Nat × Nat) → Bool
  | [] => false
  | (a, n) :: r => r.any (fun q => s.sharesStorage a n q.1 q.2) || pairOverlap s r

/-- The checks of R219 for COPY, GATHER, SCATTER, FILL and SIGNAL. -/
def descCheck (s : State) (sag : Nat) (d : Desc) : Nat :=
  if 6 ≤ d.type then 0x0172
  else if d.type = 5 then lowest [check (d.dst % 8 ≠ 0) 0x0103, s.rangeCheck sag true d.dst 8]
  else
    let mv := d.type != 4
    let okS := decide (d.sf < 8)
    let okD := if mv then decide (d.df < 8) else d.df ∈ [0, 1, 2, 3, 4, 7]
    if d.c0 = 0 ∨ d.rows = 0 ∨ (d.indexed = false ∧ d.dims = 0) then 0x0102
    else
      let q := List.range d.rows
      let srcs := if !mv || !okS || d.type == 1 then [] else
        q.map (fun q => (if d.type = 2 then d.src + q * d.ss1 else d.rowSrc q, fmtBytes d.sf d.c0))
      let dsts := if !okD || d.type == 2 then [] else
        q.map (fun q => (if d.type = 1 then d.dst + q * d.ds1 else d.rowDst q, fmtBytes d.df d.c0))
      let ssc := if mv && okS && okD then [(d.sscale, d.rows * d.srcScaleBytes)] else []
      let dsc := if mv && okS && okD then [(d.dscale, d.rows * d.dstScaleBytes)] else []
      let ix := if d.indexed then [(d.index, (if d.idx64 then 8 else 4) * d.c1)] else []
      lowest ([check (mv && !okS || !okD) 0x0104, check (mv && d.rm == 3) 0x0120,
          check (mv && decide (d.c0 % 32 ≠ 0) && (okS && fmtBlock d.sf || okD && fmtBlock d.df)) 0x0103,
          check (srcs.any (fun r => r.1 % fmtAlign d.sf != 0)) 0x0103,
          check (dsts.any (fun r => r.1 % fmtAlign d.df != 0)) 0x0103] ++
        (srcs ++ ssc ++ ix).map (fun r => s.rangeCheck sag false r.1 r.2) ++
        (dsts ++ dsc).map (fun r => s.rangeCheck sag true r.1 r.2) ++
        [check (d.type == 0 && okS && okD &&
          ((dsts ++ dsc).any (fun a => (srcs ++ ssc).any (fun b => s.sharesStorage a.1 a.2 b.1 b.2)) ||
            s.pairOverlap (dsts ++ dsc))) 0x0171])

/-! ### RESHARD (R148 to R151, R217) -/

/-- The maps of a RESHARD and its shard tables, as they follow the descriptor in the sluice. -/
def reshardParts (b : List Byte) : LMap × LMap × List Byte × List Byte :=
  let sm := LMap.of ((b.drop 128).take 64)
  let dm := LMap.of ((b.drop 192).take 64)
  (sm, dm, (b.drop 256).take (32 * sm.shards), (b.drop (256 + 32 * sm.shards)).take (32 * dm.shards))

/-- The descriptor of a RESHARD with the formats and tensor of its maps. -/
def reshardDesc (b : List Byte) : Desc :=
  let p := reshardParts b
  { Desc.of b with sf := p.1.fmt, df := p.2.1.fmt, tid := p.2.1.tid }

/-- Read what a RESHARD needs and check it: the state after, a failing access, the status of the checks, and the maps and
tables read. -/
def reshardLoad (s : State) (n sag : Nat) (d : Desc) : State × Option (Nat × Nat) × Nat × List Byte :=
  let pre := lowest [check (d.src % 64 ≠ 0 ∨ d.dst % 64 ≠ 0) 0x0103, s.rangeCheck sag false d.src 64,
    s.rangeCheck sag false d.dst 64, check (d.rm == 3) 0x0120]
  if pre ≠ 0 then (s, none, pre, [])
  else
    let a := s.sluRead n sag d.src 64
    let b := a.1.sluRead n sag d.dst 64
    if a.2.1.isSome then (a.1, a.2.1, 0, [])
    else if b.2.1.isSome then (b.1, b.2.1, 0, [])
    else
      let sm := LMap.of a.2.2
      let dm := LMap.of b.2.2
      let st := lowest [sm.check, dm.check,
        check (sm.check == 0 && dm.check == 0 && (sm.rank != dm.rank || sm.ext != dm.ext)) 0x0151]
      let s := b.1
      if st ≠ 0 then (s, none, st, [])
      else
        let rc := lowest [s.rangeCheck sag false sm.table (32 * sm.shards), s.rangeCheck sag false dm.table (32 * dm.shards)]
        if rc ≠ 0 then (s, none, rc, [])
        else
          let x := s.sluRead n sag sm.table (32 * sm.shards)
          let y := x.1.sluRead n sag dm.table (32 * dm.shards)
          if x.2.1.isSome then (x.1, x.2.1, 0, [])
          else if y.2.1.isSome then (y.1, y.2.1, 0, [])
          else
            let bad := fun (m : LMap) (t : List Byte) => (List.range m.shards).any (fun i =>
              (shardEntry t i).2.2 == s.pkg.posValue && (shardEntry t i).1 % fmtAlign m.fmt != 0)
            (y.1, none, check (bad sm x.2.2 || bad dm y.2.2) 0x0103, a.2.2 ++ b.2.2 ++ x.2.2 ++ y.2.2)

/-! ### Running a descriptor -/

/-- One row of a GATHER or SCATTER: its index is read and its indexed side checked just before it moves (R220). -/
def indexedRow (m : Move) (d : Desc) (seed q i0 : Nat) : Move :=
  if m.halt.isSome || m.stop.isSome then m else
  let w := if d.idx64 then 8 else 4
  let r := m.read (d.index + w * q) w (q * d.c0 + i0)
  if r.1.halt.isSome then r.1
  else
    let x := leNat r.2 % 2 ^ 52
    let sa := if d.type = 1 then (if d.idx64 then x else d.src + x * d.ss1) else d.src + q * d.ss1
    let da := if d.type = 2 then (if d.idx64 then x else d.dst + x * d.ds1) else d.dst + q * d.ds1
    let fm := if d.type = 1 then d.sf else d.df
    let t := if d.type = 1 then sa else da
    let st := lowest [check (t % fmtAlign fm ≠ 0) 0x0103, r.1.s.rangeCheck m.sag (d.type == 2) t (fmtBytes fm d.c0)]
    if st ≠ 0 then { r.1 with stop := some (st, q * d.c0) }
    else ((d.rowPieces q sa da i0).foldl (fun m p => m.piece d seed p) r.1).flushAll

/-- The elements of a descriptor: all that it moves, and those left to the fabric (R217, R218). -/
def descTotals (s : State) (b : List Byte) : Nat × Nat :=
  let d := Desc.of b
  if d.type = 3 then
    let p := reshardParts b
    let n := (reshardPieces d p.1 p.2.1 p.2.2.1 p.2.2.2 s.pkg.posValue).foldl (fun k q => k + q.n) 0
    (n, prod p.2.1.ext - n)
  else if d.type = 5 then (1, 0) else (d.rows * d.c0, 0)

/-- Run the descriptor of sluice `n` from its progress to its end or to a halt. -/
def runDesc (s : State) (n : Nat) : Move :=
  let x := s.sluice n
  let d := Desc.of x.desc
  let m : Move := { s := s, n := n, sag := x.saggar, view := x.view, data := none, scales := none, flags := x.dflags,
                    halt := none, stop := none }
  let seed := x.seed.toNat
  if d.type = 5 then
    let r := s.sluWrite n x.saggar x.view d.dst d.pattern
    { m with s := r.1, halt := r.2.map (fun f => (f.1, f.2, 0)) }
  else if d.type = 3 then
    let p := reshardParts x.desc
    let ps := reshardPieces d p.1 p.2.1 p.2.2.1 p.2.2.2 s.pkg.posValue
    ((ps.filter (fun q => decide (x.progress < q.first + q.n))).foldl (fun m q => m.piece (reshardDesc x.desc) seed q) m).flushAll
  else
    let q0 := x.progress / d.c0
    let i0 := x.progress % d.c0
    (span q0 (d.rows - q0)).foldl (fun m q =>
      let i := if q = q0 then i0 else 0
      if d.indexed then indexedRow m d seed q i
      else (d.rowPieces q (d.rowSrc q) (d.rowDst q) i).foldl (fun m p => m.piece d seed p) m) m |>.flushAll

/-- SLU_PROGRESS at a halt: the first element whose destination unit is not written. -/
def haltProgress (m : Move) (e : Nat) : Nat :=
  let f := fun (k : Option Sink) (e : Nat) => match k with
    | some q => min q.first e
    | none => e
  f m.data (f m.scales e)

/-! ### Completion and halt -/

/-- Write the completion of a descriptor of sluice `n` (R218, R337), count it, and leave the sluice idle. -/
def descDone (s : State) (n tag status progress flags left : Nat) (irq : Bool) : State :=
  let x := s.sluice n
  let k : Compl :=
    { target := .ring (s.ring x.ring).pair, cmd := none, tag := tag, status := status, progress := progress % 2 ^ 32,
      r0 := progress % 2 ^ 32, r1 := flags, r2 := left % 2 ^ 32, r3 := 0, ring := x.ring, irq := irq, opcode := 0,
      desc := true, job := 0 }
  { s.setSluice n { x with
      state := .idle
      doneCount := (x.doneCount + 1) % 2 ^ 32
      desc := []
      unread := false
      dflags := Flags.none } with compls := s.compls ++ [k] }

/-- The sluice halts (R224, R343): HALTED on its ring, the vector of PAIR, and event 0x3020. -/
def haltSluice (s : State) (n status addr progress : Nat) : State :=
  let x := s.sluice n
  let s := s.setSluice n { x with
    state := .halted, haltStatus := status, faultAddr := addr % 2 ^ 52, progress := progress }
  let s := s.modRing x.ring (fun r => { r with halted := true })
  let v := (s.ring (s.ring x.ring).pair).vector
  let s := if v ≠ 0 then s.raiseVector v else s
  s.recordFw 3 0x3020 (some x.saggar) 0 (p4 n ++ p4 status ++ p8 (addr % 2 ^ 52) ++ p4 (fieldAt x.desc 4 2))

/-- End a halted descriptor with its status and progress (R225 mode 1, R213, R537). A descriptor that was never read is
consumed now, with TAG 0 and result words 0. -/
def endHalted (s : State) (n : Nat) : State :=
  let x := s.sluice n
  let s := s.modRing x.ring (fun r => { r with halted := false })
  if x.unread then
    (s.modRing x.ring (fun r => { r with head := (r.head + 2) % 2 ^ 32 })).descDone n 0 x.haltStatus 0 0 0 false
  else
    let d := Desc.of x.desc
    s.descDone n d.tag x.haltStatus x.progress x.dflags.word (if d.type = 3 then (s.descTotals x.desc).2 else 0) d.irq

/-- A RESHARD that runs reads its maps and tables and checks them: it halts, completes with the status, or keeps them. -/
def beginReshard (s : State) (n : Nat) : State :=
  let x := s.sluice n
  let b := x.desc.take 128
  let d := Desc.of b
  let l := s.reshardLoad n x.saggar d
  match l.2.1 with
  | some f => l.1.haltSluice n f.1 f.2 0
  | none =>
    if l.2.2.1 ≠ 0 then l.1.descDone n d.tag l.2.2.1 0 0 0 d.irq
    else l.1.modSluice n (fun u => { u with desc := b ++ l.2.2.2 })

/-- Commands that a sluice serves (Tables 9-3 and 10-6). -/
def sluiceServes (op : Nat) : Bool := op ∈ [0x400, 0x401, 0x402, 0x404, 0x405, 0x501, 0x502]

/-- A KV or training state command waits for sluice `n`: it comes before the next descriptor (R263, R303). -/
def serviceWaits (s : State) (n : Nat) : Bool :=
  s.cmds.any (fun c => c.phase == .queued && sluiceServes c.opcode && c.p 0 2 % 1024 == n)

/-- A sluice may take a descriptor: bound and idle, its saggar not held at a quiescence point, and its ring holding
one (R214, R221, R351). -/
def sluiceReady (s : State) (n : Nat) : Bool :=
  let x := s.sluice n
  let r := s.ring x.ring
  x.valid && x.state == .idle && r.role == .descriptor && !r.inReset && r.entries != 0 &&
    decide (2 ≤ (r.tail + 2 ^ 32 - r.head) % 2 ^ 32) && (s.saggar x.saggar).quiescing == 0 &&
    !s.serviceWaits n

end State

/-- Progress from which a retry starts: a multiple of 32 elements when a format is block-scaled (R225). -/
def retryFrom (b : List Byte) (p : Nat) : Nat :=
  let d := if (Desc.of b).type = 3 then State.reshardDesc b else Desc.of b
  if fmtBlock d.sf ∨ fmtBlock d.df then p / 32 * 32 else p

/-- A sluice number. -/
def sluicesN : Nat := 1024

/-- SLUICE_DESCRIPTOR_START: a sluice that is idle reads its next descriptor, consumes it and checks it whole; a
descriptor that fails a check completes at once (R219), and one that cannot be read halts the sluice (R537). -/
def execSluiceDescriptorStart (sluice : Nat) (strikes : Strikes) (s : State) : Out :=
  if decide (sluice < sluicesN) && s.sluiceReady sluice then
    let x := s.sluice sluice
    let r := s.ring x.ring
    let rd := (s.strike strikes).load 7 (State.sluiceSrc sluice) (State.slotAddr r r.head 64) 128
    match rd.2.1 with
    | some a => .next ((rd.1.modSluice sluice (fun u => { u with unread := true, desc := [], dflags := Flags.none })).haltSluice
        sluice 0x0520 a 0)
    | none =>
      let b := rd.2.2
      let d := Desc.of b
      let s := rd.1.modRing x.ring (fun r => { r with head := (r.head + 2) % 2 ^ 32 })
      let s := s.modSluice sluice (fun u => { u with
        state := .running, desc := b, progress := 0, dflags := Flags.none, unread := false, view := s.epochView x.saggar })
      if d.type = 3 then .next (s.beginReshard sluice)
      else
        let st := s.descCheck x.saggar d
        if st ≠ 0 then .next (s.descDone sluice d.tag st 0 0 0 d.irq) else .next s
  else .next s

/-- SLUICE_DESCRIPTOR_COMPLETE: every write of the running descriptor is done, and its completion is written (R215 to R218,
R220, R221). -/
def execSluiceDescriptorComplete (sluice : Nat) (s : State) : Out :=
  let x := s.sluice sluice
  if x.state = .running then
    let m := s.runDesc sluice
    if m.halt.isSome then .next s
    else
      let d := Desc.of x.desc
      let t := s.descTotals x.desc
      let e := match m.stop with
        | some q => q
        | none => (0, t.1)
      let s := m.s.modSluice sluice (fun u => { u with progress := e.2, flags := u.flags.or m.flags, dflags := m.flags })
      .next (s.descDone sluice d.tag e.1 e.2 m.flags.word t.2 d.irq)
  else .next s

/-- SLUICE_HALT: an access of the running descriptor is answered with a failing status, and the sluice halts (R224). -/
def execSluiceHalt (sluice : Nat) (strikes : Strikes) (s : State) : Out :=
  let x := s.sluice sluice
  if x.state = .running then
    let m := (s.strike strikes).runDesc sluice
    match m.halt with
    | none => .next s
    | some (st, a, e) =>
      let d := Desc.of x.desc
      if d.type = 3 ∧ x.desc.length = 128 then .next s
      else
        let t := m.s.modSluice sluice (fun u => { u with flags := u.flags.or m.flags, dflags := m.flags })
        .next (t.haltSluice sluice st a (State.haltProgress m e))
  else .next s

/-- SLUICE_RESUME, opcode 0x210 (R225): mode 0 retries the halted descriptor, mode 1 completes it with its halt status. -/
def execSluiceResume (id : Nat) (s : State) : Out :=
  match s.ready id 0x210 with
  | none => .next s
  | some c =>
    let n := c.p 0 2 % 1024
    let mode := c.p 2 1
    let x := s.sluice n
    let st := if x.state = .inReset then 0x0602
      else lowest [check (decide (1 < mode)) 0x0101, check (!x.valid) 0x0320,
        check (x.valid && x.state != .halted) 0x0173, check (x.valid && !c.oper && x.saggar != c.saggar) 0x0220]
    if st ≠ 0 then .next (s.refuse id st)
    else
      let s := s.recordFw 3 0x3021 (some x.saggar) 0 (p4 n ++ p4 mode)
      let s := if mode = 1 then s.endHalted n
        else
          let s := s.modRing x.ring (fun r => { r with halted := false })
          if x.unread then s.modSluice n (fun u => { u with state := .idle, unread := false })
          else
            let s := s.modSluice n (fun u => { u with
              state := .running, progress := retryFrom u.desc u.progress, view := s.epochView u.saggar })
            if (Desc.of x.desc).type = 3 ∧ x.desc.length = 128 then s.beginReshard n else s
      .next (s.finish id 0 Result.zero)

/-- SLUICE_REWET_DONE: a sluice returns from reset, unbound and with cleared state (R226). -/
def execSluiceRewetDone (sluice : Nat) (s : State) : Out :=
  if (s.sluice sluice).state = .inReset then .next ((s.returnSluice sluice).sluiceReturned sluice).settleResets else .next s

end Sys2Proof.Machine
end

