-- ==== Sys2Proof/Machine/Settings.lean ====
section
/-! DEFINITION. Settings and transactions (R346 to R352): the indexed settings of every chapter, staging, the checks of a
commit (R46, R56, R199, R213, R324, R354, R355, R406, R431, R453, R461, R462, R479, R505), quiescence and what a commit
applies. -/
namespace Sys2Proof.Machine
open Sys2Proof

/-! ### The indexed settings (Tables 11-10, 12-10, 13-11, 14-8, 15-7, 16-9) -/

/-- Number of indices of a setting, none when the setting is unknown. -/
def settingSize (k : Nat) : Option Nat :=
  if k ∈ [0x0020, 0x0021, 0x0201, 0x0202, 0x0600, 0x0701, 0x0702, 0x0901] then some 64
  else if k = 0x0022 then some 1152
  else if k = 0x0200 then some 524288
  else if k = 0x0601 then some 16384
  else if k = 0x0703 then some 16384
  else if k = 0x0804 then some 65536
  else if k = 0x0805 then some 4
  else if k ∈ [0x0203, 0x0602, 0x0700, 0x0704, 0x0705, 0x0706, 0x0707, 0x0708, 0x0709, 0x0800, 0x0801, 0x0802, 0x0803, 0x0900]
  then some 1
  else none

/-- Settings whose index is a saggar. -/
def bySaggar (k : Nat) : Bool := k ∈ [0x0020, 0x0021, 0x0201, 0x0202, 0x0600, 0x0701, 0x0702, 0x0901]

def ownerWord (o : Owner) : Nat := packBits [(o.saggar, 0), (b2n o.assigned, 6), (b2n o.carveout, 7)]

namespace State

/-- Value of a setting as committed (R352). -/
def getSetting (s : State) (k i : Nat) : Nat :=
  let g := s.saggar i
  let p := s.power
  if k = 0x0020 then b2n g.active
  else if k = 0x0021 then g.inflightShare
  else if k = 0x0022 then packBits [((s.cluster i).saggar, 0), (b2n (s.cluster i).assigned, 6)]
  else if k = 0x0200 then ownerWord (s.owner i)
  else if k = 0x0201 then g.hashKey.toNat
  else if k = 0x0202 then b2n g.carveoutAccess
  else if k = 0x0203 then s.fw.hostCarveout
  else if k = 0x0600 then g.fabShare
  else if k = 0x0601 then s.fab.peers.get (fun _ => 0) i
  else if k = 0x0602 then s.fab.relayBase + 2 ^ 19 * b2n s.fab.relayOn
  else if k = 0x0700 then p.pkgCap
  else if k = 0x0701 then g.cap
  else if k = 0x0702 then packBits [(g.fixedCone, 0), (b2n g.fixedOn, 3)]
  else if k = 0x0703 then p.ringGroup.get (fun _ => 0) i
  else if k = 0x0704 then p.powerGroup
  else if k = 0x0705 then p.lendMax
  else if k = 0x0706 then p.stageNs
  else if k = 0x0707 then p.shiftMax
  else if k = 0x0708 then s.thermal.rotSpread
  else if k = 0x0709 then b2n s.thermal.flowAsk
  else if k = 0x0800 then s.rel.ceThreshold
  else if k = 0x0801 then s.rel.ceLeakS
  else if k = 0x0802 then b2n s.rel.autoRetire
  else if k = 0x0803 then s.rel.cisIrqMin
  else if k = 0x0804 then (s.weir i).rate + 256 * (s.weir i).burst
  else if k = 0x0805 then packBits [((s.retireSet i).channel, 0), (b2n (s.retireSet i).valid, 9), ((s.retireSet i).donor, 10)]
  else if k = 0x0900 then packBits [(s.fw.twinPeer, 0), (b2n s.fw.twinValid, 8)]
  else if k = 0x0901 then packBits [(g.replica, 0), (b2n g.replicaValid, 6)]
  else 0

/-- Write the fields of a setting; bits outside its fields are ignored. -/
def putSetting (s : State) (k i v : Nat) : State :=
  if k = 0x0020 then s.modSaggar i (fun g => { g with active := bitAt v 0 })
  else if k = 0x0021 then s.modSaggar i (fun g => { g with inflightShare := v % 2 ^ 13 })
  else if k = 0x0022 then s.modCluster i (fun c => { c with saggar := v % 64, assigned := bitAt v 6 })
  else if k = 0x0200 then s.setOwner i { saggar := v % 64, assigned := bitAt v 6, carveout := bitAt v 7 }
  else if k = 0x0201 then s.modSaggar i (fun g => { g with hashKey := BitVec.ofNat 64 v })
  else if k = 0x0202 then s.modSaggar i (fun g => { g with carveoutAccess := bitAt v 0 })
  else if k = 0x0203 then { s with fw := { s.fw with hostCarveout := v % 512 } }
  else if k = 0x0600 then s.modSaggar i (fun g => { g with fabShare := v % 256 })
  else if k = 0x0601 then { s with fab := { s.fab with peers := s.fab.peers.put (fun _ => 0) i (v % 128) } }
  else if k = 0x0602 then { s with fab := { s.fab with relayBase := v % 2 ^ 19, relayOn := bitAt v 19 } }
  else if k = 0x0700 then { s with power := { s.power with pkgCap := v % 65536 } }
  else if k = 0x0701 then s.modSaggar i (fun g => { g with cap := v % 65536 })
  else if k = 0x0702 then s.modSaggar i (fun g => { g with fixedCone := v % 8, fixedOn := bitAt v 3 })
  else if k = 0x0703 then { s with power := { s.power with ringGroup := s.power.ringGroup.put (fun _ => 0) i (v % 1024) } }
  else if k = 0x0704 then { s with power := { s.power with powerGroup := v % 256 } }
  else if k = 0x0705 then { s with power := { s.power with lendMax := v % 65536 } }
  else if k = 0x0706 then { s with power := { s.power with stageNs := v % 1024 } }
  else if k = 0x0707 then { s with power := { s.power with shiftMax := v % 64 } }
  else if k = 0x0708 then { s with thermal := { s.thermal with rotSpread := v % 256 } }
  else if k = 0x0709 then { s with thermal := { s.thermal with flowAsk := bitAt v 0 } }
  else if k = 0x0800 then { s with rel := { s.rel with ceThreshold := v % 65536 } }
  else if k = 0x0801 then { s with rel := { s.rel with ceLeakS := v % 65536 } }
  else if k = 0x0802 then { s with rel := { s.rel with autoRetire := bitAt v 0 } }
  else if k = 0x0803 then { s with rel := { s.rel with cisIrqMin := v % 8 } }
  else if k = 0x0804 then
    let w := (s.weir i).refill s.nowUs
    s.setWeir i { w with rate := v % 256, burst := bits v 8 8, tokens := min w.tokens (bits v 8 8 * 1000000) }
  else if k = 0x0805 then
    let x : ChanRetire := { channel := v % 512, valid := bitAt v 9, donor := bits v 10 19 }
    { s with rel := { s.rel with retireSet := s.rel.retireSet.put (fun _ => ChanRetire.none) i x } }
  else if k = 0x0900 then { s with fw := { s.fw with twinPeer := v % 256, twinValid := bitAt v 8 } }
  else if k = 0x0901 then s.modSaggar i (fun g => { g with replica := v % 64, replicaValid := bitAt v 6 })
  else s

/-! ### Staging (R347 to R349) -/

/-- Status of one entry for its form and its authority (R347, R349): `oper` is the transaction's authority. -/
def entryCheck (e : CfgEntry) (oper : Bool) (sag : Nat) : List Nat :=
  if e.setting = 1 then
    [check (e.run = 0) 0x0102, check (decide (1 < e.run)) 0x0101, check (e.index % 4 ≠ 0) 0x0103,
      check (decide (e.index % 4 = 0) && (rwtAt e.index).isNone) 0x0404, check (!oper) 0x0202]
  else
    match settingSize e.setting with
    | none => [check (e.run = 0) 0x0102, 0x0404]
    | some n =>
      [check (e.run = 0) 0x0102, check (decide (e.run ≠ 0 ∧ n < e.index + e.run)) 0x0101,
        check (!oper && !(e.setting == 0x0702 && e.index == sag && e.run == 1)) 0x0202]

/-- Stage an entry: a later entry for the same setting and index replaces an earlier one, and register entries merge by
mask (R349). -/
def stageEntry (l : List CfgEntry) (e : CfgEntry) : List CfgEntry :=
  if e.setting = 1 then
    match l.find? (fun o => o.setting == 1 && o.index == e.index) with
    | none => l ++ [e]
    | some o =>
      let m := e.value / 2 ^ 32
      let v := mergeBits (o.value % 2 ^ 32) (e.value % 2 ^ 32) m
      replaceFirst (fun x => x.setting == 1 && x.index == e.index)
        (fun x => { x with value := v + 2 ^ 32 * (o.value / 2 ^ 32 ||| m) }) l
  else
    l.filter (fun o => !(o.setting == e.setting && o.index == e.index && decide (o.run ≤ e.run))) ++ [e]

/-- A configuration entry from its 16 bytes (R347). -/
def entryOf (b : List Byte) : CfgEntry :=
  { setting := fieldAt b 0 2, run := fieldAt b 2 2, index := fieldAt b 4 4, value := fieldAt b 8 8 }

def chunk16 : Nat → List Byte → List (List Byte)
  | 0, _ => []
  | f + 1, b => b.take 16 :: chunk16 f (b.drop 16)

def sessionOf (c : Cmd) : Option Nat :=
  match c.origin with
  | .ring _ => none
  | .mgmt k => some k

/-- The transaction that a command names, when it is open for the command's saggar and session (R349, R403). -/
def ownTxn (s : State) (c : Cmd) : Option Txn :=
  s.txns.find? (fun t => t.id == c.txn && t.saggar == c.saggar && !t.committing && t.session == sessionOf c)

def dropTxn (s : State) (id : Nat) : State := { s with txns := s.txns.filter (fun t => t.id != id) }

/-- The entries that a CFG_SET carries: the state after reading a list, failing statuses, and the entries (R349). -/
def setEntries (s : State) (c : Cmd) : State × List Nat × List CfgEntry :=
  if bitAt (c.p 0 1) 0 then
    let a := c.addr 8
    let n := c.p 16 4
    if n = 0 then (s, [0x0102], [])
    else if 256 < n then (s, [0x0101], [])
    else if s.reach (s.engineAuth c.saggar) false a (16 * n) ≠ 0 then (s, [0x0220], [])
    else
      let r := s.load 7 0xFFFF a (16 * n)
      if r.2.1.isSome then (r.1, [0x0220], []) else (r.1, [], (chunk16 n r.2.2).map entryOf)
  else (s, [], [entryOf ((c.params.drop 8).take 16)])

/-! ### The checks of a commit (R350 step 2) -/

/-- Apply an entry's values and nothing more. -/
def putEntry (s : State) (e : CfgEntry) : State :=
  if e.setting = 1 then
    match rwtAt e.index with
    | some r => s.rwtPut r (mergeBits (s.rwtGet r) (e.value % 2 ^ 32) (e.value / 2 ^ 32))
    | none => s
  else (span e.index e.run).foldl (fun s i => s.putSetting e.setting i e.value) s

def putEntries (s : State) (l : List CfgEntry) : State := l.foldl putEntry s

/-- Indices of a setting that entries name. -/
def touched (l : List CfgEntry) (k : Nat) : List Nat :=
  (l.filter (fun e => e.setting == k)).flatMap (fun e => span e.index e.run)

/-- RWT registers that entries name. -/
def touchedRegs (l : List CfgEntry) : List RwtReg := (l.filter (fun e => e.setting == 1)).filterMap (fun e => rwtAt e.index)

/-- Priority admission over all sites (R56): the sites' budget is 8,192 in RATE and 64 flits in BURST. A site that is
not listed has RATE 0. -/
def priAdmission (t : State) : Nat :=
  let rate := t.sites.foldl (fun (a : Nat) (p : Nat × Site) => a + p.2.pri.rate) 0
  let burst := t.sites.foldl (fun (a : Nat) (p : Nat × Site) => if p.2.pri.rate = 0 then a else a + p.2.pri.burst) 0
  check (decide (8192 < rate) || decide (64 < burst)) 0x0311

/-- Ring memory lies wholly in carve-out granules or wholly in granules of the ring's saggar (R324). -/
def ringMemOk (t : State) (r : Ring) : Bool :=
  let n := r.entries * (if r.role = .completion then 32 else 64)
  match winOf r.base with
  | some (w, hi) =>
    (w == .hashed || w == .linear) && decide (r.base + n ≤ hi) &&
    ((gransOf r.base n).all (fun g => (t.owner g).carveout && !(t.owner g).assigned) ||
      (gransOf r.base n).all (fun g => t.granOwner g == some r.saggar))
  | none => false

/-- The checks of R324 on one ring: `s` before the commit, `t` with its entries. -/
def ringCheck (s t : State) (n : Nat) : List Nat :=
  let o := s.ring n
  let r := t.ring n
  let pow := decide (16 ≤ r.entries ∧ r.entries ≤ 65536 ∧ 2 ^ Nat.log2 r.entries = r.entries)
  let p := t.ring r.pair
  let use := r.role != .disabled
  [check (use && r.entries == 0) 0x0102, check (use && r.entries != 0 && !pow) 0x0101,
    check (use && r.base % 4096 != 0) 0x0103,
    check (use && pow && r.base % 4096 == 0 && !t.ringMemOk r) 0x0220,
    check ((r.role == .submission || r.role == .descriptor) && !(p.role == .completion && p.saggar == r.saggar)) 0x0321,
    check ((o.role != r.role || o.entries != r.entries || o.base != r.base) &&
      (o.tail != o.head || s.ringInflight n != 0)) 0x0406]

/-- The checks of R213 on one sluice. -/
def bindCheck (t : State) (n : Nat) : List Nat :=
  let x := t.sluice n
  let r := t.ring x.ring
  if x.valid then
    [check (r.saggar ≠ x.saggar) 0x0220, check (r.role ≠ .descriptor) 0x0321,
      check (t.sluices.any (fun p => p.1 != n && p.2.valid && p.2.ring == x.ring)) 0x0321]
  else []

/-- The value rules of one RWT register (R48, Table 8-9; R324, R213). -/
def regCheck (s t : State) (r : RwtReg) : List Nat :=
  match r with
  | .ringCfg n | .ringSize n | .ringBaseLo n | .ringBaseHi n => s.ringCheck t n
  | .sluBind n => t.bindCheck n
  | .nbMaxSteps n => [check ((t.nb n).maxSteps = 0) 0x0102]
  | .nbShare _ _ => []
  | .shape i k => [check (((t.site i).shapeOf k).burst = 0) 0x0102]

/-- Value rules of one indexed entry. -/
def valueCheck (s : State) (e : CfgEntry) : List Nat :=
  let v := e.value
  let k := e.setting
  if k = 0x0020 then [check (!bitAt v 0) 0x0101]
  else if k = 0x0021 then [check (decide (4032 < v % 2 ^ 13)) 0x0101]
  else if k = 0x0022 then
    [check (bitAt v 6 && (span e.index e.run).any (fun c => (s.clusterActive c).isEmpty)) 0x0312]
  else if k = 0x0200 then
    [check (bitAt v 6 && bitAt v 7) 0x0101,
      check ((bitAt v 6 || bitAt v 7) && (span e.index e.run).any (fun g => s.granState g == 2)) 0x03E0]
  else if k = 0x0203 then
    let f := firstCarveGranule (v % 512)
    [check (decide (v % 512 = 0 ∨ 256 < v % 512)) 0x0101, check (s.rel.granState.any (fun p => p.2 == 2 && decide (f ≤ p.1))) 0x03E0]
  else if k = 0x0602 then [check (bitAt v 19 && v % 512 != 0) 0x0103]
  else if k = 0x0700 then [check (decide (v % 65536 < 1000 ∨ ceilingW s.fw.variant < v % 65536)) 0x01C0]
  else if k = 0x0706 then [check (decide (v % 1024 < 100 ∨ 1000 < v % 1024)) 0x01C0]
  else if k = 0x0707 then [check (decide (50 < v % 64)) 0x01C0]
  else if k = 0x0708 then [check (decide (v % 256 < 2 ∨ 20 < v % 256)) 0x01D0]
  else if k = 0x0800 then [check (decide (v % 65536 = 0 ∨ 65534 < v % 65536)) 0x0101]
  else if k = 0x0801 then [check (decide (v % 65536 = 0 ∨ 3600 < v % 65536)) 0x0101]
  else if k = 0x0804 then [check (bits v 8 8 = 0) 0x0101]
  else []

/-- Rings that may carry OPER: rings 0 and 1 and those a commit has configured. -/
def ringNumbers (s : State) : List Nat := 0 :: 1 :: s.rings.map (·.1)

/-- A saggar's granule before and after: a change of its HASH_KEY fails while it owns one all along (R199). -/
def keyCheck (s t : State) (g : Nat) : Nat :=
  check ((s.saggar g).hashKey != (t.saggar g).hashKey &&
    s.owners.any (fun p => p.2.assigned && p.2.saggar == g && t.granOwner p.1 == some g)) 0x0322

/-- Activation needs a share in the same commit, and shares sum to at most 4,032 (R354); an operator ring never names an
active saggar (R355). -/
def activeChecks (s t : State) (l : List CfgEntry) : List Nat :=
  let given := touched l 0x0021
  (touched l 0x0020).map (fun g => check (!(s.saggar g).active &&
      !(decide (g ∈ given) && decide (1 ≤ (t.saggar g).inflightShare))) 0x0101) ++
  [check (decide (4032 < ((List.range 64).map (fun g => (t.saggar g).inflightShare)).foldl (· + ·) 0)) 0x0355,
    check (t.ringNumbers.any (fun n => (t.ring n).oper && (t.saggar (t.ring n).saggar).active)) 0x0356]

/-- The relay area is free of assigned and carve-out granules, now and at the next bisque start (R406). -/
def relayCheck (t : State) : Nat :=
  let a := t.fab.relayBase
  check (t.fab.relayOn && ((span a 512).any (fun g => (t.owner g).assigned || (t.owner g).carveout) ||
    decide (firstCarveGranule t.fw.hostCarveout < a + 512))) 0x03B2

/-- Donor runs are aligned and free (R462), and no donor granule is assigned. -/
def donorCheck (t : State) : List Nat :=
  let slots := (List.range 4).filter (fun j => (t.retireSet j).valid)
  let meets := fun a n b m : Nat => decide (a < b + m ∧ b < a + n)
  slots.map (fun j =>
    let d := (t.retireSet j).donor
    check (d % 1024 != 0 || t.owners.any (fun p => p.2.assigned && decide (d ≤ p.1 ∧ p.1 < d + 1024)) ||
      decide (firstCarveGranule t.fw.hostCarveout < d + 1024) || (t.fab.relayOn && meets d 1024 t.fab.relayBase 512) ||
      slots.any (fun k => k != j && meets d 1024 (t.retireSet k).donor 1024)) 0x03E1) ++
  [check (t.owners.any (fun p => p.2.assigned && t.isDonor p.1)) 0x03E1]

/-- A ring group holds rings of one saggar: a ring that the commit puts into a group, and the rings that a commit put
there before (R431). -/
def groupChecks (t : State) (l : List CfgEntry) : List Nat :=
  let grp := fun n => t.power.ringGroup.get (fun _ => 0) n
  (touched l 0x0703).map (fun n =>
    check (grp n != 0 && t.power.ringGroup.any (fun p => p.2 == grp n && (t.ring p.1).saggar != (t.ring n).saggar)) 0x03C1)

/-- REPLICA(s) names the peer that FAB_PEER(s, TWIN_PEER) names as valid (R505). -/
def replicaChecks (t : State) (l : List CfgEntry) : List Nat :=
  (touched l 0x0901).map (fun g =>
    check ((t.saggar g).replicaValid && t.peerOf g t.fw.twinPeer != some (t.saggar g).replica) 0x03F3)

/-- Every rule of step 2: `t` is the state with the entries. -/
def commitChecks (s : State) (l : List CfgEntry) : Nat :=
  let t := s.putEntries l
  lowest (l.flatMap s.valueCheck ++ (touchedRegs l).flatMap (s.regCheck t) ++ [t.priAdmission] ++
    (touched l 0x0201).map (s.keyCheck t) ++ s.activeChecks t l ++ [t.relayCheck] ++ t.donorCheck ++ t.groupChecks l ++
    t.replicaChecks l)

/-- A setting that the transaction names has changed since its CFG_BEGIN (R350 step 3). -/
def changedSince (s : State) (t : Txn) : Bool :=
  t.entries.any (fun e => s.changed.any (fun c =>
    decide (t.beganAt < c.2.2.2) && c.1 == e.setting && decide (c.2.1 < e.index + e.run ∧ e.index < c.2.1 + c.2.2.1)))

/-! ### Quiescence (R350 step 4) -/

/-- The saggars whose resource a register is, before or after. -/
def regSaggars (s : State) (r : RwtReg) : List Nat :=
  match r with
  | .ringCfg n | .ringSize n | .ringBaseLo n | .ringBaseHi n => [(s.ring n).saggar]
  | .sluBind n => if (s.sluice n).valid then [(s.sluice n).saggar] else []
  | .nbMaxSteps _ => []
  | .nbShare _ k => span (4 * k) 4
  | .shape i _ => (s.siteOwner i).toList

/-- The saggars whose resource a setting is. -/
def settingSaggars (s : State) (k i : Nat) : List Nat :=
  if bySaggar k then [i]
  else if k = 0x0022 then (if (s.cluster i).assigned then [(s.cluster i).saggar] else [])
  else if k = 0x0200 then (s.granOwner i).toList
  else if k = 0x0601 then [i / 256]
  else if k = 0x0703 then [(s.ring i).saggar]
  else []

def entrySaggars (s : State) (e : CfgEntry) : List Nat :=
  if e.setting = 1 then
    match rwtAt e.index with
    | some (.nbShare n k) =>
      (span (4 * k) 4).filter (fun g => bits (e.value / 2 ^ 32) (8 * (g % 4)) 8 != 0 && decide (n < 512))
    | some r => s.regSaggars r
    | none => []
  else (span e.index e.run).flatMap (s.settingSaggars e.setting)

/-- Active saggars whose resources a transaction changes: those that lose and those that gain (R350, R354). -/
def commitSaggars (s : State) (l : List CfgEntry) : List Nat :=
  let t := s.putEntries l
  ((l.flatMap s.entrySaggars ++ l.flatMap t.entrySaggars).foldl (fun a g => insertNat g a) []).filter
    (fun g => (s.saggar g).active)

/-! ### Applying a commit (R350 step 5) -/

/-- Granules and clusters whose owner changes. -/
def movedGranules (s t : State) (l : List CfgEntry) : List Nat :=
  (touched l 0x0200).filter (fun g => s.granOwner g != t.granOwner g)
def movedClusters (s t : State) (l : List CfgEntry) : List Nat :=
  (touched l 0x0022).filter (fun c => s.siteOwner ((clusterSites c).headD 0) != t.siteOwner ((clusterSites c).headD 0))

/-- Sites of these clusters that are powered and not in reset: they rewet at the commit. -/
def rewetSites (s : State) (l : List Nat) : List Nat :=
  (l.filter (fun c => !(s.cluster c).asleep && !(s.cluster c).dark)).flatMap
    (fun c => (clusterSites c).filter (fun i => !(s.site i).inReset && !(s.site i).gated))

/-- A cluster that sleeps and gets an owner switches on (R413). -/
def wakeMoved (s : State) (l : List Nat) : State :=
  l.foldl (fun s c => s.modCluster c (fun x => if x.asleep ∧ x.assigned then { x with wantOn := true } else x)) s

/-- A halted sluice whose binding changes first completes its descriptor (R213). -/
def endMovedSluices (s t : State) (l : List CfgEntry) : State :=
  (touchedRegs l).foldl (fun s r => match r with
    | .sluBind n => if (s.sluice n).state = .halted ∧ (s.sluice n).bindWord ≠ (t.sluice n).bindWord then s.endHalted n else s
    | _ => s) s

/-- A share that a commit gives: the unit's epoch goes to the saggar's sites (R66). -/
def tellShares (s t : State) (l : List CfgEntry) : State :=
  (touchedRegs l).foldl (fun u r => match r with
    | .nbShare n k =>
      let got := (span (4 * k) 4).filter (fun g => (s.nb n).shares.get (fun _ => 0) g == 0 && (t.nb n).shares.get (fun _ => 0) g != 0)
      if got.isEmpty then u else { u with rill := u.rill ++ [.epoch (channelCode n) (u.nb n).epoch got] }
    | _ => u) t

/-- A pending granule that a commit leaves without owner and outside the carve-out becomes RETIRED (R461). -/
def retireFreed (s : State) : State :=
  ((s.rel.granState.filter (fun p => p.2 == 1 && !(s.owner p.1).assigned && !(s.owner p.1).carveout)).map (·.1)).foldl
    (fun s g => (s.setGranState g 2).recordFw 4 0x8004 none 0 (p4 g)) s

/-- The granules that a commit fills with zeros: those that change owner, and those of the relay area that it releases
(R200, R406). -/
def commitFills (s t : State) (l : List CfgEntry) : List Nat :=
  s.movedGranules t l ++
    (if s.fab.relayOn ∧ (t.fab.relayOn = false ∨ t.fab.relayBase ≠ s.fab.relayBase) then span s.fab.relayBase 512 else [])

/-- The sites that rewet at a commit: those of clusters that change owner (R354). -/
def commitRewets (s : State) (l : List CfgEntry) : List Nat := s.rewetSites (s.movedClusters (s.putEntries l) l)

/-- A saggar activated by the commit starts with zero meters and measurement (R512); a saggar whose resources changed
extends SMEAS (R513). -/
def measureCommit (s : State) (txn : Nat) (fresh held : List Nat) : State :=
  let s := fresh.foldl (fun s g =>
    let s := s.modSaggar g (fun x => { x with busy := 0, idle := 0, smeas := zeroDigest, slog := [], slogOver := false })
    s.extendSag g 0x0010 g (s.resourceImage g)) s
  held.foldl (fun s g => s.extendSag g 0x0011 txn (s.resourceImage g)) s

/-- Remember what the commit wrote, while some transaction is open. -/
def noteChanged (s : State) (l : List CfgEntry) : State :=
  let n := s.host.commitSerial + 1
  let s := { s with host := { s.host with commitSerial := n } }
  { s with changed := if s.txns.isEmpty then [] else s.changed ++ l.map (fun e => (e.setting, e.index, e.run, n)) }

/-- Apply every entry at once, and begin the fills and rewets: the granules that are filled answer 0x0602 and the sites are
in reset until they end (R350 step 5, R200, R67). -/
def applyEntries (s : State) (txn : Nat) (held : List Nat) (l : List CfgEntry) : State :=
  let t := s.putEntries l
  let grans := s.commitFills t l
  let clus := s.movedClusters t l
  let fresh := ((touched l 0x0020).foldl (fun a g => insertNat g a) []).filter (fun g => !(s.saggar g).active)
  let sites := s.commitRewets l
  let s := s.endMovedSluices t l
  let s := sites.foldl enterSite s
  let before := grans.foldl zeroGranule s
  let s := (before.tellShares (before.putEntries l) l).wakeMoved clus
  ({ s with filling := grans }).measureCommit txn fresh held

/-- The fills end: a granule that reads back uncorrectable becomes RETIRE_PENDING and goes on (R466). -/
def endFills (s : State) (bad : List Nat) : State :=
  let s := (s.filling.filter (fun g => bad.contains g)).foldl retirePending s
  ({ s with filling := [] }).retireFreed

/-! ### One commit at a time (R350 step 1) -/

/-- End a commit: its transaction is gone, its saggars go on, and the command completes. -/
def endCommit (s : State) (c : Commit) (status : Nat) (r : Result) : State :=
  let s := { s with commits := s.commits.filter (fun x => x.cmd != c.cmd) }
  ((s.dropTxn c.txn).releaseSaggars c.waitFor).finish c.cmd status r

/-- Begin the commit at the head of the list: check it, and bring the saggars it concerns to a quiescence point; a commit
that fails ends at once, and the next begins. -/
def beginCommits : Nat → State → State
  | 0, s => s
  | f + 1, s =>
    match s.commits with
    | [] => s
    | c :: r =>
      match s.txns.find? (fun t => t.id == c.txn) with
      | none => beginCommits f (s.endCommit c 0x0401 Result.zero)
      | some t =>
        let st := staged [[s.commitChecks t.entries], [check (s.changedSince t) 0x0405]]
        if st ≠ 0 then beginCommits f (s.endCommit c st Result.zero)
        else
          let wait := s.commitSaggars t.entries
          ({ s with commits := { c with waitFor := wait, sinceUs := s.nowUs } :: r }).holdSaggars wait

/-- Relay slots that must be empty before a commit that moves or disables the relay area may apply (R406). -/
def relayWaits (s : State) (l : List CfgEntry) : Bool :=
  let t := s.putEntries l
  s.fab.relayOn && (!t.fab.relayOn || t.fab.relayBase != s.fab.relayBase) && !s.fab.relayBusy.isEmpty

end State

/-- CFG_BEGIN, opcode 0x008 (R348): identifiers rise by 1 and skip 0 and those still open. -/
def nextTxnId (s : State) : Nat :=
  let n := s.host.nextTxn
  ((List.range 65).map (fun k => (n - 1 + k) % 65535 + 1)).find? (fun k => !(s.txns.any (fun t => t.id == k))) |>.getD n

def execCfgBegin (id : Nat) (s : State) : Out :=
  match s.ready id 0x008 with
  | none => .next s
  | some c =>
    if 64 ≤ s.txns.length then .next (s.refuse id 0x0403)
    else
      let n := nextTxnId s
      let t : Txn :=
        { id := n, saggar := c.saggar, oper := c.oper, session := State.sessionOf c, beganUs := s.nowUs,
          beganAt := s.host.commitSerial, entries := [], committing := false }
      let s := { s with txns := s.txns ++ [t], host := { s.host with nextTxn := n % 65535 + 1 } }
      .next (s.finish id 0 (Result.w0 n))

/-- CFG_SET, opcode 0x009 (R347, R349): every entry is checked before any is staged. -/
def execCfgSet (id : Nat) (s : State) : Out :=
  match s.ready id 0x009 with
  | none => .next s
  | some c =>
    let t := s.ownTxn c
    let r := s.setEntries c
    let oper := (t.map (·.oper)).getD c.oper
    let staged := r.2.2.foldl State.stageEntry ((t.map (·.entries)).getD [])
    let st := lowest ([check t.isNone 0x0401] ++ r.2.1 ++ r.2.2.flatMap (fun e => State.entryCheck e oper c.saggar) ++
      [check (decide (256 < staged.length)) 0x0101])
    if st ≠ 0 then .next (r.1.refuse id st)
    else
      let s : State := { r.1 with txns := r.1.txns.map (fun (x : Txn) => if x.id = c.txn then { x with entries := staged } else x) }
      .next (s.finish id 0 (Result.w0 staged.length))

/-- CFG_COMMIT, opcode 0x00A (R350): the transaction stops being open, and the commit runs after those accepted before
it. -/
def execCfgCommit (id : Nat) (s : State) : Out :=
  match s.ready id 0x00A with
  | none => .next s
  | some c =>
    match s.ownTxn c with
    | none => .next (s.refuse id 0x0401)
    | some t =>
      let s := (s.setPhase id .running)
      let k : Commit := { cmd := id, txn := t.id, waitFor := [], sinceUs := s.nowUs, applied := false, waitedUs := 0, rewets := [] }
      let first := s.commits.isEmpty
      let s := { s with
        txns := s.txns.map (fun x => if x.id = t.id then { x with committing := true } else x)
        commits := s.commits ++ [k] }
      .next (if first then s.beginCommits 64 else s)

/-- COMMIT_APPLY: every saggar that the first commit waits for is quiescent; the entries apply at once (R350). Where they call
for fills or rewets, the row runs again when every site has returned or failed its rewet (R466), and ends the fills, of which
`badFills` read back uncorrectable; then the saggars are released. Result word 0 holds the entries applied, word 1 the wait
in µs. -/
def execCommitApply (id : Nat) (badFills : List Nat) (s : State) : Out :=
  match s.commits.head?, s.txns.find? (fun t => some t.id == s.commits.head?.map (·.txn)) with
  | some c, some t =>
    if c.cmd ≠ id then .next s
    else if c.applied then
      if c.rewets.any s.siteMayReturn then .next s
      else .next (((s.endFills badFills).endCommit c 0 (Result.w01 t.entries.length c.waitedUs)).beginCommits 64)
    else if c.waitFor.all s.quiescent ∧ s.relayWaits t.entries = false then
      let c := { c with applied := true, waitedUs := s.nowUs - c.sinceUs, rewets := s.commitRewets t.entries }
      let s := (s.applyEntries t.id c.waitFor t.entries).noteChanged t.entries
      if c.rewets.isEmpty ∧ s.filling.isEmpty then
        .next (((s.endFills []).endCommit c 0 (Result.w01 t.entries.length c.waitedUs)).beginCommits 64)
      else .next { s with commits := s.commits.map (fun x => if x.cmd = id then c else x) }
    else .next s
  | _, _ => .next s

/-- QUIESCENCE_TIMEOUT: the point is not reached within 10 s; the commit fails with 0x0402, event 0xB004 carries the saggars
still waited on as a mask of 64 bits, and every saggar is released unchanged (R351). -/
def execQuiescenceTimeout (id : Nat) (s : State) : Out :=
  match s.commits.head?, s.txns.find? (fun t => some t.id == s.commits.head?.map (·.txn)) with
  | some c, some t =>
    if c.cmd = id ∧ c.applied = false ∧ c.sinceUs + 10000000 ≤ s.nowUs ∧ (c.waitFor.all s.quiescent = false ∨ s.relayWaits t.entries) then
      let left := c.waitFor.filter (fun g => !s.quiescent g)
      let s := s.recordFw 1 0xB004 none 0 (p4 t.id ++ p8 (left.foldl (fun a g => a + 2 ^ g) 0))
      .next ((s.endCommit c 0x0402 Result.zero).beginCommits 64)
    else .next s
  | _, _ => .next s

/-- CFG_ABORT, opcode 0x00B (R350): its only refusal is 0x0401. -/
def execCfgAbort (id : Nat) (s : State) : Out :=
  match s.ready id 0x00B with
  | none => .next s
  | some c =>
    match s.ownTxn c with
    | none => .next (s.refuse id 0x0401)
    | some t => .next ((s.dropTxn t.id).finish id 0 Result.zero)

/-- TRANSACTION_TIMEOUT: a transaction neither committed nor aborted within 10 s of its CFG_BEGIN is aborted, with event
0xB003 (R348). -/
def execTransactionTimeout (txn : Nat) (s : State) : Out :=
  match s.txns.find? (fun t => t.id == txn) with
  | some t =>
    if t.committing = false ∧ t.beganUs + 10000000 ≤ s.nowUs then
      .next ((s.dropTxn txn).recordFw 1 0xB003 (some t.saggar) 0 (p4 txn ++ p4 t.saggar))
    else .next s
  | none => .next s

namespace State

/-- The saggar whose resource a register at a control space offset is, if any, as saggar `sag` asks (R352, R353): a register of
four near-bank shares counts as its own when one of them is. -/
def regOwner (s : State) (sag o : Nat) : Option Nat :=
  if 0x1000000 ≤ o ∧ o < 0x1400000 then
    let r := s.ring ((o - 0x1000000) / 0x100)
    if r.role = .disabled then none else some r.saggar
  else if 0x2000000 ≤ o ∧ o < 0x2100000 then
    let x := s.sluice ((o - 0x2000000) / 0x400)
    if x.valid then some x.saggar else none
  else if 0x3020000 ≤ o ∧ o < 0x3030000 then
    let c := s.cluster ((o - 0x3020000) / 0x10)
    if c.assigned then some c.saggar else none
  else if 0x3040000 ≤ o ∧ o < 0x3041000 then some ((o - 0x3040000) / 0x40)
  else if 0x3260000 ≤ o ∧ o < 0x3260100 then some ((o - 0x3260000) / 4)
  else if 0x4100000 ≤ o ∧ o < 0x4500000 then
    match s.rel.entries.find? (fun e => e.slot == (o - 0x4100000) / 0x40) with
    | some e => if e.hasSaggar then some e.saggar else none
    | none => none
  else if 0x7000000 ≤ o ∧ o < 0x7200000 then
    let k := (o % 0x1000 - 0x100) / 4
    if 0x100 ≤ o % 0x1000 ∧ o % 0x1000 < 0x140 then some (if sag / 4 = k then sag else 4 * k) else none
  else if 0x9000000 ≤ o ∧ o < 0x9120000 then s.siteOwner ((o - 0x9000000) / 0x100)
  else none

/-- The saggar whose resource a setting is, for CFG_GET. -/
def settingOwner (s : State) (sag k i : Nat) : Option Nat :=
  if k = 1 then s.regOwner sag i else (s.settingSaggars k i).head?

/-- Status of a CFG_GET (R352). -/
def getCheck (s : State) (c : Cmd) : Nat :=
  let k := c.p 0 2
  let i := c.p 4 4
  let form := if k = 1 then
      [check (i % 4 ≠ 0) 0x0103, check (decide (0x10000000 ≤ i)) 0x0101,
        check (decide (i % 4 = 0 ∧ i < 0x10000000) && (s.regRead i).isNone) 0x0404]
    else match settingSize k with
      | none => [0x0404]
      | some n => [check (decide (n ≤ i)) 0x0101]
  let own := if lowest form = 0 then s.settingOwner c.saggar k i else none
  lowest (form ++ [check (!c.oper && own.isSome && own != some c.saggar) 0x0220])

end State

/-- CFG_GET, opcode 0x00C (R352). -/
def execCfgGet (id : Nat) (s : State) : Out :=
  match s.ready id 0x00C with
  | none => .next s
  | some c =>
    let st := s.getCheck c
    if st ≠ 0 then .next (s.refuse id st)
    else
      let v := if c.p 0 2 = 1 then (s.regRead (c.p 4 4)).getD 0 else s.getSetting (c.p 0 2) (c.p 4 4)
      .next (s.finish id 0 (Result.wide v))

end Sys2Proof.Machine
end

