-- ==== Sys2Proof/Machine/HostRings.lean ====
section
/-! DEFINITION. The host's side of the block: register writes (R320, R346), doorbells (R326, R327), fetching and accepting
commands (R332 to R335, R537), completions and interrupts (R338, R342), ring resets (R329, R330) and the loss of a UCIe
module (R318). -/
namespace Sys2Proof.Machine
open Sys2Proof

def ringsN : Nat := 16384

namespace State

/-! ### Doorbells (R326) -/

/-- Entries between two free-running counts. -/
def ringGap (a b : Nat) : Nat := (a + 2 ^ 32 - b % 2 ^ 32) % 2 ^ 32

/-- A doorbell with this value is accepted (R326, R214). -/
def doorbellOk (r : Ring) (value : Nat) : Bool :=
  !r.inReset && r.role != .disabled && r.entries != 0 &&
  (match r.role with
    | .completion => decide (ringGap r.tail value ≤ r.entries)
    | .descriptor => decide (ringGap value r.head ≤ r.entries) && value % 2 == 0
    | _ => decide (ringGap value r.head ≤ r.entries))

/-- An accepted doorbell moves TAIL, or HEAD of a completion ring; a returned slot ends a stall for want of room. -/
def ringDoorbell (r : Ring) (value : Nat) : Ring :=
  if r.role = .completion then
    { r with db := value, head := value, stalled := r.stalled && (r.slotPoisoned || decide (r.entries ≤ ringGap r.tail value)) }
  else { r with db := value, tail := value }

/-- Ring a doorbell; `dom` and `idx` are where the transaction that carried it entered (R326, R469). -/
def ringTheBell (s : State) (dom idx n value : Nat) : State :=
  let r := s.ring n
  if doorbellOk r value then s.setRing n (ringDoorbell r value)
  else
    let s := s.setRing n { r with dbErr := true }
    let s := { s with host := { s.host with dbErrors := satAdd (top 32) s.host.dbErrors 1 } }
    s.record 0xB001 dom idx (if r.role = .disabled then none else some r.saggar) 0 (p4 n ++ p4 value)

/-! ### Register writes (R7, R320) -/

/-- Write one 32-bit word of the control space. RW and W1C fields take the value; other fields ignore it. -/
def regPut (s : State) (module o v : Nat) : State :=
  let n := (o - 0x1000000) / 0x100
  if 0x10000 ≤ o ∧ o < 0x18000 then
    { s with host := { s.host with
        msixTable := (List.range 4).foldl (fun t k => t.put msixBisque (o - 0x10000 + k) (BitVec.ofNat 8 (v / 2 ^ (8 * k))))
          s.host.msixTable } }
  else if 0x1000000 ≤ o ∧ o < 0x1400000 then
    if o % 0x100 = 0x10 then s.ringTheBell 5 module n v
    else if o % 0x100 = 0x1C then s.modRing n (fun r => { r with dbErr := r.dbErr && !bitAt v 0 })
    else if o % 0x100 = 0x24 then
      s.modRing n (fun r => { r with vector := v % 2 ^ 11, coalCount := bits v 16 8, coalUs := bits v 24 8 })
    else s
  else if 0x2000000 ≤ o ∧ o < 0x2100000 then
    let u := (o - 0x2000000) / 0x400
    if o % 0x400 = 0x20 then
      s.modSluice u (fun x => { x with seed := BitVec.ofNat 64 (x.seed.toNat / 2 ^ 32 * 2 ^ 32 + v) })
    else if o % 0x400 = 0x24 then s.modSluice u (fun x => { x with seed := BitVec.ofNat 64 (x.seed.toNat % 2 ^ 32 + v * 2 ^ 32) })
    else if o % 0x400 = 0x28 then s.modSluice u (fun x => { x with flags := x.flags.clearBits v })
    else s
  else if 0x3040000 ≤ o ∧ o < 0x3041000 ∧ o % 0x40 = 0x10 then
    s.modSaggar ((o - 0x3040000) / 0x40) (fun g => { g with fixedBroken := g.fixedBroken && !bitAt v 16 })
  else if o = 0x4000000 then { s with rel := { s.rel with pending := s.rel.pending && !bitAt v 31 } }
  else if 0x6010000 ≤ o ∧ o < 0x6010000 + 5634 * 0x10 ∧ o % 0x10 = 0 then
    s.modRegion ((o - 0x6010000) / 0x10) (fun g => { g with above := g.above && !bitAt v 16 })
  else s

/-- A vector that was pending is raised when its mask clears, as MSI-X defines. -/
def raiseUnmasked (s : State) : State :=
  (s.host.msixPending.filter (fun v => !s.vectorMasked v)).foldl (fun s v =>
    ({ s with host := { s.host with msixPending := s.host.msixPending.filter (· != v) } }).raiseVector v) s

end State

/-- REGISTER_WRITE: a direct write over module `module`. An access that is not aligned, or not of 4 or 8 bytes, is an
unsupported request (R320); one that touches an RWT field is ignored there and counted in RWT_IGNORED (R7). -/
def execRegisterWrite (module offset size value : Nat) (s : State) : Out :=
  if module ∉ s.host.modules ∨ 0x10000000 ≤ offset then .next s
  else if (size ≠ 4 ∧ size ≠ 8) ∨ offset % size ≠ 0 then
    .next { s with host := { s.host with unsupported := satAdd (top 32) s.host.unsupported 1 } }
  else
    let rwt := (rwtAt offset).isSome || (size == 8 && (rwtAt (offset + 4)).isSome)
    let s := if rwt then { s with host := { s.host with rwtIgnored := satAdd (top 32) s.host.rwtIgnored 1 } } else s
    let s := s.regPut module offset (value % 2 ^ 32)
    .next (if size = 8 then s.regPut module (offset + 4) (value / 2 ^ 32 % 2 ^ 32) else s).raiseUnmasked

/-- DOORBELL: host software writes RING_DB of a ring over a module (R326). -/
def execDoorbell (module ring value : Nat) (s : State) : Out :=
  if module ∉ s.host.modules ∨ ringsN ≤ ring then .next s
  else .next (s.ringTheBell 5 module ring (value % 2 ^ 32))

/-- CORE_DOORBELL: a mesh request of KIND 0x9 from a core reaches UCIe attach port `port` (R327). A priority request needs a
token of SHAPE_PRI (R56). A failing answer is recorded as that of a posted request. -/
def execCoreDoorbell (site port : Nat) (priority : Bool) (ring value : Nat) (s : State) : Out :=
  if sitesN ≤ site ∨ 64 ≤ port ∨ (s.site site).inReset ∨ (s.core site).run ≠ .running then .next s
  else
    let vc := if priority then 0 else 3
    match State.Shape.spend ((s.site site).shapeOf vc) s.nowUs s.meshPerUs 1 with
    | none => .next s
    | some h =>
      let s := s.modSite site (fun x => x.setShape vc h)
      let n := ring % ringsN
      let v := value % 2 ^ 32
      match s.siteOwner site with
      | none => .next (s.remoteStatus site 0x0210)
      | some sag =>
        let r := s.ring n
        let st := if r.saggar ≠ sag then 0x0220 else if r.inReset then 0x0602 else if State.doorbellOk r v then 0 else 0x0101
        if st = 0x0220 then .next (s.remoteStatus site st)
        else
          let s := s.ringTheBell 5 (port / 4) n v
          .next (if st = 0 then s else s.remoteStatus site st)

namespace State

/-! ### Fetching and acceptance (R332 to R334) -/

/-- Opcodes that some chapter defines (R344). -/
def opcodeDefined (op : Nat) : Bool :=
  op ∈ [0x000, 0x008, 0x009, 0x00A, 0x00B, 0x00C, 0x010, 0x018, 0x019, 0x020, 0x100, 0x101, 0x210, 0x300, 0x301, 0x302, 0x303,
    0x400, 0x401, 0x402, 0x403, 0x404, 0x405, 0x500, 0x501, 0x502, 0x503, 0x504, 0x505, 0x600, 0x602, 0x603, 0x700, 0x701,
    0x702, 0x708, 0x800, 0x801, 0x802, 0x808, 0x809, 0x910, 0x911, 0x912, 0x913, 0x914, 0x920, 0x921, 0x930, 0x931, 0x940, 0x941,
    0xA00, 0xA01, 0xA02, 0xA03, 0xA04, 0xA05]

/-- Opcodes marked operator-only by their chapter (R332). Those whose authority depends on their operands are checked
with the other rules of their chapter. -/
def operatorOnly (op : Nat) : Bool :=
  op ∈ [0x010, 0x603, 0x801, 0x802, 0x809, 0x912, 0x913, 0x914, 0x920, 0x921, 0x930, 0x940, 0x941, 0xA05]

/-- A job of a saggar is open (R358, R359). -/
def jobOpen (s : State) (sag job : Nat) : Bool :=
  job == 0 || s.jobs.any (fun j => j.saggar == sag && j.id == job && j.closing.isNone)

/-- The first-stage checks of R332 for a packet of a ring or a session. -/
def acceptCheck (s : State) (c : Cmd) (want : Nat) : Nat :=
  lowest [check (!opcodeDefined c.opcode) 0x0107, check (c.saggar ≠ want) 0x0201,
    check (!c.oper && !(s.saggar c.saggar).active) 0x0203, check (!c.oper && operatorOnly c.opcode) 0x0202,
    check (s.cmds.any (fun x => x.origin == c.origin && x.tag == c.tag)) 0x0106,
    check (c.opcode != 0x018 && !s.jobOpen c.saggar c.job) 0x0351]

/-- A command from its 64 bytes (Table 11-5). -/
def cmdOf (s : State) (origin : Origin) (oper : Bool) (b : List Byte) : Cmd :=
  { id := s.host.nextId, origin := origin, opcode := fieldAt b 0 2 % 4096, irq := bitAt (fieldAt b 2 1) 0,
    ordered := bitAt (fieldAt b 2 1) 1, saggar := fieldAt b 3 1 % 64, oper := oper, tag := fieldAt b 4 2,
    txn := fieldAt b 6 2, job := fieldAt b 8 2, params := (b.drop 16).take 48, phase := .accepted, updates := 0 }

/-- Take a command in: it is in flight from now, and refused at once when a first-stage check fails. -/
def admitCmd (s : State) (c : Cmd) (want : Nat) : State :=
  let st := s.acceptCheck c want
  let s := { s with cmds := s.cmds ++ [c], host := { s.host with nextId := s.host.nextId + 1 } }
  if st ≠ 0 then s.refuse c.id st else s

/-- Commands in flight of a saggar from tenant rings, and of all tenant rings. -/
def saggarInflight (s : State) (sag : Nat) : Nat := (s.cmds.filter (fun c => !c.oper && c.saggar == sag)).length
def tenantInflight (s : State) : Nat := (s.cmds.filter (fun c => !c.oper)).length

/-- A submission ring holds an entry that its saggar's state lets the device fetch (R333, R334, R351). -/
def fetchable (s : State) (n : Nat) : Bool :=
  let r := s.ring n
  r.role == .submission && !r.inReset && r.entries != 0 && r.head != r.tail &&
  (r.oper || ((s.saggar r.saggar).quiescing == 0 && !s.fw.drained && s.fw.draining.isEmpty && decide (s.tenantInflight < 4032) &&
    (!(s.saggar r.saggar).active || decide (s.saggarInflight r.saggar < (s.saggar r.saggar).inflightShare))))

/-- The turn that comes next after `last` among numbers below `n`. -/
def nextTurn (n last : Nat) (p : Nat → Bool) : Option Nat :=
  ((List.range n).map (fun k => (last + 1 + k) % n)).find? p

/-- The ring that a saggar was served from last; before its first turn, none lies above. -/
def lastRingOf (s : State) (g : Nat) : Nat := s.host.lastRing.get (fun _ => 16383) g
def noteTurn (s : State) (g n : Nat) : State :=
  { s with host := { s.host with lastSaggar := g, lastRing := s.host.lastRing.put (fun _ => 16383) g n } }

/-- The device may fetch from a ring now: operator rings first, in any order among them; then tenant saggars in round-robin
order, rotating among a saggar's rings (R333). -/
def mayFetch (s : State) (ring : Nat) : Bool :=
  if !s.host.ready || s.fw.mgmtLost || decide (4096 ≤ s.cmds.length) then false
  else
    let ok := ((insertNat 0 (s.rings.map (·.1))).filter s.fetchable)
    if ok.any (fun n => (s.ring n).oper) then ok.contains ring && (s.ring ring).oper
    else
      match nextTurn 64 s.host.lastSaggar (fun g => ok.any (fun n => (s.ring n).saggar == g)) with
      | none => false
      | some g =>
        let mine := ok.filter (fun n => (s.ring n).saggar == g)
        match mine.find? (fun n => decide (s.lastRingOf g < n)) with
        | some n => n == ring
        | none => mine.head? == some ring

end State

/-- COMMAND_FETCH: the device fetches the next command of a ring whose turn it is, and makes the first-stage checks (R332,
R333). An entry that reads uncorrectable is consumed and completed with 0x0520 (R537). -/
def execCommandFetch (ring : Nat) (strikes : Strikes) (s : State) : Out :=
  if s.mayFetch ring = false then .next s
  else
    let r := s.ring ring
    let a := State.slotAddr r r.head 64
    let rd := (s.strike strikes).load 7 0xFFFF a 64
    let s := rd.1.setRing ring { r with head := (r.head + 1) % 2 ^ 32 }
    let s := if r.oper then s else s.noteTurn r.saggar ring
    match rd.2.1 with
    | some _ =>
      let k : Compl :=
        { target := .ring r.pair, cmd := none, tag := 0, status := 0x0520, progress := 0, r0 := a % 2 ^ 32, r1 := a / 2 ^ 32,
          r2 := 0, r3 := 0, ring := ring, irq := false, opcode := 0, desc := false, job := 0 }
      .next { s with compls := s.compls ++ [k], host := { s.host with refused := satAdd (top 32) s.host.refused 1 } }
    | none => .next (s.admitCmd (s.cmdOf (.ring ring) r.oper rd.2.2) r.saggar)

namespace State

/-! ### Completions (R330, R338, R342) -/

/-- Remove the completion and its command. The command's job notes when it ended (R428). -/
def complGone (s : State) (k : Nat) (c : Compl) : State :=
  let s := { s with compls := dropAt s.compls k }
  match c.cmd with
  | none => s
  | some id =>
    let sag := ((s.cmd? id).map (·.saggar)).getD 64
    { s with
      cmds := s.cmds.filter (fun x => x.id != id)
      jobs := s.jobs.map (fun (j : Job) => if j.saggar = sag ∧ j.id = c.job then { j with lastUs := s.nowUs } else j) }

/-- A completion dropped by R330: LOST counts, and event 0xB008 carries the ring, one completion and its TAG. -/
def complLost (s : State) (n : Nat) (c : Compl) : State :=
  let s := s.modRing n (fun r => { r with lost := satAdd (top 16) r.lost 1 })
  s.recordFw 1 0xB008 (some (s.ring n).saggar) 0 (p4 n ++ p4 1 ++ p4 c.tag)

/-- The phase of free-running place `t` of a ring of `n` entries: 1 on the first pass (Table 11-6). -/
def phaseOf (t n : Nat) : Bool := t / n % 2 == 0

/-- Count a marked completion toward the ring's interrupt (R342). -/
def countIrq (s : State) (n : Nat) : State :=
  let r := s.ring n
  if r.vector = 0 then s
  else if r.coalUs = 0 then (s.setRing n { r with irqPending := 0 }).raiseVector r.vector
  else
    let r := { r with irqPending := r.irqPending + 1, irqSince := if r.irqPending = 0 then s.nowUs else r.irqSince }
    if max r.coalCount 1 ≤ r.irqPending then (s.setRing n { r with irqPending := 0 }).raiseVector r.vector
    else s.setRing n r

/-- A completion waits for its slot: STALLED sets and the wait is timed (R338). -/
def stallRing (s : State) (n : Nat) (poisoned : Bool) : State :=
  s.modRing n (fun r => { r with
    stalled := true, slotPoisoned := poisoned
    stallSince := if r.stalled then r.stallSince else s.nowUs
    stallSeen := r.stalled && r.stallSeen })

/-- The 64-byte unit of a completion slot is poisoned or holds an uncorrectable pattern (R338). -/
def slotBad (s : State) (a : Nat) : Bool :=
  (s.segs a 32).any (fun g => (s.badUnit (g.lin / 64 * 64) 64).isSome)

/-- Write completion `k`, which is for ring `n`, into its slot, or let it wait (R338). -/
def writeCompl (s : State) (n k : Nat) (c : Compl) : State :=
  let r := s.ring n
  if r.inReset ∨ r.role ≠ .completion then (s.complLost n c).complGone k c
  else if r.entries ≤ ringGap r.tail r.head then s.stallRing n false
  else
    let a := slotAddr r r.tail 32
    if s.slotBad a then
      if r.slotSeen then s.stallRing n true
      else
        let w := s.store 7 0xFFFF a (complBytes c (phaseOf r.tail r.entries))
        (w.1.modRing n (fun x => { x with slotSeen := true })).stallRing n true
    else
      let w := s.store 7 0xFFFF a (complBytes c (phaseOf r.tail r.entries))
      let t := w.1.modRing n (fun x => { x with
        tail := (x.tail + 1) % 2 ^ 32, stalled := false, stallSeen := false, slotPoisoned := false, slotSeen := false })
      let t := t.complGone k c
      if c.irq then t.countIrq n else t

/-- Keep a completion for a management session: it goes out in a datagram, and the last 256 are kept (R402). -/
def mgmtCompl (s : State) (id k : Nat) (c : Compl) : State :=
  let b := complBytes c false
  let s := { s with fab := { s.fab with
    sessions := s.fab.sessions.map (fun (x : MgmtSession) => if x.id = id then
      { x with record := (x.record ++ [(c.tag, b)]).drop (x.record.length - 255), sent := x.sent ++ [b] } else x) } }
  s.complGone k c

end State

/-- COMPLETION_WRITE: completion `k` of those that wait is written into its ring, or sent to its management session (R338,
R402). The completions of one ring are written in the order in which they arose. -/
def execCompletionWrite (k : Nat) (s : State) : Out :=
  match s.compls[k]? with
  | none => .next s
  | some c =>
    if (s.compls.take k).any (fun x => x.target == c.target) then .next s
    else
      match c.target with
      | .ring n => .next (s.writeCompl n k c)
      | .mgmt id => .next (s.mgmtCompl id k c)

/-- COMPLETION_STALL_TIMEOUT: STALLED has lasted 1 ms: event 0xB002 once for that stall (R338). -/
def execCompletionStallTimeout (ring : Nat) (s : State) : Out :=
  let r := s.ring ring
  if r.stalled ∧ r.stallSeen = false ∧ r.stallSince + 1000 ≤ s.nowUs then
    .next ((s.setRing ring { r with stallSeen := true }).recordFw 1 0xB002 (some r.saggar) 0 (p4 ring))
  else .next s

/-- COMPLETION_SLOT_RETRY: the write into a poisoned slot is tried again, every 100 µs and after a HEAD doorbell (R338). -/
def execCompletionSlotRetry (ring : Nat) (s : State) : Out :=
  if (s.ring ring).slotPoisoned then
    match s.compls.zipIdx.find? (fun p => p.1.target == .ring ring) with
    | some (c, k) => .next (s.writeCompl ring k c)
    | none => .next s
  else .next s

/-- INTERRUPT_COALESCE_TIMEOUT: COAL_US µs have passed since the first marked completion became pending (R342). -/
def execInterruptCoalesceTimeout (ring : Nat) (s : State) : Out :=
  let r := s.ring ring
  if r.irqPending ≠ 0 ∧ r.irqSince + r.coalUs ≤ s.nowUs then
    let s := s.setRing ring { r with irqPending := 0 }
    .next (if r.vector = 0 then s else s.raiseVector r.vector)
  else .next s

/-- NOP, opcode 0x000: completes with 0x0000 (Table 11-9). -/
def execNop (id : Nat) (s : State) : Out :=
  match s.ready id 0x000 with
  | none => .next s
  | some _ => .next (s.finish id 0 Result.zero)

/-- RING_RESET, opcode 0x020 (R329, R492): completes when the ring has returned. -/
def execRingReset (id : Nat) (s : State) : Out :=
  match s.ready id 0x020 with
  | none => .next s
  | some c =>
    let n := c.p 0 2 % ringsN
    let st := lowest [check (c.origin == .ring n) 0x0101, check (!c.oper && (s.ring n).saggar != c.saggar) 0x0220,
      check (s.ring n).inReset 0x0602]
    if !s.resetTurn c then .next s
    else if st ≠ 0 then .next (s.refuse id st)
    else
      let sl := (if (s.ring n).role = .descriptor then s.sluiceOf n else none).toList
      let s := (s.enterRing n).setPhase id .running
      .next { s with fw := { s.fw with
        resets := s.fw.resets ++ [{ cmd := some id, sites := [], sluices := sl, rings := [n], units := [], closing := none, wake := false }] } }

/-- RING_REWET_DONE: a ring returns from reset with HEAD and TAIL at 0, after every completion that its reset owes has been
written (R329). -/
def execRingRewetDone (ring : Nat) (s : State) : Out :=
  let r := s.ring ring
  if r.inReset ∧ !(s.compls.any (fun c => c.ring == ring && c.cmd.isNone && c.target == .ring r.pair && c.status == 0x0602)) then
    .next ((s.returnRing ring).ringReturned ring).settleResets
  else .next s

/-- UCIE_MODULE_LOSS: a module that fails to retrain is removed from the link (R318). -/
def execUcieModuleLoss (module : Nat) (s : State) : Out :=
  if module ∈ s.host.modules then
    .next ({ s with host := { s.host with modules := s.host.modules.filter (· != module) } }.record 0xB005 5 module none 0 (p4 module))
  else .next s

/-! ### Jobs (R358, R359) -/

/-- JOB_OPEN, opcode 0x018. -/
def execJobOpen (id : Nat) (s : State) : Out :=
  match s.ready id 0x018 with
  | none => .next s
  | some c =>
    let others := (s.jobs.filter (fun j => j.id != 0 && j.closing.isNone)).length
    let st := lowest [check (s.jobOpen c.saggar c.job) 0x0350, check (decide (4096 ≤ others)) 0x0352]
    if st ≠ 0 then .next (s.refuse id st)
    else
      let j : Job := { saggar := c.saggar, id := c.job, busy := 0, idle := 0, openedUs := s.nowUs, lastUs := s.nowUs, closing := none }
      .next ({ s with jobs := s.jobs ++ [j] }.finish id 0 Result.zero)

/-- JOB_CLOSE, opcode 0x019: the job is no longer open, and the command waits for its earlier commands. Job 0 cannot be
closed. -/
def execJobClose (id : Nat) (s : State) : Out :=
  match s.ready id 0x019 with
  | none => .next s
  | some c =>
    if c.job = 0 ∨ !s.jobOpen c.saggar c.job then .next (s.refuse id 0x0351)
    else
      let s := { s with jobs := s.jobs.map (fun (j : Job) =>
        if j.saggar = c.saggar ∧ j.id = c.job ∧ j.closing = none then { j with closing := some id } else j) }
      .next (s.setPhase id .running)

/-- JOB_CLOSE_COMPLETE: every earlier-accepted command of the job has completed, and the 1 ms window in which the last of
them did has closed (R359, R428). Words 0 and 1 hold the energy, words 2 and 3 the µs since JOB_OPEN. -/
def execJobCloseComplete (id : Nat) (s : State) : Out :=
  match s.inPhase id 0x019 .running, s.jobs.find? (fun j => j.closing == some id) with
  | some c, some j =>
    if s.cmds.any (fun x => decide (x.id < id) && x.saggar == c.saggar && x.job == c.job) ∨ s.nowUs / 1000 ≤ j.lastUs / 1000 then .next s
    else
      let r := s.jobResult j
      .next ({ s with jobs := s.jobs.filter (fun x => x.closing != some id) }.finish id 0 r)
  | _, _ => .next s

end Sys2Proof.Machine
end

