-- ==== Sys2Proof/Machine/Frames.lean ====
section
/-! DEFINITION. The control wavelength (R372 to R377), the authentication of frames (R389 to R391) and the layout of frames
and of the packets they carry (Tables 2-7, 12-3, 12-7). Where the manual names what a body carries and not where, the
places are the model's own: log entries 41 and 42. -/
namespace Sys2Proof.Machine
open Sys2Proof

/-! ### Ports -/

def portsN : Nat := 32

/-- Port counters in order of offset from 0x010 (R405). -/
def cFramesTx : Nat := 0
def cFramesRx : Nat := 1
def cFecCorrected : Nat := 2
def cFecUncorrectable : Nat := 3
def cCrcFail : Nat := 4
def cAuthFail : Nat := 5
def cReplay : Nat := 6
def cCollisions : Nat := 7
def cBackoffExhausted : Nat := 8
def cSegRetransmit : Nat := 9
def cPoursFailed : Nat := 10
def cRetunes : Nat := 11

namespace State

/-- Add to a counter of a port (Table 12-9). -/
def portCount (s : State) (port k n : Nat) : State :=
  s.modPort port (fun p => { p with counters := p.counters.put (fun _ => 0) k (satAdd (top 32) (p.counters.get (fun _ => 0) k) n) })

/-- An event that a port raises: its origin is the optical port (Table 15-5). -/
def portEvent (s : State) (port code : Nat) (sag : Option Nat) (job : Nat) (payload : List Byte) : State :=
  s.record code 6 port sag job payload

/-- Comb that a port transmits on: COL_INDEX on a row pond, ROW_INDEX on a column pond (R370). -/
def ownComb (s : State) (port : Nat) : Nat := if port < 16 then s.pkg.posValue % 16 else s.pkg.posValue / 16 % 16
/-- Comb of the package at a position on the pond of a port. -/
def combOf (port pos : Nat) : Nat := if port < 16 then pos % 16 else pos / 16
/-- A position belongs to the pond of a port (R370). -/
def onPond (s : State) (port pos : Nat) : Bool :=
  if port < 16 then pos / 16 == s.pkg.posValue / 16 else pos % 16 == s.pkg.posValue % 16

/-- Slot of a port: microseconds since its beacon, modulo 64 (R373). -/
def slotNo (s : State) (port : Nat) : Nat := (s.nowUs - (s.port port).beaconUs) % 64

/-- The port may transmit a control frame now: UP, timed by a beacon, and not in the beacon slot (R373, R377). -/
def mayTransmit (s : State) (port : Nat) : Bool :=
  (s.port port).state == .up && (s.port port).synced && s.slotNo port != 0

end State

/-! ### Layouts -/

/-- Bytes 0 to 207 of a control frame (Table 12-3). -/
def ctlBytes (f : CtlFrame) : List Byte :=
  leBytes 1 (f.type % 16 + 16 * b2n f.pondKey) ++ leBytes 1 f.srcPos ++ leBytes 1 f.dstPos ++ leBytes 1 f.srcPort ++
  leBytes 1 f.srcSaggar ++ leBytes 1 f.dstSaggar ++ leBytes 2 f.pourId ++ leBytes 8 f.counter ++
  (f.body ++ List.replicate 192 0).take 192

/-- GCM nonce: SRC_POS, SRC_PORT in 24 bits and COUNTER (R390). -/
def nonceOf (pos port counter : Nat) : Nat := pos * 2 ^ 88 + port * 2 ^ 64 + counter % 2 ^ 64

/-- Tag of a control frame under a key. -/
def ctlTag (f : CtlFrame) (key : Nat) : List Byte := gcmTag key (nonceOf f.srcPos f.srcPort f.counter) (ctlBytes f) []

/-- The end-to-end header of a data frame, 32 bytes (Table 12-7). -/
def endToEnd (f : DataFrame) : List Byte :=
  leBytes 1 f.srcPos ++ leBytes 1 f.srcSaggar ++ leBytes 1 f.dstPos ++ leBytes 1 f.dstSaggar ++ leBytes 1 f.window ++
  leBytes 3 0 ++ leBytes 8 f.offset ++ leBytes 8 f.counter ++ leBytes 8 0

def Kind.code : Kind → Nat
  | .casNode => 0xC | .allorUp => 0xD | .allorDown => 0xE | .doorbell => 0x9 | .nbCommand => 0x8
  | .other c => c | .read _ => 0 | .write => 1
def Kind.ofCode (c : Nat) : Kind :=
  if c = 0xC then .casNode else if c = 0xD then .allorUp else if c = 0xE then .allorDown else .other c

/-- The header flit of a packet (Table 2-7). -/
def headerFlit (p : Packet) : List Byte :=
  leBytes 2 p.dest ++ leBytes 2 p.src ++ leBytes 1 (p.vc + 4 * b2n p.priv + 8 * b2n p.epochCheck + 16 * p.kind.code) ++
  leBytes 1 p.saggar ++ leBytes 1 p.flits ++ [0] ++ leBytes 4 p.destEpoch.toNat ++ leBytes 2 p.tag ++ leBytes 2 p.status ++
  leBytes 8 p.address ++ leBytes 8 p.operand.toNat ++ (p.inline ++ List.replicate 32 0).take 32

/-- A packet from its header flit and payload. -/
def packetOf (b payload : List Byte) : Packet :=
  let f := fieldAt b
  { dest := f 0 2 % 8192, core := none, src := f 2 2 % 8192, vc := f 4 1 % 4, priv := bitAt (f 4 1) 2,
    epochCheck := bitAt (f 4 1) 3, kind := Kind.ofCode (f 4 1 / 16), saggar := f 5 1 % 64, payload := payload, flits := f 6 1 % 128,
    destEpoch := BitVec.ofNat 32 (f 8 4), tag := f 12 2, status := f 14 2, isResponse := f 4 1 % 4 == 1, address := f 16 8 % 2 ^ 52,
    operand := BitVec.ofNat 64 (f 24 8), inline := (b.drop 32).take 32, remotePos := none, home := 0 }

/-- Node statuses as DONE carries them, one byte each: the low byte of the status, which no two of them share. -/
def nodeStatuses : List Nat := [0x0000, 0x0140, 0x0141, 0x0142, 0x0313, 0x0354, 0x0601, 0x0602, 0x0210, 0x0110]
def packStatus (st : Nat) : Byte := BitVec.ofNat 8 st
def unpackStatus (b : Byte) : Nat := (nodeStatuses.find? (fun st => st % 256 == b.toNat)).getD 0x05B0

namespace State

/-! ### Keys and authentication (R376, R389 to R391) -/

/-- Keys that a received frame may be under, each with the number of its replay windows: for a pair the new key, and for
10 ms after a change the previous one (R524). -/
def rxKeys (s : State) (pond : Bool) (port sag pos : Nat) : List (Nat × Nat) :=
  if pond then
    match s.sec.pondKeys.find? (fun p => p.1 == port) with
    | some p => [(p.2, 2 * pondKeyId port)]
    | none => []
  else
    match s.sec.pairKeys.find? (fun p => p.1 == sag * 256 + pos) with
    | some p =>
      let id := 2 * pairKeyId p.1
      (p.2.key, id) :: (match p.2.previous with
        | some k => if s.nowUs < p.2.changedUs + 10000 then [(k, id + 1)] else []
        | none => [])
    | none => []

/-- The key of this package's frames for a pair, or of a pond, and its number. -/
def txKey (s : State) (pond : Bool) (port sag pos : Nat) : Option (Nat × Nat) :=
  if pond then (s.sec.pondKeys.find? (fun p => p.1 == port)).map (fun p => (p.2, pondKeyId port))
  else (s.sec.pairKeys.find? (fun p => p.1 == sag * 256 + pos)).map (fun p => (p.2.key, pairKeyId p.1))

/-- A saggar holds a pair key for a position. -/
def hasPair (s : State) (sag pos : Nat) : Bool := (s.txKey false 0 sag pos).isSome

/-- The counter passes the window of its key and source port (R390). -/
def replayOk (s : State) (k counter : Nat) : Bool :=
  let r := s.sec.replays.get (fun _ => { top := 0, seen := [] }) k
  decide (r.top ≤ counter + 1024) && !r.seen.contains counter

/-- Note an accepted counter. -/
def replayNote (s : State) (k counter : Nat) : State :=
  let r := s.sec.replays.get (fun _ => ({ top := 0, seen := [] } : Replay)) k
  let t := max r.top counter
  let x : Replay := { top := t, seen := (counter :: r.seen).filter (fun c => decide (t ≤ c + 1024)) }
  { s with sec := { s.sec with replays := s.sec.replays.put (fun _ => { top := 0, seen := [] }) k x } }

/-- A frame fails authentication: AUTH_FAIL counts, and event 0x5008 carries the failures since its last instance (R391). -/
def authFail (s : State) (port : Nat) : State :=
  let s := (s.portCount port cAuthFail 1).modPort port (fun p => { p with authFails := p.authFails + 1 })
  let passes := decide (1000000 ≤ ((s.weir 0x5008).refill s.nowUs).tokens)
  let n := (s.port port).authFails
  let s := s.portEvent port 0x5008 none 0 (p4 port ++ p4 n)
  if passes then s.modPort port (fun p => { p with authFails := 0 }) else s

/-- Check a tag and a counter under the keys a frame may be under: the state after, and whether the frame is accepted. -/
def authenticate (s : State) (port : Nat) (keys : List (Nat × Nat)) (srcPort counter : Nat) (ok : Nat → Bool) : State × Bool :=
  match keys.find? (fun k => ok k.1) with
  | none => (s.authFail port, false)
  | some (_, id) =>
    let w := id * 32 + srcPort
    if s.replayOk w counter then ((s.replayNote w counter).portCount port cFramesRx 1, true)
    else (s.portCount port cReplay 1, false)

/-- TYPEs under the pond key (Table 12-4). -/
def pondType (t : Nat) : Bool := t = 0 || t = 1 || t = 12

/-- A frame that a relay has forwarded from its row pond (R397). -/
def viaRelay (s : State) (port : Nat) (f : CtlFrame) : Bool :=
  decide (16 ≤ port) && f.srcPort + 16 == port && !s.onPond port f.srcPos && (f.type == 9 || f.type == 10 || f.type == 11)

/-- A control frame heard by a port: the state after, and whether the port accepts it (R372, R376, R391). -/
def hear (s : State) (port type : Nat) (f : CtlFrame) : State × Bool :=
  let p := s.port port
  if portsN ≤ port ∨ p.state ≠ .up then (s, false)
  else if !f.crcOk || decide (13 ≤ f.type) then (s.portCount port cCrcFail 1, false)
  else if f.type ≠ type then (s, false)
  else if f.dstPos ≠ s.pkg.posValue ∧ ¬ (f.pondKey ∧ f.dstPos = 0xFF) then (s, false)
  else if type ≠ 1 ∧ ¬ (s.onPond port f.srcPos ∧ f.srcPort = port) ∧ viaRelay s port f = false then (s, false)
  else if f.pondKey ≠ pondType type then (s.authFail port, false)
  else s.authenticate port (s.rxKeys f.pondKey port f.dstSaggar f.srcPos) f.srcPort f.counter (fun k => f.tag == ctlTag f k)

/-- A relay forwards a MESH, SESSION or LAG frame to a position on its column pond, as it stands, on the column port of the
same plane (R397). -/
def forwards (s : State) (port : Nat) (f : CtlFrame) : Option State :=
  if port < 16 ∧ (s.port port).state = .up ∧ f.crcOk ∧ f.dstPos ≠ s.pkg.posValue ∧ f.dstPos ≠ 0xFF ∧
      f.dstPos % 16 = s.pkg.posValue % 16 ∧ s.onPond port f.srcPos then
    some (s.queueFrame (16 + port) f)
  else none

/-! ### Sending control frames (R377) -/

/-- A frame as it goes out: ACCEPT names its start slot, the fourth after this one (R381), and the frame takes the next counter
and the tag of its key. A relayed frame goes as it stands. -/
def finalFrame (s : State) (port : Nat) (f : CtlFrame) : Option (State × CtlFrame) :=
  if f.srcPos ≠ s.pkg.posValue then some (s, f)
  else
    match s.txKey f.pondKey port f.srcSaggar f.dstPos with
    | none => none
    | some (key, id) =>
      let k := id * 32 + port
      let c := s.sec.txCounters.get (fun _ => 0) k
      let body := if f.type = 3 then leBytes 8 ((s.slotNo port + 4) % 64) ++ f.body.drop 8 else f.body
      let f := { f with srcPort := port, counter := c, body := body }
      some ({ s with sec := { s.sec with txCounters := s.sec.txCounters.put (fun _ => 0) k (c + 1) } },
        { f with tag := ctlTag f key })

/-- Frame of a pond key to every member. -/
def pondFrame (s : State) (type port : Nat) (body : List Byte) : CtlFrame :=
  { type := type, pondKey := true, srcPos := s.pkg.posValue, dstPos := 0xFF, srcPort := port, srcSaggar := 0, dstSaggar := 0,
    pourId := 0, counter := 0, body := (body ++ List.replicate 192 0).take 192, tag := [], crcOk := true }

/-- The device identity that HELLO carries: the digest of its certificate. -/
def helloBody (s : State) (port : Nat) : List Byte := leBytes 1 s.pkg.posValue ++ leBytes 1 port ++ sm3 s.certificateNow

end State
end Sys2Proof.Machine
end

