-- ==== Sys2Proof/Machine/PourEnd.lean ====
section
/-! DEFINITION. What ends a pour at either end (R378, R383, R384, R387, R388, R393, R395, R399), a port that goes down (R399), and the
packets that come from another package (R394 to R396). -/
namespace Sys2Proof.Machine
open Sys2Proof

/-! ### Segments (R382) -/

def segsOf (length : Nat) : Nat := ceilDiv length 65536
def segLen (length k : Nat) : Nat := min 65536 (length - k * 65536)
def segFrames (length k : Nat) : Nat := ceilDiv (segLen length k) 4096
/-- Bytes of a cascade pour, and of each packet in it (R395). -/
def cascadeBytes : Nat := 262144
def cascadeItem : Nat := 4160

/-- What a DONE or RELAYED tells a source: the failed segments, bytes delivered, and node statuses. -/
structure Report where
  failed : List Nat
  bytes : Nat
  nodes : List Nat
deriving DecidableEq, Repr

/-- The body of DONE: the bitmap of failed segments in 128 bytes, the number of node statuses and the statuses. -/
def doneBody (failed nodes : List Nat) : List Byte :=
  State.bitmap 128 (fun k => decide (k ∈ failed)) ++ leBytes 1 nodes.length ++ nodes.map packStatus

/-- What a DONE body tells. -/
def doneReport (b : List Byte) : Report :=
  { failed := (List.range 1024).filter (fun k => bitAt (fieldAt b (k / 8) 1) (k % 8)), bytes := 0
    nodes := ((b.drop 129).take (min 63 (fieldAt b 128 1))).map unpackStatus }

/-- The body of RELAYED: the final status, the bytes delivered, and the node statuses of a cascade pour. -/
def relayedBody (st : Nat) (r : Report) : List Byte :=
  leBytes 2 st ++ [0, 0] ++ leBytes 4 r.bytes ++ leBytes 1 r.nodes.length ++ r.nodes.map packStatus

def relayedReport (b : List Byte) : Nat × Report :=
  (fieldAt b 0 2, { failed := [], bytes := fieldAt b 4 4, nodes := ((b.drop 9).take (min 63 (fieldAt b 8 1))).map unpackStatus })

def Report.none : Report := { failed := [], bytes := 0, nodes := [] }

namespace State

/-! ### The sending end -/

/-- The result words of FAB_POUR (R378). -/
def pourResult (x : Pour) : Result :=
  { progress := x.acked, r0 := x.bytes, r1 := x.retransmitted, r2 := x.hops, r3 := x.collisions }

/-- Each packet that a pour or frame carried is answered; a response has no answer (R395). -/
def answerPackets (s : State) (l : List (Packet × Nat)) : State :=
  l.foldl (fun s p => if p.1.isResponse then s else s.respond p.1 p.2 []) s

/-- Status of the packets of a pour that failed (R395). -/
def packetStatus (st : Nat) : Nat := if st = 0x06B0 then 0x06B0 else 0x05B0

/-- A relay tells the source the status of the second hop, and its slot is free (R393). -/
def relayEnd (s : State) (x : Pour) (st : Nat) (r : Report) : State :=
  match x.relay with
  | none => s
  | some (q, pos, id) =>
    let s := { s with fab := { s.fab with relayBusy := s.fab.relayBusy.filter (· != q) } }
    s.queueFrame q (s.pairFrame 7 pos q x.peer x.saggar id (relayedBody st { r with bytes := x.bytes }))

/-- A pour ends at its sender, which no longer holds it. `here` says that the failure arose at this end (R378, R395, Table
12-11). -/
def endPour (s : State) (port : Nat) (x : Pour) (st : Nat) (here : Bool) (r : Report) : State :=
  let own := if x.relay.isSome then none else some x.saggar
  let s := if st = 0 then s else s.portCount port cPoursFailed 1
  let s := if st ≠ 0 ∧ here then
      s.portEvent port 0x5007 own x.job (p4 port ++ p4 x.pourId ++ p4 st ++ p4 x.destPos) else s
  let s := s.relayEnd x st r
  let s := if st = 0 then s.answerPackets (x.cascade.zipIdx.map (fun p => (p.1, r.nodes.getD p.2 0x05B0)))
    else s.answerPackets (x.cascade.map (fun p => (p, packetStatus st)))
  match x.cmd with
  | some id => s.finishWord id x.statusAddr st (pourResult x)
  | none => s

/-- End the current pour of a port. -/
def endCurrent (s : State) (port st : Nat) (here : Bool) (r : Report) : State :=
  match (s.port port).current with
  | none => s
  | some x => (s.modPort port (fun p => { p with current := none })).endPour port x st here r

/-- Change the current pour of a port. -/
def modPour (s : State) (port : Nat) (f : Pour → Pour) : State :=
  s.modPort port (fun p => { p with current := p.current.map f })

/-- Planes whose port on the route to a position is UP, from plane `q` upwards, modulo 16. -/
def upPlanes (s : State) (pos q : Nat) : List Nat :=
  ((List.range 16).map (fun k => (q + k) % 16)).filter (fun k => (s.port (s.routePort pos k)).state == .up)

/-- Pours that a port still has before it. -/
def pourLoad (s : State) (port : Nat) : Nat := (s.port port).queue.length + (s.port port).current.toList.length

/-- Port of the plane with the fewest queued pours among those UP, the lowest on ties (Table 12-5). -/
def autoPort (s : State) (pos : Nat) : Option Nat :=
  ((s.upPlanes pos 0).foldl (fun (a : Option Nat) q =>
    match a with
    | none => some q
    | some b => if s.pourLoad (s.routePort pos q) < s.pourLoad (s.routePort pos b) then some q else some b) none).map
      (s.routePort pos)

/-- A pour joins the queue of a port. -/
def enqueuePour (s : State) (port : Nat) (x : Pour) : State := s.modPort port (fun p => { p with queue := p.queue ++ [x] })

/-- A queued pour whose port is not UP moves to another plane when it may, else it ends with 0x05B2 (R399). -/
def requeue (s : State) (port : Nat) (x : Pour) : State :=
  match (if x.auto then s.autoPort x.destPos else none) with
  | some q => s.enqueuePour q x
  | none => s.endPour port x 0x05B2 true Report.none

/-! ### The receiving end -/

/-- A frame from the receiver of a pour to its sender on this hop. -/
def answerFrame (s : State) (type port : Nat) (r : Resv) (body : List Byte) : CtlFrame :=
  s.pairFrame type r.hopPos port r.dstSaggar r.srcSaggar r.pourId body

/-- The arrival record (R388). The manual gives no RING and no IRQ of such a record: free values. -/
def arrivalRecord (s : State) (r : Recv) (st : Nat) : State :=
  if r.relay.isSome ∨ r.resv.cascade then s
  else
    let c : Compl :=
      { target := .ring r.arriveRing, cmd := none, tag := r.resv.tag, status := st, progress := r.bytes, r0 := r.resv.window,
        r1 := r.resv.offset % 2 ^ 32, r2 := r.resv.offset / 2 ^ 32, r3 := r.resv.srcPos + 256 * r.resv.srcSaggar,
        ring := (Config.freeWord s.free).toNat % 16384, irq := Config.freeBit s.free, opcode := 0x601, desc := false, job := 0 }
    { s.draw with compls := s.compls ++ [c] }

/-- The receiver lets go of a pour; a relay's slot is free again. -/
def dropRecv (s : State) (port : Nat) : State :=
  match (s.port port).recv with
  | none => s
  | some r =>
    let s := s.modPort port (fun p => { p with recv := none })
    match r.relay with
    | some q => { s with fab := { s.fab with relayBusy := s.fab.relayBusy.filter (· != q) } }
    | none => s

/-- A pour fails at the receiver: POURS_FAILED, event 0x5007 and the arrival record (R388, Table 12-11). -/
def failRecv (s : State) (port : Nat) (r : Recv) (st : Nat) : State :=
  let own := if r.relay.isSome then none else some r.resv.dstSaggar
  ((s.portCount port cPoursFailed 1).portEvent port 0x5007 own 0
    (p4 port ++ p4 r.resv.pourId ++ p4 st ++ p4 r.resv.srcPos)).arrivalRecord r st

/-- ABORT ends the pour that a port receives (R387). -/
def abortRecv (s : State) (port st : Nat) : State :=
  match (s.port port).recv with
  | none => s
  | some r => ((s.dropRecv port).failRecv port r st).queueFrame port (s.answerFrame 8 port r.resv (leBytes 2 st))

/-! ### Packets from another package (R394 to R396) -/

/-- The receiving attach port takes one request from a package: the session, the core and then injection with the site's
current epoch (R138, R396). The status is 0 when the packet was injected. -/
def takeRemote (s : State) (port srcPos dstSag : Nat) (p : Packet) : State × Nat :=
  let core := bits p.address 8 13
  if p.kind ≠ .casNode ∧ p.kind ≠ .allorUp ∧ p.kind ≠ .allorDown then (s, 0x01B1)
  else if p.destEpoch ≠ (s.saggar dstSag).fabSession then (s, 0x0601)
  else if 4415 < core then (s, 0x0101)
  else match s.siteOfCore core with
    | none => (s, 0x0354)
    | some d =>
      ({ s with outq := s.outq ++
          [{ p with
              dest := d, core := none, src := opticalCode port 0, vc := 2, priv := false, epochCheck := true, saggar := dstSag
              destEpoch := (s.site d).epoch, isResponse := false, remotePos := some srcPos, home := p.src }] }, 0)

/-- A MESH frame that carries one header-only packet (R395). -/
def meshFrame (s : State) (pos port sag peer : Nat) (p : Packet) : State :=
  let f := s.pairFrame 9 pos port sag peer 0 (headerFlit p)
  s.modPort port (fun x => { x with
    txq := x.txq ++ [{ frame := f, tries := 0, notBefore := s.nowUs, firstUs := 0, packet := some p }] })

/-- A response goes back to the core of another package: on the attach port's own port when it is UP, else on the next UP
plane; with none, or without a pair key, it is lost. -/
def answerRemote (s : State) (port pos sag : Nat) (p : Packet) : State :=
  match s.upPlanes pos (port % 16), s.peerOf sag pos with
  | q :: _, some peer => s.meshFrame pos (s.routePort pos q) sag peer { p with dest := p.home, vc := 1, payload := [] }
  | _, _ => s

/-- A response to a request of another package that never entered this package's mesh. -/
def localResponse (p : Packet) (st : Nat) : Packet :=
  { p with home := p.src, status := st, isResponse := true, vc := 1, payload := [], operand := 0, inline := [] }

/-! ### DONE (R384, R395) -/

/-- Segments of the pour being received that are not yet whole. -/
def openSegs (r : Recv) : List Nat := (List.range (segsOf r.resv.length)).filter (fun k => k ∉ r.written)

/-- Send DONE, which the port keeps for 1 ms once the pour has ended (Table 12-6). -/
def queueDone (s : State) (port : Nat) (r : Resv) (failed nodes : List Nat) (keep : Bool) : State :=
  let f := s.answerFrame 5 port r (doneBody failed nodes)
  let s := s.queueFrame port f
  if keep then s.modPort port (fun p => { p with kept := p.kept ++ [(s.nowUs, f)] }) else s

/-- The packets of a cascade pour: items whose header is not all zero (R395). -/
def cascadePackets (b : List Byte) : List Packet :=
  (List.range 63).filterMap (fun k =>
    let x := (b.drop (k * cascadeItem)).take cascadeItem
    if (x.take 64).all (· == 0) then none else some (packetOf (x.take 64) (x.drop 64)))

/-- Payload bytes of a cascade pour whose segments have all come. -/
def cascadeData (r : Recv) : List Byte :=
  (List.range 4).flatMap (fun k => (List.range 16).flatMap (fun j =>
    ((r.frames.find? (fun p => p.1 == k * 16 + j)).map (·.2)).getD []))

/-- A received cascade pour ends with the node answers in DONE once all of them have come (R395). -/
def settleCascade (s : State) (port : Nat) : State :=
  match (s.port port).recv with
  | none => s
  | some r =>
    if r.closing && r.answers.all (fun a => a.2.2.isSome) then
      (s.dropRecv port).queueDone port r.resv [] (r.answers.map (fun a => a.2.2.getD 0)) true
    else s

/-- Every packet of a cascade pour is injected, or answered where it cannot be. -/
def openCascade (s : State) (port : Nat) (r : Recv) : State :=
  let t := (cascadePackets (cascadeData r)).foldl (fun (st : State × List (Nat × Nat × Option Nat)) p =>
    let u := st.1.takeRemote port r.resv.srcPos r.resv.dstSaggar p
    (u.1, st.2 ++ [(p.src, p.tag, if u.2 = 0 then none else some u.2)])) (s, [])
  (t.1.modPort port (fun p => { p with recv := some { r with
    closing := true, answers := t.2, frames := [], timed := true, started := true, sinceUs := s.nowUs } })).settleCascade port

/-- A relay that holds a whole pour sends it on the column pond (R393). -/
def forwardPour (s : State) (port q : Nat) (r : Recv) : State :=
  let v := r.resv
  let x : Pour :=
    { cmd := none, saggar := v.srcSaggar, peer := v.dstSaggar, src := 0, offset := v.offset, length := v.length,
      destPos := v.dstPos, window := v.window, hops := 2, auto := false, statusAddr := noAddr, pourId := 0, tag := v.tag,
      job := 0, cascade := [], isCascade := v.cascade, relay := some (q, v.hopPos, v.pourId), origin := v.srcPos, frames := r.kept, stage := .waiting,
      sinceUs := 0, sends := 0, busyRetries := 0, queries := 0, rounds := 0, restarted := false, acked := 0, bytes := 0,
      retransmitted := 0, collisions := 0 }
  if (s.port (16 + port)).state = .up then s.enqueuePour (16 + port) x else s.endPour (16 + port) x 0x05B2 true Report.none

/-- The last segment has come: DONE goes out with the failed segments; after three retransmission rounds the pour ends with
0x05B0, and with none failed the hop is complete (R384). -/
def sendDone (s : State) (port : Nat) : State :=
  match (s.port port).recv with
  | none => s
  | some r =>
    let failed := openSegs r
    if failed.isEmpty then
      (match r.relay with
      | some q =>
        ((s.modPort port (fun p => { p with recv := none })).queueDone port r.resv [] [] true).forwardPour port q r
      | none =>
        if r.resv.cascade then s.openCascade port r
        else ((s.dropRecv port).queueDone port r.resv [] [] true).arrivalRecord r 0)
    else if 3 ≤ r.rounds then
      ((s.dropRecv port).queueDone port r.resv failed [] true).failRecv port r 0x05B0
    else
      (s.modPort port (fun p => { p with recv := some { r with
        rounds := r.rounds + 1, started := false, timed := false, lastSeg := failed.getLastD 0 } })).queueDone port r.resv
          failed [] false

/-! ### Ports that go down (R399) -/

/-- The 11 ms of a lender's reduction begin, with the first try of its LEND frame (R421). -/
def startLease (s : State) (seq : Nat) : State :=
  { s with power := { s.power with
    lent := s.power.lent.map (fun (l : Lease) => if l.seq = seq ∧ l.running = false then { l with running := true, sinceUs := s.nowUs } else l) } }

/-- The offer count that a LEND frame carries (Table 13-5). -/
def lendSeqOf (f : CtlFrame) : Nat := fieldAt f.body 8 4

/-- Packets of the MESH frames that wait on a port are answered, and its frames are gone; a LEND frame that was never tried
starts its reduction's time now. -/
def clearTxq (s : State) (port : Nat) : State :=
  let q := (s.port port).txq
  let s := (s.modPort port (fun p => { p with txq := [] })).answerPackets ((q.filterMap (·.packet)).map (fun p => (p, 0x05B0)))
  (q.filter (fun t => t.frame.type == 12)).foldl (fun s t => s.startLease (lendSeqOf t.frame)) s

/-- A port leaves UP for another state: every pour in progress on it ends with 0x05B2, queued pours move or end, and event
0x5002 is recorded (R399). -/
def portDown (s : State) (port : Nat) (st : PortSt) (cause : Nat) : State :=
  let p := s.port port
  let s := s.modPort port (fun p => { p with
    state := st, faultCause := cause, leader := false, synced := false, current := none, awaiting := [], queue := [], resvs := [] })
  let s := if p.state = .up then s.portEvent port 0x5002 none 0 (p4 port ++ p4 (PortSt.code st) ++ p4 cause) else s
  let s := s.clearTxq port
  let s := (p.current.toList ++ p.awaiting).foldl (fun s x => s.endPour port x 0x05B2 true Report.none) s
  let s := match p.recv with
    | some r => (s.dropRecv port).portCount port cPoursFailed (if r.relay.isSome then 0 else 1)
    | none => s
  p.queue.foldl (fun s x => s.requeue port x) s

/-- A port is ranged: UP when its echo delay is at most 560 ns, else FAULT (R375, R399). -/
def rangePort (s : State) (port echoNs : Nat) : State :=
  if 560 < echoNs then
    let s := s.modPort port (fun p => { p with state := .fault, faultCause := 2, echoNs := echoNs })
    s.portEvent port 0x500B none 0 (p4 port ++ p4 echoNs)
  else
    let s := s.modPort port (fun p => { p with
      state := .up, faultCause := 0, echoNs := echoNs, leader := false, synced := false, beaconUs := s.nowUs, helloUs := s.nowUs })
    s.portEvent port 0x5001 none 0 (p4 port ++ p4 (s.ownComb port))

end State
end Sys2Proof.Machine
end

