-- ==== Sys2Proof/Machine/Links.lean ====
section
/-! DEFINITION. Optical ports: laser input and ranging (R369, R375, R399, R400), membership (R372), the slot leader (R373, R374)
and the sending of control frames (R377). -/
namespace Sys2Proof.Machine
open Sys2Proof

namespace State

/-- State that a port ranges from or stays in: disabled without a valid position (R26), NO_KEY without a pond key (R389). -/
def rangeOrWait (s : State) (port echoNs : Nat) : State :=
  if s.pkg.posValid = false then s.modPort port (fun p => { p with state := .disabled, faultCause := 0 })
  else if s.sec.pondKeys.all (fun p => p.1 != port) then s.modPort port (fun p => { p with state := .noKey, faultCause := 0 })
  else (s.modPort port (fun p => { p with state := .ranging, faultCause := 0 })).rangePort port echoNs

/-! ### The end of a try (R377) -/

/-- A frame of the current pour of its port. -/
def ofCurrent (s : State) (port : Nat) (f : CtlFrame) : Bool :=
  match (s.port port).current with
  | some x => x.pourId == f.pourId
  | none => false

/-- A frame of the pour that its port receives. -/
def ofRecv (s : State) (port : Nat) (f : CtlFrame) : Bool :=
  match (s.port port).recv with
  | some r => r.resv.pourId == f.pourId && r.resv.hopPos == f.dstPos
  | none => false

def modRecv (s : State) (port : Nat) (g : Recv → Recv) : State := s.modPort port (fun p => { p with recv := p.recv.map g })

/-- The echo of a frame was correct: the timers of Table 12-6 start, and slot S stands four slots on (R381). -/
def frameSent (s : State) (port : Nat) (f : CtlFrame) : State :=
  if f.srcPos ≠ s.pkg.posValue then s
  else if (f.type = 2 ∨ f.type = 6) ∧ s.ofCurrent port f then s.modPour port (fun x => { x with sinceUs := s.nowUs })
  else if f.type = 3 ∧ s.ofRecv port f then s.modRecv port (fun r => { r with timed := true, sinceUs := s.nowUs + 4 })
  else if f.type = 5 ∧ s.ofRecv port f then s.modRecv port (fun r => { r with timed := true, sinceUs := s.nowUs })
  else s

/-- A frame is given up: what it served ends or goes on without it (R407: 0x06B0). `st` is 0x06B0 for contention. -/
def frameLost (s : State) (port st : Nat) (x : TxFrame) : State :=
  let f := x.frame
  if f.srcPos ≠ s.pkg.posValue then s
  else if (f.type = 2 ∨ f.type = 6) ∧ s.ofCurrent port f then s.endCurrent port st true Report.none
  else if f.type = 3 ∧ s.ofRecv port f then s.dropRecv port
  else if f.type = 5 ∧ s.ofRecv port f then s.modRecv port (fun r => { r with timed := true, sinceUs := s.nowUs })
  else match x.packet with
    | some p => s.answerPackets [(p, st)]
    | none => s

/-- A frame is abandoned: BACKOFF_EXHAUSTED counts and event 0x5006 carries the port and TYPE (R377). -/
def abandon (s : State) (port : Nat) (x : TxFrame) : State :=
  let s := (s.modPort port (fun p => { p with txq := p.txq.drop 1 })).portCount port cBackoffExhausted 1
  (s.portEvent port 0x5006 none 0 (p4 port ++ p4 x.frame.type)).frameLost port 0x06B0 x

/-- One try of the frame at the head of a port's queue, with what the port reads as its echo and, after a collision, the
number its generator gives (R377). -/
def tryFrame (s : State) (port : Nat) (x : TxFrame) (echo : Echo) (backoff : Nat) : State :=
  match s.finalFrame port x.frame with
  | none => (s.modPort port (fun p => { p with txq := p.txq.drop 1 })).frameLost port 0x02B0 x
  | some (s, f) =>
    let s := if x.tries = 0 ∧ f.type = 12 then s.startLease (State.lendSeqOf f) else s
    let x := if x.tries = 0 then { x with firstUs := s.nowUs } else x
    let s := (s.portCount port cFramesTx 1).modPort port (fun p => { p with txLast := some f })
    match echo with
    | .correct => (s.modPort port (fun p => { p with txq := p.txq.drop 1 })).frameSent port x.frame
    | .failed =>
      let s := s.portCount port cCollisions 1
      let s := if (f.type = 2 ∨ f.type = 6) ∧ s.ofCurrent port f then
          s.modPour port (fun y => { y with collisions := y.collisions + 1 }) else s
      let k := x.tries + 1
      if 10 ≤ k then s.abandon port x
      else s.modPort port (fun p => { p with
        txq := { x with tries := k, notBefore := s.nowUs + 1 + backoff % 2 ^ k } :: p.txq.drop 1 })

end State

/-- CONTROL_FRAME_SEND: a port sends the next of its control frames (R377). -/
def execControlFrameSend (port : Nat) (echo : Echo) (backoff : Nat) (s : State) : Out :=
  match (s.port port).txq with
  | x :: _ => if x.tries = 0 ∧ s.mayTransmit port then .next (s.tryFrame port x echo backoff) else .next s
  | [] => .next s

/-- CONTROL_BACKOFF_EXPIRY: the backoff after a failed try has passed, and the frame is tried again (R377). -/
def execControlBackoffExpiry (port : Nat) (echo : Echo) (backoff : Nat) (s : State) : Out :=
  match (s.port port).txq with
  | x :: _ =>
    if 0 < x.tries ∧ x.notBefore ≤ s.nowUs ∧ s.mayTransmit port then .next (s.tryFrame port x echo backoff) else .next s
  | [] => .next s

/-- LEND_ABANDON: 900 µs after its first try a LEND frame has had no correct echo (R377). -/
def execLendAbandon (port : Nat) (s : State) : Out :=
  match (s.port port).txq with
  | x :: _ => if x.frame.type = 12 ∧ 0 < x.tries ∧ x.firstUs + 900 ≤ s.nowUs then .next (s.abandon port x) else .next s
  | [] => .next s

/-- LASER_INPUT_LOSS: the port enters DARK and transmits nothing (R369). A port in FAULT for a duplicate comb stays there
(Table 12-2). -/
def execLaserInputLoss (port : Nat) (s : State) : Out :=
  let p := s.port port
  if portsN ≤ port ∨ p.state = .disabled ∨ p.state = .dark ∨ (p.state = .fault ∧ p.faultCause = 1) then .next s
  else
    let t := s.portDown port .dark 3
    .next (if p.state = .up then t else t.portEvent port 0x5002 none 0 (p4 port ++ p4 (PortSt.code .dark) ++ p4 3))

/-- LASER_INPUT_RESTORED: a dark port returns through ranging (R399). -/
def execLaserInputRestored (port echoNs : Nat) (s : State) : Out :=
  if portsN ≤ port ∨ (s.port port).state ≠ .dark then .next s else .next (s.rangeOrWait port echoNs)

/-- PORT_RANGING: a port measures its echo delay (R375). -/
def execPortRanging (port echoNs : Nat) (s : State) : Out :=
  if portsN ≤ port ∨ (s.port port).state ≠ .ranging then .next s else .next (s.rangePort port echoNs)

/-- FAB_PORT_RESET, opcode 0x603: the port goes down and ranges again (R400). DISABLED, DARK, NO_KEY and a duplicate comb
stay as they are. -/
def execFabPortReset (id : Nat) (s : State) : Out :=
  match s.ready id 0x603 with
  | none => .next s
  | some c =>
    let port := c.p 0 1 % 32
    let p := s.port port
    let again := p.state = .up ∨ p.state = .ranging ∨ (p.state = .fault ∧ p.faultCause ≠ 1)
    .next ((if again then s.portDown port .ranging 0 else s).finish id 0 Result.zero)

/-- HELLO_SEND: every 4,096 slots an UP port sends HELLO (R372). -/
def execHelloSend (port : Nat) (s : State) : Out :=
  let p := s.port port
  if portsN ≤ port ∨ p.state ≠ .up ∨ s.nowUs < p.helloUs + 4096 then .next s
  else .next ((s.queueFrame port (s.pondFrame 1 port (s.helloBody port))).modPort port (fun p => { p with helloUs := s.nowUs }))

/-- HELLO: a member is present; or it is on this port's comb, and the port faults; or it is misplaced (R372, Table 12-2). -/
def execHello (port : Nat) (f : CtlFrame) (s : State) : Out :=
  let h := s.hear port 1 f
  let s := h.1
  if !h.2 then .next s
  else
    let pos := fieldAt f.body 0 1
    let from_ := fieldAt f.body 1 1
    let comb := State.combOf from_ pos
    if (f.body.drop 2).take 32 = sm3 s.certificateNow ∧ pos = s.pkg.posValue then .next s
    else if comb = s.ownComb port then
      .next ((s.portEvent port 0x5003 none 0 (p4 port ++ p4 pos)).portDown port .fault 1)
    else if s.onPond port pos = false ∨ from_ ≠ port then
      let p := s.port port
      let last := p.misplacedUs.get (fun _ => 0) pos
      let s := s.modPort port (fun p => { p with
        misplaced := insertNat comb p.misplaced, heardUs := p.heardUs.put (fun _ => 0) (16 + comb) s.nowUs })
      if last = 0 ∨ last + 3600000000 ≤ s.nowUs + 1 then
        .next ((s.portEvent port 0x5004 none 0 (p4 port ++ p4 pos)).modPort port (fun p => { p with
          misplacedUs := p.misplacedUs.put (fun _ => 0) pos (s.nowUs + 1) }))
      else .next s
    else
      .next (s.modPort port (fun p => { p with
        present := insertNat comb p.present, heardUs := p.heardUs.put (fun _ => 0) comb s.nowUs }))

/-- MEMBER_EXPIRY: a member that has not been heard for 10 ms no longer counts as present, nor as a misplaced member in use of
its comb (R372). -/
def execMemberExpiry (port comb : Nat) (s : State) : Out :=
  let p := s.port port
  let old := fun (k : Nat) => decide (p.heardUs.get (fun _ => 0) k + 10000 < s.nowUs)
  .next (s.modPort port (fun p => { p with
    present := p.present.filter (fun c => c != comb || !old comb)
    misplaced := p.misplaced.filter (fun c => c != comb || !old (16 + comb)) }))

/-- BEACON_SEND: the slot leader sends a BEACON in slot 0 of every 64 (R373). -/
def execBeaconSend (port : Nat) (s : State) : Out :=
  let p := s.port port
  if portsN ≤ port ∨ p.state ≠ .up ∨ p.leader = false ∨ s.nowUs < p.beaconUs + 64 then .next s
  else match s.finalFrame port (s.pondFrame 0 port (leBytes 1 (s.ownComb port))) with
    | none => .next s
    | some (s, f) =>
      .next ((s.portCount port cFramesTx 1).modPort port (fun p => { p with txLast := some f, synced := true, beaconUs := s.nowUs }))

/-- BEACON: a received beacon times the port's slots and names the leader; a leader keeps its leadership (R373, R374). -/
def execBeacon (port : Nat) (f : CtlFrame) (s : State) : Out :=
  let h := s.hear port 0 f
  if !h.2 ∨ (h.1.port port).leader then .next h.1
  else .next (h.1.modPort port (fun p => { p with synced := true, beaconUs := s.nowUs, leaderComb := fieldAt f.body 0 1 % 16 }))

/-- LEADER_TIMEOUT: no beacon for 256 µs and a further COMB × 64 µs: the port becomes slot leader, with event 0x5005
(R374). -/
def execLeaderTimeout (port : Nat) (s : State) : Out :=
  let p := s.port port
  if portsN ≤ port ∨ p.state ≠ .up ∨ p.leader ∨ s.nowUs < p.beaconUs + 256 + s.ownComb port * 64 then .next s
  else
    let t := s.modPort port (fun p => { p with leader := true, leaderComb := s.ownComb port })
    .next (t.portEvent port 0x5005 none 0 (p4 port ++ p4 (s.ownComb port)))

end Sys2Proof.Machine
end

