-- ==== Sys2Proof/Machine/Pours.lean ====
section
/-! DEFINITION. Pours (R378 to R388), their timers (Table 12-6), receive windows (R385), and the traffic of cores between
packages (R394 to R397). -/
namespace Sys2Proof.Machine
open Sys2Proof

/-! ### Weighted round robin (R380, R381) -/

/-- The saggar whose turn it is: the one served last while its weight lasts, else the next with something waiting, and the
number of services it has then had. -/
def wrrPick (last turn : Nat) (weight : Nat → Nat) (waits : Nat → Bool) : Option (Nat × Nat) :=
  if waits last ∧ turn < weight last then some (last, turn + 1)
  else (State.nextTurn 64 last (fun g => waits g && weight g != 0)).map (fun g => (g, 1))

namespace State

/-! ### FAB_POUR (R378, R379) -/

/-- Port of the first hop of a pour, 32 when none is UP (Table 12-5, R379). -/
def pourPort (s : State) (auto : Bool) (plane pos : Nat) : Nat :=
  if auto then (s.autoPort pos).getD 32
  else if (s.port (s.routePort pos plane)).state = .up then s.routePort pos plane else 32

/-- A position that no transfer can go to (R371). -/
def noRoute (s : State) (pos : Nat) : Bool := !s.pkg.posValid || pos == s.pkg.posValue

/-- The saggar may exchange frames with the position: FAB_PEER is valid and a pair key is there (R379). -/
def hasPeer (s : State) (sag pos : Nat) : Bool := (s.peerOf sag pos).isSome && s.hasPair sag pos

/-- Status that refuses FAB_POUR (R379). -/
def pourCheck (s : State) (c : Cmd) : Nat :=
  let src := c.addr 0
  let len := c.p 16 4
  let pos := c.p 20 1
  let au := s.engineAuth c.saggar
  lowest [check (len = 0) 0x0102, check (len ≠ 0 ∧ len < 262144) 0x01B0, check (67108864 < len) 0x0101,
    check (src % 64 ≠ 0 ∨ c.addr 8 % 64 ≠ 0 ∨ len % 64 ≠ 0) 0x0103, check (s.noRoute pos) 0x01B1,
    check (!s.noRoute pos && !s.hasPeer c.saggar pos) 0x02B0, check (len ≠ 0 ∧ s.reach au false src len ∉ [0, 0x0602]) 0x0220,
    check (!s.noRoute pos && decide (s.pourPort (bitAt (c.p 22 1) 4) (c.p 22 1 % 16) pos = 32)) 0x03B0,
    check ((s.saggar c.saggar).fabShare = 0) 0x0230, s.statusAddrCheck c.saggar (c.addr 24) true]

/-- Hops of a transfer (R371). -/
def hopsTo (s : State) (pos : Nat) : Nat :=
  if s.pkg.posValue / 16 = pos / 16 ∨ s.pkg.posValue % 16 = pos % 16 then 1 else 2

/-- Position at the end of the first hop: the destination, or the relay (R371). -/
def hopEnd (s : State) (pos : Nat) : Nat := if s.hopsTo pos = 1 then pos else s.pkg.posValue / 16 * 16 + pos % 16

def pourOf (s : State) (c : Cmd) : Pour :=
  { cmd := some c.id, saggar := c.saggar, peer := (s.peerOf c.saggar (c.p 20 1)).getD 0, src := c.addr 0, offset := c.addr 8
    length := c.p 16 4, destPos := c.p 20 1, window := c.p 21 1 % 16, hops := s.hopsTo (c.p 20 1), auto := bitAt (c.p 22 1) 4
    statusAddr := wordOrNone (c.addr 24), pourId := 0, tag := c.tag, job := c.job, cascade := [], isCascade := false
    relay := none, origin := s.pkg.posValue, frames := [], stage := .waiting, sinceUs := 0, sends := 0, busyRetries := 0
    queries := 0, rounds := 0, restarted := false, acked := 0, bytes := 0, retransmitted := 0, collisions := 0 }

/-! ### Reservations (R381) -/

/-- The body of RESERVE. -/
def reserveBody (x : Pour) : List Byte :=
  leBytes 1 (b2n x.isCascade) ++ leBytes 1 x.window ++ leBytes 2 x.tag ++ leBytes 4 x.length ++ leBytes 8 x.offset ++
  leBytes 1 x.destPos ++ leBytes 1 x.origin

/-- The reservation that a RESERVE asks for. -/
def resvOf (f : CtlFrame) : Resv :=
  let b := fieldAt f.body
  { hopPos := f.srcPos, srcPort := f.srcPort, srcPos := b 17 1, srcSaggar := f.srcSaggar, dstPos := b 16 1, dstSaggar := f.dstSaggar
    pourId := f.pourId, tag := b 2 2, cascade := bitAt (b 0 1) 0, length := b 4 4, window := b 1 1 % 16, offset := b 8 8 % 2 ^ 52 }

/-- Position at the end of this hop of a pour: a relay's second hop ends at the destination. -/
def pourHop (s : State) (x : Pour) : Nat := if x.relay.isSome then x.destPos else s.hopEnd x.destPos

/-- Send RESERVE for the current pour of a port. -/
def sendReserve (s : State) (port : Nat) (x : Pour) : State :=
  let x := { x with stage := .reserved, sends := x.sends + 1, sinceUs := s.nowUs }
  (s.modPort port (fun p => { p with current := some x })).queueFrame port
    (s.pairFrame 2 (s.pourHop x) port x.saggar x.peer x.pourId (reserveBody x))

/-- A frame of this type for the current pour waits to be sent. -/
def frameWaits (s : State) (port type : Nat) : Bool := (s.port port).txq.any (fun t => t.frame.type == type && s.ofCurrent port t.frame)

/-- A queued pour may start: a cascade pour always, a relay's and a tenant's with a share, and none of a saggar at a
quiescence point (R380, R393, R398). -/
def mayPour (s : State) (x : Pour) : Bool :=
  x.relay.isSome || (s.saggar x.saggar).quiescing == 0

/-- The pour that a port starts next, and its place in the round robin (R380). -/
def nextPourOf (s : State) (port : Nat) : Option (Pour × Nat × Nat) :=
  let p := s.port port
  match p.queue.find? (fun x => x.isCascade) with
  | some x => some (x, p.lastSaggar, p.turn)
  | none =>
    match wrrPick p.lastSaggar p.turn (fun g => (s.saggar g).fabShare) (fun g => p.queue.any (fun x => x.saggar == g && s.mayPour x)) with
    | none => none
    | some (g, t) => (p.queue.find? (fun x => x.saggar == g && s.mayPour x)).map (fun x => (x, g, t))

/-- REFUSE for a reservation. -/
def refuseResv (s : State) (port : Nat) (r : Resv) (st : Nat) : State := s.queueFrame port (s.answerFrame 4 port r (leBytes 2 st))

/-- The window of a destination saggar admits a reservation (R385, R387). -/
def windowAdmits (s : State) (r : Resv) : Bool :=
  let w := s.window r.dstSaggar r.window
  w.isOpen && s.peerOf r.dstSaggar r.srcPos == some r.srcSaggar && (w.anyPos || w.srcPos == r.srcPos) &&
  decide (r.offset + r.length ≤ w.length)

/-- Reason to refuse a reservation when it is taken, 0 for none (R381, R387, R393, R398). -/
def resvCheck (s : State) (port : Nat) (r : Resv) : Nat :=
  if r.dstPos = s.pkg.posValue then
    if (s.saggar r.dstSaggar).quiescing ≠ 0 then 0x06B1
    else if r.cascade || s.windowAdmits r then 0 else 0x02B1
  else if 16 ≤ port ∨ s.onPond (16 + port) r.dstPos = false ∨ s.fab.relayOn = false ∨ (s.port (16 + port)).state ≠ .up then 0x03B1
  else if port ∈ s.fab.relayBusy then 0x06B1
  else 0

/-- A reservation is taken: the receiver retunes and answers ACCEPT (R381). -/
def takeResv (s : State) (port : Nat) (r : Resv) : State :=
  let relay := if r.dstPos = s.pkg.posValue then none else some port
  let w := s.window r.dstSaggar r.window
  let x : Recv :=
    { resv := r, relay := relay, base := w.base, arriveRing := w.ring, frames := [], kept := [], written := [], bytes := 0, rounds := 0
      lastSeg := segsOf r.length - 1, timed := false, started := false, sinceUs := s.nowUs, answers := [], closing := false }
  let s := if relay.isSome then { s with fab := { s.fab with relayBusy := insertNat port s.fab.relayBusy } } else s
  let s := (s.portCount port cRetunes 1).modPort port (fun p => { p with recv := some x })
  s.queueFrame port (s.answerFrame 3 port r [])

/-- Saggar whose FAB_SHARE weighs a reservation: the destination's, or at a relay the source's (R381, R393). -/
def resvSaggar (s : State) (r : Resv) : Nat := if r.dstPos = s.pkg.posValue then r.dstSaggar else r.srcSaggar

/-- The reservation that a port takes next (R381). -/
def nextResv (s : State) (port : Nat) : Option (Resv × Nat × Nat) :=
  let p := s.port port
  match p.resvs.find? (fun r => r.cascade) with
  | some r => some (r, p.lastResvSaggar, p.resvTurn)
  | none =>
    match wrrPick p.lastResvSaggar p.resvTurn (fun g => (s.saggar g).fabShare) (fun g => p.resvs.any (fun r => s.resvSaggar r == g)) with
    | none => none
    | some (g, t) => (p.resvs.find? (fun r => s.resvSaggar r == g)).map (fun r => (r, g, t))

/-! ### Sending segments (R382) -/

/-- The bytes of a cascade pour (R395). -/
def cascadeImage (l : List Packet) : List Byte :=
  (l.flatMap (fun p => (headerFlit p ++ p.payload ++ List.replicate cascadeItem 0).take cascadeItem) ++ List.replicate cascadeBytes 0).take
    cascadeBytes

/-- One data frame of a pour that starts here: encrypted and tagged under the pair key, with the next counter (R382, R389,
R390). -/
def sealFrame (s : State) (port : Nat) (x : Pour) (seg frame : Nat) (bs : List Byte) : State × DataFrame :=
  let kid := (s.txKey false port x.saggar x.destPos).getD (0, 0)
  let k := kid.2 * 32 + port
  let c := s.sec.txCounters.get (fun _ => 0) k
  let n := nonceOf s.pkg.posValue port c
  let f : DataFrame :=
    { pourId := x.pourId, segment := seg, frame := frame, hopSrc := s.pkg.posValue, hopDst := s.pourHop x, cascade := x.isCascade
      srcPos := s.pkg.posValue, srcSaggar := x.saggar, dstPos := x.destPos, dstSaggar := x.peer, window := x.window
      offset := x.offset + seg * 65536 + frame * 4096, counter := c, payload := gcmCrypt kid.1 n bs, tag := [], fecCorrected := 0
      fecBad := 0, crcOk := true }
  let f := { f with tag := gcmTag kid.1 n (endToEnd f) f.payload }
  ({ s with sec := { s.sec with txCounters := s.sec.txCounters.put (fun _ => 0) k (c + 1) } }, f)

/-- The granules of a relay slot begin here (R392). -/
def relaySlot (s : State) (q : Nat) : Nat := (s.fab.relayBase + 32 * q) * 0x200000

/-- The frames of one segment, with the status that ends the pour when its source cannot be read. -/
def sealSegment (s : State) (port : Nat) (x : Pour) (seg : Nat) : State × List DataFrame × Nat :=
  match x.relay with
  | some (q, _, _) =>
    let mine := x.frames.filter (fun f => f.segment == seg)
    let r := s.load 11 0xFFFF (s.relaySlot q + seg * 65536) (segLen x.length seg)
    (r.1, mine.map (fun f => { f with
      pourId := x.pourId, hopSrc := s.pkg.posValue, hopDst := x.destPos
      payload := (r.2.2.drop (f.frame * 4096)).take (min 4096 (segLen x.length seg - f.frame * 4096)) }),
      if r.2.1.isSome then 0x0520 else 0)
  | none =>
    let a := x.src + seg * 65536
    let n := segLen x.length seg
    let whole := x.isCascade
    let st := if whole then 0 else s.reach (s.engineAuth x.saggar) false a n
    let r := if whole ∨ st ≠ 0 then (s, none, ((cascadeImage x.cascade).drop (seg * 65536)).take n)
      else s.load 11 (opticalCode port 0) a n
    if st ≠ 0 then (s, [], if st = 0x0602 then 0x0602 else 0x0220)
    else if r.2.1.isSome then (r.1, [], 0x0520)
    else
      let t := (List.range (segFrames x.length seg)).foldl (fun (st : State × List DataFrame) j =>
        let u := st.1.sealFrame port x seg j ((r.2.2.drop (j * 4096)).take 4096)
        (u.1, st.2 ++ [u.2])) (r.1, [])
      (t.1, t.2, 0)

/-- Send these segments of the current pour in order: the frames go out, and the wait for DONE starts with the end of the
last one, at 100 bytes per ns (R367, R382). -/
def sendSegments (s : State) (port : Nat) (x : Pour) (segs : List Nat) : State :=
  let t := segs.foldl (fun (st : State × List DataFrame × Nat) k =>
    if st.2.2 ≠ 0 then st
    else
      let u := st.1.sealSegment port x k
      (u.1, st.2.1 ++ u.2.1, u.2.2)) (s, [], 0)
  let bytes := (segs.map (segLen x.length)).foldl (· + ·) 0
  let s := (t.1.portCount port cFramesTx t.2.1.length).modPort port (fun p => { p with
    current := some { x with stage := .sent, sinceUs := s.nowUs + ceilDiv bytes 100000 } })
  let s := { s with fab := { s.fab with dataOut := s.fab.dataOut.put (fun _ => []) port t.2.1 } }
  if t.2.2 ≠ 0 then s.endCurrent port t.2.2 true Report.none else s

/-! ### Receiving frames (R383) -/

/-- Port of the source by which a data frame was sealed: its own row or column port of the plane. -/
def sealPort (port : Nat) (f : DataFrame) : Nat := if f.srcPos = f.hopSrc then port else port % 16

/-- Write a whole segment to the window (R383, R387). -/
def writeSegment (s : State) (port : Nat) (r : Recv) (seg : Nat) : State :=
  let a := r.base + r.resv.offset + seg * 65536
  let n := segLen r.resv.length seg
  let bs := (List.range (segFrames r.resv.length seg)).flatMap (fun j =>
    ((r.frames.find? (fun p => p.1 == seg * 16 + j)).map (·.2)).getD [])
  if s.reach (s.engineAuth r.resv.dstSaggar) true a n ≠ 0 then s.abortRecv port 0x0220
  else
    let fresh := !r.written.contains seg
    ((s.store 11 (opticalCode port 0) a bs).1).modPort port (fun p => { p with recv := some { r with
      frames := r.frames.filter (fun p => p.1 / 16 != seg), written := insertNat seg r.written
      bytes := if fresh then r.bytes + n else r.bytes } })

/-- A frame has passed its checks: it is kept until its segment is whole (R383, R393). -/
def keepFrame (s : State) (port : Nat) (r : Recv) (f : DataFrame) (seg j : Nat) (bs : List Byte) : State :=
  let key := seg * 16 + j
  let r := { r with
    frames := r.frames.filter (fun (p : Nat × List Byte) => p.1 != key) ++ [(key, bs)]
    kept := if r.relay.isSome then r.kept.filter (fun (g : DataFrame) => g.segment * 16 + g.frame != key) ++ [{ f with payload := [] }] else [] }
  let whole := (List.range (segFrames r.resv.length seg)).all (fun j => r.frames.any (fun p => p.1 == seg * 16 + j))
  match r.relay with
  | some q =>
    let w := s.store 11 0xFFFF (s.relaySlot q + seg * 65536 + j * 4096) bs
    let r := if whole then { r with written := insertNat seg r.written } else r
    w.1.modPort port (fun p => { p with recv := some { r with frames := r.frames.map (fun (p : Nat × List Byte) => (p.1, [])) } })
  | none =>
    if !whole then s.modPort port (fun p => { p with recv := some r })
    else if r.resv.cascade then s.modPort port (fun p => { p with recv := some { r with written := insertNat seg r.written } })
    else s.writeSegment port r seg

/-- The checks of a data frame in their order: FEC, CRC, tag, counter (R383). A relay checks CRC only (R393). The state after
has counted, and kept a frame that passed. -/
def checkFrame (s : State) (port : Nat) (r : Recv) (f : DataFrame) : State :=
  let s := s.portCount port cFecCorrected f.fecCorrected
  if 0 < f.fecBad then
    (s.portCount port cFecUncorrectable f.fecBad).portCount port cCrcFail (if f.crcOk then 0 else 1)
  else if !f.crcOk then s.portCount port cCrcFail 1
  else
    let at_ := f.offset - r.resv.offset
    let seg := at_ / 65536
    let j := at_ % 65536 / 4096
    let n := min 4096 (segLen r.resv.length seg - j * 4096)
    let fits := decide (r.resv.offset ≤ f.offset ∧ at_ < r.resv.length ∧ at_ % 4096 = 0 ∧ f.payload.length = n) &&
      f.srcPos == r.resv.srcPos && f.dstPos == r.resv.dstPos && f.srcSaggar == r.resv.srcSaggar &&
      f.dstSaggar == r.resv.dstSaggar && f.window == r.resv.window
    if r.relay.isSome then
      if fits then (s.portCount port cFramesRx 1).keepFrame port r f seg j f.payload else s
    else
      let sp := sealPort port f
      let n := nonceOf f.srcPos sp f.counter
      let keys := s.rxKeys false port f.dstSaggar f.srcPos
      let good := fun k => f.tag == gcmTag k n (endToEnd f) f.payload
      let a := s.authenticate port keys sp f.counter good
      if a.2 ∧ fits then
        a.1.keepFrame port r f seg j (gcmCrypt ((keys.find? (fun k => good k.1)).getD (0, 0)).1 n f.payload)
      else a.1

/-- Frame and hop belong to the pour that the port receives. -/
def ofHop (s : State) (r : Recv) (f : DataFrame) : Bool :=
  f.hopDst == s.pkg.posValue && f.hopSrc == r.resv.hopPos && f.pourId == r.resv.pourId && r.timed && !r.closing

/-! ### The sender's answers -/

/-- The pour at a sender that a frame from the other end of its hop names. -/
def namedPour (s : State) (port : Nat) (f : CtlFrame) : Option Pour :=
  match (s.port port).current with
  | some x => if x.pourId = f.pourId ∧ f.srcPos = s.pourHop x then some x else none
  | none => none

/-- A DONE at the sender (R384). -/
def takeDone (s : State) (port : Nat) (x : Pour) (r : Report) : State :=
  let failed := r.failed.filter (fun k => decide (k < segsOf x.length))
  let x := { x with
    acked := segsOf x.length - failed.length
    bytes := x.length - (failed.map (segLen x.length)).foldl (· + ·) 0 }
  let s := s.modPort port (fun p => { p with current := some x })
  if failed.isEmpty then
    if x.hops = 2 ∧ x.relay.isNone then
      s.modPort port (fun p => { p with
        current := none, awaiting := p.awaiting ++ [{ x with stage := .relaying, sinceUs := s.nowUs }] })
    else s.endCurrent port 0 false r
  else if 3 ≤ x.rounds then s.endCurrent port 0x05B0 false Report.none
  else
    let s := match x.cmd with
      | some id => s.statusWord id x.statusAddr 2 0 (pourResult x)
      | none => s
    (s.portCount port cSegRetransmit failed.length).sendSegments port
      { x with rounds := x.rounds + 1, queries := 0, retransmitted := x.retransmitted + failed.length } failed

/-- A pour starts again from RESERVE with a new POUR_ID (R381). -/
def restartPour (s : State) (port : Nat) (x : Pour) : State :=
  let id := (s.port port).nextPour
  (s.modPort port (fun p => { p with nextPour := if 65535 ≤ id then 1 else id + 1 })).sendReserve port
    { x with pourId := id, sends := 0, busyRetries := 0, queries := 0, rounds := 0 }

/-- A REFUSE at the sender (R381). -/
def takeRefuse (s : State) (port : Nat) (x : Pour) (st : Nat) : State :=
  if st = 0x06B1 then
    if x.stage ≠ .reserved then s
    else if x.busyRetries < 100 then
      s.modPort port (fun p => { p with current := some { x with stage := .backoff, busyRetries := x.busyRetries + 1, sinceUs := s.nowUs } })
    else s.endCurrent port st true Report.none
  else if st = 0x05B1 ∧ x.restarted = false then s.restartPour port { x with restarted := true }
  else s.endCurrent port st true Report.none

/-! ### Attach ports (R394, R395) -/

/-- A cascade pour of gathered packets joins the queue of its port, or of the next UP plane (R394, R395). -/
def gatherPour (s : State) (g : Gather) : State :=
  match s.upPlanes g.destPos (g.attach / 2 % 16), s.peerOf g.saggar g.destPos with
  | q :: _, some peer =>
    let x : Pour :=
      { cmd := none, saggar := g.saggar, peer := peer, src := 0, offset := 0, length := cascadeBytes, destPos := g.destPos
        window := 0, hops := s.hopsTo g.destPos, auto := true, statusAddr := noAddr, pourId := 0, tag := 0, job := 0
        cascade := g.packets, isCascade := true, relay := none, origin := s.pkg.posValue, frames := [], stage := .waiting
        sinceUs := 0, sends := 0, busyRetries := 0, queries := 0, rounds := 0, restarted := false, acked := 0, bytes := 0
        retransmitted := 0, collisions := 0 }
    s.enqueuePour (s.routePort g.destPos q) x
  | [], _ => s.answerPackets (g.packets.map (fun p => (p, 0x03B0)))
  | _, none => s.answerPackets (g.packets.map (fun p => (p, 0x02B0)))

/-- A packet joins those gathered for its destination; 63 of them make a pour at once (R395). -/
def gather (s : State) (attach pos : Nat) (p : Packet) : State :=
  let same := fun (g : Gather) => g.attach == attach && g.destPos == pos && g.saggar == p.saggar
  match s.fab.gathers.find? same with
  | none =>
    let g : Gather := { attach := attach, destPos := pos, saggar := p.saggar, packets := [p], sinceUs := s.nowUs }
    { s with fab := { s.fab with gathers := s.fab.gathers ++ [g] } }
  | some g =>
    let g := { g with packets := g.packets ++ [p] }
    if 63 ≤ g.packets.length then
      { s with fab := { s.fab with gathers := removeFirst same s.fab.gathers } }.gatherPour g
    else { s with fab := { s.fab with gathers := replaceFirst same (fun _ => g) s.fab.gathers } }

/-- Status of a packet for another package at an attach port, 0 when it may go (R371, R379, R394). -/
def attachCheck (s : State) (p : Packet) (pos : Nat) : Nat :=
  lowest [check (p.vc ≠ 2 ∨ (p.kind ≠ .casNode ∧ p.kind ≠ .allorUp ∧ p.kind ≠ .allorDown)) 0x01B1, check (s.noRoute pos) 0x01B1,
    check (!s.noRoute pos && !s.hasPeer p.saggar pos) 0x02B0, check (!s.noRoute pos && (s.upPlanes pos 0).isEmpty) 0x03B0]

/-- A request of this package's cores at attach port `a` (R394 to R396). -/
def attachRequest (s : State) (a : Nat) (p : Packet) : State :=
  let pos := p.address % 256
  let st := s.attachCheck p pos
  if st ≠ 0 then s.respond p st []
  else
    let q := (s.upPlanes pos (a / 2 % 16)).headD 0
    let port := s.routePort pos q
    if a / 2 ≠ port then { s with net := s.net ++ [{ p with dest := opticalCode port (a % 2) }] }
    else
      let peer := (s.peerOf p.saggar pos).getD 0
      let v := s.fab.peerSessions.get (fun _ => 0) (peer * 256 + pos)
      let p := { p with destEpoch := BitVec.ofNat 32 v }
      if p.payload.isEmpty then s.meshFrame pos port p.saggar peer p else s.gather a pos p

/-- A response of this package's mesh at attach port `a`: an answer of the cascade pour that the port receives, or a MESH
frame (R395). -/
def attachResponse (s : State) (a : Nat) (p : Packet) : State :=
  let port := a / 2
  let pos := p.remotePos.getD s.pkg.posValue
  let mine := fun (x : Nat × Nat × Option Nat) => x.1 == p.home && x.2.1 == p.tag && x.2.2.isNone
  match (s.port port).recv with
  | some r =>
    if r.closing && r.resv.srcPos == pos && r.answers.any mine then
      (s.modRecv port (fun r => { r with answers := replaceFirst mine (fun x => (x.1, x.2.1, some p.status)) r.answers })).settleCascade port
    else s.answerRemote port pos p.saggar p
  | none => s.answerRemote port pos p.saggar p

end State

/-- FAB_POUR, opcode 0x600: the checks of R379, then the pour waits on its port (R378). -/
def execFabPour (id : Nat) (s : State) : Out :=
  match s.ready id 0x600 with
  | none => .next s
  | some c =>
    let st := s.pourCheck c
    if st ≠ 0 then .next (s.refuse id st)
    else
      let x := s.pourOf c
      let port := s.pourPort x.auto (c.p 22 1 % 16) x.destPos
      .next (((s.setPhase id .queued).statusWord id x.statusAddr 1 0 Result.zero).enqueuePour port x)

/-- FAB_WINDOW, opcode 0x602: opens or closes a receive window (R385). -/
def execFabWindow (id : Nat) (s : State) : Out :=
  match s.ready id 0x602 with
  | none => .next s
  | some c =>
    let w := c.p 0 1 % 16
    let base := c.addr 8
    let len := c.p 16 4
    let ring := c.p 22 2 % 16384
    if bitAt (c.p 0 1) 4 = false then .next ((s.setWindow c.saggar w Window.closed).finish id 0 Result.zero)
    else
      let rg := s.ring ring
      let st := lowest [check (len = 0) 0x0102, check (base % 64 ≠ 0 ∨ len % 64 ≠ 0) 0x0103,
        check (len ≠ 0 ∧ s.reach (s.engineAuth c.saggar) true base len ∉ [0, 0x0602]) 0x0220,
        check (rg.role ≠ .completion ∨ rg.saggar ≠ c.saggar) 0x0321]
      if st ≠ 0 then .next (s.refuse id st)
      else
        let x : Window :=
          { isOpen := true, base := base, length := len, srcPos := c.p 20 1, anyPos := bitAt (c.p 21 1) 0, ring := ring }
        .next ((s.setWindow c.saggar w x).finish id 0 Result.zero)

/-- POUR_START: a port starts its next pour and sends RESERVE (R380, R381). -/
def execPourStart (port : Nat) (s : State) : Out :=
  let p := s.port port
  if portsN ≤ port ∨ p.state ≠ .up ∨ p.current.isSome then .next s
  else match s.nextPourOf port with
    | none => .next s
    | some (x, g, t) =>
      let s := s.modPort port (fun p => { p with
        queue := p.queue.erase x, lastSaggar := g, turn := t, nextPour := if 65535 ≤ p.nextPour then 1 else p.nextPour + 1 })
      let s := match x.cmd with
        | some id => (s.setPhase id .running).statusWord id x.statusAddr 2 0 Result.zero
        | none => s
      .next (s.sendReserve port { x with pourId := p.nextPour })

/-- RESERVE: a reservation joins the receiver's queue, or is refused as busy (R381, R398). One that is already there is the
same reservation sent again. -/
def execReserve (port : Nat) (f : CtlFrame) (s : State) : Out :=
  let h := s.hear port 2 f
  if !h.2 then .next h.1
  else
    let s := h.1
    let p := s.port port
    let r := State.resvOf f
    let same := fun (x : Resv) => x.hopPos == r.hopPos && x.pourId == r.pourId
    if p.resvs.any same || (match p.recv with
        | some x => same x.resv
        | none => false) then .next s
    else if 64 ≤ p.resvs.length ∨ (r.dstPos = s.pkg.posValue ∧ (s.saggar r.dstSaggar).quiescing ≠ 0) then
      .next (s.refuseResv port r 0x06B1)
    else .next (s.modPort port (fun p => { p with resvs := p.resvs ++ [r] }))

/-- RESERVATION_TAKE: the receiver takes its next reservation and answers ACCEPT, or refuses it (R381, R387, R393). -/
def execReservationTake (port : Nat) (s : State) : Out :=
  let p := s.port port
  if portsN ≤ port ∨ p.state ≠ .up ∨ p.recv.isSome then .next s
  else match s.nextResv port with
    | none => .next s
    | some (r, g, t) =>
      let s := s.modPort port (fun p => { p with resvs := p.resvs.erase r, lastResvSaggar := g, resvTurn := t })
      let st := s.resvCheck port r
      .next (if st ≠ 0 then s.refuseResv port r st else s.takeResv port r)

/-- ACCEPT: the sender learns slot S (R381). -/
def execAccept (port : Nat) (f : CtlFrame) (s : State) : Out :=
  let h := s.hear port 3 f
  if !h.2 then .next h.1
  else match h.1.namedPour port f with
    | some x =>
      if x.stage ≠ .reserved then .next h.1
      else
        let wait := (fieldAt f.body 0 8 % 64 + 64 - s.slotNo port) % 64
        .next (h.1.modPour port (fun x => { x with stage := .accepted, sinceUs := s.nowUs + wait }))
    | none => .next h.1

/-- REFUSE: a busy receiver is tried again after 50 µs; every other reason ends the pour (R381). -/
def execRefuse (port : Nat) (f : CtlFrame) (s : State) : Out :=
  let h := s.hear port 4 f
  if !h.2 then .next h.1
  else match h.1.namedPour port f with
    | some x => .next (h.1.takeRefuse port x (fieldAt f.body 0 2))
    | none => .next h.1

/-- POUR_SEGMENTS_START: at slot S the sender sends the segments of its pour (R381, R382). -/
def execPourSegmentsStart (port : Nat) (s : State) : Out :=
  match (s.port port).current with
  | some x =>
    if x.stage = .accepted ∧ x.sinceUs ≤ s.nowUs then .next (s.sendSegments port x (List.range (segsOf x.length))) else .next s
  | none => .next s

/-- DATA_FRAME_RECEIVE: a data frame is checked and kept, its segment written when it is whole, and DONE goes out after the
last segment (R383, R384). A frame for another position, or of no pour received here, is counted nowhere. -/
def execDataFrameReceive (port : Nat) (f : DataFrame) (s : State) : Out :=
  match (s.port port).recv with
  | none => .next s
  | some r =>
    if (s.port port).state ≠ .up ∨ s.ofHop r f = false then .next s
    else
      let r := { r with started := true, sinceUs := s.nowUs }
      let s := (s.modPort port (fun p => { p with recv := some r })).checkFrame port r f
      if f.segment = r.lastSeg ∧ f.frame + 1 = segFrames r.resv.length r.lastSeg then .next (s.sendDone port) else .next s

/-- DONE: the hop is complete, or its failed segments are sent again (R384). -/
def execDone (port : Nat) (f : CtlFrame) (s : State) : Out :=
  let h := s.hear port 5 f
  if !h.2 then .next h.1
  else match h.1.namedPour port f with
    | some x => if x.stage ≠ .sent then .next h.1 else .next (h.1.takeDone port x (doneReport f.body))
    | none => .next h.1

/-- QUERY: the DONE of the pour is sent again, or for a pour that is not known 0x05B1 (R381, Table 12-6). -/
def execQuery (port : Nat) (f : CtlFrame) (s : State) : Out :=
  let h := s.hear port 6 f
  if !h.2 then .next h.1
  else
    let s := h.1
    let mine := fun (k : Nat × CtlFrame) => k.2.dstPos == f.srcPos && k.2.pourId == f.pourId
    match (s.port port).recv, (s.port port).kept.find? mine with
    | some r, k =>
      if r.resv.hopPos = f.srcPos ∧ r.resv.pourId = f.pourId then
        if r.closing then .next s
        else if 0 < r.rounds ∧ r.started = false then
          .next ((s.modRecv port (fun r => { r with timed := false })).queueDone port r.resv (State.openSegs r) [] false)
        else .next (s.sendDone port)
      else .next (again s k)
    | none, k => .next (again s k)
where
  /-- Repeat a kept DONE, or refuse. -/
  again (s : State) (k : Option (Nat × CtlFrame)) : State :=
    match k with
    | some (_, d) => s.queueFrame port d
    | none => s.queueFrame port (s.pairFrame 4 f.srcPos port f.dstSaggar f.srcSaggar f.pourId (leBytes 2 0x05B1))

/-- RELAYED: a two-hop pour completes with the status of its second hop (R393). -/
def execRelayed (port : Nat) (f : CtlFrame) (s : State) : Out :=
  let h := s.hear port 7 f
  if !h.2 then .next h.1
  else
    let mine := fun (x : Pour) => x.pourId == f.pourId && s.hopEnd x.destPos == f.srcPos
    match (h.1.port port).awaiting.find? mine with
    | some x =>
      let r := relayedReport f.body
      .next ((h.1.modPort port (fun p => { p with awaiting := removeFirst mine p.awaiting })).endPour port { x with bytes := r.2.bytes }
        r.1 false r.2)
    | none => .next h.1

/-- ABORT: the receiver has ended the pour (R387). -/
def execAbort (port : Nat) (f : CtlFrame) (s : State) : Out :=
  let h := s.hear port 8 f
  if !h.2 then .next h.1
  else match h.1.namedPour port f with
    | some _ => .next (h.1.endCurrent port (fieldAt f.body 0 2) false Report.none)
    | none => .next h.1

/-- RESERVE_TIMEOUT: 200 µs after RESERVE there is no answer: it is sent again with the same POUR_ID, and after 8 sends the
pour ends with 0x06B2 (Table 12-6). -/
def execReserveTimeout (port : Nat) (s : State) : Out :=
  match (s.port port).current with
  | some x =>
    if x.stage = .reserved ∧ s.frameWaits port 2 = false ∧ x.sinceUs + 200 ≤ s.nowUs then
      .next (if 8 ≤ x.sends then s.endCurrent port 0x06B2 true Report.none else s.sendReserve port x)
    else .next s
  | none => .next s

/-- RESERVE_RETRY: 50 µs after a busy REFUSE the reservation is tried again (R381). -/
def execReserveRetry (port : Nat) (s : State) : Out :=
  match (s.port port).current with
  | some x =>
    if x.stage = .backoff ∧ x.sinceUs + 50 ≤ s.nowUs then .next (s.sendReserve port { x with sends := 0 }) else .next s
  | none => .next s

/-- FIRST_SEGMENT_TIMEOUT: no segment has come 20 µs after S, or after a DONE, and the receiver lets the reservation go
(R384, Table 12-6). A pour that has been silent for as long as a sender waits for its DONE in all, 200 µs, is let go too. -/
def execFirstSegmentTimeout (port : Nat) (s : State) : Out :=
  match (s.port port).recv with
  | some r =>
    if r.timed ∧ ((r.started = false ∧ r.sinceUs + 20 ≤ s.nowUs) ∨ r.sinceUs + 200 ≤ s.nowUs) then .next (s.dropRecv port)
    else .next s
  | none => .next s

/-- DONE_TIMEOUT: 50 µs after the last segment there is no DONE: QUERY goes out, and after 3 of them the pour ends with 0x05B1
(Table 12-6). -/
def execDoneTimeout (port : Nat) (s : State) : Out :=
  match (s.port port).current with
  | some x =>
    if x.stage = .sent ∧ s.frameWaits port 6 = false ∧ x.sinceUs + 50 ≤ s.nowUs then
      if 3 ≤ x.queries then .next (s.endCurrent port 0x05B1 true Report.none)
      else .next ((s.modPour port (fun x => { x with queries := x.queries + 1, sinceUs := s.nowUs })).queueFrame port
        (s.pairFrame 6 (s.pourHop x) port x.saggar x.peer x.pourId []))
    else .next s
  | none => .next s

/-- DONE_RETENTION_EXPIRY: the DONE of a finished pour is dropped after 1 ms (Table 12-6). -/
def execDoneRetentionExpiry (port srcPos pourId : Nat) (s : State) : Out :=
  .next (s.modPort port (fun p => { p with
    kept := p.kept.filter (fun k => !(k.2.dstPos == srcPos && k.2.pourId == pourId && decide (k.1 + 1000 ≤ s.nowUs))) }))

/-- RELAYED_TIMEOUT: 10 ms after a clear DONE there is no RELAYED, and the pour ends with 0x05B1 (Table 12-6). -/
def execRelayedTimeout (port pourId : Nat) (s : State) : Out :=
  let mine := fun (x : Pour) => x.pourId == pourId && decide (x.sinceUs + 10000 ≤ s.nowUs)
  match (s.port port).awaiting.find? mine with
  | some x => .next ((s.modPort port (fun p => { p with awaiting := removeFirst mine p.awaiting })).endPour port x 0x05B1 true Report.none)
  | none => .next s

/-- OPTICAL_ATTACH_PACKET: packet `k` of the mesh reaches an optical attach port (R394, R395). -/
def execOpticalAttachPacket (k : Nat) (s : State) : Out :=
  match s.net[k]? with
  | some p =>
    if 5184 ≤ p.dest ∧ p.dest < 5248 ∧ s.meshHead k p then
      let t := { s with net := dropAt s.net k }
      .next (if p.isResponse then t.attachResponse (p.dest - 5184) p else t.attachRequest (p.dest - 5184) p)
    else .next s
  | none => .next s

/-- CASCADE_GATHER_TIMEOUT: 2 µs of gathering end, and the attach port reserves a cascade pour (R395). -/
def execCascadeGatherTimeout (attach destPos : Nat) (s : State) : Out :=
  let due := fun (g : Gather) => g.attach == attach && g.destPos == destPos && decide (g.sinceUs + 2 ≤ s.nowUs)
  match s.fab.gathers.find? due with
  | some g => .next ({ s with fab := { s.fab with gathers := removeFirst due s.fab.gathers } }.gatherPour g)
  | none => .next s

/-- MESH: one header-only packet from another package: a request is injected or answered, a response goes on to its core
(R395, R396). -/
def execMesh (port : Nat) (f : CtlFrame) (s : State) : Out :=
  match s.forwards port f with
  | some t => .next t
  | none =>
    let h := s.hear port 9 f
    if !h.2 then .next h.1
    else
      let p := packetOf (f.body.take 64) []
      let s := h.1
      if p.isResponse then
        .next { s with outq := s.outq ++ [{ p with src := opticalCode port 0, saggar := f.dstSaggar, remotePos := some f.srcPos }] }
      else
        let t := s.takeRemote port f.srcPos f.dstSaggar p
        .next (if t.2 = 0 then t.1 else t.1.answerRemote port f.srcPos f.dstSaggar (State.localResponse p t.2))

/-- SESSION: the peer saggar's session value is noted (R396). -/
def execSession (port : Nat) (f : CtlFrame) (s : State) : Out :=
  match s.forwards port f with
  | some t => .next t
  | none =>
    let h := s.hear port 10 f
    if !h.2 then .next h.1
    else
      let s := h.1
      .next { s with fab := { s.fab with
        peerSessions := s.fab.peerSessions.put (fun _ => 0) (f.srcSaggar * 256 + f.srcPos) (fieldAt f.body 0 4) } }

end Sys2Proof.Machine
end

