-- ==== Sys2Proof/Machine/Mgmt.lean ====
section
/-! DEFINITION. The management port (R401 to R403) and its sessions (R518, R520). -/
namespace Sys2Proof.Machine
open Sys2Proof

/-- The tag of a datagram (R401). The header's layout, its nonce and the associated data are the model's own: log entry 42. -/
def datagramTag (key : Nat) (d : Datagram) : List Byte :=
  gcmTag key (d.session * 2 ^ 64 + d.seq % 2 ^ 64)
    (leBytes 4 d.session ++ leBytes 8 d.seq ++ leBytes 4 d.packets.length ++ d.packets.flatten) []

/-- The sender's IPv6 address as a payload item (R538). -/
def p16 (v : Nat) : List Byte := leBytes 16 v

/-- Opcodes that the management port serves after bring-up has stopped (R483): FW_STAGE, GLAZE_READ, CIS_READ, RST_PACKAGE. -/
def servedStopped (op : Nat) : Bool := op ∈ [0x920, 0x931, 0x808, 0x914]

namespace State

/-- Count a datagram that is dropped (R401). -/
def mgmtDrop (s : State) : State := { s with fab := { s.fab with mgmtDropped := satAdd (top 32) s.fab.mgmtDropped 1 } }

def session? (s : State) (id : Nat) : Option MgmtSession := s.fab.sessions.find? (fun x => x.id == id)
def setSession (s : State) (x : MgmtSession) : State :=
  { s with fab := { s.fab with sessions := replaceFirst (fun y => y.id == x.id) (fun _ => x) s.fab.sessions } }

/-- Close a session, with event 0xA003 (R520). -/
def closeSession (s : State) (x : MgmtSession) : State :=
  ({ s with fab := { s.fab with sessions := s.fab.sessions.filter (fun y => y.id != x.id) } }).recordFw 2 0xA003 none 0
    (p4 x.id ++ p16 x.sender)

/-- Why an exchange is refused, 0 when a session opens (R511, R518, R520): 1 the exchange failed, 2 the part is unowned, 3
eight sessions are open, 4 no identity. -/
def exchangeRefusal (s : State) (d : Datagram) : Nat :=
  if s.sec.identityOk = false then 4
  else if s.sec.owned = false then 2
  else if 8 ≤ s.fab.sessions.length then 3
  else if d.exchangeOk = false ∨ d.newSession = 0 ∨ (s.session? d.newSession).isSome then 1
  else 0

/-- The key exchange of R520, carried under session identifier 0. -/
def exchange (s : State) (d : Datagram) : State :=
  let why := s.exchangeRefusal d
  if why ≠ 0 then s.mgmtDrop.recordFw 2 0xA004 none 0 (p16 d.sender ++ p4 why)
  else
    let x : MgmtSession :=
      { id := d.newSession, key := d.newKey % 2 ^ 128, seqs := [], lastUs := s.nowUs, sender := d.sender, record := [], sent := [] }
    ({ s with fab := { s.fab with sessions := s.fab.sessions ++ [x] } }).recordFw 2 0xA003 none 0 (p4 x.id ++ p16 x.sender)

/-- The first-stage checks of a management command (R403, R483). -/
def mgmtCheck (s : State) (c : Cmd) : Nat :=
  lowest [s.acceptCheck c c.saggar, check (s.saggar c.saggar).active 0x0356,
    check (s.fw.stopped && !servedStopped c.opcode) 0x0602]

/-- One packet of a datagram: a command of the session's last 256 is answered again, another is admitted (R402, R403). With
no place in flight, or with management lost, the packet goes unanswered. -/
def mgmtPacket (s : State) (id : Nat) (b : List Byte) : State :=
  let c := s.cmdOf (.mgmt id) true b
  match s.session? id with
  | none => s
  | some x =>
    let busy := s.cmds.any (fun y => y.origin == c.origin && y.tag == c.tag)
    match (if busy then none else x.record.reverse.find? (fun r => r.1 == c.tag)) with
    | some (_, k) => s.setSession { x with sent := x.sent ++ [k] }
    | none =>
      if 4096 ≤ s.cmds.length ∨ s.fw.mgmtLost then s
      else
        let st := s.mgmtCheck c
        let s := { s with cmds := s.cmds ++ [c], host := { s.host with nextId := s.host.nextId + 1 } }
        if st ≠ 0 then s.refuse c.id st else s

end State

/-- MGMT_DATAGRAM (R401, R402). -/
def execMgmtDatagram (d : Datagram) (s : State) : Out :=
  if s.fab.linkUp = false ∨ s.pkg.poweredDown ∨ s.pkg.heldInReset then .next s
  else if d.session = 0 then .next (s.exchange d)
  else match s.session? d.session with
    | none => .next s.mgmtDrop
    | some x =>
      if d.tag ≠ datagramTag x.key d ∨ d.seq ∈ x.seqs ∨ d.packets = [] ∨ 16 < d.packets.length ∨
          d.packets.any (fun b => b.length != 64) then .next s.mgmtDrop
      else
        let s := s.setSession { x with seqs := d.seq :: x.seqs, lastUs := s.nowUs, sender := d.sender }
        .next (d.packets.foldl (fun s b => s.mgmtPacket d.session b) s)

/-- MGMT_SESSION_TIMEOUT: a session has had no authenticated datagram for 300 s and closes (R520). -/
def execMgmtSessionTimeout (session : Nat) (s : State) : Out :=
  match s.session? session with
  | some x => if x.lastUs + 300000000 ≤ s.nowUs then .next (s.closeSession x) else .next s
  | none => .next s

/-- MGMT_LINK_UP_CHANGE: LINK_UP follows the management link (R404). -/
def execMgmtLinkUpChange (up : Bool) (s : State) : Out := .next { s with fab := { s.fab with linkUp := up } }

end Sys2Proof.Machine
end

