-- ==== Sys2Proof/Machine/Power.lean ====
section
/-! DEFINITION. Power (chapter 13): meters (R426 to R429), sleep and wake (R412 to R414), regulator phases (R415), the capping
hierarchy (R416, R417, R423), lag notices (R418, R419), and lending (R421, R422). -/
namespace Sys2Proof.Machine
open Sys2Proof

def clustersN : Nat := 1152
def domainsN : Nat := 1175
def ringGroupsN : Nat := 1024

/-- Pulses kept of 16 at a cone (Table 13-2). -/
def coneQ (k : Nat) : Nat := [16, 15, 14, 13, 12, 11, 10, 8].getD k 8

namespace State

/-! ### Meters (R426 to R429) -/

/-- Busy and idle energy of a job, job 0 of every saggar included (R428). -/
def jobMeter (s : State) (sag job : Nat) : Nat × Nat :=
  match s.jobs.find? (fun j => j.saggar == sag && j.id == job && j.closing.isNone) with
  | some j => (j.busy, j.idle)
  | none => (0, 0)

def groupMeter (s : State) (g : Nat) : Nat × Nat := s.power.meters.get (fun _ => (0, 0)) g

/-- Busy and idle µJ of the meter that a PWR_METER_READ names (R429). -/
def meterOf (s : State) (kind index sag : Nat) : Nat × Nat :=
  if kind = 0 then ((s.saggar index).busy, (s.saggar index).idle)
  else if kind = 1 then s.groupMeter index
  else if kind = 2 then s.jobMeter sag index
  else ((s.domain index).energy, 0)

/-- A tenant's command names a meter of its own saggar (R429). -/
def ownMeter (s : State) (c : Cmd) (kind index sag : Nat) : Bool :=
  if kind = 0 then index == c.saggar
  else if kind = 1 then (s.saggarRings c.saggar).any (fun n => s.power.ringGroup.get (fun _ => 0) n == index)
  else if kind = 2 then sag == c.saggar
  else decide (index ∈ s.saggarClusters c.saggar)

/-- Indices of each kind of meter. -/
def meterBound (kind : Nat) : Nat := if kind = 0 then 64 else if kind = 1 then ringGroupsN else if kind = 2 then 65536 else clustersN

/-- Status that refuses PWR_METER_READ (R429). -/
def meterCheck (s : State) (c : Cmd) : Nat :=
  let kind := c.p 0 1
  let index := c.p 2 2
  let sag := c.p 4 1 % 64
  lowest [check (3 < kind) 0x0101, check (kind ≤ 3 ∧ meterBound kind ≤ index) 0x0101,
    check (!c.oper && decide (kind ≤ 3) && !s.ownMeter c kind index sag) 0x02C0,
    check (kind = 2 && !s.jobOpen sag index) 0x0351]

/-- Add a share to a meter: busy or idle (R427). -/
def addShare (m : Nat × Nat) (e : EnergyShare) : Nat × Nat :=
  if e.idle then (m.1, m.2 + e.microjoules) else (m.1 + e.microjoules, m.2)

/-- The share goes to the saggar, the job and the ring group of the command that caused it (R427). The meter of job 0 is kept
from its first share. -/
def attribute_ (s : State) (e : EnergyShare) : State :=
  let s := s.modSaggar e.saggar (fun g => let m := addShare (g.busy, g.idle) e; { g with busy := m.1, idle := m.2 })
  let mine := fun (j : Job) => j.saggar == e.saggar && j.id == e.job
  let add := fun (j : Job) => let m := addShare (j.busy, j.idle) e; { j with busy := m.1, idle := m.2 }
  let s := if s.jobs.any mine then { s with jobs := s.jobs.map (fun j => if mine j then add j else j) }
    else if e.job = 0 then
      let j : Job := { saggar := e.saggar, id := 0, busy := 0, idle := 0, openedUs := s.nowUs, lastUs := s.nowUs, closing := none }
      { s with jobs := s.jobs ++ [add j] }
    else s
  match e.group with
  | none => s
  | some g => { s with power := { s.power with meters := s.power.meters.put (fun _ => (0, 0)) g (addShare (s.groupMeter g) e) } }

/-! ### Clusters that sleep, wake and ramp (R412 to R414) -/

/-- Neighbours of a cluster: its edge neighbours on the die and its twin (R412). -/
def neighbours (c : Nat) : List Nat :=
  let r := c % 576 / 24
  let k := c % 24
  (if 0 < r then [c - 24] else []) ++ (if r < 23 then [c + 24] else []) ++ (if 0 < k then [c - 1] else []) ++
  (if k < 23 then [c + 1] else []) ++ [if c < 576 then c + 576 else c - 576]

/-- Clusters that ramp. -/
def ramping (s : State) : List Nat := (s.clusters.filter (fun p => p.2.staging)).map (·.1)
/-- Clusters that wait to switch on, ascending. -/
def waitingOn (s : State) : List Nat := (s.clusters.filter (fun p => p.2.wantOn && !p.2.staging && !p.2.dark)).map (·.1)

/-- A waiting cluster may start: fewer than 16 ramp, and no neighbour does (R413). -/
def mayRamp (s : State) (c : Nat) : Bool :=
  decide (s.ramping.length < 16) && (neighbours c).all (fun n => !(s.cluster n).staging)

/-- The cluster whose turn it is to switch on. -/
def nextRamp (s : State) : Option Nat := s.waitingOn.find? s.mayRamp

/-- The interval multiplier after a look at the neighbours: it never falls (R412). -/
def rampMult (mult np : Nat) : Nat := if 950 < np then 8 else if 850 < np then max mult 4 else mult

/-- Close one bank; with the eighth the cluster is on, and its sites may rewet (R412, R413). -/
def closeBank (s : State) (c np : Nat) : State :=
  let x := s.cluster c
  if x.bank + 1 < 8 then s.setCluster c { x with bank := x.bank + 1, mult := rampMult x.mult np }
  else
    let s := s.setCluster c { x with bank := 0, mult := 1, staging := false, wantOn := false, asleep := false }
    (clusterSites c).foldl (fun s i => s.modSite i (fun y => { y with gated := false })) s

/-- A site of a cluster runs a launch (R414). -/
def clusterBusy (s : State) (c : Nat) : Bool :=
  (clusterSites c).any (fun i => (s.core i).launch.isSome ||
    s.launches.any (fun l => l.started && l.ranks.any (fun r => r.site == i && !r.ended)))

/-- Gate a cluster: its sites enter reset and ASLEEP sets (R414). -/
def sleepCluster (s : State) (c : Nat) : State :=
  if (s.cluster c).asleep then
    s.modCluster c (fun x => { x with wantOn := false, staging := false, bank := 0, mult := 1, deferred := false })
  else
    let s := (clusterSites c).foldl enterSite s
    let s := (clusterSites c).foldl (fun s i => s.modSite i (fun y => { y with gated := true })) s
    s.modCluster c (fun x => { x with asleep := true })

/-- Checks of the clusters that PWR_SLEEP and PWR_WAKE name (R414). -/
def clusterRange (s : State) (c : Cmd) : List Nat :=
  let first := c.p 0 2
  let n := c.p 2 2
  let sag := s.saggarClusters c.saggar
  [check (n = 0) 0x0102, check (n ≠ 0 ∧ clustersN < first + n) 0x0101,
    check (decide (n ≠ 0 ∧ first + n ≤ clustersN) && (span first n).any (fun k => k ∉ sag)) 0x02C0]

/-! ### The capping hierarchy (R416 to R423) -/

def leaseSum (l : List Lease) : Nat := (l.map (·.watts)).foldl (· + ·) 0

/-- cap_eff (R408, R416, R447). -/
def capNow (s : State) : Nat :=
  let ceil := ceilingW s.fw.variant
  let p := s.power
  let a := min ceil (p.pkgCap + leaseSum p.borrowed - leaseSum p.lent)
  let a := if p.undervolt then min a (ceil / 2) else a
  if s.thermal.flowLimited then min a (ceil * s.thermal.flow / 3000) else a

def setCap (s : State) : State := { s with power := { s.power with capEff := s.capNow } }

/-- Job of a cluster: that of the first of its sites that runs a launch (R418). -/
def clusterJob (s : State) (c : Nat) : Nat :=
  (((clusterSites c).find? (fun i => (s.core i).launch.isSome)).map (fun i => (s.core i).job)).getD 0

/-- What one recomputation knows of a cluster: its number, p0 and budget in mW, and its wait fraction. -/
structure Load where
  cluster : Nat
  p0 : Nat
  budget : Nat
  wait : Nat
  job : Nat
deriving DecidableEq, Repr

/-- Look a cluster up in the measurements. -/
def measured (l : List (Nat × Nat)) (c : Nat) : Nat := ((l.find? (fun p => p.1 == c)).map (·.2)).getD 0

/-- p0 of a cluster, derated under R415 (R411, R416). -/
def loadOf (s : State) (m : KilnIn) (c : Nat) : Load :=
  let x := s.cluster c
  let p0 := measured m.clusterMw c * 16 / coneQ x.cone
  { cluster := c, p0 := if x.derated then p0 * 3 / 4 else p0, budget := 0, wait := measured m.waitPm c, job := s.clusterJob c }

def sumP0 (l : List Load) : Nat := (l.map (·.p0)).foldl (· + ·) 0

/-- The budgets of a saggar's clusters: in proportion to p0, then SHIFT_MAX moves from the clusters of a job that wait most to
those of the same job that wait least (R416, R418). -/
def budgets (shift grant : Nat) (l : List Load) : List Load :=
  let total := sumP0 l
  let base := l.map (fun x => { x with budget := if total = 0 then 0 else grant * x.p0 / total })
  base.map (fun x =>
    let slow := base.filter (fun y => decide (y.job = x.job ∧ 200 < y.wait))
    let fast := base.filter (fun y => decide (y.job = x.job ∧ y.wait < 50))
    let given := (slow.map (fun y => y.budget * shift / 100)).foldl (· + ·) 0
    if fast.isEmpty then x
    else if 200 < x.wait then { x with budget := x.budget - x.budget * shift / 100 }
    else if x.wait < 50 ∧ sumP0 fast ≠ 0 then { x with budget := x.budget + given * x.p0 / sumP0 fast }
    else x)

/-- The lowest cone at which the power fits the budget, else 7 (R416). -/
def coneFor (p0 budget : Nat) : Nat := ((List.range 8).find? (fun k => decide (p0 * coneQ k ≤ budget * 16))).getD 7

/-- The thermal cone in force: a hardware clamp counts as cone 7 (R443). -/
def thermalConeOf (s : State) (c : Nat) : Nat := if (s.cluster c).clamps.isEmpty then (s.cluster c).thermalCone else 7

/-- Active saggars, ascending. -/
def activeSaggars (s : State) : List Nat := (List.range 64).filter (fun g => (s.saggar g).active)

/-- FIXED_BROKEN sets, with event 0x6009 when it was clear: cause 1 the cap, 2 the thermal cone (R423). -/
def breakFixed (s : State) (g cause : Nat) : State :=
  if (s.saggar g).fixedBroken then s
  else (s.modSaggar g (fun x => { x with fixedBroken := true })).recordFw 0 0x6009 (some g) 0 (p4 g ++ p4 cause)

/-! ### Lag notices (R419) -/

/-- The accumulators of a core. -/
def accList (k : Core) : List Acc := [k.acc0, k.acc1, k.acc2, k.acc3]

/-- A core holds an open reduction or an open all-or. -/
def holdsCollective (k : Core) : Bool := k.aor.isOpen || (accList k).any (fun r => r.redOpen)

/-- The largest NB − NEXT over the open reductions of a cluster's cores. -/
def blocksLeft (s : State) (c : Nat) : Nat :=
  ((clusterSites c).flatMap (fun i => (accList (s.core i)).filterMap (fun r => if r.redOpen then some (r.nb - r.next) else none))).foldl max 0

/-- The body of a LAG frame (Table 13-4). -/
def lagBody (job old new group d w : Nat) : List Byte :=
  leBytes 2 job ++ leBytes 1 (old + 8 * new) ++ leBytes 1 group ++ leBytes 4 d ++ leBytes 2 w

/-- Tell the sites of a saggar of a lag on the rill. -/
def rillLag (s : State) (sag job d : Nat) : State :=
  { s with rill := s.rill ++ (s.saggarSites sag).map (fun i => RillMsg.lagNotice i sag job d) }

/-- One lag notice for a cluster whose cone has risen from `old` (R419). -/
def lagNotice (s : State) (m : KilnIn) (c old : Nat) : State :=
  let x := s.cluster c
  match (clusterSites c).find? (fun i => holdsCollective (s.core i)) with
  | none => s
  | some i =>
    if x.assigned = false ∨ x.cone ≤ old then s
    else
      let job := (s.core i).job
      let dq := coneQ old - coneQ x.cone
      let blocks := measured m.blocks c
      let d := if blocks = 0 then 1 else ceilDiv (s.blocksLeft c * 100 * dq) (blocks * coneQ x.cone)
      let w := ceilDiv (measured m.clusterMw c * dq) (coneQ x.cone * 1000)
      let s := s.rillLag x.saggar job d
      let s := (List.range 256).foldl (fun s pos =>
        match (if s.noRoute pos then none else s.peerOf x.saggar pos) with
        | some peer =>
          let port := s.shortPort pos
          s.queueFrame port (s.pairFrame 11 pos port x.saggar peer 0 (lagBody job old x.cone s.power.powerGroup d w))
        | none => s) s
      s.recordFw 0 0x6007 (some x.saggar) job (p4 x.saggar ++ p4 job ++ p4 d ++ p4 w)

/-! ### Lending (R421) -/

/-- The body of a LEND frame (Table 13-5). -/
def lendBody (group borrower watts seq : Nat) : List Byte :=
  leBytes 1 group ++ leBytes 1 borrower ++ leBytes 2 watts ++ leBytes 4 10000 ++ leBytes 4 seq

/-- Lend to the lagging positions in ascending order while a watt is left. -/
def lendAll (s : State) : Nat → List (Nat × Nat) → State
  | _, [] => s
  | h, (pos, want) :: r =>
    if h = 0 ∨ want = 0 then lendAll s h r
    else
      let w := min h want
      let seq := s.power.lendSeq
      let x : Lease := { watts := w, peer := pos, seq := seq, running := false, sinceUs := s.nowUs }
      let port := s.shortPort pos
      let s := { s with power := { s.power with lent := s.power.lent ++ [x], lendSeq := seq + 1 } }
      let s := s.queueFrame port (s.pondFrame 12 port (lendBody s.power.powerGroup pos w seq))
      lendAll (s.recordFw 0 0x6008 none 0 (p4 pos ++ p4 w)) (h - w) r

/-- The lending of one recomputation. -/
def lend_ (s : State) (packageMw : Nat) : State :=
  let want := s.power.lagSums
  let h := (s.power.capEff * 1000 - packageMw - s.power.pkgCap * 50) / 1000
  let s := { s with power := { s.power with lagSums := [] } }
  if s.power.powerGroup = 0 then s else (s.lendAll h want).setCap

/-! ### One recomputation -/

/-- Grants of the active saggars in mW (R416). -/
def grants (s : State) (avail : Nat) (l : List (Nat × List Load)) : List (Nat × Nat) :=
  let want := l.map (fun p => (p.1,
    let cap := (s.saggar p.1).cap
    if cap = 0 then sumP0 p.2 else min (cap * 1000) (sumP0 p.2)))
  let total := (want.map (·.2)).foldl (· + ·) 0
  if total ≤ avail then want else want.map (fun p => (p.1, p.2 * avail / total))

/-- Put the results of a recomputation into a cluster: its budget and the cone of its saggar's mode (R416, R423). -/
def setCone (s : State) (above : Bool) (g : Nat) (x : Load) : State :=
  let t := s.thermalConeOf x.cluster
  let fixed := (s.saggar g).fixedOn && !above
  let k := if fixed then max (s.saggar g).fixedCone t else max (coneFor x.p0 x.budget) t
  let s := s.modCluster x.cluster (fun y => { y with
    cone := k, p0 := x.p0, budgetMw := x.budget, waitPm := x.wait })
  if (s.saggar g).fixedOn ∧ (s.saggar g).fixedCone < t then s.breakFixed g 2 else s

/-- The recomputation of R416 to R423. -/
def recompute (s : State) (m : KilnIn) : State :=
  let s := s.setCap
  let cap := s.power.capEff * 1000
  let loads := s.activeSaggars.map (fun g => (g, (s.saggarClusters g).map (s.loadOf m)))
  let old := loads.flatMap (fun p => p.2.map (fun x => (p.1, x.cluster, (s.cluster x.cluster).cone)))
  let grant := s.grants (cap - m.otherMw) loads
  let othersLow := old.all (fun p => (s.saggar p.1).fixedOn || p.2.2 == 7)
  let allLow := old.all (fun p => p.2.2 == 7)
  let above := decide (cap < m.packageMw) && othersLow
  let s := loads.foldl (fun s p =>
    let gr := measured grant p.1
    let s := s.modSaggar p.1 (fun x => { x with grantW := gr / 1000 })
    let s := if (s.saggar p.1).fixedOn ∧ above then s.breakFixed p.1 1 else s
    (budgets s.power.shiftMax gr p.2).foldl (fun s x => s.setCone above p.1 x) s) s
  let s := (s.clusters.map (·.1)).foldl (fun s c =>
    if (s.cluster c).assigned ∧ (s.saggar (s.cluster c).saggar).active then s
    else s.modCluster c (fun y => { y with cone := s.thermalConeOf c, budgetMw := 0 })) s
  let s := old.foldl (fun s p => s.lagNotice m p.2.1 p.2.2) s
  let bad := allLow && decide (cap < m.packageMw)
  let s := if bad ∧ s.power.capUnreachable = false then
      s.recordFw 0 0x6006 none 0 (p4 s.power.capEff ++ p4 (m.packageMw / 1000)) else s
  let s := { s with power := { s.power with capUnreachable := bad, lastRecompute := s.nowUs } }
  s.lend_ m.packageMw

end State

/-- PWR_METER_READ, opcode 0x700 (R429). -/
def execPwrMeterRead (id : Nat) (s : State) : Out :=
  match s.ready id 0x700 with
  | none => .next s
  | some c =>
    let st := s.meterCheck c
    if st ≠ 0 then .next (s.refuse id st)
    else
      let m := s.meterOf (c.p 0 1) (c.p 2 2) (c.p 4 1 % 64)
      .next (s.finish id 0 { progress := 0, r0 := m.1 % 2 ^ 32, r1 := m.1 / 2 ^ 32 % 2 ^ 32, r2 := m.2 % 2 ^ 32, r3 := m.2 / 2 ^ 32 % 2 ^ 32 })

/-- PWR_SLEEP, opcode 0x701 (R414). -/
def execPwrSleep (id : Nat) (s : State) : Out :=
  match s.ready id 0x701 with
  | none => .next s
  | some c =>
    let l := span (c.p 0 2) (c.p 2 2)
    let st := lowest (s.clusterRange c ++ [check (l.any s.clusterBusy) 0x06C0])
    if st ≠ 0 then .next (s.refuse id st)
    else .next ((l.foldl State.sleepCluster s).finish id 0 Result.zero)

/-- PWR_WAKE, opcode 0x702: each cluster that sleeps switches on, and the command waits for its sites (R414). -/
def execPwrWake (id : Nat) (s : State) : Out :=
  match s.ready id 0x702 with
  | none => .next s
  | some c =>
    let l := span (c.p 0 2) (c.p 2 2)
    let st := lowest (s.clusterRange c)
    if st ≠ 0 then .next (s.refuse id st)
    else
      let asleep := l.filter (fun k => (s.cluster k).asleep)
      let wait := (asleep.flatMap clusterSites).filter s.siteServes
      let s := asleep.foldl (fun s k => s.modCluster k (fun x => { x with wantOn := true })) s
      if wait.isEmpty then .next (s.finish id 0 Result.zero)
      else
        let r : ResetRun := { cmd := some id, sites := wait, sluices := [], rings := [], units := [], closing := none, wake := true }
        .next { s.setPhase id .running with fw := { s.fw with resets := s.fw.resets ++ [r] } }

/-- CLUSTER_SWITCH_STAGE: the foot die starts the cluster whose turn it is, or closes the next bank of one that ramps;
`npPermille` is the neighbours' peak current (R412, R413). A start with a neighbour above 95 % is deferred first. -/
def execClusterSwitchStage (cluster npPermille : Nat) (s : State) : Out :=
  let x := s.cluster cluster
  if x.staging then (if x.deferred then .next s else .next (s.closeBank cluster npPermille))
  else if s.nextRamp ≠ some cluster then .next s
  else if 950 < npPermille then .next (s.setCluster cluster { x with staging := true, deferred := true, bank := 0, mult := 8 })
  else .next ((s.setCluster cluster { x with staging := true, bank := 0, mult := State.rampMult 1 npPermille }).closeBank cluster npPermille)

/-- CLUSTER_START_DEFERRAL_END: the neighbours have come down to 95 %, or 50 µs have passed: event 0x6005 (R412). -/
def execClusterStartDeferralEnd (cluster npPermille waitNs : Nat) (s : State) : Out :=
  let x := s.cluster cluster
  if x.staging ∧ x.deferred ∧ (npPermille ≤ 950 ∨ 50000 ≤ waitNs) then
    .next ((s.setCluster cluster { x with deferred := false }).recordFw 0 0x6005
      (if x.assigned then some x.saggar else none) 0 (p4 cluster ++ p4 waitNs))
  else .next s

/-- REGULATOR_PHASE_FAULT: the foot die disables a phase; with three left the cluster is derated, with two or fewer it goes dark
(R415, Table 13-3). -/
def execRegulatorPhaseFault (phase : Nat) (s : State) : Out :=
  let c := phase / 4
  let x := s.cluster c
  if clustersN ≤ c ∨ !bitAt x.phasesOk.toNat (phase % 4) then .next s
  else
    let left := BitVec.ofNat 4 (x.phasesOk.toNat - 2 ^ (phase % 4))
    let n := ((List.range 4).filter (fun k => bitAt left.toNat k)).length
    let owner := if x.assigned then some x.saggar else none
    let s := s.setCluster c { x with phasesOk := left, derated := n = 3 || x.derated }
    if n = 3 then .next (s.recordFw 0 0x6003 owner 0 (p4 c ++ p4 phase))
    else if x.dark then .next s
    else
      let active := s.clusterActive c
      let s := (clusterSites c).foldl State.enterSite s
      let s := (clusterSites c).foldl (fun s i => s.modSite i (fun y => if y.role = .spare then { y with role := .retired } else y)) s
      let s := active.foldl (fun s i => s.retireSite i .retired) s
      let s := s.modCluster c (fun y => { y with dark := true, wantOn := false, staging := false, bank := 0, mult := 1, deferred := false })
      let s := (clusterSites c).foldl State.siteReturned s
      .next (s.recordFw 0 0x6004 owner 0 (p4 c ++ p4 active.length)).settleResets

/-- KILN_RECOMPUTE: every 100 µs of the management counter (R416). -/
def execKilnRecompute (m : KilnIn) (s : State) : Out :=
  if s.nowUs < s.power.lastRecompute + 100 then .next s else .next (s.recompute m)

/-- LAG: a lag notice of another package: its watts count toward lending in the sender's group, and the rill tells the saggar's
sites (R397, R420, R421). -/
def execLag (port : Nat) (f : CtlFrame) (s : State) : Out :=
  match s.forwards port f with
  | some t => .next t
  | none =>
    let h := s.hear port 11 f
    if !h.2 then .next h.1
    else
      let s := h.1
      let b := fieldAt f.body
      let w := b 8 2
      let s := if b 3 1 ≠ 0 ∧ b 3 1 = s.power.powerGroup then
          { s with power := { s.power with
            lagSums := s.power.lagSums.put (fun _ => 0) f.srcPos (s.power.lagSums.get (fun _ => 0) f.srcPos + w) } } else s
      .next (s.rillLag f.dstSaggar (b 0 2) (b 4 4))

/-- LEND: an offer to this package's position and group is taken for 10 ms, up to LEND_MAX and the ceiling (R422). -/
def execLend (port : Nat) (f : CtlFrame) (s : State) : Out :=
  let h := s.hear port 12 f
  if !h.2 then .next h.1
  else
    let s := h.1
    let b := fieldAt f.body
    let p := s.power
    let held := State.leaseSum p.borrowed
    let room := min (p.lendMax - held) (ceilingW s.fw.variant - (p.pkgCap + held - State.leaseSum p.lent))
    let w := min (b 2 2) room
    if b 1 1 ≠ s.pkg.posValue ∨ b 0 1 = 0 ∨ b 0 1 ≠ p.powerGroup ∨ w = 0 then .next s
    else
      let x : Lease := { watts := w, peer := f.srcPos, seq := b 8 4, running := true, sinceUs := s.nowUs }
      let s := { s with power := { p with borrowed := p.borrowed ++ [x] } }
      .next (s.setCap.recordFw 0 0x6008 none 0 (p4 f.srcPos ++ p4 w))

/-- LEND_LEASE_EXPIRY: 10 ms after its receipt a lease ends (R422). -/
def execLendLeaseExpiry (k : Nat) (s : State) : Out :=
  match s.power.borrowed[k]? with
  | some l =>
    if l.sinceUs + 10000 ≤ s.nowUs then
      .next { s with power := { s.power with borrowed := dropAt s.power.borrowed k } }.setCap
    else .next s
  | none => .next s

/-- LEND_REDUCTION_EXPIRY: 11 ms after the first try of its LEND frame a reduction ends (R421). -/
def execLendReductionExpiry (k : Nat) (s : State) : Out :=
  match s.power.lent[k]? with
  | some l =>
    if l.running ∧ l.sinceUs + 11000 ≤ s.nowUs then .next { s with power := { s.power with lent := dropAt s.power.lent k } }.setCap
    else .next s
  | none => .next s

/-- TELEMETRY_WINDOW_CLOSE: a domain closes a window of 1 ms (R425). -/
def execTelemetryWindowClose (w : WindowIn) (s : State) : Out :=
  if domainsN ≤ w.domain then .next s
  else
    let d := s.domain w.domain
    let s := s.setDomain w.domain
      { mean := w.mean % 2 ^ 32, least := w.least % 2 ^ 32, greatest := w.greatest % 2 ^ 32, voltMv := w.voltMv % 2 ^ 16
        window := (d.window + 1) % 2 ^ 32, energy := d.energy + w.microjoules }
    .next (if w.domain = 1174 then { s with power := { s.power with inputMv := w.voltMv } } else s)

/-- ENERGY_ATTRIBUTION: the input energy of a window is divided among the meters, and OVERHEAD takes the rest (R426). Shares that
exceed the input energy are no division of it. -/
def execEnergyAttribution (input : Nat) (shares : List EnergyShare) (s : State) : Out :=
  let total := (shares.map (·.microjoules)).foldl (· + ·) 0
  if input < total then .next s
  else
    let s := shares.foldl State.attribute_ s
    .next { s with power := { s.power with overhead := s.power.overhead + (input - total) } }

end Sys2Proof.Machine
end

