-- ==== Sys2Proof/Machine/Rails.lean ====
section
/-! DEFINITION. Rails, the clock reference and the input (R29 to R32, R36, R408, R529), and the power-down that they and the
thermal shutdown share. -/
namespace Sys2Proof.Machine
open Sys2Proof

/-- Place of a rail in the order of Table 1-8, from 0. -/
def railOrder : Rail → Nat
  | .vstby => 0 | .vfoot => 1 | .vmesh => 2 | .vcm => 3 | .vhbm _ => 4 | .vhost => 5 | .vopt => 6

/-- Number of a rail in event 0x1003: its bit of RAIL_STATUS (Table 1-9). -/
def railBit : Rail → Nat
  | .vstby => 0 | .vfoot => 1 | .vmesh => 2 | .vcm => 3 | .vhost => 4 | .vopt => 5 | .vhbm k => 16 + k

namespace State

def railGood (s : State) : Rail → Bool
  | .vstby => s.pkg.vstby | .vfoot => s.pkg.vfoot | .vmesh => s.pkg.vmesh | .vcm => s.pkg.vcm
  | .vhbm k => s.pkg.vhbm.getLsbD k | .vhost => s.pkg.vhost | .vopt => s.pkg.vopt

def setRail (s : State) (r : Rail) (v : Bool) : State :=
  let p := s.pkg
  { s with pkg := match r with
    | .vstby => { p with vstby := v }
    | .vfoot => { p with vfoot := v }
    | .vmesh => { p with vmesh := v }
    | .vcm => { p with vcm := v }
    | .vhbm k => { p with vhbm := if v then p.vhbm ||| (1#16 <<< k) else p.vhbm &&& ~~~(1#16 <<< k) }
    | .vhost => { p with vhost := v }
    | .vopt => { p with vopt := v } }

/-- Rails that firmware enables once those enabled report good (Table 1-8): VHBM of every stack together, VHOST and VOPT
together. -/
def nextEnabled (s : State) : Nat :=
  let p := s.pkg
  if p.enabled = 2 ∧ p.vfoot then 3
  else if p.enabled = 3 ∧ p.vmesh then 4
  else if p.enabled = 4 ∧ p.vcm then 5
  else if p.enabled = 5 ∧ p.vhbm = 0xFFFF then 7
  else p.enabled

/-- Write out the completions that wait, as far as their rings take them. -/
def flushCompls (s : State) : State :=
  (List.range s.compls.length).foldl (fun s _ =>
    match s.compls with
    | [] => s
    | c :: r =>
      let t := match c.target with
        | .ring n => s.writeCompl n 0 c
        | .mgmt id => s.mgmtCompl id 0 c
      if t.compls.length = s.compls.length then { t with compls := r } else t) s

/-- Every unit of the package stops and what is in flight is gone; settings and meters stay. -/
def quietUnits (s : State) : State :=
  let s := (s.ports.map (·.1)).foldl (fun s p => s.portDown p .disabled 0) s
  { s with
    cores := [], net := [], outq := [], rill := [], bcasts := [], remaps := [], nbs := [], kvs := [], gatesSeen := []
    cmds := [], compls := [], txns := [], commits := [], changed := [], launches := [], filling := []
    sluices := [], fab := { s.fab with gathers := [], relayBusy := [] }
    rel := { s.rel with scrubs := [] }
    fw := { s.fw with resets := [], activation := none, rtActivation := none, draining := [], bringup := none }
    host := { s.host with ready := false, modules := [] } }

/-- Commands in flight end with a status, and their completions go out. -/
def stopCommands (s : State) (st : Nat) : State := (s.endAll st).flushCompls

/-- Wear counts are written to the ledger (R451). -/
def persistWear (s : State) : State := { s with thermal := { s.thermal with wearLedger := s.thermal.wear } }

/-- Power down in the reverse of Table 1-8, VSTBY apart; wear counts and the mirror entry are written first (R31, R408, R444, R451,
R473). -/
def powerDown (s : State) : State :=
  let s := s.persistWear.mirrorAll.quietUnits
  { s with pkg := { s.pkg with
    poweredDown := true, enabled := 1, vhost := false, vopt := false, vhbm := 0, vcm := false, vmesh := false, vfoot := false } }

/-- Sites and sluices that are up enter reset (R32, R490). -/
def enterStack (s : State) : State :=
  (List.range sluicesN).foldl enterSluice ((List.range sitesN).foldl enterSite s)

end State

/-- STANDBY_POWER_UP: the input reaches 36 V, VSTBY ramps, and the controllers boot and enable VFOOT (R30, Table 1-8). -/
def execStandbyPowerUp (s : State) : Out :=
  if s.pkg.inputOn then .next s
  else .next { s with pkg := { s.pkg with inputOn := true, vstby := true, enabled := 2, seqStopped := false } }

/-- RAIL_GOOD: an enabled rail reports good, and the next ones of Table 1-8 are enabled (R30). -/
def execRailGood (rail : Rail) (s : State) : Out :=
  if s.pkg.seqStopped ∨ s.pkg.enabled ≤ railOrder rail ∨ s.railGood rail then .next s
  else
    let s := s.setRail rail true
    .next { s with pkg := { s.pkg with enabled := s.nextEnabled } }

/-- RAIL_WINDOW_EXPIRY: an enabled rail has not reached good within its window: the sequence stops with event 0x1003, and
bring-up stops (R31, R483). -/
def execRailWindowExpiry (rail : Rail) (s : State) : Out :=
  if s.pkg.seqStopped ∨ s.pkg.enabled ≤ railOrder rail ∨ s.railGood rail then .next s
  else
    let s := { s with pkg := { s.pkg with seqStopped := true }, fw := { s.fw with stopped := true }, host := { s.host with ready := false } }
    .next ((s.recordFw 5 0x1003 none 0 (p4 (railBit rail))).recordFw 5 0x9003 none 0 (p4 (if railOrder rail = 0 then 1 else 4) ++ p4 (railBit rail)))

/-- VMESH_OUT_OF_RANGE: the compute stack is lost: event 0x1004, and commands in flight end with 0x0500 (R32, Table 11-13). -/
def execVmeshOutOfRange (s : State) : Out :=
  if s.up = false ∨ s.pkg.vmesh = false then .next s
  else
    let s := s.setRail .vmesh false
    let s := (s.recordFw 5 0x1004 none 0 []).mirrorAll
    let s := (s.endAll 0x0500).enterStack
    .next { s with pkg := { s.pkg with computeLost := true }, outq := [], net := [], rill := [], launches := [] }

/-- REF_LOSS: the reference is lost and the PLLs enter holdover, event 0x1005 (R36). -/
def execRefLoss (s : State) : Out :=
  if s.up = false ∨ s.pkg.holdover then .next s
  else
    let s := { s with pkg := { s.pkg with
      holdover := true, refPresent := false, locked := false, refLossCount := satAdd (top 16) s.pkg.refLossCount 1 } }
    .next (s.recordFw 5 0x1005 none 0 [])

/-- REF_RECOVERY: the reference is back for 1 ms: the PLLs relock, HOLDOVER clears and event 0x1006 is recorded (R36). For a
package held in reset the reference is then present again. -/
def execRefRecovery (s : State) : Out :=
  if s.pkg.heldInReset then .next { s with pkg := { s.pkg with refPresent := true } }
  else if s.pkg.holdover = false then .next s
  else
    let s := { s with pkg := { s.pkg with holdover := false, refPresent := true, locked := true } }
    .next (s.recordFw 5 0x1006 none 0 [])

/-- HOLDOVER_EXPIRY: the reference has not come back within 20 ms: commands in flight end with 0x0510, event 0x1007 is mirrored, and
the package is held in reset (R36). -/
def execHoldoverExpiry (s : State) : Out :=
  if s.up = false ∨ s.pkg.holdover = false then .next s
  else
    let s := ((s.stopCommands 0x0510).recordFw 5 0x1007 none 0 []).mirrorAll.quietUnits
    .next { s with pkg := { s.pkg with heldInReset := true, holdover := false } }

/-- INPUT_UNDERVOLT: the input stays below 40 V: the cap is limited, UNDERVOLT sets, event 0x6001 (R408). -/
def execInputUndervolt (mv : Nat) (s : State) : Out :=
  if s.up = false ∨ 40000 ≤ mv ∨ s.power.undervolt then .next s
  else
    let s := { s with power := { s.power with undervolt := true, inputMv := mv } }
    .next (s.setCap.recordFw 0 0x6001 none 0 (p4 (mv / 4)))

/-- INPUT_RECOVERY: the input has stayed at 40 V or more for 10 ms: the limit lifts, event 0x600A (R408). -/
def execInputRecovery (mv : Nat) (s : State) : Out :=
  if s.up = false ∨ mv < 40000 ∨ s.power.undervolt = false then .next s
  else
    let s := { s with power := { s.power with undervolt := false, inputMv := mv } }
    .next (s.setCap.recordFw 0 0x600A none 0 [])

/-- INPUT_POWER_LOST: the input stays below 37 V: commands in flight end with 0x05C0, event 0x6002 is mirrored, and the package
powers down; VSTBY falls too when the input is below 36 V (R408). -/
def execInputPowerLost (mv : Nat) (s : State) : Out :=
  if 37000 ≤ mv then .next s
  else
    let fall := fun (s : State) => if mv < 36000 then { s with pkg := { s.pkg with inputOn := false, vstby := false, enabled := 0 } } else s
    if s.pkg.poweredDown then .next (fall s)
    else
      let s := { s with power := { s.power with inputMv := mv } }
      .next (fall ((s.stopCommands 0x05C0).recordFw 0 0x6002 none 0 []).powerDown)

/-- INPUT_OVERVOLTAGE: above 66 V the input protection opens, and the package powers down as for a lost input (R529). -/
def execInputOvervoltage (mv : Nat) (s : State) : Out :=
  if mv ≤ 66000 ∨ s.pkg.poweredDown then .next s
  else
    let s := ((s.stopCommands 0x05C0).recordFw 0 0x6002 none 0 []).powerDown
    .next { s with pkg := { s.pkg with inputOn := false, vstby := false, enabled := 0 } }

end Sys2Proof.Machine
end

