-- ==== Sys2Proof/Machine/Repair.lean ====
section
/-! DEFINITION. What bring-up and a stack reset with TEST find and mend: bond repairs (R485), lane groups that cannot be
repaired (R486), roles and columns after the site self-test (R487), recalibration (R446), the strap reading (R24, R25),
regulator phases (R415), the images that boot (R495, R496) and the roles of the controllers (R498). Lane group classes are
numbered in the order of Table 16-2. -/
namespace Sys2Proof.Machine
open Sys2Proof

/-! ### Straps (R24, R25) -/

/-- Level of a strap by its resistance in ohms, 3 for Fault (Table 1-5). -/
def strapLevel (ohms : Nat) : Nat :=
  if ohms ≤ 100 then 0 else if 9000 ≤ ohms ∧ ohms ≤ 11000 then 1 else if 1000000 ≤ ohms then 2 else 3

/-- The levels of PS0 to PS5. A strap without a measurement reads Fault. -/
def strapLevels (ohms : List Nat) : List Nat := (List.range 6).map (fun n => ((ohms[n]?).map strapLevel).getD 3)

/-- P of R25. -/
def strapValue (l : List Nat) : Nat := l.foldr (fun x a => x + 3 * a) 0

/-- The position is valid (R25). -/
def strapsValid (l : List Nat) : Bool := l.all (fun x => decide (x ≤ 2)) && decide (strapValue l ≤ 255)

/-! ### Roles after the site self-test (R487) -/

/-- A site of a row with its role and its logical column. -/
structure RowSite where
  site : Nat
  role : Role
  col : Nat
deriving DecidableEq, Repr

/-- Columns after `sp` has taken over from `i` (R41): `cols` lists the sites that hold a column, ascending. -/
def shiftCols (cols : List (Nat × Nat)) (i sp : Nat) : List (Nat × Nat) :=
  let between := cols.filter (fun p => decide (min i sp < p.1 ∧ p.1 < max i sp))
  let own := cols.filter (fun p => p.1 == i)
  let rest := cols.filter (fun p => !decide (min i sp ≤ p.1 ∧ p.1 ≤ max i sp))
  let moved :=
    if i < sp then (between.map (·.1) ++ [sp]).zip ((own ++ between).map (·.2))
    else (sp :: between.map (·.1)).zip ((between ++ own).map (·.2))
  rest.filter (fun p => decide (p.1 < min i sp)) ++ moved ++ rest.filter (fun p => decide (max i sp < p.1))

/-- Roles and columns of one row after the test (R487). Spares that are left over in a row with fewer than 46 passing sites
take its absent columns in ascending order. -/
def retestRow (row : List RowSite) (fails : Nat → Bool) : List RowSite :=
  let good := row.filter (fun x => !fails x.site)
  if 46 ≤ good.length then
    row.map (fun x =>
      if fails x.site then { x with role := .failed, col := 63 }
      else
        let k := (good.filter (fun y => decide (y.site < x.site))).length
        if k < 46 then { x with role := .active, col := k } else { x with role := .spare, col := 63 })
  else
    let start := (row.filter (fun x => x.role == .active)).map (fun x => (x.site, x.col))
    let lost := (row.filter (fun x => x.role == .active && fails x.site)).map (·.site)
    let spares := (good.filter (fun x => x.role != .active)).map (·.site)
    let cols := (lost.zip spares).foldl (fun c p => shiftCols c p.1 p.2) start
    let cols := cols.filter (fun p => !fails p.1)
    let absent := (List.range 46).filter (fun k => !(cols.any (fun p => p.2 == k)))
    let cols := cols ++ (spares.drop lost.length).zip absent
    row.map (fun x =>
      if fails x.site then { x with role := .failed, col := 63 }
      else match cols.find? (fun p => p.1 == x.site) with
        | some p => { x with role := .active, col := p.2 }
        | none => { x with role := .spare, col := 63 })

namespace State

/-- The sites of a row with their roles and columns. -/
def rowState (s : State) (key : Nat) : List RowSite :=
  (rowSites key).map (fun i => { site := i, role := (s.site i).role, col := (s.site i).lcol })

/-- Roles and columns of every row after the test; no remap change waits afterwards (R487). -/
def retestSites (s : State) (fails : Nat → Bool) : State :=
  (List.range 96).foldl (fun s key =>
    (retestRow (s.rowState key) fails).foldl (fun s x =>
      s.modSite x.site (fun y => { y with role := x.role, lcol := x.col, shiftPending := false })) s) s

/-- Clusters without an active site are gated and belong to no saggar; the others are not gated unless they sleep or are
dark (R46, Table 2-3). -/
def regate (s : State) : State :=
  (List.range clustersN).foldl (fun s c =>
    if (s.clusterActive c).isEmpty then s.gateCheck c
    else if (s.cluster c).asleep ∨ (s.cluster c).dark then s
    else (clusterSites c).foldl (fun s i => s.modSite i (fun x => { x with gated := false })) s) s

/-! ### Links (R484 to R486) -/

/-- Bring-up stops at a step of Table 16-1 or 16-4 for a cause: READY stays 0 (R483). Causes: 1 no image verifies, 2 no slot
or donor run for a failed channel, 3 a link that routing cannot avoid. -/
def stopBringup (s : State) (step cause : Nat) : State :=
  ({ s with fw := { s.fw with stopped := true }, host := { s.host with ready := false } }).recordFw 5 0x9003 none 0 (p4 step ++ p4 cause)

/-- Record that a lane group cannot be repaired: event 0x9004. Outcomes: 0 the site fails, 1 bring-up stops, 2 the channel
is retired, 3 the module is removed, 4 the port stays disabled. -/
def laneLost (s : State) (cls group outcome : Nat) : State :=
  s.recordFw 5 0x9004 none 0 (p4 cls ++ p4 group ++ p4 outcome)

/-- Move a failing wire to the spare of its group, with event 0x9005; a group whose spare is taken by another wire has a
second failing connection (R14, R485). -/
def moveWire (s : State) (m : Nat × Nat × Nat) : State :=
  let mine := s.pkg.bondMoves.filter (fun x => x.1 == m.1 && x.2.1 == m.2.1)
  if m ∈ mine then s
  else if mine.isEmpty then
    ({ s with pkg := { s.pkg with bondMoves := s.pkg.bondMoves ++ [m] } }).recordFw 5 0x9005 none 0 (p4 m.1 ++ p4 m.2.1 ++ p4 m.2.2)
  else { s with pkg := { s.pkg with bondLost := s.pkg.bondLost ++ [(m.1, m.2.1)] } }

/-- The bond repairs of one bring-up: groups that are lost have event 0x1008 each (R485). -/
def bondRepairs (s : State) (env : BringupEnv) : State :=
  let s := { s with pkg := { s.pkg with bondLost := [] } }
  let s := env.bondMoves.foldl moveWire s
  let s := { s with pkg := { s.pkg with bondLost := s.pkg.bondLost ++ env.bondLost } }
  s.pkg.bondLost.foldl (fun s g => s.recordFw 5 0x1008 none 0 (p4 g.1 ++ p4 g.2)) s

/-- Lane groups of the stack that cannot be repaired. -/
def lostLinks (s : State) (env : BringupEnv) : List (Nat × Nat) := s.pkg.bondLost ++ env.failedLinks

/-- Events for the lost lane groups of the stack (Table 16-3). -/
def stackLinks (s : State) (env : BringupEnv) : State :=
  (s.lostLinks env).foldl (fun s g => s.laneLost g.1 g.2 (if g.1 = 1 then 0 else 1)) s

/-- A lost link stops bring-up: fixed routing cannot avoid it (Table 16-3). -/
def linksStop (s : State) (env : BringupEnv) : Bool := (s.lostLinks env).any (fun g => g.1 != 1)

/-- Sites that do not pass: the self-test, their vertical channel, or a cluster without power (R415, R486, R487). -/
def failsTest (s : State) (env : BringupEnv) (i : Nat) : Bool :=
  decide (i ∈ env.failedSites) || (s.lostLinks env).any (fun g => g.1 == 1 && g.2 == i) || (s.cluster (clusterOf i)).dark

/-- The self-test and the roles it gives; event 0x9006 for each site that fails (R487). -/
def testSites (s : State) (env : BringupEnv) : State :=
  let bad := (List.range sitesN).filter (s.failsTest env)
  let s := (s.retestSites (s.failsTest env)).regate
  bad.foldl (fun s i => s.recordFw 5 0x9006 none 0 (p4 i)) s

/-! ### Sensors and phases (R415, R446) -/

/-- Recalibration: SUSPECT clears on each sensor that is trimmed; an offset of more than 5 K marks it FAILED, with event
0x700A (R446). -/
def recalibrate (s : State) (env : BringupEnv) : State :=
  let far := env.badSensors.filter (fun p => decide (80 < p.2))
  let s := (s.thermal.sensors.map (·.1)).foldl (fun s k =>
    if far.any (fun p => p.1 == k) then s else s.setSensor k { s.sensor k with suspect := false, departs := 0 }) s
  far.foldl (fun s p =>
    if (s.sensor p.1).failed then s
    else (s.setSensor p.1 { s.sensor p.1 with failed := true }).recordFw 0 0x700A none 0 (p4 p.1 ++ p4 p.2)) s

/-- The outcome of the test of a cluster's phases (Table 13-3). -/
def testPhases (s : State) (env : BringupEnv) : State :=
  (List.range clustersN).foldl (fun s c =>
    let bad := (List.range 4).filter (fun k => decide (4 * c + k ∈ env.failedPhases))
    if bad.isEmpty then s
    else
      let ok := BitVec.ofNat 4 (15 - (bad.map (2 ^ ·)).foldl (· + ·) 0)
      if bad.length = 1 then
        (s.modCluster c (fun x => { x with phasesOk := ok, derated := true })).recordFw 0 0x6003 none 0 (p4 c ++ p4 (4 * c + bad.headD 0))
      else
        (s.modCluster c (fun x => { x with phasesOk := ok, dark := true })).recordFw 0 0x6004 none 0 (p4 c ++ p4 (s.clusterActive c).length)) s

/-! ### Images (R495, R496) -/

/-- An image slot of a kind: 0 management, 1 core runtime. -/
def slot (s : State) (kind n : Nat) : ImageSlot :=
  (if kind = 0 then s.fw.slotsMgmt else s.fw.slotsRun).get (ImageSlot.factory kind) n
def setSlot (s : State) (kind n : Nat) (v : ImageSlot) : State :=
  { s with fw :=
    if kind = 0 then { s.fw with slotsMgmt := s.fw.slotsMgmt.put (ImageSlot.factory 0) n v }
    else { s.fw with slotsRun := s.fw.slotsRun.put (ImageSlot.factory 1) n v } }
/-- VERSION and DIGEST of an image header (Table 16-7). -/
def imageVersion (b : List Byte) : Nat := fieldAt b 4 4
def imageDigest (b : List Byte) : List Byte := (b.drop 16).take 32
def minVersion (s : State) (kind : Nat) : Nat := if kind = 0 then s.fw.minMgmt else s.fw.minRun
def activeSlot (s : State) (kind : Nat) : Nat := if kind = 0 then s.fw.activeMgmt else s.fw.activeRun
def setActiveSlot (s : State) (kind n : Nat) : State :=
  { s with fw := if kind = 0 then { s.fw with activeMgmt := n } else { s.fw with activeRun := n } }

/-- A slot verifies: its image was good when staged, and its version has not fallen below the floor (R495). -/
def slotGood (s : State) (kind n : Nat) : Bool :=
  (s.slot kind n).ok && decide (s.minVersion kind ≤ imageVersion (s.slot kind n).image)

/-- The active slot of a kind is verified, else the other one is booted, with event 0x900E; none when both fail (R496). -/
def bootSlot (s : State) (kind : Nat) : Option State :=
  let a := s.activeSlot kind
  if s.slotGood kind a then some s
  else if s.slotGood kind (1 - a) then some ((s.setActiveSlot kind (1 - a)).recordFw 5 0x900E none 0 [])
  else none

/-- The active image of a kind is measured: MEAS0 for management, MEAS1 for the runtime (Table 17-1). -/
def measureSlot (s : State) (kind n : Nat) : State :=
  let b := (s.slot kind n).image
  s.extendDev kind (kind + 1) (imageVersion b) (imageDigest b)

/-- The glazed record without its history: variant, pending variant, changes left, QUALIFIED, owner key hash, re-keys. -/
def glazedRecord (s : State) : List Byte :=
  leBytes 4 s.fw.variant ++ leBytes 4 (s.fw.pendingVariant.getD 0xFFFFFFFF) ++ leBytes 1 s.fw.leftVariant ++
  leBytes 1 s.fw.leftIdentity ++ leBytes 1 s.fw.leftOwner ++ leBytes 1 s.fw.qualified ++ s.sec.ownerHash ++ leBytes 1 s.sec.rekeys

/-- Changes left, one byte per setting (Table 17-1). -/
def changesLeft (s : State) : Nat := s.fw.leftVariant + 256 * s.fw.leftIdentity + 65536 * s.fw.leftOwner

/-- The glazed record is loaded or has changed: MEAS2 (Table 17-1). -/
def measureGlazed (s : State) : State := s.extendDev 2 3 s.changesLeft (sm3 s.glazedRecord)

/-! ### Controllers (R498) -/

/-- Controllers that work. -/
def workingMcs (s : State) : List Nat := (List.range 8).filter (fun c => (s.mc c).working)
/-- Roles that a controller carries. -/
def rolesOf (s : State) (c : Nat) : List Nat := (List.range 6).filter (fun r => s.roleMc r == c)
/-- The working controllers that carry no role. -/
def standbys (s : State) : List Nat := s.workingMcs.filter (fun c => (s.rolesOf c).isEmpty)

/-- The working controller with the fewest roles among those given so far, lower number first. -/
def fewest (l : List Nat) (given : List Nat) : Nat :=
  l.foldl (fun a c => if (given.filter (· == c)).length < (given.filter (· == a)).length then c else a) (l.headD 0)

/-- Give the roles to the working controllers at a start, and let each of them run a management slot; with fewer than three
working, commands are admitted no longer and event 0x9008 is recorded. -/
def startControllers (s : State) : State :=
  let l := s.workingMcs
  let given := (List.range 6).foldl (fun (g : List Nat) _ => g ++ [fewest l g]) []
  let s := given.zipIdx.foldl (fun s p => s.setRoleMc p.2 p.1) s
  let s := (List.range 8).foldl (fun s c => s.setMc c { s.mc c with slot := s.fw.activeMgmt, tookUs := s.nowUs }) s
  if l.length < 3 then ({ s with fw := { s.fw with mgmtLost := true } }).recordFw 4 0x9008 none 0 [] else s

end State
end Sys2Proof.Machine
end

