-- ==== Sys2Proof/Machine/Bringup.lean ====
section
/-! DEFINITION. Bring-up: bisque start (R482 to R488) and refire (R489), each as one command that runs its steps in order. A
step that stops bring-up leaves READY at 0 with event 0x9003 (R483). -/
namespace Sys2Proof.Machine
open Sys2Proof

/-- What the firmware keeps across a bisque start, with the variant that waited in force and the new carve-out (R488, R494,
R503). -/
def Fw.atBisque (f : Fw) : Fw :=
  { Fw.shipped with
    variant := f.pendingVariant.getD f.variant, qualified := f.qualified, leftVariant := f.leftVariant
    leftIdentity := f.leftIdentity, leftOwner := f.leftOwner, history := f.history, hostCarveout := f.hostCarveout
    carveoutNow := f.hostCarveout, slotsMgmt := f.slotsMgmt, slotsRun := f.slotsRun, activeMgmt := f.activeMgmt
    activeRun := f.activeRun, refireMgmt := f.refireMgmt, refireFloor := f.refireFloor, minMgmt := f.minMgmt, minRun := f.minRun }

/-- The registers of MEAS0 to MEAS3 start at 32 zero bytes (R512). -/
def measZero : Tbl (List Byte) :=
  (List.range 4).foldl (fun t r => t.put Config.measAtReset r zeroDigest) []

/-- Identity and keys across a bisque start: the ledger keeps the identity and the owner, and the key store starts empty. -/
def Sec.atBisque (x : Sec) (env : BringupEnv) : Sec :=
  { Sec.shipped with
    identityOk := env.pufOk, rekeys := x.rekeys, certificate := x.certificate, ownerHash := x.ownerHash, owned := x.owned
    meas := measZero, dlog := [] }

/-- The cistern and reliability state across a bisque start: the ledger keeps the mirror, the granule states and the
channel retirements (R473, R488). BOOT_COUNT increments (R469). -/
def Rel.atBisque (r : Rel) (now : Nat) : Rel :=
  { Rel.bisque (r.bootCount + 1) with
    mirror := r.mirror, mirrorDrop := r.mirrorDrop, granState := r.granState, retireSet := r.retireSet
    retireNow := r.retireNow, leakUs := now }

/-- A sensor across a bisque start: its reading is measured, and its flags clear (R446). -/
def Sensor.cleared (x : Sensor) : Sensor := { x with suspect := false, failed := false, departs := 0 }

/-- The package when a cold bring-up begins: everything at its At bisque value but for what the ledger keeps (R488). READY
is 0. Every site is in reset. -/
def State.coldStart (s : State) (env : BringupEnv) : State :=
  let sensors := s.thermal.sensors.foldl (fun (t : Tbl Sensor) p => t.put (fun _ => Sensor.bisque) p.1 p.2.cleared) []
  let sites := (List.range sitesN).foldl (fun (t : Tbl Site) i => t.put Site.bisque i
    { Site.bisque i with role := (s.site i).role, lcol := (s.site i).lcol, inReset := true, epoch := 0 }) []
  { State.reset with
    pending := s.pending, nowUs := s.nowUs, free := s.free
    pkg := { Pkg.bisque with bondMoves := s.pkg.bondMoves }
    sites := sites
    host := { HostIf.bisque with ready := false, modules := [] }
    fab := { Fab.bisque with linkUp := s.fab.linkUp }
    power := { Power.bisque (s.fw.pendingVariant.getD s.fw.variant) with inputMv := env.inputMv, lastRecompute := s.nowUs }
    thermal := { Thermal.bisque with
      inlet := env.inlet, outlet := env.outlet, flow := env.flow, dp := env.dp, sensors := sensors, lastUpdateUs := s.nowUs
      wear := s.thermal.wearLedger, wearLedger := s.thermal.wearLedger }
    rel := s.rel.atBisque s.nowUs
    fw := s.fw.atBisque
    sec := s.sec.atBisque env }

namespace State

/-! ### Steps -/

/-- The identity is derived, or is not (R510, R511). -/
def deriveIdentity (s : State) (env : BringupEnv) : State :=
  if env.pufOk then s.recordFw 5 0xA001 none 0 (p4 s.sec.rekeys) else s.recordFw 5 0xA002 none 0 []

/-- Step 2: an image is chosen and verified, and the identity derived; the controllers that passed their test take the
roles. -/
def bootStep (s : State) (env : BringupEnv) (bad : List Nat) : Option State :=
  let s := bad.foldl (fun s c => s.setMc c { s.mc c with working := false }) s
  (s.bootSlot 0).map (fun s =>
    let s := s.startControllers
    (s.measureSlot 0 s.fw.activeMgmt).deriveIdentity env)

/-- Step 5 of Table 16-1: the straps are read. A reading with a fault names no position: POS_VALUE is then a free value. -/
def readStraps (s : State) (env : BringupEnv) : State :=
  let l := strapLevels env.strapOhms
  let bad := l.any (fun x => x == 3)
  let v := if bad then (Config.freeWord s.free).toNat % 729 else strapValue l
  let s := (if bad then s.draw else s)
  let s := { s with pkg := { s.pkg with strapLevels := l, bisqueLevels := l, posValue := v, posValid := strapsValid l } }
  if strapsValid l then s else s.recordFw 5 0x1001 none 0 []

/-- Highest donor run that is free for a channel retirement, with the carve-out at its top (R462, R486). -/
def freeDonor (s : State) : Option Nat :=
  ((List.range 512).reverse.map (· * 1024)).find? (fun b =>
    decide (b + 1024 ≤ firstCarveGranule s.fw.hostCarveout) &&
    (List.range 4).all (fun j => !(s.retireSet j).valid || decide (b + 1024 ≤ (s.retireSet j).donor ∨ (s.retireSet j).donor + 1024 ≤ b)))

/-- A channel that cannot be repaired takes the lowest free slot; none when no slot or run is free (Table 16-3). -/
def retireChannel (s : State) (n : Nat) : Option State :=
  if (List.range 4).any (fun j => (s.retireSet j).valid && (s.retireSet j).channel == n) then some s
  else
    match (List.range 4).find? (fun j => !(s.retireSet j).valid), s.freeDonor with
    | some j, some b =>
      let v : ChanRetire := { channel := n, valid := true, donor := b }
      some (({ s with rel := { s.rel with retireSet := s.rel.retireSet.put (fun _ => ChanRetire.none) j v } }).laneLost 3 n 2)
    | _, _ => none

/-- Step 8: channels and modules that fail their test (Table 16-3). -/
def memoryLinks (s : State) (env : BringupEnv) : Option State :=
  let r := env.failedChannels.foldl (fun (o : Option State) n => o.bind (fun s => s.retireChannel n)) (some s)
  r.map (fun s => env.failedModules.foldl (fun s m => (s.laneLost 4 m 3).record 0xB005 5 m none 0 (p4 m)) s)

/-- Step 9: the channel retirements apply, with event 0x8005 for each that is new; granules that left the carve-out while
RETIRE_PENDING are retired (R461, R462); and the host die is released. `old` is the carve-out before. -/
def applyRetirements (s : State) (env : BringupEnv) (old : Nat) : State :=
  let fresh := (List.range 4).filter (fun j => (s.retireSet j).valid && s.retireSet j != s.retireNow j)
  let s := { s with rel := { s.rel with retireNow := s.rel.retireSet } }
  let s := fresh.foldl (fun s j => s.recordFw 4 0x8005 none 0 (p4 (s.retireSet j).channel ++ p4 (s.retireSet j).donor)) s
  let gone := (s.rel.granState.filter (fun p => p.2 == 1 && decide (firstCarveGranule old ≤ p.1 ∧ p.1 < firstCarveGranule s.fw.carveoutNow))).map (·.1)
  let s := gone.foldl (fun s g => (s.setGranState g 2).recordFw 4 0x8004 none 0 (p4 g)) s
  { s with host := { s.host with modules := (List.range 16).filter (fun m => m ∉ env.failedModules) } }

/-- Ports at a bring-up: DISABLED when the position is not valid or differs, or the comb fails its test; DARK without laser
input, with event 0x5002; NO_KEY without a pond key; else ranged (R26, R27, R369, R375, R389, R486). -/
def startPort (s : State) (env : BringupEnv) (p : Nat) (off : Bool) : State :=
  let keep := (s.port p).counters
  let s := s.setPort p { Port.bisque .disabled with counters := keep }
  if off ∨ !s.pkg.posValid ∨ s.pkg.posMismatch then s
  else if p ∈ env.darkPorts then
    (s.modPort p (fun x => { x with state := .dark, faultCause := 3 })).portEvent p 0x5002 none 0 (p4 p ++ p4 (PortSt.code .dark) ++ p4 3)
  else s.rangeOrWait p (((env.echoNs.find? (fun e => e.1 == p)).map (·.2)).getD 0)

/-- Event 0x9004 for each port whose comb fails its test. -/
def portLinks (s : State) (env : BringupEnv) : State := env.failedPorts.foldl (fun s p => s.laneLost 5 p 4) s

/-- A site that does not come out of a bring-up's rewet: it has no good runtime image, or a unit reads back uncorrectable. It
stays in reset with ROLE 3 (R466, R493). -/
def startFailure (s : State) (env : BringupEnv) (i : Nat) : Option State :=
  if i ∈ env.badImageSites then
    some ((s.modSite i (fun x => { x with role := .failed, lcol := 63 })).recordFw 5 0x9006 (s.siteOwner i) 0 (p4 i))
  else
    match env.badRewet.find? (fun p => p.1 == i) with
    | some (_, a) =>
      let wasActive := (s.site i).role == .active
      let s := s.record 0x8011 1 i (s.siteOwner i) 0 (p4 i ++ p8 a)
      some (if s.rel.autoRetire ∧ wasActive then s.autoRetire i 2 .failed else s.modSite i (fun x => { x with role := .failed, lcol := 63 }))
    | none => none

/-- A site returns from the bring-up's rewet with epoch 1, or stays in reset (R63, R466, R493). -/
def startSite (s : State) (env : BringupEnv) (i : Nat) : State :=
  if !s.siteServes i then s
  else (s.startFailure env i).getD (s.modSite i (fun x => { x with inReset := false, epoch := x.epoch + 1 }))

def activeSites (s : State) : Nat := ((List.range sitesN).filter (fun i => decide ((s.site i).role = .active))).length

/-- Steps 10 to 14 of Table 16-1. -/
def bisqueEnd (s : State) (env : BringupEnv) : State :=
  let s := ((s.portLinks env).bondRepairs env).stackLinks env
  if s.linksStop env then s.stopBringup 10 3
  else
    let s := s.testSites env
    match s.bootSlot 1 with
    | none => s.stopBringup 13 1
    | some s =>
      let s := (s.measureSlot 1 s.fw.activeRun).measureGlazed
      let s := (List.range sitesN).foldl (fun s i => s.startSite env i) s
      let s := (List.range portsN).foldl (fun s p => s.startPort env p (decide (p ∈ env.failedPorts))) s
      let s := { s with host := { s.host with ready := true } }
      s.recordFw 5 0x9001 none 0 (p4 env.durationUs ++ p4 s.activeSites ++ p8 s.rel.bootCount)

/-- A whole bisque start (Table 16-1). -/
def bisque (s : State) (env : BringupEnv) : State :=
  let old := s.fw.carveoutNow
  let c := s.coldStart env
  match c.bootStep env env.failedControllers with
  | none => c.stopBringup 2 1
  | some c =>
    let c := ((c.readStraps env).recalibrate env).testPhases env
    match c.memoryLinks env with
    | none => c.stopBringup 8 2
    | some c => (c.applyRetirements env old).bisqueEnd env

/-! ### Refire (R489) -/

/-- A site at step 8 of refire, in reset since step 1: it returns from rewet unless it is retired, its cluster is off or its
rewet or image fails (R466, R493); an epoch that stays even has advanced by 2. `was` names the sites in reset before. -/
def refireSite (s : State) (env : BringupEnv) (was : List Nat) (i : Nat) : State :=
  let stay := fun s : State => if was.contains i then s.modSite i (fun x => { x with epoch := x.epoch + 2 }) else s
  if s.siteServes i && !(s.site i).gated && !(s.cluster (clusterOf i)).asleep && !(s.cluster (clusterOf i)).dark && !s.pkg.computeLost then
    match s.startFailure env i with
    | some s => stay s
    | none => s.returnSite i
  else stay s

/-- A sluice, a near-bank unit and a ring at refire (At refire columns of Tables 7-6, 8-8, 8-9 and 11-4). -/
def refireSluice (s : State) (n : Nat) : State :=
  let x := s.sluice n
  let e := if x.state = .inReset then x.epoch + 1 else x.epoch + 2
  (s.setSluice n { Sluice.bisque with
    saggar := x.saggar, valid := x.valid, ring := x.ring, state := if x.valid then .idle else .unbound, epoch := e
    seed := x.seed, doneCount := x.doneCount }).tellEpoch (sluiceUnit n) e
def refireNb (s : State) (n : Nat) : State :=
  let x := s.nb n
  let e := if x.state = .inReset then x.epoch + 1 else x.epoch + 2
  (s.setNb n { Nb.bisque with
    epoch := e, maxSteps := x.maxSteps, stepsRun := x.stepsRun, retry := x.retry, gapOver := x.gapOver, shares := x.shares }).tellEpoch
      (channelCode n) e
def refireRing (s : State) (n : Nat) : State :=
  let x := s.ring n
  let e := if x.inReset then x.epoch + 1 else x.epoch + 2
  (s.setRing n { Ring.unset with
    role := x.role, saggar := x.saggar, oper := x.oper, pair := x.pair, entries := x.entries, base := x.base, lost := x.lost
    epoch := e, vector := x.vector, coalCount := x.coalCount, coalUs := x.coalUs }).tellEpoch (ringUnit n) e

/-- Settings and meters of a saggar at refire; a remap change that waits still holds it. -/
def refireSaggar (s : State) (g : Nat) : State :=
  s.modSaggar g (fun x => { x with
    grantW := 0, fixedBroken := false, rotateDue := false, spread := 0
    quiescing := (s.remaps.filter (fun r => decide (g ∈ r.waitFor))).length })

/-- A cluster at refire (Table 13-10). -/
def refireCluster (s : State) (c : Nat) : State :=
  s.modCluster c (fun x => { Cluster.bisque with
    saggar := x.saggar, assigned := x.assigned, phasesOk := x.phasesOk, derated := x.derated, dark := x.dark, asleep := x.asleep })

/-- Step 1: commands in flight end with 0x0602, ports leave UP, and what was on its way is gone. -/
def refireStop (s : State) : State :=
  let s := s.stopCommands 0x0602
  let s := (s.ports.map (·.1)).foldl (fun s p =>
    if (s.port p).state = .disabled then s else s.portDown p .ranging 0) s
  { s with
    net := [], outq := [], rill := [], bcasts := [], kvs := [], cmds := [], compls := [], txns := [], commits := [], changed := []
    launches := [], filling := [], jobs := s.jobs.map (fun j => { j with closing := none })
    fab := { s.fab with gathers := [], relayBusy := [], sessions := [], dataOut := [] }
    rel := { s.rel with scrubs := [], pending := false }
    fw := { s.fw with resets := [], activation := none, rtActivation := none, draining := [], stopped := false
                      mgmtLost := false, bringup := none, activeMgmt := s.fw.refireMgmt.getD s.fw.activeMgmt, refireMgmt := none }
    host := { s.host with ready := false, modules := [], msixTable := [], msixPending := [], raised := [], lastRead := none } }

/-- Every unit enters reset, and every unit but the sites returns (R63, R489). -/
def refireUnits (s : State) : State :=
  let s := (List.range sitesN).foldl enterSite s
  let s := (List.range 1024).foldl refireSluice s
  let s := (List.range 512).foldl refireNb s
  let s := (List.range 16384).foldl refireRing s
  let s := (s.saggars.map (·.1)).foldl refireSaggar s
  (s.clusters.map (·.1)).foldl refireCluster s

/-- Registers of power and thermal control and telemetry at refire (Tables 13-7, 13-9, 14-6, 14-7). -/
def refireRegs (s : State) (env : BringupEnv) : State :=
  let p := s.power
  let t := s.thermal
  let domains := s.domains.foldl (fun (u : Tbl Domain) d =>
    u.put (fun _ => Domain.bisque) d.1 { Domain.bisque with window := d.2.window, energy := d.2.energy }) []
  { s with
    domains := domains
    power := { p with
      capEff := p.pkgCap, borrowed := [], lent := [], inputMv := env.inputMv, undervolt := false, capUnreachable := false
      lagSums := [], lastRecompute := s.nowUs }
    thermal := { t with
      inlet := env.inlet, outlet := env.outlet, flow := env.flow, dp := env.dp, heatW := 0, flowWant := 0, coolantOor := false
      flowLimited := false, kilnStale := false, heatMismatch := false, lastUpdateUs := s.nowUs, staleRaises := 0, points := []
      blocks := [], nbHalf := 0, nbHeld := 0 }
    pkg := { s.pkg with locked := true, refPresent := true, holdover := false }
    sec := { s.sec with identityOk := env.pufOk, meas := measZero, dlog := [], dlogOver := false } }

/-- The straps at refire: a reading that differs from bisque's sets POS_MISMATCH, with event 0x1002 (R27). -/
def rereadStraps (s : State) (env : BringupEnv) : State :=
  let l := strapLevels env.strapOhms
  let s := { s with pkg := { s.pkg with strapLevels := l } }
  if l = s.pkg.bisqueLevels then s
  else ({ s with pkg := { s.pkg with posMismatch := true } }).recordFw 5 0x1002 none 0 []

/-- Slot whose runtime a saggar runs (R500). -/
def saggarSlot (s : State) (g : Nat) : Nat := (s.saggar g).runtimeSlot.getD s.fw.activeRun

/-- Step 8: the runtime of each active saggar is broadcast, and the saggar told of the refire (Table 17-1). -/
def refireSmeas (s : State) (g : Nat) : State :=
  let s := s.extendSag g 0x0016 (s.rel.bootCount % 2 ^ 32) zeroDigest
  let b := (s.slot 1 (s.saggarSlot g)).image
  s.extendSag g 0x0012 (imageVersion b) (imageDigest b)

/-- A whole refire (Table 16-4). `off` names the ports that were disabled before, `was` the sites in reset before. -/
def refireAll (s : State) (env : BringupEnv) : State :=
  let off := (List.range portsN).filter (fun p => (s.port p).state == .disabled)
  let was := (List.range sitesN).filter (fun i => (s.site i).inReset)
  let s := s.refireStop.refireUnits.refireRegs env
  let wanted := s.fw.activeMgmt
  match s.bootStep env [] with
  | none => s.stopBringup 2 1
  | some s =>
    let s := if s.fw.refireFloor ∧ s.fw.activeMgmt = wanted then
        { s with fw := { s.fw with minMgmt := max s.fw.minMgmt (imageVersion (s.slot 0 wanted).image) } } else s
    let s := { s with fw := { s.fw with refireFloor := false } }
    let s := (s.rereadStraps env).recalibrate env
    match s.bootSlot 1 with
    | none => s.stopBringup 8 1
    | some s =>
      let s := { s with host := { s.host with modules := (List.range 16).filter (fun m => m ∉ env.failedModules) } }
      let s := (List.range portsN).foldl (fun s p => s.startPort env p (decide (p ∈ off))) s
      let s := (s.measureSlot 1 s.fw.activeRun).measureGlazed
      let s := s.activeSaggars.foldl refireSmeas s
      let s := (List.range sitesN).foldl (fun s i => s.refireSite env was i) s
      let s := { s with host := { s.host with ready := true } }
      s.recordFw 5 0x9002 none 0 (p4 env.durationUs)

/-- A bisque start may begin: after the input has returned to a package that powered down (R408, R444, R529), when the
reference has returned to one held in reset (R36), or for RST_PACKAGE with BISQUE (R491). -/
def bisqueDue (s : State) (env : BringupEnv) : Bool :=
  (s.pkg.poweredDown && s.pkg.inputOn && !s.pkg.seqStopped && decide (40000 ≤ env.inputMv)) || (s.pkg.heldInReset && s.pkg.refPresent) || s.fw.bringup == some true

end State

/-- BISQUE_START: a full cold bring-up runs the steps of Table 16-1 (R482). -/
def execBisqueStart (env : BringupEnv) (s : State) : Out :=
  if s.bisqueDue env then .next (s.bisque env) else .next s

/-- REFIRE: the warm restart that follows RST_PACKAGE runs the steps of Table 16-4 (R489). -/
def execRefire (env : BringupEnv) (s : State) : Out :=
  if s.fw.bringup = some false ∧ s.up then .next (s.refireAll env) else .next s

end Sys2Proof.Machine
end

