-- ==== Sys2Proof/Machine/Launch.lean ====
section
/-! DEFINITION. Kernel launches (R360 to R364, R191, R414) and the broadcast of their images (R69, R493). -/
namespace Sys2Proof.Machine
open Sys2Proof

/-- The launch descriptor (Table 11-12). -/
structure LDesc where
  src : Nat
  bytes : Nat
  image : Nat
  load : Nat
  entry : Nat
  arg : Nat
  argBytes : Nat
  count : Nat
  list : Nat
  args : Nat
  exit : Nat
deriving DecidableEq, Repr

def LDesc.of (b : List Byte) : LDesc :=
  let f := fieldAt b
  { src := f 0 1 % 2, bytes := f 4 4, image := f 8 8 % 2 ^ 52, load := f 16 4, entry := f 20 4, arg := f 24 4,
    argBytes := f 28 2, count := f 30 2, list := f 32 8 % 2 ^ 52, args := f 40 8 % 2 ^ 52, exit := f 48 8 % 2 ^ 52 }

/-- A core store range lies in the kernel area (Table 6-1, R361). -/
def inKernelArea (a n : Nat) : Bool := decide (0x10000 ≤ a ∧ a + n ≤ 0x64000)

/-- The checks of a descriptor that need nothing else (R10, R360, R361). -/
def LDesc.form (d : LDesc) : List Nat :=
  [check (d.bytes = 0) 0x0102, check (decide (344064 < d.bytes)) 0x0101, check (d.count = 0) 0x0102,
    check (decide (4416 < d.count)) 0x0101, check (decide (4096 < d.argBytes)) 0x0101, check (d.load % 8 ≠ 0) 0x0103,
    check (d.entry % 2 ≠ 0) 0x0103, check (d.exit % 16 ≠ 0) 0x0103,
    check (decide (d.entry < d.load ∨ d.load + d.bytes ≤ d.entry)) 0x0101, check (!inKernelArea d.load d.bytes) 0x0101,
    check (d.argBytes != 0 && !inKernelArea d.arg d.argBytes) 0x0101,
    check (d.argBytes != 0 && decide (d.arg < d.load + d.bytes ∧ d.load < d.arg + d.argBytes)) 0x0171,
    check (d.src = 1 && decide (0x400000 < d.image + d.bytes)) 0x0101]

/-- Logical cores from a list of 2-byte numbers. -/
def coreList : Nat → List Byte → List Nat
  | 0, _ => []
  | n + 1, b => fieldAt b 0 2 :: coreList n (b.drop 2)

namespace State

/-- The ranges of a descriptor are the saggar's to read or write (R361). -/
def rangeChecks (s : State) (sag : Nat) (d : LDesc) : List Nat :=
  let no := fun (write : Bool) (a n : Nat) => check (n != 0 && s.reach (s.engineAuth sag) write a n != 0) 0x0220
  [if d.src = 0 then no false d.image d.bytes else 0, no false d.args d.argBytes, no false d.list (2 * d.count),
    no true d.exit (16 * d.count)]

/-- The checks of the listed cores: absent, of another saggar, listed twice (R361). -/
def coreChecks (s : State) (sag : Nat) (l : List Nat) : List Nat :=
  [check (l.any (fun c => decide (4416 ≤ c) || (match s.siteOfCore c with
      | some i => s.siteOwner i != some sag
      | none => false))) 0x0220,
    check (l.any (fun c => decide (c < 4416) && (s.siteOfCore c).isNone)) 0x0354,
    check (decide (l.eraseDups.length < l.length)) 0x0108]

/-- A KLAUNCH at acceptance: the state after reading the descriptor and its list, the status, the descriptor and the
cores. -/
def launchRead (s : State) (c : Cmd) : State × Nat × List Byte × List Nat :=
  let a := c.addr 0
  let word := s.statusAddrCheck c.saggar (c.addr 8) true
  let first := lowest [check (a % 64 ≠ 0) 0x0103, check (s.reach (s.engineAuth c.saggar) false a 64 ≠ 0) 0x0220, word]
  if first ≠ 0 then (s, first, [], [])
  else
    let b := s.load 7 0xFFFF a 64
    if b.2.1.isSome then (b.1, 0x0520, [], [])
    else
      let d := LDesc.of b.2.2
      let ranges := b.1.rangeChecks c.saggar d
      let listOk := decide (1 ≤ d.count ∧ d.count ≤ 4416) && ranges.getD 2 0 == 0
      let r := if listOk then b.1.load 7 0xFFFF d.list (2 * d.count) else (b.1, none, [])
      if r.2.1.isSome then (r.1, 0x0520, [], [])
      else
        let cores := if listOk then coreList d.count r.2.2 else []
        let asleep := cores.any (fun k => match r.1.siteOfCore k with
          | some i => (r.1.cluster (clusterOf i)).asleep
          | none => false)
        (r.1, staged [d.form ++ ranges ++ r.1.coreChecks c.saggar cores, [check asleep 0x03C0]], b.2.2, cores)

/-- A core runs no kernel and is kept for none. -/
def coreIdle (s : State) (i : Nat) : Bool := (s.core i).run == .idle && (s.core i).launch.isNone

/-- Sites that a launch's cores hold now. -/
def launchSites (s : State) (l : Launch) : List Nat := l.ranks.filterMap (fun r => s.siteOfCore r.core)

/-- A launch has taken its cores. -/
def launchKept (s : State) (l : Launch) : Bool :=
  l.started || (s.launchSites l).any (fun i => ((s.core i).launch.map (·.1)) == some l.cmd)

/-- A core runtime activation holds the new launches of the saggar whose turn it is (R500). -/
def launchHeld (s : State) (l : Launch) : Bool :=
  s.fw.rtActivation.any (fun r => r.left.head? == some l.saggar) && !s.launchKept l

/-- A launch may start: every listed core is idle, or kept for this launch, and no earlier launch of the saggar that shares
a core still waits (R362). A saggar at a quiescence point starts nothing. -/
def launchEligible (s : State) (l : Launch) : Bool :=
  !l.started && (s.saggar l.saggar).quiescing == 0 && !s.launchHeld l &&
  (s.launchSites l).all (fun i => s.coreIdle i || ((s.core i).run == .idle && ((s.core i).launch.map (·.1)) == some l.cmd)) &&
  !((s.launches.takeWhile (fun x => x.cmd != l.cmd)).any (fun x =>
    x.saggar == l.saggar && x.ranks.any (fun r => l.ranks.any (fun q => q.core == r.core))))

/-- Keep the listed cores for a launch: each rank takes the site that holds its core now. A rank whose core is absent or in
reset does not start (R362). -/
def reserve (s : State) (l : Launch) : State :=
  l.ranks.zipIdx.foldl (fun s p =>
    match s.siteOfCore p.1.core with
    | some i =>
      if (s.site i).inReset then s.endRank l.cmd p.2 4 0 0
      else
        let s := s.modCore i (fun c => { c with launch := some (l.cmd, p.2) })
        match s.launch? l.cmd with
        | some x => s.setLaunch { x with ranks := x.ranks.modify p.2 (fun r => { r with site := i }) }
        | none => s
    | none => s.endRank l.cmd p.2 4 0 0) s

/-- A source that reads uncorrectable ends the launch: no rank starts, and the status is 0x0520 (R493). -/
def launchFails (s : State) (l : Launch) : State :=
  let ranks := l.ranks.map (fun r => if r.ended then r else { r with ended := true, outcome := 4 })
  let s := ranks.zipIdx.foldl (fun s p =>
    let a := fieldAt l.desc 48 8 % 2 ^ 52 + 16 * p.2
    let s := if s.reach (s.engineAuth l.saggar) true a 16 ≠ 0 then s else (s.writeMem 12 0xFFFF a (exitRecord p.1)).1
    s.modCore p.1.site (fun c => if c.launch = some (l.cmd, p.2) then { c with launch := none } else c)) s
  let s := { s with
    launches := s.launches.filter (fun x => x.cmd != l.cmd)
    bcasts := s.bcasts.filter (fun b => b.launch != l.cmd) }
  l.aborts.foldl (fun s a => s.finish a.1 0 (Result.w0 a.2)) (s.finishWord l.cmd l.statusAddr 0x0520 (launchResult ranks).2)

/-- What a kernel finds at entry (R191, Table 6-20). -/
def kernelEntry (c : Core) (d : LDesc) (id rank ranks job : Nat) : Core :=
  let c := { c with
    run := .running, suspended := false, user := true, pc := BitVec.ofNat 32 d.entry, x := [], ktvec := 0, kepc := 0
    kcause := 0, kshort := false, kactive := false, ktval := 0, ktval2 := 0, remFirst := 0, remCount := 0, job := job
    launch := some (id, rank), posted := [] }
  (((c.setX 2 0x64000).setX 10 d.arg).setX 11 rank).setX 12 ranks

/-- Rank `k` starts on its site: the argument block is placed, with an image that already lies in column memory, and the
core begins (R191, R362). A rank whose core has moved or is in reset does not start. -/
def startRank (s : State) (l : Launch) (d : LDesc) (args : List Byte) (k : Nat) (r : Rank) : State :=
  if r.ended then s
  else if s.siteOfCore r.core ≠ some r.site ∨ (s.site r.site).inReset then s.endRank l.cmd k 4 0 0
  else
    let i := r.site
    let img := if d.src = 1 then s.load 0 0xFFFF (columnAddr i d.image) d.bytes else (s, none, [])
    if img.2.1.isSome then img.1.endRank l.cmd k 4 0 0
    else
      let s := (img.1.store 0 0xFFFF (storeAddr i d.load) img.2.2).1
      let s := (s.store 0 0xFFFF (storeAddr i d.arg) args).1
      let s := { s with stale := s.stale.filter (fun p => !decide (storeAddr i 0 ≤ p.1 ∧ p.1 < storeAddr (i + 1) 0)) }
      s.modCore i (fun c => kernelEntry c d l.cmd k l.ranks.length l.job)

end State

/-- KLAUNCH, opcode 0x100 (R360, R361): checks the descriptor and queues the launch. -/
def execKlaunch (id : Nat) (s : State) : Out :=
  match s.ready id 0x100 with
  | none => .next s
  | some c =>
    let r := s.launchRead c
    if r.2.1 ≠ 0 then .next (r.1.refuse id r.2.1)
    else
      let d := LDesc.of r.2.2.1
      let ranks := r.2.2.2.map (fun k =>
        Rank.mk k ((r.1.siteOfCore k).getD 0) false 4 0 0)
      let l : Launch :=
        { cmd := id, saggar := c.saggar, job := c.job, statusAddr := wordOrNone (c.addr 8), desc := r.2.2.1, started := false,
          imageReady := d.src == 1, ranks := ranks, aborts := [] }
      let s := (r.1.setPhase id .queued).statusWord id l.statusAddr 1 0 Result.zero
      let b : Bcast := { launch := id, image := [], loadAt := d.load, missing := [], tries := 0 }
      .next { s with launches := s.launches ++ [l], bcasts := if d.src = 1 then s.bcasts else s.bcasts ++ [b] }

/-- IMAGE_BROADCAST: once its launch may start, the hub sends image `k` to every listed core's site, and again to those that
lack it; `good` names the sites whose copy has the right digest. After the first pass and three resends, a site without a good
image has missed it: its rank does not start (R69, R362, R493). -/
def execImageBroadcast (k : Nat) (good : List Nat) (s : State) : Out :=
  match s.bcasts[k]? with
  | none => .next s
  | some b =>
    match s.launch? b.launch with
    | none => .next { s with bcasts := dropAt s.bcasts k }
    | some l =>
      if s.launchEligible l = false then .next s
      else
        let d := LDesc.of l.desc
        let ok := s.reach (s.engineAuth l.saggar) false d.image d.bytes = 0
        let r := if b.tries = 0 ∧ ok then s.load 7 0xFFFF d.image d.bytes else (s, none, b.image)
        if r.2.1.isSome ∨ (b.tries = 0 ∧ ¬ ok) then .next (r.1.launchFails l)
        else
          let s := if b.tries = 0 then r.1.reserve l else r.1
          let missing := if b.tries = 0 then s.launchSites l else b.missing
          let now := missing.filter (fun i => good.contains i && !(s.site i).inReset)
          let s := now.foldl (fun s i => (s.store 0 0xFFFF (storeAddr i b.loadAt) r.2.2).1) s
          let b := { b with image := r.2.2, missing := missing.filter (fun i => !now.contains i), tries := b.tries + 1 }
          if b.missing.isEmpty ∨ 4 ≤ b.tries then
            let s := { s with bcasts := dropAt s.bcasts k }
            match s.launch? l.cmd with
            | none => .next s
            | some l =>
              let s := s.setLaunch { l with imageReady := true }
              .next (l.ranks.zipIdx.foldl (fun s p => if b.missing.contains p.1.site then s.endRank l.cmd p.2 4 0 0 else s) s)
          else .next { s with bcasts := s.bcasts.set k b }

/-- LAUNCH_START: every listed core is idle and has its image; the runtime copies the argument block and starts each core
(R362). -/
def execLaunchStart (id : Nat) (s : State) : Out :=
  match s.launch? id with
  | none => .next s
  | some l =>
    if l.imageReady = false ∨ s.launchEligible l = false then .next s
    else
      let d := LDesc.of l.desc
      let ok := d.argBytes = 0 ∨ s.reach (s.engineAuth l.saggar) false d.args d.argBytes = 0
      let r := if ok ∧ d.argBytes ≠ 0 then s.load 7 0xFFFF d.args d.argBytes else (s, none, [])
      if ¬ ok ∨ r.2.1.isSome then .next (r.1.launchFails l)
      else
        let s := (r.1.setPhase id .running).statusWord id l.statusAddr 2 0 Result.zero
        let s := s.setLaunch { l with started := true }
        let s := if d.src = 1 then s.reserve { l with started := true } else s
        match s.launch? id with
        | none => .next s
        | some l => .next (l.ranks.zipIdx.foldl (fun s p => s.startRank l d r.2.2 p.2 p.1) s)

namespace State

/-- Stop rank `k` of a running launch (R364): its core stops after its current instruction, and OUTCOME 3 is recorded once its
posted stores and exports are answered. -/
def stopRank (s : State) (l : Launch) (k : Nat) (r : Rank) : State :=
  match (s.core r.site).run with
  | .trapped _ _ => s
  | .stopping => s
  | .idle => s.endRank l.cmd k 3 0 0
  | _ => (s.modCore r.site (fun c => { c with run := .stopping })).stopDone r.site

/-- The launch that a KABORT names by the ring and the tag of its KLAUNCH (R364). -/
def abortTarget (s : State) (ring tag : Nat) : Option Launch :=
  s.launches.find? (fun l => match s.cmd? l.cmd with
    | some k => k.origin == .ring ring && k.tag == tag
    | none => false)

end State

/-- KABORT, opcode 0x101 (R364): ends a queued launch, or stops every core of a running one. Word 0 holds the cores
stopped. -/
def execKabort (id : Nat) (s : State) : Out :=
  match s.ready id 0x101 with
  | none => .next s
  | some c =>
    let n := c.p 2 2 % ringsN
    if (s.ring n).saggar ≠ c.saggar then .next (s.refuse id 0x0220)
    else
      match s.abortTarget n (c.p 0 2) with
      | none => .next (s.refuse id 0x0142)
      | some l =>
        let open_ := l.ranks.zipIdx.filter (fun p => !p.1.ended)
        let count := if l.started then open_.length else 0
        let l := { l with aborts := l.aborts ++ [(id, count)] }
        let s := (s.setPhase id .running).setLaunch l
        let s := { s with bcasts := s.bcasts.filter (fun b => b.launch != l.cmd) }
        .next (open_.foldl (fun s p => if l.started then s.stopRank l p.2 p.1 else s.endRank l.cmd p.2 3 0 0) s)

end Sys2Proof.Machine
end

