-- ==== Sys2Proof/Machine/Firmware.lean ====
section
/-! DEFINITION. Firmware: staging and activating images (R495, R497, R499, R500), the controllers that fail (R498), and the
twinned pair's drain and rejoin (R506). -/
namespace Sys2Proof.Machine
open Sys2Proof

/-- Bytes of an image slot of a kind (Table 16-6). -/
def slotBytes (kind : Nat) : Nat := if kind = 0 then 4194304 else 65536
/-- Largest payload of a kind (Table 16-7). -/
def payloadMax (kind : Nat) : Nat := if kind = 0 then 4194048 else 65280

namespace State

/-! ### Staging (R495, R497) -/

/-- The verifier of R495: 0, 0x01F0 or 0x01F1. Key 0 is the image key. -/
def verifyImage (s : State) (kind : Nat) (b : List Byte) : Nat :=
  let n := fieldAt b 12 4
  if fieldAt b 0 1 ≠ kind ∨ n = 0 ∨ payloadMax kind < n ∨ b.length < 256 + n then 0x01F0
  else if sm3 ((b.drop 256).take n) ≠ imageDigest b then 0x01F0
  else if !Config.sm2Verifies 0 (b.take 48) ((b.drop 48).take 64) then 0x01F0
  else if imageVersion b < s.minVersion kind then 0x01F1
  else 0

/-- The slot of a kind that no activation and no saggar uses (R497). -/
def freeSlotOf (s : State) (kind : Nat) : Option Nat :=
  let n := 1 - s.activeSlot kind
  if kind = 0 then (if s.fw.refireMgmt = some n then none else some n)
  else if s.saggars.any (fun p => p.2.active && p.2.runtimeSlot == some n) then none
  else some n

/-- An activation of either kind runs. -/
def activating (s : State) : Bool := s.fw.activation.isSome || s.fw.rtActivation.isSome

/-- The checks of FW_STAGE (R497, R10). -/
def stageCheck (s : State) (c : Cmd) : Nat :=
  let kind := c.p 0 1
  let n := c.p 16 4
  lowest [check (1 < kind) 0x0101, check (n = 0) 0x0102, check (slotBytes kind < n) 0x0101,
    if n = 0 then 0 else s.reach (s.engineAuth c.saggar) false (c.addr 8) n,
    check (s.activating || (s.freeSlotOf kind).isNone) 0x06F0]

/-! ### Activation (R499, R500) -/

def imageFormat (b : List Byte) : Nat := fieldAt b 8 2

/-- Saggars that FW_ACTIVATE of kind 1 names. -/
def activateTargets (s : State) (c : Cmd) : List Nat :=
  if bitAt (c.p 1 1) 6 then (List.range 64).filter (fun g => (s.saggar g).active) else [c.p 1 1 % 64]

/-- The checks of FW_ACTIVATE (R499, R500). -/
def activateCheck (s : State) (c : Cmd) : Nat :=
  let kind := c.p 0 1
  let n := 1 - s.activeSlot kind
  let live := kind == 0 && !bitAt (c.p 2 1) 1
  let b := (s.slot kind n).image
  lowest [check (1 < kind) 0x0101, check (!(s.slot kind n).ok) 0x01F0,
    check ((s.slot kind n).ok && decide (imageVersion b < s.minVersion kind)) 0x01F1,
    check (live && (s.slot 0 n).ok && imageFormat b != imageFormat (s.slot 0 (s.activeSlot 0)).image) 0x01F2,
    check (kind == 1 && !(s.activateTargets c).all (fun g => (s.saggar g).active)) 0x0203,
    check (live && s.standbys.isEmpty) 0x03F2, check s.activating 0x06F0]

/-- Raise MIN_VERSION of a kind to a version. -/
def raiseFloor (s : State) (kind v : Nat) : State :=
  { s with fw := if kind = 0 then { s.fw with minMgmt := max s.fw.minMgmt v } else { s.fw with minRun := max s.fw.minRun v } }

/-- An image was staged or activated: event 0x900A. -/
def imageEvent (s : State) (kind n : Nat) : State :=
  s.recordFw 5 0x900A none 0 (p4 kind ++ p4 (imageVersion (s.slot kind n).image) ++ p4 n)

/-- A kind 1 activation ends: the runtime is measured, with ALL its slot becomes the active one, and FLOOR rises. -/
def endRuntime (s : State) (r : RtActivation) : State :=
  let s := { s with fw := { s.fw with rtActivation := none } }
  let s := if r.all then s.setActiveSlot 1 r.slot else s
  let s := if r.floor then s.raiseFloor 1 (imageVersion (s.slot 1 r.slot).image) else s
  ((s.measureSlot 1 r.slot).imageEvent 1 r.slot).finish r.cmd 0 (Result.w0 r.sites)

/-- Launches of a saggar that have taken their cores. -/
def saggarRuns (s : State) (g : Nat) : Bool := s.launches.any (fun l => l.saggar == g && s.launchKept l)

/-- The runtime is broadcast to a quiescent saggar's sites: `bad` names sites that got no good image (R493, R500). -/
def broadcastRuntime (s : State) (r : RtActivation) (g : Nat) (bad : List Nat) : State :=
  let live := (s.saggarSites g).filter (fun i => !(s.site i).inReset)
  let lost := live.filter (fun i => bad.contains i)
  let s := lost.foldl (fun s i =>
    (((s.enterSite i).modSite i (fun x => { x with role := .failed, lcol := 63 })).siteReturned i).recordFw 5 0x9006 (some g) 0 (p4 i)) s
  let s := s.modSaggar g (fun x => { x with runtimeSlot := some r.slot })
  let b := (s.slot 1 r.slot).image
  let s := (s.extendSag g 0x0012 (imageVersion b) (imageDigest b)).releaseSaggars [g]
  let r := { r with left := r.left.tail, sites := r.sites + (live.length - lost.length), sinceUs := s.nowUs, started := false }
  let s := { s with fw := { s.fw with rtActivation := some r } }
  if r.left.isEmpty then s.endRuntime r else s

/-! ### Controllers that fail (R498, R499) -/

/-- Who takes over a failed controller's role: the lowest standby, else the working controller with the fewest roles. -/
def successor (s : State) : Nat :=
  match s.standbys with
  | c :: _ => c
  | [] => fewest s.workingMcs ((List.range 6).map s.roleMc)

/-- A role moves to its successor, with event 0x9007 from the new controller (R469, R498). -/
def takeOver (s : State) (old role : Nat) : State :=
  let c := s.successor
  (s.setRoleMc role c).record 0x9007 0 c none 0 (p4 old ++ p4 c ++ p4 role)

/-- A live activation is rolled back: every controller reloads the fallback slot (R499). -/
def rollBack (s : State) (a : Activation) : State :=
  let s := (List.range 8).foldl (fun s c => s.setMc c { s.mc c with slot := s.fw.activeMgmt }) s
  ({ s with fw := { s.fw with activation := none } }.finish a.cmd 0x05F1 Result.zero).recordFw 5 0x9009 none 0 []

/-- The live activation that a failing controller stops: it runs the new image and took a role less than 1 s ago. -/
def stops (s : State) (c : Nat) : Option Activation :=
  match s.fw.activation with
  | some a => if (s.mc c).slot = a.slot ∧ a.moved.any (fun r => s.roleMc r == c) ∧ s.nowUs < (s.mc c).tookUs + 1000000 then some a else none
  | none => none

end State

/-- FW_STAGE, opcode 0x920: the image is written into the free slot of its kind and verified; a failed image leaves the slot
empty (R497). -/
def execFwStage (id : Nat) (s : State) : Out :=
  match s.ready id 0x920 with
  | none => .next s
  | some c =>
    let kind := c.p 0 1
    let st := s.stageCheck c
    if st ≠ 0 then .next (s.refuse id st)
    else
      let n := (s.freeSlotOf kind).getD 0
      let r := s.load 7 0xFFFF (c.addr 8) (c.p 16 4)
      if r.2.1.isSome then .next ((r.1.setSlot kind n ImageSlot.empty).finish id 0x0520 Result.zero)
      else
        let v := r.1.verifyImage kind r.2.2
        if v ≠ 0 then .next ((r.1.setSlot kind n ImageSlot.empty).finish id v Result.zero)
        else
          .next (((r.1.setSlot kind n { image := r.2.2, ok := true }).imageEvent kind n).finish id 0
            (Result.w01 (State.imageVersion r.2.2) n))

/-- FW_ACTIVATE, opcode 0x921: a management image at the next refire or live, or a core runtime saggar by saggar (R499,
R500). -/
def execFwActivate (id : Nat) (s : State) : Out :=
  match s.ready id 0x921 with
  | none => .next s
  | some c =>
    let st := s.activateCheck c
    if st ≠ 0 then .next (s.refuse id st)
    else
      let floor := bitAt (c.p 2 1) 0
      let n := 1 - s.activeSlot (c.p 0 1)
      if c.p 0 1 = 1 then
        let all := bitAt (c.p 1 1) 6
        let r : RtActivation :=
          { cmd := id, slot := n, floor := floor, all := all, left := s.activateTargets c, sites := 0, sinceUs := s.nowUs, started := false }
        let s := s.setPhase id .running
        .next (if r.left.isEmpty then s.endRuntime r else { s with fw := { s.fw with rtActivation := some r } })
      else if bitAt (c.p 2 1) 1 then
        .next ({ s with fw := { s.fw with refireMgmt := some n, refireFloor := floor } }.finish id 0 Result.zero)
      else
        let a : Activation := { cmd := id, slot := n, floor := floor, moved := [], lastUs := s.nowUs }
        .next { s.setPhase id .running with fw := { s.fw with activation := some a } }

/-- FW_ROLE_HANDOVER: a standby that runs the new image takes a role at the role's next checkpoint; the controller that it
relieves stands by (R499). -/
def execFwRoleHandover (role controller : Nat) (s : State) : Out :=
  match s.fw.activation with
  | none => .next s
  | some a =>
    if 6 ≤ role ∨ role ∈ a.moved ∨ controller ∉ s.standbys then .next s
    else
      let s := (s.setRoleMc role controller).setMc controller { s.mc controller with slot := a.slot, tookUs := s.nowUs }
      .next { s with fw := { s.fw with activation := some { a with moved := a.moved ++ [role], lastUs := s.nowUs } } }

/-- FW_ACTIVATION_CONFIRM: the last controller to take a role has held it for 1 s: the slot becomes active, and FW_ACTIVATE
completes (R499). -/
def execFwActivationConfirm (s : State) : Out :=
  match s.fw.activation with
  | none => .next s
  | some a =>
    if (List.range 6).any (fun r => r ∉ a.moved) ∨ s.nowUs < a.lastUs + 1000000 then .next s
    else
      let s := { s with fw := { s.fw with activation := none, activeMgmt := a.slot } }
      let s := (List.range 8).foldl (fun s c => s.setMc c { s.mc c with slot := a.slot }) s
      let s := if a.floor then s.raiseFloor 0 (State.imageVersion (s.slot 0 a.slot).image) else s
      .next (((s.measureSlot 0 a.slot).imageEvent 0 a.slot).finish a.cmd 0 Result.zero)

/-- RUNTIME_ACTIVATION_START: no launch of the saggar whose turn it is runs: it is brought to quiescence, and at the next such
command that finds it quiescent the runtime is broadcast to its sites (R500). -/
def execRuntimeActivationStart (id : Nat) (bad : List Nat) (s : State) : Out :=
  match s.fw.rtActivation with
  | none => .next s
  | some r =>
    match r.left with
    | [] => .next s
    | g :: _ =>
      if r.cmd ≠ id then .next s
      else if r.started = false then
        if s.saggarRuns g then .next s
        else
          let s := s.holdSaggars [g]
          .next { s with fw := { s.fw with rtActivation := some { r with started := true, sinceUs := s.nowUs } } }
      else if s.quiescent g then .next (s.broadcastRuntime r g bad)
      else .next s

/-- RUNTIME_ACTIVATION_TIMEOUT: after 10 s a launch of the saggar still runs: it is left unchanged and the command completes with
0x06F1 (R500); a saggar that does not reach quiescence in 10 s ends it with 0x0402 and event 0xB004 (R351). -/
def execRuntimeActivationTimeout (id : Nat) (s : State) : Out :=
  match s.fw.rtActivation with
  | none => .next s
  | some r =>
    match r.left with
    | [] => .next s
    | g :: _ =>
      if r.cmd ≠ id ∨ s.nowUs < r.sinceUs + 10000000 then .next s
      else if r.started then
        if s.quiescent g then .next s
        else
          let s := ({ s with fw := { s.fw with rtActivation := none } }.releaseSaggars [g]).recordFw 1 0xB004 (some g) 0 (p4 g)
          .next (s.finish id 0x0402 (Result.w0 r.sites))
      else if s.saggarRuns g then
        .next ({ s with fw := { s.fw with rtActivation := none } }.finish id 0x06F1 (Result.w0 r.sites))
      else .next s

/-- CONTROLLER_HEARTBEAT_MISS: a role misses 3 heartbeats: its controller is offline, its roles move, and a live activation on
it rolls back; with fewer than three controllers working, commands in flight end with 0x05F0 (R498, R499). -/
def execControllerHeartbeatMiss (role : Nat) (s : State) : Out :=
  let c := s.roleMc role
  if 6 ≤ role ∨ (s.mc c).working = false then .next s
  else
    let hit := s.stops c
    let s := s.setMc c { s.mc c with working := false }
    let s := if s.workingMcs.isEmpty then s else (s.rolesOf c).foldl (fun s r => s.takeOver c r) s
    let s := match hit with
      | some a => s.rollBack a
      | none => s
    if 3 ≤ s.workingMcs.length ∨ s.fw.mgmtLost then .next s
    else
      let s := { s.endAll 0x05F0 with fw := { s.fw with mgmtLost := true, activation := none, rtActivation := none } }
      .next (s.recordFw 4 0x9008 none 0 [])

/-! ### The twinned pair (R506) -/

namespace State

/-- Commands in flight from the tenant rings of active saggars. -/
def drainCount (s : State) : Nat := (s.cmds.filter (fun c => !c.oper && (s.saggar c.saggar).active)).length

/-- No active saggar has a pour queued or running. -/
def poursDone (s : State) : Bool :=
  s.ports.all (fun p => (p.2.current.toList ++ p.2.awaiting ++ p.2.queue).all (fun x => x.relay.isSome || !(s.saggar x.saggar).active))

end State

/-- TWIN_DRAIN, opcode 0x940: the device stops fetching from the tenant rings of every active saggar (R506). -/
def execTwinDrain (id : Nat) (s : State) : Out :=
  match s.ready id 0x940 with
  | none => .next s
  | some c =>
    if !bitAt (c.p 0 1) 0 ∧ s.saggars.any (fun p => p.2.active && !p.2.replicaValid) then .next (s.refuse id 0x03F4)
    else .next { s.setPhase id .running with fw := { s.fw with draining := s.fw.draining ++ [(id, s.drainCount)] } }

/-- DRAIN_COMPLETE: no command in flight and no pour of those saggars is left: DRAINED sets, with event 0x900D (R506). -/
def execDrainComplete (id : Nat) (s : State) : Out :=
  match s.fw.draining.find? (fun p => p.1 == id) with
  | none => .next s
  | some d =>
    if s.drainCount ≠ 0 ∨ s.poursDone = false then .next s
    else
      let s := { s with fw := { s.fw with draining := removeFirst (fun p => p.1 == id) s.fw.draining, drained := true } }
      .next ((s.recordFw 5 0x900D none 0 []).finish id 0 (Result.w0 d.2))

/-- TWIN_REJOIN, opcode 0x941: DRAINED clears and fetching resumes, with event 0x900D (R506). -/
def execTwinRejoin (id : Nat) (s : State) : Out :=
  match s.ready id 0x941 with
  | none => .next s
  | some _ => .next (({ s with fw := { s.fw with drained := false } }.recordFw 5 0x900D none 0 []).finish id 0 Result.zero)

end Sys2Proof.Machine
end

