-- ==== Sys2Proof/Machine/NbUnit.lean ====
section
/-! DEFINITION. What a near-bank unit does within a step (chapter 8): its reads and writes (R229, R230, R242), its
micro-operations (R231 to R238), the checks before a sequence starts (R239) and the cut into steps (R241). -/
namespace Sys2Proof.Machine
open Sys2Proof

/-! ### Reads and writes of a unit -/

/-- A unit at work in a step: flags raised, the first place of uncorrectable data met, whether the row at hand depends on
such data, and a failure with the micro-operation that met it. -/
structure Nbx where
  s : State
  n : Nat
  sag : Nat
  flags : Flags
  bad : Option Nat
  rowBad : Bool
  fail : Nat
  failOp : Option Nat

def inScratch (a : Nat) : Bool := bitAt a 31
def scratchOff (a : Nat) : Nat := a % 2 ^ 18
def chanOffset (a : Nat) : Nat := a % 2 ^ 31

/-- Two operand addresses name the same place; reserved bits do not count (R230). -/
def samePlace (a b : Nat) : Bool :=
  inScratch a == inScratch b && (if inScratch a then scratchOff a == scratchOff b else chanOffset a == chanOffset b)

/-- Status of the range of an operand: 0x0101 past the channel or the scratch (R239). -/
def nbRange (a n : Nat) : Nat :=
  if inScratch a then check (decide (2 ^ 18 < scratchOff a + n)) 0x0101 else check (decide (2 ^ 31 < chanOffset a + n)) 0x0101

/-- Frames, and so granules, that a channel range touches. -/
def nbFrames (a n : Nat) : List Nat :=
  if inScratch a ∨ n = 0 then [] else span (chanOffset a / 4096) ((chanOffset a + n - 1) / 4096 + 1 - chanOffset a / 4096)

namespace State

/-- The first frame of a channel range that the saggar does not own (R239). -/
def nbForeign (s : State) (sag a n : Nat) : Option Nat :=
  (nbFrames a n).find? (fun g => !((s.owner g).assigned && (s.owner g).saggar == sag) || s.isDonor g)

end State

namespace Nbx

/-- The operand address of a scratch word. -/
def scratchWord (w : Nat) : Nat := 2 ^ 31 + 8 * w
/-- Each uncorrectable scratch word that is met counts and is recorded (R458, R536). -/
def badWords (x : Nbx) (l : List Nat) : State :=
  l.foldl (fun s w => s.countUe (5120 + x.n) (scratchWord w) 5 (channelCode x.n) (some x.sag)) x.s

/-- Bytes at an operand address, with a mark on those that are uncorrectable (R208, R242, R458). -/
def get (x : Nbx) (a n : Nat) : Nbx × List Byte × List Bool :=
  if n = 0 then (x, [], [])
  else if inScratch a then
    let u := x.s.nb x.n
    let o := scratchOff a
    let hit := (span (o / 8) ((o + n + 7) / 8 - o / 8)).filter (fun w => decide (w ∈ u.scratchBad))
    let bads := (List.range n).map (fun i => decide ((o + i) / 8 ∈ hit))
    let bs := (List.range n).map (fun i => u.scratch.get (fun _ => 0) (o + i))
    match hit with
    | [] => (x, bs, bads)
    | w :: _ => ({ x with s := x.badWords hit, bad := x.bad.or (some (scratchWord w)), rowBad := true }, bs, bads)
  else
    let lin := linOf x.n (chanOffset a)
    let s := x.s.correctSeg lin n
    let hit := (s.poison ++ s.latentUe).filter (fun k => decide (lin < k + 64 ∧ k < lin + n))
    let hit := hit.foldl (fun l k => insertNat k l) []
    let s := hit.foldl (fun s k => s.uncorrectable k k 5 (channelCode x.n)) s
    let bs := (List.range n).map (fun i => s.byteAt (lin + i))
    let bads := (List.range n).map (fun i => decide ((lin + i) / 64 * 64 ∈ hit))
    match hit with
    | [] => ({ x with s := s }, bs, bads)
    | k :: _ => ({ x with s := s, bad := x.bad.or (some (chanOff k)), rowBad := true }, bs, bads)

/-- Remember a 64-byte line that the channel's read buffer may hold (R251). -/
def noteLine (s : State) (n line : Nat) : State :=
  s.modNb n (fun u => { u with readBuf := u.readBuf ++ [(line, (List.range 64).map (fun i => s.byteAt (line + i)))] })

/-- Write a piece that lies in one 64-byte unit; `bad` marks it as dependent on uncorrectable data (R208, R242). -/
def putUnit (x : Nbx) (lin : Nat) (bs : List Byte) (bad : Bool) : Nbx :=
  let base := lin / 64 * 64
  let keep := fun k : Nat => k != base
  if bs.length ≠ 64 ∧ (base ∈ x.s.poison ∨ base ∈ x.s.latentUe) then
    { x with s := x.s.uncorrectable base base 5 (channelCode x.n), bad := x.bad.or (some (chanOff base)) }
  else
    let s := noteLine x.s x.n base
    let s := (if bs.length = 64 then
        { s with
          poison := s.poison.filter keep
          latentCe := s.latentCe.filter keep
          latentUe := s.latentUe.filter keep } else s.correctSeg base 64).putBytes lin bs
    { x with s := if bad then { s with poison := insertNat base s.poison } else s }

/-- Write bytes at an operand address; a destination unit or scratch word with a marked byte becomes poisoned. A write to
part of an uncorrectable scratch word is not applied (R208, R242). -/
def put (x : Nbx) (a : Nat) (bs : List Byte) (bads : List Bool) : Nbx :=
  if inScratch a then
    let o := scratchOff a
    let u := x.s.nb x.n
    let words := span (o / 8) ((o + bs.length + 7) / 8 - o / 8)
    let isBad := fun w => (List.range 8).any (fun k => decide (o ≤ w * 8 + k) && bads.getD (w * 8 + k - o) false)
    let whole := fun w => decide (o ≤ w * 8 ∧ w * 8 + 8 ≤ o + bs.length)
    let stuck := words.filter (fun w => !whole w && decide (w ∈ u.scratchBad))
    let scr := bs.zipIdx.foldl (fun t p =>
      if (o + p.2) / 8 ∈ stuck then t else t.put (fun _ => 0) (o + p.2) p.1) u.scratch
    let bad := (u.scratchBad.filter (fun w => !(words.contains w && whole w))) ++ words.filter isBad
    let x := { x with s := x.s.setNb x.n { u with scratch := scr, scratchBad := bad.foldl (fun l w => insertNat w l) [] } }
    match stuck with
    | [] => x
    | w :: _ => { x with s := x.badWords stuck, bad := x.bad.or (some (scratchWord w)) }
  else
    let lin := linOf x.n (chanOffset a)
    (unitPieces 64 (bs.length / 64 + 2) lin bs.length).foldl (fun x p =>
      let o := p.1 - lin
      x.putUnit p.1 ((bs.drop o).take p.2) (((bads.drop o).take p.2).any id)) x

/-- Mark the scratch words of a range as uncorrectable: what they would hold depends on bad data (R242). -/
def taint (x : Nbx) (a n : Nat) : Nbx :=
  let o := scratchOff a
  { x with s := x.s.modNb x.n (fun u =>
      { u with scratchBad := (span (o / 8) ((o + n + 7) / 8 - o / 8)).foldl (fun l w => insertNat w l) u.scratchBad }) }

end Nbx

/-! ### Micro-operations (Table 8-2) -/

structure Uop where
  op : Nat
  publish : Bool
  fa : Nat
  fb : Nat
  fd : Nat
  rm : Nat
  ovf : Bool
  sub : Nat
  len : Nat
  rows : Nat
  idxHi : Nat
  a : Nat
  b : Nat
  d : Nat
  pitch : Nat
  imm : Nat
deriving DecidableEq, Repr

def Uop.of (w : List Byte) : Uop :=
  let f := fieldAt w
  { op := f 0 1 % 16, publish := bitAt (f 0 1) 4, fa := f 1 1 % 16, fb := f 1 1 / 16, fd := f 2 1 % 16, rm := bits (f 2 1) 4 2,
    ovf := bitAt (f 2 1) 6, sub := f 3 1 % 16, len := f 4 4, rows := f 8 2, idxHi := f 10 2, a := f 12 4, b := f 16 4,
    d := f 20 4, pitch := f 24 4, imm := f 28 4 }

/-- Formats on the 8-bit lanes and those of AXPY, REDUCE and SCALE (Tables 8-3, 8-4). -/
def narrowFmt (c : Nat) : Bool := c == 3 || c == 4 || c == 7
def nbFmt (c : Nat) : Bool := c == 0 || c == 1 || narrowFmt c
/-- Table 8-4: 1 narrow lanes, 2 wide lanes, 0 refused. -/
def dotPair (a b : Nat) : Nat :=
  if narrowFmt a && narrowFmt b && ((a == 7) == (b == 7)) then 1 else if (a = 0 ∧ b = 0) ∨ (a = 1 ∧ b = 1) then 2 else 0

namespace Uop

/-- The operation has rows; the others work on one. -/
def hasRows (u : Uop) : Bool := u.op ∈ [0, 1, 3, 4, 8]
def nRows (u : Uop) : Nat := if u.hasRows then u.rows else 1

/-- The formats that size A are ones that the operation takes (R233, Table 8-3). -/
def fmtA (u : Uop) : Bool :=
  match u.op with
  | 0 | 5 => decide (u.fa < 8)
  | 1 => dotPair u.fa u.fb != 0
  | 2 | 3 | 4 => nbFmt u.fa
  | _ => true
/-- The same of B. -/
def fmtB (u : Uop) : Bool :=
  match u.op with
  | 1 => dotPair u.fa u.fb != 0
  | 2 => decide (u.fd ≤ 1)
  | 5 => decide (u.fa < 8) && decide (u.fd < 8)
  | _ => true
/-- The same of D. -/
def fmtD (u : Uop) : Bool :=
  match u.op with
  | 0 => decide (u.fa < 8)
  | 1 | 2 | 4 => decide (u.fd ≤ 1)
  | 5 => decide (u.fd < 8)
  | 7 => u.fd ∈ [0, 1, 2, 3, 4, 7]
  | _ => true
def fmtOk (u : Uop) : Bool := u.fmtA && u.fmtB && u.fmtD

/-- Bytes at B that a CONVERT reads: block scales, or the row scale of an INT8 source. -/
def convIn (u : Uop) : Nat := if fmtBlock u.fa then u.len / 32 else if u.fa = 7 then 4 else 0
/-- Where a CONVERT writes the scales of a block-scaled destination: at B, after a row scale of its source (log entry 61). -/
def convOut (u : Uop) : Nat := if u.fa = 7 then u.b + 4 else u.b
def convOutLen (u : Uop) : Nat := if fmtBlock u.fd then u.len / 32 else 0

/-- Ranges of A, of B and of D as address and length. -/
def rangesA (u : Uop) : List (Nat × Nat) :=
  let rows := fun n => (List.range u.rows).map (fun r => (u.a + r * u.pitch, n))
  match u.op with
  | 1 | 3 | 4 => rows (fmtBytes u.fa u.len)
  | 2 | 5 => [(u.a, fmtBytes u.fa u.len)]
  | 6 => [(u.a, u.len)]
  | 8 => rows u.len
  | _ => []
def rangesB (u : Uop) : List (Nat × Nat) :=
  match u.op with
  | 0 => [(u.b, 4 * u.rows)]
  | 1 => [(u.b, u.sub * fmtBytes u.fb u.len)]
  | 2 => [(u.b, fmtBytes u.fd u.len)]
  | 4 => if u.sub = 1 then [(u.b, 4 * u.rows)] else []
  | 5 => if u.fa = u.fd then [] else
      (if u.convIn = 0 then [] else [(u.b, u.convIn)]) ++ (if u.convOutLen = 0 then [] else [(u.convOut, u.convOutLen)])
  | _ => []
def rangesD (u : Uop) : List (Nat × Nat) :=
  match u.op with
  | 0 => [(u.d, u.rows * fmtBytes u.fa u.len)]
  | 1 => [(u.d, u.sub * u.rows * fmtBytes u.fd 1)]
  | 2 | 5 => [(u.d, fmtBytes u.fd u.len)]
  | 3 => [(u.d, 4 * u.rows)]
  | 4 => [(u.d, u.rows * fmtBytes u.fd u.len)]
  | 6 => [(u.d, 32)]
  | 7 => [(u.d, fmtBytes u.fd u.len)]
  | 8 => (List.range u.rows).map (fun r => (u.d + r * u.b, u.len))
  | _ => []

/-- For the operands of several parts, the range from the first byte to the last: no part of them passes the end of its
space when this does not (R239). -/
def spansOf (u : Uop) : List (Nat × Nat) :=
  let rows := fun n => (u.a, (u.rows - 1) * u.pitch + n)
  match u.op with
  | 1 | 3 | 4 => if u.fmtA then [rows (fmtBytes u.fa u.len)] else []
  | 5 => if u.fa = u.fd ∨ u.fa ≠ 7 ∨ u.fmtB = false then [] else [(u.b, 4 + u.convOutLen)]
  | 8 => [rows u.len, (u.d, (u.rows - 1) * u.b + u.len)]
  | _ => []

/-- Two operand ranges meet in the same space. -/
def meets (p q : Nat × Nat) : Bool :=
  let o := fun a => if inScratch a then scratchOff a else chanOffset a
  inScratch p.1 == inScratch q.1 && decide (0 < p.2 ∧ 0 < q.2 ∧ o p.1 < o q.1 + q.2 ∧ o q.1 < o p.1 + p.2)

/-- The overlap rule (R237). -/
def overlapBad (u : Uop) : Bool :=
  let hit := fun (l : List (Nat × Nat)) => u.rangesD.any (fun d => l.any (meets d))
  match u.op with
  | 2 => hit u.rangesA || (!samePlace u.d u.b && hit u.rangesB)
  | 4 => (!(samePlace u.d u.a && u.fa == u.fd && (u.rows == 1 || u.pitch == fmtBytes u.fa u.len)) && hit u.rangesA) || hit u.rangesB
  | _ => hit u.rangesA || hit u.rangesB

/-- An address is not a multiple of the size of an element of a format, or of 8 for a block-scaled row (R219, R77); an
operand whose format is not taken is not looked at (R11). -/
def misaligned (u : Uop) : Bool :=
  let off := fun a c => a % fmtAlign c != 0
  let rowsA := u.fmtA && (off u.a u.fa || (decide (1 < u.rows) && off u.pitch u.fa))
  let offD := u.fmtD && off u.d u.fd
  match u.op with
  | 0 => (u.fmtA && (off u.a u.fa || off u.pitch u.fa || off u.d u.fa)) || u.b % 4 != 0
  | 1 => rowsA || (u.fmtB && off u.b u.fb) || offD
  | 2 => (u.fmtA && off u.a u.fa) || (u.fmtD && off u.b u.fd) || offD
  | 3 => rowsA || u.d % 4 != 0
  | 4 => rowsA || offD || (u.sub == 1 && u.b % 4 != 0)
  | 5 => (u.fmtA && off u.a u.fa) || offD || (u.fmtB && u.fa == 7 && u.fd != 7 && u.b % 4 != 0)
  | 7 => offD
  | _ => false

/-- The ranges of a micro-operation that are measured against the end of their space (R10, R11, R239). -/
def measured (u : Uop) : List (Nat × Nat) :=
  u.spansOf ++ (if u.fmtA then u.rangesA else []) ++ (if u.fmtB then u.rangesB else []) ++ (if u.fmtD then u.rangesD else [])

/-- Status of the checks of one micro-operation that need no state (R232 to R237, R239). -/
def check (u : Uop) : List Nat :=
  if 9 ≤ u.op then [0x0180]
  else
    let zero := u.len == 0 || (u.hasRows && u.rows == 0) || (u.op == 1 && u.sub == 0)
    let ok := u.fmtOk && !zero
    let rounds := u.op ∈ [1, 2, 3, 4]
    [Machine.check (!u.fmtOk) 0x0104, Machine.check zero 0x0102,
     Machine.check (rounds && u.rm == 2) 0x0182, Machine.check ((rounds || u.op == 5) && u.rm == 3) 0x0120,
     Machine.check (u.op == 1 && u.len % 32 != 0) 0x0181,
     Machine.check (!zero && (u.op == 0 || u.op == 5) && (fmtBlock u.fa || (u.op == 5 && fmtBlock u.fd)) && u.len % 32 != 0) 0x0103,
     Machine.check u.misaligned 0x0103,
     Machine.check (u.op == 1 && decide (8 < u.sub)) 0x0101, Machine.check ((u.op == 3 || u.op == 4) && decide (1 < u.sub)) 0x0101,
     Machine.check (u.op == 0 && !zero && (!inScratch u.d || !inScratch u.b)) 0x0101,
     Machine.check (ok && u.overlapBad) 0x0171] ++
    (if zero then [] else u.measured.map (fun r => nbRange r.1 r.2))

/-! ### Cutting into steps (R241, Table 8-5) -/

/-- Cost in cycles of `n` elements of one row of a DOT or of a REDUCE that sums. -/
def dotCost (u : Uop) (n : Nat) : Nat :=
  let rate := if narrowFmt u.fa then 256 else 32
  ceilDiv (n * (if u.op = 1 then u.sub else 1)) rate

/-- Cut a row of `n` parts into slice units of `w`, with the cost of each. -/
def unitsOf (k row n w : Nat) (last : Bool) (cost : Nat → Nat) : List (Slice × Nat) :=
  (List.range (ceilDiv n w)).map (fun j =>
    let m := min w (n - j * w)
    let e := decide (j + 1 = ceilDiv n w)
    ({ op := k, row := row, start := j * w, len := m, lastOfRow := e, lastOfOp := e && last }, cost m))

/-- The slice units of micro-operation `k`. -/
def units (k : Nat) (u : Uop) : List (Slice × Nat) :=
  let rows := fun (n w : Nat) (cost : Nat → Nat) =>
    (List.range u.nRows).flatMap (fun r => unitsOf k r n w (decide (r + 1 = u.nRows)) cost)
  let whole := fun (cost : Nat → Nat) => if cost u.len ≤ 1024 then rows u.len u.len cost else rows u.len 1024 cost
  match u.op with
  | 0 => rows u.len u.len (fun _ => ceilDiv (fmtBytes u.fa u.len) 256)
  | 1 => whole u.dotCost
  | 2 => rows u.len 32 (fun m => ceilDiv m 32)
  | 3 => if u.sub = 0 then whole u.dotCost else whole (fun m => ceilDiv m 32)
  | 4 => whole (fun m => ceilDiv m 32)
  | 5 => rows u.len 32 (fun m => ceilDiv m 32)
  | 6 => rows u.len 64 (fun m => ceilDiv m 8)
  | 7 => rows (fmtBytes u.fd u.len) 256 (fun m => ceilDiv m 256)
  | _ => rows u.len 256 (fun m => ceilDiv m 256)

end Uop

/-- Fill steps with slice units in order, each step to at most 1,024 cycles. -/
def packSteps (l : List (Slice × Nat)) : List (List Slice) :=
  let r := l.foldl (fun (a : List (List Slice) × List Slice × Nat) q =>
    if a.2.1.isEmpty then (a.1, [q.1], q.2)
    else if a.2.2 + q.2 ≤ 1024 then (a.1, a.2.1 ++ [q.1], a.2.2 + q.2)
    else (a.1 ++ [a.2.1], [q.1], q.2)) ([], [], 0)
  if r.2.1.isEmpty then r.1 else r.1 ++ [r.2.1]

/-- The steps of a sequence of micro-operations. -/
def planUops (ops : List Uop) : List (List Slice) := packSteps (ops.zipIdx.flatMap (fun p => Uop.units p.2 p.1))

/-! ### Sums (R234) -/

/-- Nodes of the next level: pairs added, a last one promoted (R130). -/
def pairUp : List Nat → List Nat
  | a :: b :: r => fadd a b :: pairUp r
  | l => l
/-- The root over the block values of a reduction of at most 2²⁴ blocks (R130, R131). -/
def treeRoot : Nat → List Nat → Nat
  | 0, l => l.headD 0
  | f + 1, l => if l.length ≤ 1 then l.headD 0 else treeRoot f (pairUp l)

/-- The value of one K-block in FP32 mode: exact groups of 32, each added with one rounding (R104 to R109). -/
def kBlock (k : PairKind) (fa fb : Nat) : Nat → Option Nat → List Nat → List Nat → Nat
  | 0, acc, _, _ => acc.getD 0
  | f + 1, acc, a, b =>
    if a.isEmpty then acc.getD 0
    else
      let g := groupValue k fa fb { els := a.take 32, scale := Val.one } { els := b.take 32, scale := Val.one }
      let v := match acc with
        | none => toF32 g
        | some o => toF32 ((f32 o).add g)
      kBlock k fa fb f (some v) (a.drop 32) (b.drop 32)

/-- Values of the K-blocks of a run that starts at a K-block boundary. -/
def kBlocks (k : PairKind) (fa fb : Nat) : Nat → List Nat → List Nat → List Nat
  | 0, _, _ => []
  | f + 1, a, b =>
    if a.isEmpty then [] else kBlock k fa fb 32 none (a.take 1024) (b.take 1024) :: kBlocks k fa fb f (a.drop 1024) (b.drop 1024)

/-! ### Running slices -/

/-- Round a value into FMTD 0 or 1 under RM 0 or 1. -/
def nbRound (fd rm : Nat) (v : Val) : Nat := (encodeElem fd { mode := rm, ovf := false, r := 0 } v).1

/-- Flags of a value written (R238). -/
def nbFlags (limit loss c : Nat) (l : List Nat) : Flags := writtenFlags limit loss c l

/-- 1.0 in a format. -/
def oneIn (c : Nat) : Nat := if c = 7 then 1 else withSign c false (2 ^ fmtFrac c * fmtBias c)

/-- Mark each element of `n` whose bytes hold a mark; `w` bits an element. -/
def elemBad (w n : Nat) (bads : List Bool) : List Bool :=
  if !bads.any id then List.replicate n false else
  (List.range n).map (fun i => (span (i * w / 8) ((i * w + w - 1) / 8 + 1 - i * w / 8)).any (fun b => bads.getD b false))
/-- Marks of the bytes that elements of `w` bits take. -/
def byteBad (w : Nat) (l : List Bool) : List Bool :=
  (List.range (l.length * w / 8)).map (fun b =>
    (span (b * 8 / w) ((b * 8 + 7) / w + 1 - b * 8 / w)).any (fun i => l.getD i false))

/-- What a running sequence gives its slices. -/
structure NbEnv where
  seed : Nat
  limit : Nat
  loss : Nat
  /-- The first narrow-lane row of the step fails its residue check twice (R235). -/
  residueFail : Bool

namespace Nbx

def orFlags (x : Nbx) (f : Flags) : Nbx := { x with flags := x.flags.or f }

/-- Elements at an address, each with its mark. -/
def elems (x : Nbx) (c a n : Nat) : Nbx × List Nat × List Bool :=
  let r := x.get a (fmtBytes c n)
  (r.1, unpackElems c n r.2.1, elemBad (fmtWidth c) n r.2.2)

def putElems (x : Nbx) (c a : Nat) (l : List Nat) (bads : List Bool) : Nbx := x.put a (packElems c l) (byteBad (fmtWidth c) bads)

/-- LOAD_ROW, one row: its number is read and its place checked just before it moves (R240). A row whose number is
uncorrectable leaves its destination marked (R242). -/
def loadRow (x : Nbx) (u : Uop) (sl : Slice) : Nbx :=
  let i := x.get (u.b + 4 * sl.row) 4
  let a := u.a + leNat i.2.1 * u.pitch
  let n := fmtBytes u.fa u.len
  let above := if inScratch u.a then decide (2 ^ 18 < scratchOff u.a + leNat i.2.1 * u.pitch + n)
    else decide (2 ^ 31 < chanOffset u.a + leNat i.2.1 * u.pitch + n)
  let st := if above then 0x0101 else if (i.1.s.nbForeign x.sag a n).isSome then 0x0220 else 0
  if i.2.2.any id then i.1.taint (u.d + sl.row * n) n
  else if st ≠ 0 then { i.1 with fail := st, failOp := some sl.op }
  else
    let r := i.1.get a n
    r.1.put (u.d + sl.row * n) r.2.1 r.2.2

/-- DOT and the summing REDUCE, one row or a part of it (R234). The carry holds the K-block values of each batch vector. -/
def dotRow (x : Nbx) (env : NbEnv) (u : Uop) (sl : Slice) (carry : List (List Nat)) : Nbx × List (List Nat) :=
  let isDot := u.op == 1
  let x := if sl.start = 0 then { x with rowBad := false } else x
  let fb := if isDot then u.fb else u.fa
  let nv := if isDot then u.sub else 1
  let a := x.elems u.fa (u.a + sl.row * u.pitch + fmtBytes u.fa sl.start) sl.len
  let kind := pairKind u.fa fb false
  let st := (List.range nv).foldl (fun (t : Nbx × List (List Nat)) v =>
    let b := if isDot then t.1.elems fb (u.b + fmtBytes fb (v * u.len + sl.start)) sl.len
      else (t.1, List.replicate sl.len (oneIn u.fa), [])
    let x := if isDot then b.1.orFlags (inputFlags (b.2.1.map (decodeElem fb))) else b.1
    (x, t.2 ++ [carry.getD v [] ++ kBlocks kind u.fa fb (sl.len / 1024 + 1) a.2.1 b.2.1])) (a.1, [])
  let x := if isDot then st.1.orFlags (inputFlags (a.2.1.map (decodeElem u.fa))) else st.1
  if sl.lastOfRow then
    if env.residueFail ∧ isDot ∧ narrowFmt u.fa ∧ x.fail = 0 then ({ x with fail := 0x0540, failOp := some sl.op }, [])
    else
      (st.2.zipIdx.foldl (fun x p =>
        let r := treeRoot 24 p.1
        let out := if isDot && u.fd == 1 then nbRound 1 u.rm (f32 r) else r
        let fd := if isDot then u.fd else 0
        let x := if isDot then x.orFlags (nbFlags env.limit env.loss fd [out]) else x
        x.putElems fd (u.d + (p.2 * u.rows + sl.row) * fmtBytes fd 1) [out] [x.rowBad]) x, [])
  else (x, st.2)

/-- REDUCE that takes the maximum: +0 above −0, NaN if any element is NaN. -/
def maxRow (x : Nbx) (u : Uop) (sl : Slice) (carry : List (List Nat)) : Nbx × List (List Nat) :=
  let x := if sl.start = 0 then { x with rowBad := false } else x
  let a := x.elems u.fa (u.a + sl.row * u.pitch + fmtBytes u.fa sl.start) sl.len
  let vs := a.2.1.map (fun e => toF32 (decodeElem u.fa e))
  let m := (carry.getD 0 [] ++ vs).foldl (fun (m : Option Nat) v => match m with
    | none => some (fmax v v)
    | some w => some (fmax w v)) none
  if sl.lastOfRow then (a.1.putElems 0 (u.d + 4 * sl.row) [m.getD 0] [a.1.rowBad], []) else (a.1, [m.toList])

/-- SCALE, one row or a part of it. -/
def scaleRow (x : Nbx) (env : NbEnv) (u : Uop) (sl : Slice) : Nbx :=
  let a := x.elems u.fa (u.a + sl.row * u.pitch + fmtBytes u.fa sl.start) sl.len
  let k := if u.sub = 1 then a.1.elems 0 (u.b + 4 * sl.row) 1 else (a.1, [u.imm], [false])
  let sc := k.2.1.headD 0
  let out := a.2.1.map (fun e => nbRound u.fd u.rm ((decodeElem u.fa e).mul (f32 sc)))
  let x := k.1.orFlags ((inputFlags (a.2.1.map (decodeElem u.fa) ++ (if u.sub = 1 then [f32 sc] else []))).or
    (nbFlags env.limit env.loss u.fd out))
  x.putElems u.fd (u.d + fmtBytes u.fd (sl.row * u.len + sl.start)) out (a.2.2.map (fun b => b || k.2.2.headD false))

/-- AXPY, a part. -/
def axpy (x : Nbx) (env : NbEnv) (u : Uop) (sl : Slice) : Nbx :=
  let a := x.elems u.fa (u.a + fmtBytes u.fa sl.start) sl.len
  let b := a.1.elems u.fd (u.b + fmtBytes u.fd sl.start) sl.len
  let out := (a.2.1.zip b.2.1).map (fun p => nbRound u.fd u.rm (((f32 u.imm).mul (decodeElem u.fa p.1)).add (decodeElem u.fd p.2)))
  let x := b.1.orFlags ((inputFlags (a.2.1.map (decodeElem u.fa) ++ b.2.1.map (decodeElem u.fd))).or
    (nbFlags env.limit env.loss u.fd out))
  x.putElems u.fd (u.d + fmtBytes u.fd sl.start) out ((a.2.2.zip b.2.2).map (fun p => p.1 || p.2))

/-- CONVERT, up to 32 elements: the same bits as a sluice conversion (R236). -/
def convert (x : Nbx) (env : NbEnv) (u : Uop) (sl : Slice) : Nbx :=
  let a := x.elems u.fa (u.a + fmtBytes u.fa sl.start) sl.len
  if u.fa = u.fd then a.1.putElems u.fd (u.d + fmtBytes u.fd sl.start) a.2.1 a.2.2
  else
    let k := if fmtBlock u.fa then a.1.get (u.b + sl.start / 32) 1 else if u.fa = 7 then a.1.get u.b 4 else (a.1, [], [])
    let sc := if fmtBlock u.fa then decodeScale (leNat k.2.1) else if u.fa = 7 then f32 (leNat k.2.1) else Val.one
    let sc := if sc.isFin then sc else .nan
    let vals := a.2.1.map (fun e => (decodeElem u.fa e).mul sc)
    let idx := u.idxHi * 2 ^ 32 + u.pitch + sl.start
    let c := convLine u.fd (fun i => { mode := u.rm, ovf := u.ovf, r := srBits env.seed u.imm ((idx + i) % 2 ^ 48) }) vals
    let x := k.1.orFlags ((inputFlags vals).or (c.written env.limit env.loss))
    let bad := k.2.2.any id || (fmtBlock u.fd && a.2.2.any id)
    let x := x.putElems u.fd (u.d + fmtBytes u.fd sl.start) c.els (a.2.2.map (fun b => b || bad))
    if fmtBlock u.fd then x.put (u.convOut + sl.start / 32) [BitVec.ofNat 8 c.scale] [bad] else x

/-- One slice of a micro-operation: the state after and what is carried on. -/
def uopSlice (x : Nbx) (env : NbEnv) (u : Uop) (sl : Slice) (carry : List (List Nat)) : Nbx × List (List Nat) :=
  if x.failOp = some sl.op then (x, carry) else
  match u.op with
  | 0 => (x.loadRow u sl, [])
  | 1 => x.dotRow env u sl carry
  | 2 => (x.axpy env u sl, [])
  | 3 => if u.sub = 0 then x.dotRow env u sl carry else x.maxRow u sl carry
  | 4 => (x.scaleRow env u sl, [])
  | 5 => (x.convert env u sl, [])
  | 6 =>
    let x := if sl.start = 0 then { x with rowBad := false } else x
    let r := x.get (u.a + sl.start) sl.len
    let all := (if sl.start = 0 then [] else carry.getD 0 []) ++ r.2.1.map (·.toNat)
    if sl.lastOfOp then (r.1.put u.d (sm3 (all.map (BitVec.ofNat 8))) (List.replicate 32 r.1.rowBad), []) else (r.1, [all])
  | 7 =>
    let k := fmtBytes u.fd 1
    let pat := leBytes k (u.imm % 2 ^ (8 * k))
    (x.put (u.d + sl.start) ((List.range sl.len).map (fun i => pat.getD ((sl.start + i) % k) 0)) [], [])
  | _ =>
    let r := x.get (u.a + sl.row * u.pitch + sl.start) sl.len
    (r.1.put (u.d + sl.row * u.b + sl.start) r.2.1 r.2.2, [])

end Nbx

namespace State

/-- The checks of R239 on a sequence whose micro-operations have been fetched: the lowest status, with the frame when
ownership fails. -/
def uopsCheck (s : State) (n sag : Nat) (ops : List Uop) : Nat × Option Nat :=
  let pure := ops.flatMap Uop.check
  let good := ops.filter (fun u => lowest u.check == 0)
  let frame := (good.flatMap (fun u => u.rangesA ++ u.rangesB ++ u.rangesD)).findSome? (fun r => s.nbForeign sag r.1 r.2)
  let steps := if lowest pure = 0 then (planUops ops).length else 0
  (lowest (pure ++ [check frame.isSome 0x0220, check (decide ((s.nb n).maxSteps < steps)) 0x0331]), frame)

end State

end Sys2Proof.Machine
end

