-- ==== Sys2Proof/Machine/KvPage.lean ====
section
/-! DEFINITION. KV pages (R257 to R262), appended rows (R266), tree records (R278), admissible keys (R270, R271), the tiles
of a block (R267, R268, R273) and the canonical attention of a block and a page (R272), as functions of the bytes. Reading
is through a function of the unit that reads, so that sluices and near-bank units share every line. -/
namespace Sys2Proof.Machine
open Sys2Proof

/-! ### Pages -/

/-- Scale bytes of a slot (Table 9-1). -/
def kvScaleBytes (c d : Nat) : Nat := if c = 7 then 4 else if fmtBlock c then d / 32 else 0
/-- Key rank (Table 9-1). -/
def keyRank (c : Nat) : Nat := if c = 1 ∨ c = 2 then 4 else if c = 6 then 1 else if c = 5 then 2 else 3

/-- A page header (Table 9-2). -/
structure Page where
  base : Nat
  fk : Nat
  fv : Nat
  hd : Nat
  seq : Nat
  layer : Nat
  head : Nat
  gen : Nat
  occ : Nat
  pin : Nat
  cand : Nat
  pos : List Nat
  score : List Nat
  node : List Nat
deriving DecidableEq, Repr

def Page.of (base : Nat) (b : List Byte) : Page :=
  let f := fieldAt b
  { base := base, fk := f 0 1 % 16, fv := f 0 1 / 16, hd := f 1 1, seq := f 4 4, layer := f 8 2, head := f 10 2, gen := f 12 4,
    occ := f 0x40 32, pin := f 0x60 32, cand := f 0x80 32, pos := (List.range 256).map (fun s => f (0x100 + 6 * s) 6),
    score := (List.range 256).map (fun s => f (0x700 + 4 * s) 4), node := (List.range 256).map (fun s => f (0xB00 + s) 1) }

namespace Page

def d (p : Page) : Nat := 32 * p.hd
def isOcc (p : Page) (s : Nat) : Bool := bitAt p.occ s
def isCand (p : Page) (s : Nat) : Bool := p.isOcc s && bitAt p.cand s
def posOf (p : Page) (s : Nat) : Nat := p.pos.getD s 0
def nodeOf (p : Page) (s : Nat) : Nat := p.node.getD s 0
def occSlots (p : Page) : List Nat := (List.range 256).filter p.isOcc
def freeSlots (p : Page) : List Nat := (List.range 256).filter (fun s => !p.isOcc s)

/-- Region bases (R258). -/
def keyScales (p : Page) : Nat := p.base + 0x1000 + 256 * fmtBytes p.fk p.d
def values (p : Page) : Nat := p.keyScales + 256 * kvScaleBytes p.fk p.d
def valueScales (p : Page) : Nat := p.values + 256 * fmtBytes p.fv p.d
def size (p : Page) : Nat := p.valueScales + 256 * kvScaleBytes p.fv p.d - p.base
def keyRow (p : Page) (s : Nat) : Nat := p.base + 0x1000 + s * fmtBytes p.fk p.d
def keyScale (p : Page) (s : Nat) : Nat := p.keyScales + s * kvScaleBytes p.fk p.d
def valueRow (p : Page) (s : Nat) : Nat := p.values + s * fmtBytes p.fv p.d
def valueScale (p : Page) (s : Nat) : Nat := p.valueScales + s * kvScaleBytes p.fv p.d

/-- Status of a header's formats and head dimension (R257, R259). -/
def headCheck (p : Page) : List Nat :=
  [check (p.fk == 0 || decide (8 ≤ p.fk) || p.fv == 0 || decide (8 ≤ p.fv)) 0x0104, check (p.hd == 0) 0x0102,
   check (decide (8 < p.hd)) 0x0101]

/-- Two occupied slots hold one position (R262). -/
def dupPos (p : Page) : Bool :=
  let ps := p.occSlots.map p.posOf
  !decide ps.Nodup

/-- The header bytes that a service writes: GENERATION, masks, POS, SCORE and NODE, over the header as read. -/
def header (p : Page) (old : List Byte) : List Byte :=
  old.take 12 ++ leBytes 4 p.gen ++ (old.drop 16).take 48 ++ leBytes 32 p.occ ++ leBytes 32 p.pin ++ leBytes 32 p.cand ++
  (old.drop 0xA0).take 0x60 ++ p.pos.flatMap (leBytes 6) ++ p.score.flatMap (leBytes 4) ++ p.node.flatMap (leBytes 1) ++
  old.drop 0xC00

def bump (p : Page) : Page := { p with gen := (p.gen + 1) % 2 ^ 32 }
def setBit (m s : Nat) (b : Bool) : Nat := if bitAt m s = b then m else if b then m + 2 ^ s else m - 2 ^ s
/-- Free a slot (R279, R281). -/
def free (p : Page) (s : Nat) : Page :=
  { p with occ := setBit p.occ s false, cand := setBit p.cand s false, score := p.score.set s 0 }

end Page

/-! ### Appended rows (R266) -/

/-- ⌈log₂(num / den)⌉ of a positive fraction. -/
def ceilLog2 (num den : Nat) : Int := let k := fracLog2 num den; if shl den k = shl num (-k) then k else k + 1

/-- A row as a page stores it: element bytes, scale bytes, and the flags of the conversion. -/
def appendRow (c : Nat) (rnd : Nat → Rnd) (l : List Val) : List Byte × List Byte × Flags :=
  if fmtBlock c then
    let bl := (List.range (l.length / 32)).map (fun b =>
      encodeBlockTo 120 c (fun i => rnd (32 * b + i)) ((l.drop (32 * b)).take 32))
    (packElems c (bl.flatMap (fun r => r.2.1)), bl.map (fun r => BitVec.ofNat 8 r.1), Flags.any (bl.map (fun r => r.2.2)))
  else if c = 7 then
    if l.any (fun v => !v.isFin) then
      (List.replicate l.length 0, leBytes 4 (fmtNan 0), { Flags.none with nan := true, lost := true })
    else
      let x := match amax l with
        | .fin _ n dd e => if n = 0 then (0 : Int) else min (max (ceilLog2 n (127 * dd) + e) (-133)) 120
        | _ => 0
      let r := l.zipIdx.map (fun p => encodeElem 7 (rnd p.2) (p.1.mul (.fin false 1 1 (-x))))
      (packElems 7 (r.map (·.1)), leBytes 4 (toF32 (.fin false 1 1 x)), Flags.any (r.map (·.2)))
  else
    let r := l.zipIdx.map (fun p => encodeElem c (rnd p.2) p.1)
    (packElems c (r.map (·.1)), [], (Flags.any (r.map (·.2))).or (writtenFlags 0 0 c (r.map (·.1))))

/-! ### Stored rows -/

/-- The values of a stored row: each element times its scale, formed exactly (R268). -/
def rowValues (c : Nat) (els : List Nat) (sc : List Byte) : List Val :=
  els.zipIdx.map (fun p =>
    let s := if fmtBlock c then decodeScale (fieldAt sc (p.2 / 32) 1) else if c = 7 then f32 (leNat sc) else Val.one
    (decodeElem c p.1).mul (if s.isFin then s else .nan))

/-- A page scale is admissible (R261). -/
def scaleOk (c : Nat) (sc : List Byte) : Bool :=
  if fmtBlock c then sc.all (fun b => decide (b.toNat ≤ 0xF7 ∨ b.toNat = 0xFF))
  else if c = 7 then
    leNat sc == fmtNan 0 ||
    (match f32 (leNat sc) with
    | .fin false n _ e => decide (n ≠ 0 ∧ 2 ^ Nat.log2 n = n ∧ -133 ≤ (Nat.log2 n : Int) + e ∧ (Nat.log2 n : Int) + e ≤ 120)
    | _ => false)
  else true

/-- A row read from a page: element codes, scale bytes. -/
abbrev KvRow := List Nat × List Byte

section reading
variable {σ : Type} (rd : σ → Nat → Nat → σ × List Byte)

/-- Read `n` records of `w` bytes from an address. -/
def readTable (x : σ) (a w n : Nat) : σ × List Nat :=
  let r := rd x a (w * n)
  (r.1, (List.range n).map (fun i => fieldAt r.2 (w * i) w))

/-- Read the header of a page. -/
def readPage (x : σ) (base : Nat) : σ × Page × List Byte :=
  let r := rd x base 4096
  (r.1, Page.of base r.2, r.2)

/-- Read the key row or the value row of a slot with its scales. -/
def readRow (x : σ) (p : Page) (isKey : Bool) (s : Nat) : σ × KvRow :=
  let c := if isKey then p.fk else p.fv
  let r := rd x (if isKey then p.keyRow s else p.valueRow s) (fmtBytes c p.d)
  let k := kvScaleBytes c p.d
  let q := if k = 0 then (r.1, []) else rd r.1 (if isKey then p.keyScale s else p.valueScale s) k
  (q.1, unpackElems c p.d r.2, q.2)

/-- Read the scales of every occupied slot: all are admissible. -/
def readScales (x : σ) (p : Page) : σ × Bool :=
  p.occSlots.foldl (fun (st : σ × Bool) s =>
    let one := fun (st : σ × Bool) (c a : Nat) =>
      let k := kvScaleBytes c p.d
      if k = 0 then st else
      let r := rd st.1 a k
      (r.1, st.2 && scaleOk c r.2)
    one (one st p.fk (p.keyScale s)) p.fv (p.valueScale s)) (x, true)

/-- The 32 slots of a block: the rows of occupied ones. -/
def readBlock (x : σ) (p : Page) (isKey : Bool) (b : Nat) : σ × List (Option KvRow) :=
  (span (32 * b) 32).foldl (fun (st : σ × List (Option KvRow)) s =>
    if p.isOcc s then
      let r := readRow rd st.1 p isKey s
      (r.1, st.2 ++ [some r.2])
    else (st.1, st.2 ++ [none])) (x, [])

end reading

/-! ### Trees (R278) -/

structure Tree where
  parent : List Nat
  count : Nat
deriving DecidableEq, Repr

def Tree.of (b : List Byte) : Tree := { parent := (b.take 64).map (·.toNat), count := fieldAt b 64 1 }
def Tree.none : Tree := { parent := [], count := 0 }

/-- Ancestor sets (as 64-bit masks) and depths of the nodes, in ascending order; a parent not below its node counts as
none, the tree's own check refuses it. -/
def Tree.sets (t : Tree) : List (Nat × Nat) :=
  (List.range t.count).foldl (fun (l : List (Nat × Nat)) c =>
    let p := t.parent.getD c 0xFF
    l ++ [if p = 0xFF ∨ c ≤ p then (2 ^ c, 1) else ((l.getD p (0, 0)).1 ||| 2 ^ c, (l.getD p (0, 0)).2 + 1)]) []

def Tree.check (t : Tree) : List Nat :=
  [Machine.check (t.count == 0) 0x0102, Machine.check (decide (64 < t.count)) 0x0101,
   Machine.check (decide (t.count ≤ 64) && (List.range t.count).any (fun c =>
     t.parent.getD c 0xFF != 0xFF && decide (c ≤ t.parent.getD c 0xFF))) 0x0191,
   Machine.check (decide (t.count ≤ 64) && t.sets.any (fun q => decide (16 < q.2))) 0x0192]

/-! ### The attention descriptor (Table 9-6) -/

structure Attn where
  qf : Nat
  pf : Nat
  floor : Nat
  mass : Bool
  fold : Bool
  rows : Nat
  hd : Nat
  scale : Nat
  window : Nat
  decay : Nat
  seq : Nat
  layer : Nat
  head : Nat
  count : Nat
  table : Nat
  query : Nat
  qpos : Nat
  tree : Nat
  dest : Nat
  runIn : Nat
deriving DecidableEq, Repr

def Attn.of (b : List Byte) : Attn :=
  let f := fieldAt b
  let ad := fun lo => f lo 8 % 2 ^ 52
  { qf := f 0 1 % 16, pf := f 0 1 / 16, floor := f 1 1 % 8, mass := bitAt (f 1 1) 3, fold := bitAt (f 1 1) 4, rows := f 2 1,
    hd := f 3 1, scale := f 4 4, window := f 8 4, decay := f 12 4, seq := f 16 4, layer := f 20 2, head := f 22 2,
    count := f 24 4, table := ad 32, query := ad 40, qpos := ad 48, tree := ad 56, dest := ad 64, runIn := ad 72 }

def Attn.d (a : Attn) : Nat := 32 * a.hd

/-- How a page format meets an operand format (Table 9-4): 0 refused, 1 direct, 2 widened. -/
def meet (page op : Nat) (isKey : Bool) : Nat :=
  if page = 1 then (if op = 1 then 1 else 0)
  else if page = 2 then (if op = 2 then 1 else 0)
  else if page = 3 ∨ page = 4 then (if op = 3 ∨ op = 4 then 1 else if op = 1 ∨ op = 2 then 2 else 0)
  else if page = 7 then (if op = 1 then 2 else 0)
  else if op = 1 then 2
  else if (op = 3 ∨ op = 4) ∧ isKey then 1 else 0

/-- Table 9-4 as a near-bank unit takes it: direct only for a pair of Table 8-4 (R287). -/
def meetNb (page op : Nat) (isKey : Bool) : Nat :=
  let m := meet page op isKey
  if m = 1 ∧ dotPair page op = 0 then 0 else m

/-- Format of a tile after Table 9-4. -/
def tileFmt (page op : Nat) (isKey : Bool) : Nat := if meet page op isKey = 2 then op else page

/-- Status of the descriptor's own fields (R267, R275); `maxRows` is 32, or 8 for ATTN_DECODE. -/
def Attn.check (a : Attn) (maxRows : Nat) (nb : Bool) : List Nat :=
  let opOk := fun c => c == 1 || (c == 2 && !nb) || c == 3 || c == 4
  [Machine.check (!(opOk a.qf && opOk a.pf)) 0x0104, Machine.check (decide (4 < a.floor)) 0x0101,
   Machine.check (a.rows == 0) 0x0102, Machine.check (decide (maxRows < a.rows)) 0x0101, Machine.check (a.hd == 0) 0x0102,
   Machine.check (decide (8 < a.hd)) 0x0101, Machine.check (a.count == 0) 0x0102,
   Machine.check (nb && a.mass && a.runIn == 0) 0x0101]

/-- Status of a page against the descriptor (R264, R267, R269). -/
def Attn.pageCheck (a : Attn) (p : Page) (nb : Bool) : List Nat :=
  let m := if nb then meetNb else meet
  p.headCheck ++
  [Machine.check (p.base % 4096 != 0) 0x0103,
   Machine.check (p.seq != a.seq || p.layer != a.layer || p.head != a.head || p.hd != a.hd) 0x0190,
   Machine.check (lowest p.headCheck == 0 && (m p.fk a.qf true == 0 || m p.fv a.pf false == 0)) 0x0104,
   Machine.check (lowest p.headCheck == 0 && decide (keyRank p.fk < a.floor)) 0x0105,
   Machine.check p.dupPos 0x0194]

/-- A query row's position, node and IS_CAND (Table 9-6 QPOS). -/
structure QRow where
  pos : Nat
  node : Nat
  cand : Bool
deriving DecidableEq, Repr
def QRow.of (v : Nat) : QRow := { pos := v % 2 ^ 48, node := bits v 48 6, cand := bitAt v 54 }

/-- The rule of R270. -/
def admissible (a : Attn) (t : Tree) (q : QRow) (p : Page) (s : Nat) : Bool :=
  if !p.isOcc s then false
  else if p.isCand s then
    q.cand && decide (p.nodeOf s < t.count) && bitAt (t.sets.getD q.node (0, 0)).1 (p.nodeOf s)
  else if q.pos < p.posOf s then false
  else if a.window ≠ 0 ∧ a.window ≤ q.pos - p.posOf s then false
  else true

/-- Mask word of a row for a block (R271). -/
def maskWord (a : Attn) (t : Tree) (q : QRow) (p : Page) (b : Nat) : Nat :=
  (List.range 32).foldl (fun m j => if admissible a t q p (32 * b + j) then m + 2 ^ j else m) 0

/-! ### Tiles of a block (R273) -/

/-- Key tile `t` of a block: 32 lines of 32 elements of d, with the scale code of a direct block-scaled key. -/
def keyTile (a : Attn) (p : Page) (rows : List (Option KvRow)) (t : Nat) : List (List Nat × Nat) :=
  let wide := meet p.fk a.qf true == 2
  rows.map (fun r => match r with
    | none => (List.replicate 32 0, 0x7F)
    | some r =>
      if wide then ((((rowValues p.fk r.1 r.2).drop (32 * t)).take 32).map (fun v => (encodeElem a.qf rne v).1), 0x7F)
      else ((r.1.drop (32 * t)).take 32, if fmtBlock p.fk then fieldAt r.2 t 1 else 0x7F))

/-- The value elements of a row in the tile's format; those that are not finite enter as +0, with the flags that says. -/
def valueRow (a : Attn) (p : Page) (r : KvRow) : List Nat × Flags :=
  let wide := meet p.fv a.pf false == 2
  let vs := rowValues p.fv r.1 r.2
  let codes := if wide then vs.map (fun v => (encodeElem a.pf rne v).1) else r.1
  let bad := vs.filter (fun v => !v.isFin)
  ((codes.zip vs).map (fun q => if q.2.isFin then q.1 else 0),
    if bad.isEmpty then Flags.none else { inputFlags bad with lost := true })

/-- Value rows of a block, a free slot as zeros, with the flags and the slots that held non-finite elements. -/
def valueRows (a : Attn) (p : Page) (b : Nat) (rows : List (Option KvRow)) : List (List Nat) × Flags × List Nat :=
  rows.zipIdx.foldl (fun (st : List (List Nat) × Flags × List Nat) r => match r.1 with
    | none => (st.1 ++ [List.replicate a.d 0], st.2)
    | some q =>
      let v := valueRow a p q
      (st.1 ++ [v.1], st.2.1.or v.2, if v.2.lost then st.2.2 ++ [32 * b + r.2] else st.2.2)) ([], Flags.none, [])

/-- Value tile line `e`: value element e of the 32 slots. -/
def valueLine (rows : List (List Nat)) (e : Nat) : List Nat := rows.map (fun r => r.getD e 0)

/-! ### The canonical procedure (R272) -/

/-- x = q × kᵀ for one query row: groups of 32 over d ascending, one K-block. -/
def scoreRow (a : Attn) (p : Page) (tiles : List (List (List Nat × Nat))) (q : List Nat) : List Nat :=
  let fk := tileFmt p.fk a.qf true
  let kind := pairKind a.qf fk false
  (List.range 32).map (fun j =>
    (tiles.zipIdx.foldl (fun (acc : Option Nat) t =>
      let l := t.1.getD j ([], 0x7F)
      let g := groupValue kind a.qf fk { els := (q.drop (32 * t.2)).take 32, scale := Val.one }
        { els := l.1, scale := if fmtBlock fk then decodeScale l.2 else Val.one }
      some (match acc with
        | none => toF32 g
        | some o => toF32 ((f32 o).add g))) none).getD 0)

/-- The TEPI of R272 over the score rows of a block, with the bounds of the absurd test. -/
def blockTepi (a : Attn) (lim : Nat × Nat) (x : List (List Nat)) (masks : List Nat) (mass : Bool) (refMax refSum : List Nat) :
    TepiOut :=
  TepiIn.run
    { opt := 16 + 32 + 64 + (if mass then 128 + 256 else 0), fmt := a.pf, rm := 0, seed := 0, tid := 0, idx := 0,
      limit := lim.1, loss := lim.2, s := a.scale, x := x, rs := [], cs := [], bias := [], refMax := refMax, refSum := refSum,
      mask := masks, table := [] }

/-- o = pm × vt for one row: one group over the 32 slots. -/
def outRow (a : Attn) (p : Page) (vals : List (List Nat)) (pm : List Nat) : List Nat :=
  let fv := tileFmt p.fv a.pf false
  let kind := pairKind a.pf fv false
  (List.range a.d).map (fun e =>
    toF32 (groupValue kind a.pf fv { els := pm, scale := Val.one } { els := valueLine vals e, scale := Val.one }))

/-- An empty running row (R272). -/
def emptyRow (d : Nat) : OsmRow := { m := f32NegInf, l := 0, empty := true, o := List.replicate d 0 }

/-- The scores of a block: one row per query. -/
def blockScores (a : Attn) (q : List (List Nat)) (p : Page) (keys : List (Option KvRow)) : List (List Nat) :=
  q.map (scoreRow a p ((List.range a.hd).map (keyTile a p keys)))

/-- Flags of a block's operands and scores as a checked operation (R93, R94). -/
def blockInFlags (a : Attn) (lim : Nat × Nat) (q : List (List Nat)) (p : Page) (keys : List (Option KvRow)) (x : List (List Nat)) :
    Flags :=
  (inputFlags ((q.flatMap (fun r => r.map (decodeElem a.qf))) ++
    (keys.flatMap (fun r => match r with
      | some r => rowValues p.fk r.1 r.2
      | none => [])))).or (writtenFlags lim.1 lim.2 0 (x.flatMap id))

/-- The triple of a block, one row per query, and the flags raised (R272). -/
def blockTriple (a : Attn) (lim : Nat × Nat) (t : Tree) (qs : List QRow) (q : List (List Nat)) (p : Page) (b : Nat)
    (keys : List (Option KvRow)) (vals : List (List Nat)) : List OsmRow × Flags :=
  let x := blockScores a q p keys
  let e := blockTepi a lim x (qs.map (fun r => maskWord a t r p b)) false [] []
  let out := (List.range q.length).map (fun i => outRow a p vals (e.lines.getD i ([], 0)).1)
  (out.zipIdx.map (fun o => { m := e.m.getD o.2 0, l := e.l.getD o.2 0, empty := bitAt e.empty o.2, o := o.1 }),
    ((blockInFlags a lim q p keys x).or e.flags).or (writtenFlags lim.1 lim.2 0 (out.flatMap id)))

/-- The mass of the 32 slots of a block against reference maxima and sums, and the flags raised (R290). -/
def blockMass (a : Attn) (lim : Nat × Nat) (t : Tree) (qs : List QRow) (q : List (List Nat)) (p : Page) (b : Nat)
    (keys : List (Option KvRow)) (refMax refSum : List Nat) : List Nat × Flags :=
  let x := blockScores a q p keys
  let e := blockTepi a lim x (qs.map (fun r => maskWord a t r p b)) true refMax refSum
  (e.mass, (blockInFlags a lim q p keys x).or e.flags)

/-- Fold a triple into a running one, row by row (R172). -/
def foldRows (run new : List OsmRow) : List OsmRow := (run.zip new).map (fun r => osmMerge r.1 r.2)
/-- Flags of the rows that a fold writes (R93, R172). -/
def foldFlags (lim : Nat × Nat) (new out : List OsmRow) : Flags :=
  writtenFlags lim.1 lim.2 0 (((out.zip new).filter (fun r => !r.2.empty)).flatMap (fun r => r.1.m :: r.1.l :: r.1.o))

/-- One decay and addition of masses (R280). -/
def scoreUpdate (decay : Nat) (masses : List Nat) (score : Nat) : Nat := masses.foldl fadd (fmul decay score)

end Sys2Proof.Machine
end

