-- ==== Sys2Proof/Machine/Kv.lean ====
section
/-! DEFINITION. The KV services that sluices run (R263 to R266, R276 to R283): KV_APPEND, KV_EVICT, KV_STAGE, KV_SCORE and
KV_ACCEPT. A service waits in acceptance order behind those that name one of its pages (R282), and runs as one when it
starts. -/
namespace Sys2Proof.Machine
open Sys2Proof

/-- A sluice that serves a command: the first failing status ends the service. -/
structure Slx where
  s : State
  n : Nat
  sag : Nat
  fail : Nat

namespace Slx

/-- Read; after a failure every read gives zeros. -/
def rd (x : Slx) (a n : Nat) : Slx × List Byte :=
  if x.fail ≠ 0 ∨ n = 0 then (x, List.replicate n 0)
  else
    let r := x.s.sluRead x.n x.sag a n
    match r.2.1 with
    | some f => ({ x with s := r.1, fail := f.1 }, List.replicate n 0)
    | none => ({ x with s := r.1 }, r.2.2)

/-- A write of `n` bytes would be refused: by the windows and owners, or because it covers part of a unit that is
uncorrectable (R208). -/
def writeStatus (x : Slx) (a n : Nat) : Nat :=
  if n = 0 then 0 else
  let st := x.s.reach (x.s.engineAuth x.sag) true a n
  if st ≠ 0 then st
  else
    let bad := (x.s.segs a n).any (fun g => (x.s.poison ++ x.s.latentUe).any (fun k =>
      decide (g.lin < k + unitOf g.lin ∧ k < g.lin + g.len) && !decide (g.lin ≤ k ∧ k + unitOf g.lin ≤ g.lin + g.len)))
    if bad then 0x0520 else 0

/-- Write everything or nothing: a writer never leaves a page half changed (R282). -/
def wr (x : Slx) (l : List (Nat × List Byte)) : Slx :=
  if x.fail ≠ 0 then x else
  let st := lowest (l.map (fun w => x.writeStatus w.1 w.2.length))
  if st ≠ 0 then { x with fail := st }
  else { x with s := l.foldl (fun s w => if w.2.isEmpty then s else (s.store 12 (State.sluiceSrc x.n) w.1 w.2).1) x.s }

end Slx

/-- What a service comes to: status, progress and result words. -/
structure Served where
  x : Slx
  status : Nat
  r : Result

def refuse (x : Slx) (st : Nat) : Served := { x := x, status := st, r := Result.zero }
/-- End with the status of a failing access, else go on. -/
def Slx.orElse (x : Slx) (k : Slx → Served) : Served := if x.fail ≠ 0 then refuse x x.fail else k x
/-- Fail a stage of checks with its lowest status (R11). -/
def Slx.require (x : Slx) (l : List Nat) (k : Slx → Served) : Served :=
  if x.fail ≠ 0 then refuse x x.fail else if lowest l ≠ 0 then refuse x (lowest l) else k x

/-! ### KV_APPEND (R265, R266, Table 9-5) -/

def kvAppend (x : Slx) (desc : Nat) : Served :=
  let b := x.rd desc 64
  let f := fieldAt b.2
  let fk := f 0 1 % 16
  let fv := f 0 1 / 16
  let cand := bitAt (f 1 1) 0
  let rm := bits (f 1 1) 2 2
  let count := f 2 2
  let page := f 16 8 % 2 ^ 52
  let srcK := f 24 8 % 2 ^ 52
  let srcV := f 32 8 % 2 ^ 52
  let pre := [check (decide (8 ≤ fk ∨ 8 ≤ fv)) 0x0104, check (rm == 3) 0x0120, check (count == 0) 0x0102,
    check (decide (256 < count)) 0x0101, check (page % 4096 != 0) 0x0103,
    check (decide (fk < 8) && srcK % fmtAlign fk != 0) 0x0103, check (decide (fv < 8) && srcV % fmtAlign fv != 0) 0x0103]
  b.1.require pre fun x =>
  let h := readPage Slx.rd x page
  let p := h.2.1
  h.1.require p.headCheck fun x =>
  let rows := readTable Slx.rd x (f 40 8 % 2 ^ 52) 8 count
  let pos := rows.2.map (· % 2 ^ 48)
  let slots := p.freeSlots.take count
  rows.1.require [check (decide (p.freeSlots.length < count)) 0x0340, check p.dupPos 0x0194,
      check (!decide pos.Nodup || pos.any (fun q => p.occSlots.any (fun s => p.posOf s == q))) 0x0194] fun x =>
  let rowsOf := fun (x : Slx) (c src : Nat) =>
    let els := x.rd src (fmtBytes c (count * p.d))
    let sc := if fmtBlock c then els.1.rd (src + fmtBytes c (count * p.d)) (count * p.d / 32) else (els.1, [])
    let codes := unpackElems c (count * p.d) els.2
    (sc.1, (List.range count).map (fun r =>
      let row := (codes.drop (r * p.d)).take p.d
      if c = 7 then row.map (decodeElem 7) else rowValues c row ((sc.2.drop (r * p.d / 32)).take (p.d / 32))))
  let k := rowsOf x fk srcK
  let v := rowsOf k.1 fv srcV
  let kv := k.2
  let vv := v.2
  let conv := fun (c tid r : Nat) (vals : List Val) =>
    appendRow c (fun e => { mode := rm, ovf := bitAt (f 1 1) 1, r := srBits (f 48 8) tid (pos.getD r 0 * p.d + e) }) vals
  let ck := kv.zipIdx.map (fun q => conv p.fk (f 4 4) q.2 q.1)
  let cv := vv.zipIdx.map (fun q => conv p.fv (f 8 4) q.2 q.1)
  let flags := (Flags.any ((ck ++ cv).map (fun q => q.2.2))).or (inputFlags ((kv ++ vv).flatMap id))
  let nodes := rows.2.map (fun w => bits w 48 6)
  let p' := (slots.zipIdx.foldl (fun (p : Page) q =>
    { p with
      occ := Page.setBit p.occ q.1 true
      cand := Page.setBit p.cand q.1 cand
      pin := Page.setBit p.pin q.1 false
      score := p.score.set q.1 0
      pos := p.pos.set q.1 (pos.getD q.2 0)
      node := if cand then p.node.set q.1 (nodes.getD q.2 0) else p.node }) p).bump
  let writes := (slots.zipIdx.flatMap (fun q =>
    let a := ck.getD q.2 ([], [], Flags.none)
    let c := cv.getD q.2 ([], [], Flags.none)
    [(p.keyRow q.1, a.1), (p.keyScale q.1, a.2.1), (p.valueRow q.1, c.1), (p.valueScale q.1, c.2.1)])) ++
    [(page, p'.header h.2.2)]
  (v.1.wr writes).orElse fun x =>
  { x := x, status := 0, r := { progress := 1, r0 := count, r1 := flags.word, r2 := p'.gen, r3 := 0 } }

/-! ### Page services (Table 9-8) -/

/-- The pages of a table, with their headers as read. -/
def servicePages (x : Slx) (table count seq layer head : Nat) (k : Slx → List (Page × List Byte) → Served) : Served :=
  x.require [check (count == 0) 0x0102] fun x =>
  let t := readTable Slx.rd x table 8 count
  let addrs := t.2.map (· % 2 ^ 52)
  t.1.require [check (!decide addrs.Nodup) 0x0194, check (addrs.any (fun a => a % 4096 != 0)) 0x0103] fun x =>
  let ps := addrs.foldl (fun (st : Slx × List (Page × List Byte)) a =>
    let r := readPage Slx.rd st.1 a
    (r.1, st.2 ++ [(r.2.1, r.2.2)])) (x, [])
  ps.1.require (ps.2.flatMap (fun q => q.1.headCheck ++
    [check (q.1.seq != seq || q.1.layer != layer || q.1.head != head) 0x0190, check q.1.dupPos 0x0194])) fun x => k x ps.2

/-- The headers that changed, written back with GENERATION advanced. -/
def changedHeaders (old : List (Page × List Byte)) (new : List Page) : List (Nat × List Byte) :=
  (old.zip new).filterMap (fun q => if q.1.1 = q.2 then none else some (q.2.base, q.2.bump.header q.1.2))

/-- Order of eviction scores: NaN below −∞, then by value (R281). -/
def scoreLess (a b : Nat) : Bool :=
  if (f32 a).isNan then !(f32 b).isNan else if (f32 b).isNan then false else (f32 a).lt (f32 b)

/-- Insert a candidate for eviction (score, position, page, slot) into a rising list. -/
def insertEvict (e : Nat × Nat × Nat × Nat) : List (Nat × Nat × Nat × Nat) → List (Nat × Nat × Nat × Nat)
  | [] => [e]
  | f :: r =>
    let lt := scoreLess e.1 f.1 || (!scoreLess f.1 e.1 &&
      (decide (e.2.1 < f.2.1) || (e.2.1 == f.2.1 && (decide (e.2.2.1 < f.2.2.1) || (e.2.2.1 == f.2.2.1 && decide (e.2.2.2 < f.2.2.2))))))
    if lt then e :: f :: r else f :: insertEvict e r

/-- KV_EVICT (R281). -/
def kvEvict (x : Slx) (desc : Nat) : Served :=
  let b := x.rd desc 64
  let f := fieldAt b.2
  let want := f 20 4
  let recent := f 24 4
  let sink := f 28 6
  b.1.require [check (want == 0) 0x0102] fun x =>
  servicePages x (f 0 8 % 2 ^ 52) (f 8 4) (f 12 4) (f 16 2) (f 18 2) fun x ps =>
  let committed := ps.zipIdx.flatMap (fun q => (q.1.1.occSlots.filter (fun s => !q.1.1.isCand s)).map (fun s => (q.2, q.1.1, s)))
  let newest := committed.foldl (fun m c => max m (c.2.1.posOf c.2.2)) 0
  let ok := committed.filter (fun c =>
    !bitAt c.2.1.pin c.2.2 && decide (sink ≤ c.2.1.posOf c.2.2) &&
      (recent == 0 || decide (c.2.1.posOf c.2.2 + recent ≤ newest)))
  let order := ok.foldl (fun l c => insertEvict (c.2.1.score.getD c.2.2 0, c.2.1.posOf c.2.2, c.1, c.2.2) l) []
  let go := order.take want
  let new := ps.zipIdx.map (fun q => (go.filter (fun e => e.2.2.1 == q.2)).foldl (fun (p : Page) e => p.free e.2.2.2) q.1.1)
  (x.wr (changedHeaders ps new)).orElse fun x =>
  let short := decide (order.length < want)
  let x := if short then { x with s := x.s.recordFw 3 0x3041 (some x.sag) 0 (p4 go.length ++ p4 want) } else x
  { x := x, status := if short then 1 else 0,
    r := { progress := ps.length, r0 := go.length, r1 := order.length - go.length, r2 := 0, r3 := 0 } }

/-- KV_SCORE (R280). -/
def kvScore (x : Slx) (desc : Nat) : Served :=
  let b := x.rd desc 64
  let f := fieldAt b.2
  let n := f 20 4
  let decay := f 24 4
  let mass := f 40 8 % 2 ^ 52
  let pages := f 8 4
  b.1.require [check (n == 0) 0x0102, check (decide (64 < n)) 0x0101] fun x =>
  servicePages x (f 0 8 % 2 ^ 52) pages (f 12 4) (f 16 2) (f 18 2) fun x ps =>
  let r := ps.zipIdx.foldl (fun (st : Slx × List Page × Nat × Flags) q =>
    let u := q.1.1.occSlots.foldl (fun (t : Slx × Page × Nat × Flags) s =>
      let ms := (List.range n).foldl (fun (m : Slx × List Nat) h =>
        let g := m.1.rd (mass + 4 * ((h * pages + q.2) * 256 + s)) 4
        (g.1, m.2 ++ [leNat g.2])) (t.1, [])
      let v := scoreUpdate decay ms.2 (t.2.1.score.getD s 0)
      (ms.1, { t.2.1 with score := t.2.1.score.set s v }, t.2.2.1 + 1, t.2.2.2.or (writtenFlags 0 0 0 [v])))
      (st.1, q.1.1, st.2.2.1, st.2.2.2)
    (u.1, st.2.1 ++ [u.2.1], u.2.2)) (x, [], 0, Flags.none)
  r.1.orElse fun x =>
  (x.wr ((ps.zip r.2.1).filterMap (fun q => if q.1.1.occSlots.isEmpty then none else some (q.2.base, q.2.bump.header q.1.2)))).orElse
    fun x =>
  { x := x, status := 0, r := { progress := ps.length, r0 := r.2.2.1, r1 := r.2.2.2.word, r2 := 0, r3 := 0 } }

/-- Nodes accepted with all their ancestors (R279). -/
def acceptedNodes (t : Tree) (accept : Nat) : List Nat :=
  (List.range t.count).filter (fun c => (t.sets.getD c (0, 0)).1 &&& accept == (t.sets.getD c (0, 0)).1)

/-- The deepest accepted node, the lowest on ties. -/
def bestNode (t : Tree) (accept : Nat) : Option Nat :=
  (acceptedNodes t accept).foldl (fun (b : Option Nat) c => match b with
    | none => some c
    | some d => if (t.sets.getD d (0, 0)).2 < (t.sets.getD c (0, 0)).2 then some c else some d) none

/-- KV_ACCEPT (R279). -/
def kvAccept (x : Slx) (desc : Nat) : Served :=
  let b := x.rd desc 64
  let f := fieldAt b.2
  let p0 := f 28 6
  let tree := f 40 8 % 2 ^ 52
  let accept := f 48 8
  b.1.require [check (decide (2 ^ 48 - 1 < p0 + 16)) 0x0101] fun x =>
  let tb := x.rd tree 128
  let t := Tree.of tb.2
  tb.1.require t.check fun x =>
  servicePages x (f 0 8 % 2 ^ 52) (f 8 4) (f 12 4) (f 16 2) (f 18 2) fun x ps =>
  let best := bestNode t accept
  let mask := match best with
    | some c => (t.sets.getD c (0, 0)).1
    | none => 0
  let path := (List.range t.count).filter (fun c => bitAt mask c)
  let cands := ps.flatMap (fun q => ((List.range 256).filter q.1.isCand).map (fun s => (q.1.nodeOf s, q.1.posOf s)))
  x.require [check (cands.any (fun c => decide (c.1 < t.count) && bitAt mask c.1 && c.2 != p0 + (t.sets.getD c.1 (0, 0)).2)) 0x0195,
      check (!decide (cands.map (·.1)).Nodup) 0x0194] fun x =>
  let new := ps.map (fun q => ((List.range 256).filter q.1.isCand).foldl (fun (p : Page) s =>
    if decide (p.nodeOf s < t.count) && bitAt mask (p.nodeOf s) then { p with cand := Page.setBit p.cand s false } else p.free s) q.1)
  let rec16 := (path.map (BitVec.ofNat 8) ++ List.replicate 16 0xFF).take 16
  (x.wr (changedHeaders ps new ++ [(tree + 80, rec16)])).orElse fun x =>
  { x := x, status := 0, r := { progress := ps.length, r0 := path.length, r1 := best.getD 0xFF, r2 := 0, r3 := 0 } }

/-! ### KV_STAGE (R276, R277) -/

/-- The image of the register group of a tile: lines of 32 elements, then scale codes (R160). -/
def tileImage (c : Nat) (lines : List (List Nat × Nat)) : List Byte :=
  let body := lines.flatMap (fun l => packElems c l.1) ++
    (if fmtBlock c then lines.map (fun l => BitVec.ofNat 8 l.2) else [])
  body ++ List.replicate (groupRegs c * 1024 - body.length) 0

/-- The checks of R277 that a sluice makes for KV_STAGE, and what it goes on with. -/
def stagePages (x : Slx) (a : Attn) (k : Slx → Tree → List QRow → List Page → Served) : Served :=
  x.require (a.check 32 false) fun x =>
  let t := readTable Slx.rd x a.table 8 a.count
  let addrs := t.2.map (· % 2 ^ 52)
  let ps := addrs.foldl (fun (st : Slx × List Page) p => let r := readPage Slx.rd st.1 p
                                                        (r.1, st.2 ++ [r.2.1])) (t.1, [])
  let tr := if a.tree = 0 then (ps.1, Tree.none) else let r := ps.1.rd a.tree 128
                                                      (r.1, Tree.of r.2)
  let q := readTable Slx.rd tr.1 a.qpos 8 a.rows
  let qs := q.2.map QRow.of
  let heads := ps.2.flatMap (fun p => a.pageCheck p false)
  let okH := lowest heads = 0
  let sc := if okH then ps.2.foldl (fun (st : Slx × Bool) p => let r := readScales Slx.rd st.1 p
                                                             (r.1, st.2 && r.2)) (q.1, true) else (q.1, true)
  let low := ps.2.zipIdx.find? (fun p => lowest p.1.headCheck == 0 && decide (keyRank p.1.fk < a.floor))
  let all := heads ++ [check (!decide addrs.Nodup) 0x0194, check (!sc.2) 0x0193,
      check (qs.any (fun r => r.cand && (a.tree == 0 || decide (tr.2.count ≤ r.node)))) 0x0101] ++
    (if a.tree = 0 then [] else tr.2.check)
  let x := sc.1
  let x := if x.fail = 0 ∧ lowest all = 0x0105 then
      match low with
      | some p => { x with s := x.s.recordFw 3 0x3040 (some x.sag) 0 (p4 x.sag ++ p4 p.2 ++ p4 p.1.fk ++ p4 a.floor) }
      | none => x
    else x
  x.require all fun x => k x tr.2 qs ps.2

/-- KV_STAGE (R276). -/
def kvStage (x : Slx) (desc : Nat) : Served :=
  let b := x.rd desc 128
  let a := Attn.of b.2
  if b.1.fail ≠ 0 then refuse b.1 b.1.fail else
  stagePages b.1 a fun x t qs ps =>
  let job := ps.zipIdx.foldl (fun (st : Slx × List (Nat × List Byte) × Nat × Flags) q =>
    (List.range 8).foldl (fun (st : Slx × List (Nat × List Byte) × Nat × Flags) blk =>
      let ks := readBlock Slx.rd st.1 q.1 true blk
      let vs := readBlock Slx.rd ks.1 q.1 false blk
      let vr := valueRows a q.1 blk vs.2
      let fk := tileFmt q.1.fk a.qf true
      let fv := tileFmt q.1.fv a.pf false
      let masks := (qs.map (fun r => maskWord a t r q.1 blk)) ++ List.replicate (32 - qs.length) 0
      let param := List.replicate 640 0 ++ masks.flatMap (leBytes 4) ++ List.replicate 256 0
      let keys := (List.range a.hd).flatMap (fun i => tileImage fk (keyTile a q.1 ks.2 i))
      let vals := (List.range a.hd).flatMap (fun i =>
        tileImage fv ((span (32 * i) 32).map (fun e => (valueLine vr.1 e, 0x7F))))
      let bs := 1024 * (1 + a.hd * (groupRegs fk + groupRegs fv))
      let x := vr.2.2.foldl (fun (x : Slx) slot =>
        { x with s := x.s.recordFw 3 0x3042 (some x.sag) 0 (p4 x.sag ++ p4 q.2 ++ p4 slot) }) vs.1
      (x, st.2.1 ++ [(a.dest + (8 * q.2 + blk) * bs, param ++ keys ++ vals)],
        if masks.any (· != 0) then st.2.2.1 + 1 else st.2.2.1, st.2.2.2.or vr.2.1)) st) (x, [], 0, Flags.none)
  job.1.orElse fun x =>
  (x.wr job.2.1).orElse fun x =>
  { x := x, status := 0,
    r := { progress := ps.length, r0 := 8 * ps.length, r1 := job.2.2.2.word, r2 := job.2.2.1, r3 := 0 } }

namespace State

/-! ### Acceptance and order (R263, R282) -/

/-- Bytes as they stand, without the effects of a read: for naming the pages of a service. -/
def peek (s : State) (sag a n : Nat) : List Byte :=
  if s.reach (s.engineAuth sag) false a n ≠ 0 then [] else (s.segs a n).flatMap (fun g => (List.range g.len).map (fun i => s.byteAt (g.lin + i)))

/-- A page by the place of its first byte, so that every name of it is one. -/
def pageKey (s : State) (a : Nat) : Nat := ((s.segs a 1).map (·.lin)).headD a

/-- Pages that a sluice service names. -/
def kvPages (s : State) (c : Cmd) : List Nat :=
  let d := s.peek c.saggar (c.addr 8) 64
  if d.isEmpty then []
  else if c.opcode = 0x400 then [s.pageKey (fieldAt d 16 8 % 2 ^ 52)]
  else
    let t := if c.opcode = 0x402 then (fieldAt d 32 8 % 2 ^ 52, fieldAt d 24 4) else (fieldAt d 0 8 % 2 ^ 52, fieldAt d 8 4)
    let b := s.peek c.saggar t.1 (8 * t.2)
    if b.isEmpty then [] else (List.range t.2).map (fun i => s.pageKey (fieldAt b (8 * i) 8 % 2 ^ 52))

/-- Status of a command's sluice and descriptor address (R263). -/
def sluiceEngine (s : State) (c : Cmd) : Nat :=
  let x := s.sluice (c.p 0 2 % 1024)
  if x.state = .inReset then 0x0602
  else lowest [check (c.addr 8 % 64 ≠ 0) 0x0103, check (!x.valid) 0x0320, check (x.valid && x.saggar != c.saggar) 0x0220]

/-- A KV service is accepted: refused for its engine, or queued behind its pages. -/
def kvQueue (s : State) (id opcode : Nat) (writer : Bool) : State :=
  match s.ready id opcode with
  | none => s
  | some c =>
    let st := s.sluiceEngine c
    if st ≠ 0 then s.refuse id st
    else ({ s with kvs := s.kvs ++ [(id, s.kvPages c, writer)] }).setPhase id .queued

/-- Every earlier service of the saggar that names one of its pages has completed, where either of them writes (R282). -/
def kvFree (s : State) (id : Nat) : Bool :=
  match s.kvs.find? (fun k => k.1 == id) with
  | none => true
  | some me =>
    let sag := (s.cmd? id).map (·.saggar)
    (s.kvs.takeWhile (fun k => k.1 != id)).all (fun k =>
      !((s.cmd? k.1).map (·.saggar) == sag && (k.2.2 || me.2.2) && k.2.1.any (fun p => me.2.1.contains p)))

/-- Sluice `n` is free for a queued command: idle between descriptors, with no earlier command waiting for it (R263). -/
def sluiceFree (s : State) (n id : Nat) : Bool :=
  (s.sluice n).state == .idle && (s.saggar (s.sluice n).saggar).quiescing == 0 &&
  !s.cmds.any (fun c => decide (c.id < id) && c.phase == .queued && sluiceServes c.opcode && c.p 0 2 % 1024 == n)

end State

/-- KV_APPEND, opcode 0x400: the command is queued on its sluice (R263, R265). -/
def execKvAppend (id : Nat) (s : State) : Out := .next (s.kvQueue id 0x400 true)
/-- KV_EVICT, opcode 0x401 (R263, R281). -/
def execKvEvict (id : Nat) (s : State) : Out := .next (s.kvQueue id 0x401 true)
/-- KV_STAGE, opcode 0x402 (R263, R276). -/
def execKvStage (id : Nat) (s : State) : Out := .next (s.kvQueue id 0x402 false)
/-- KV_SCORE, opcode 0x404 (R263, R280). -/
def execKvScore (id : Nat) (s : State) : Out := .next (s.kvQueue id 0x404 true)
/-- KV_ACCEPT, opcode 0x405 (R263, R279). -/
def execKvAccept (id : Nat) (s : State) : Out := .next (s.kvQueue id 0x405 true)

/-- KV_SERVICE_START: a queued KV service whose sluice is free and whose pages no earlier conflicting service names runs
and completes (R282). -/
def execKvServiceStart (id : Nat) (s : State) : Out :=
  match s.cmd? id with
  | none => .next s
  | some c =>
    let n := c.p 0 2 % 1024
    if c.phase ≠ .queued ∨ c.opcode ∉ [0x400, 0x401, 0x402, 0x404, 0x405] then .next s
    else
      let drop := fun (s : State) => { s with kvs := s.kvs.filter (fun k => k.1 != id) }
      if s.sluiceEngine c ≠ 0 then .next ((drop s).finish id (s.sluiceEngine c) Result.zero)
      else if s.sluiceFree n id && s.kvFree id then
        let x : Slx := { s := s, n := n, sag := c.saggar, fail := 0 }
        let a := c.addr 8
        let r := if c.opcode = 0x400 then kvAppend x a else if c.opcode = 0x401 then kvEvict x a
          else if c.opcode = 0x402 then kvStage x a else if c.opcode = 0x404 then kvScore x a else kvAccept x a
        .next ((drop r.x.s).finish id r.status r.r)
      else .next s

end Sys2Proof.Machine
end

