-- ==== Sys2Proof/Machine/NbWork.lean ====
section
/-! DEFINITION. What a near-bank unit runs besides micro-operations: attention (R287 to R290) and the training state
commands TS_UPDATE, TS_AUDIT, TS_DIGEST and TS_COMPARE (R303, R306 to R308, R311 to R314): the checks before any write,
the cut into steps, and each step's slices. -/
namespace Sys2Proof.Machine
open Sys2Proof

/-- Bytes at a channel offset, for the shared readers. -/
def Nbx.rd (x : Nbx) (a n : Nat) : Nbx × List Byte := let r := x.get a n; (r.1, r.2.1)

/-- What the checks at a start come to: the unit after its reads, the status, the frame of an ownership failure, the steps,
and whether the command ends at once without running (R312). -/
structure NbPlan where
  x : Nbx
  status : Nat
  frame : Option Nat
  left : List (List Slice)
  notRun : Bool

/-- A plan that fails. -/
def NbPlan.refused (x : Nbx) (st : Nat) (frame : Option Nat) : NbPlan :=
  { x := x, status := st, frame := frame, left := [], notRun := false }

/-- Statuses of ranges in a channel: past its end (0x0101), or in a frame that the saggar does not own (0x0220), with the
frame (R230, R239). -/
def Nbx.ranges (x : Nbx) (l : List (Nat × Nat)) : List Nat × Option Nat :=
  let fits := fun (r : Nat × Nat) => decide (r.1 + r.2 ≤ 2 ^ 31)
  let frame := (l.filter fits).findSome? (fun r => x.s.nbForeign x.sag r.1 r.2)
  ([check (l.any (fun r => !fits r)) 0x0101, check frame.isSome 0x0220], frame)

/-- The steps of a plan under NB_MAX_STEPS (R239, R241). -/
def Nbx.plan (x : Nbx) (l : List (Slice × Nat)) : NbPlan :=
  let left := packSteps l
  if (x.s.nb x.n).maxSteps < left.length then NbPlan.refused x 0x0331 none
  else { x := x, status := 0, frame := none, left := left, notRun := false }

/-- Read a descriptor of `n` bytes, refusing one that does not lie in frames of the saggar. -/
def Nbx.descriptor (x : Nbx) (a n : Nat) (k : Nbx → List Byte → NbPlan) : NbPlan :=
  let r := x.ranges [(a, n)]
  if lowest r.1 ≠ 0 then NbPlan.refused x (lowest r.1) r.2 else
  let b := x.get a n
  if b.1.bad.isSome then NbPlan.refused b.1 0x0520 none else k b.1 b.2.1

/-- A stage of checks with the ranges that it names: the lowest status (R11), else go on. -/
def Nbx.stage (x : Nbx) (l : List Nat) (rs : List (Nat × Nat)) (k : NbPlan) : NbPlan :=
  let r := x.ranges rs
  let st := lowest (l ++ r.1)
  if x.bad.isSome then NbPlan.refused x 0x0520 none
  else if st ≠ 0 then NbPlan.refused x st r.2
  else k

/-! ### Attention (R287 to R290) -/

/-- Bytes of a page triple record (R289). -/
def recordLen (d : Nat) : Nat := 128 + 32 * d

/-- The bytes of a record: rows at or above Q_ROWS are empty (R289). -/
def tripleRecord (d : Nat) (rows : List OsmRow) : List Byte :=
  let r := (rows ++ List.replicate 8 (emptyRow d)).take 8
  r.flatMap (fun x => leBytes 4 x.m) ++ r.flatMap (fun x => leBytes 4 x.l) ++
  leBytes 1 (r.zipIdx.foldl (fun a x => if x.1.empty then a + 2 ^ x.2 else a) 0) ++ List.replicate 63 0 ++
  r.flatMap (fun x => x.o.flatMap (leBytes 4))

/-- The rows of a record. -/
def tripleOf (d n : Nat) (b : List Byte) : List OsmRow :=
  (List.range n).map (fun i =>
    { m := fieldAt b (4 * i) 4, l := fieldAt b (32 + 4 * i) 4, empty := bitAt (fieldAt b 64 1) i
      o := (List.range d).map (fun e => fieldAt b (128 + 4 * (d * i + e)) 4) })

/-- Rows as they are carried between steps. -/
def packRows (l : List OsmRow) : List (List Nat) := l.map (fun r => r.m :: r.l :: b2n r.empty :: r.o)
def unpackRows (l : List (List Nat)) : List OsmRow :=
  l.map (fun r => { m := r.getD 0 0, l := r.getD 1 0, empty := r.getD 2 0 == 1, o := r.drop 3 })

/-- Ranges of the descriptor's own arrays (Table 9-6). -/
def Attn.ranges (a : Attn) : List (Nat × Nat) :=
  [(a.table, 8 * a.count), (a.query, a.rows * fmtBytes a.qf a.d), (a.qpos, 8 * a.rows)] ++
  (if a.tree = 0 then [] else [(a.tree, 128)]) ++
  (if a.mass then [] else [(a.dest, if a.fold then recordLen a.d else a.count * recordLen a.d)]) ++
  (if a.runIn ≠ 0 ∧ (a.mass ∨ a.fold) then [(a.runIn, recordLen a.d)] else [])

/-- The slice units of page `k`: each block as DOT rows, with its exponentials as CONVERT (R288). -/
def Attn.units (a : Attn) (k : Nat) (p : Page) : List (Slice × Nat) :=
  let rate := fun (c op : Nat) => if dotPair c op = 1 then 256 else 32
  let keyC := ceilDiv (a.d * a.rows) (rate (tileFmt p.fk a.qf true) a.qf)
  let valC := ceilDiv (32 * a.rows) (rate (tileFmt p.fv a.pf false) a.pf)
  let costs := List.replicate 32 keyC ++ List.replicate a.rows 1 ++ (if a.mass then [] else List.replicate a.d valC)
  (List.range 8).flatMap (fun b => costs.zipIdx.map (fun c =>
    let e := decide (c.2 + 1 = costs.length)
    ({ op := k, row := b, start := c.2, len := 1, lastOfRow := e, lastOfOp := e && b == 7 }, c.1)))

/-- Read the tree, the query rows' words and the headers of pages. -/
def attnHeads (x : Nbx) (a : Attn) (addrs : List Nat) : Nbx × Tree × List QRow × List Page :=
  let tr := if a.tree = 0 then (x, Tree.none) else let r := x.rd a.tree 128
                                                   (r.1, Tree.of r.2)
  let q := readTable Nbx.rd tr.1 a.qpos 8 a.rows
  let ps := addrs.foldl (fun (st : Nbx × List Page) p => let r := readPage Nbx.rd st.1 p
                                                        (r.1, st.2 ++ [r.2.1])) (q.1, [])
  (ps.1, tr.2, q.2.map QRow.of, ps.2)

/-- The checks of ATTN_DECODE at its start (R277, R287) and its steps. -/
def attnPlan (x : Nbx) (addr : Nat) : NbPlan :=
  x.descriptor addr 128 fun x b =>
  let a := Attn.of b
  x.stage (a.check 8 true) a.ranges <|
  let t := readTable Nbx.rd x a.table 8 a.count
  let addrs := t.2.map (· % 2 ^ 52)
  let dup := [check (!decide addrs.Nodup) 0x0194, check (addrs.any (fun p => p % 4096 != 0)) 0x0103]
  t.1.stage dup (addrs.map (fun p => (p, 4096))) <|
  let h := attnHeads t.1 a addrs
  let ps := h.2.2.2
  let heads := ps.flatMap (fun p => a.pageCheck p true)
  let own := lowest (ps.flatMap Page.headCheck) = 0
  let sizes := if own then ps.map (fun p => (p.base, p.size)) else []
  let fits := own && lowest (h.1.ranges sizes).1 == 0
  let sc := if fits then ps.foldl (fun (st : Nbx × Bool) p => let r := readScales Nbx.rd st.1 p
                                                            (r.1, st.2 && r.2)) (h.1, true) else (h.1, true)
  let all := heads ++ [check (!sc.2) 0x0193,
      check (h.2.2.1.any (fun r => r.cand && (a.tree == 0 || decide (h.2.1.count ≤ r.node)))) 0x0101] ++
    (if a.tree = 0 then [] else h.2.1.check)
  let x := sc.1
  let x := if x.bad.isNone ∧ lowest (all ++ (x.ranges sizes).1) = 0x0105 then
      match ps.zipIdx.find? (fun p => lowest p.1.headCheck == 0 && decide (keyRank p.1.fk < a.floor)) with
      | some p => { x with s := x.s.record 0x3040 4 x.n (some x.sag) 0 (p4 x.sag ++ p4 p.2 ++ p4 p.1.fk ++ p4 a.floor) }
      | none => x
    else x
  x.stage all sizes <| x.plan (ps.zipIdx.flatMap (fun p => a.units p.2 p.1))

namespace Nbx

/-- The query rows of a descriptor. -/
def queryRows (x : Nbx) (a : Attn) : Nbx × List (List Nat) :=
  (List.range a.rows).foldl (fun (st : Nbx × List (List Nat)) i =>
    let n := fmtBytes a.qf a.d
    let r := st.1.rd (a.query + i * n) n
    (r.1, st.2 ++ [unpackElems a.qf a.d r.2])) (x, [])

/-- One block of a page under R272: its triple, with event 0x3042 for value elements that entered as +0. -/
def attnBlock (x : Nbx) (lim : Nat × Nat) (a : Attn) (t : Tree) (qs : List QRow) (q : List (List Nat)) (k : Nat) (p : Page) (b : Nat) :
    Nbx × List OsmRow :=
  let ks := readBlock Nbx.rd x p true b
  let vs := readBlock Nbx.rd ks.1 p false b
  let vr := valueRows a p b vs.2
  let y := blockTriple a lim t qs q p b ks.2 vr.1
  let x := vr.2.2.foldl (fun (x : Nbx) slot =>
    { x with s := x.s.record 0x3042 4 x.n (some x.sag) 0 (p4 x.sag ++ p4 k ++ p4 slot) }) vs.1
  (x.orFlags (vr.2.1.or y.2), y.1)

/-- The mass pass over a page: scores decay and take the mass of their slot, and GENERATION advances (R290, R280). -/
def attnMass (x : Nbx) (lim : Nat × Nat) (a : Attn) (t : Tree) (qs : List QRow) (q : List (List Nat)) (p : Page) (old : List Byte) : Nbx :=
  let rec_ := x.rd a.runIn (recordLen a.d)
  let rows := tripleOf a.d a.rows rec_.2
  let m := (List.range 8).foldl (fun (st : Nbx × List Nat) b =>
    let ks := readBlock Nbx.rd st.1 p true b
    let r := blockMass a lim t qs q p b ks.2 (rows.map (·.m)) (rows.map (·.l))
    (ks.1.orFlags r.2, st.2 ++ r.1)) (rec_.1, [])
  let occ := p.occSlots
  let score := p.score.zipIdx.map (fun c => if p.isOcc c.2 then scoreUpdate a.decay [m.2.getD c.2 0] c.1 else c.1)
  if occ.isEmpty then m.1
  else
    let h := ({ p with score := score }.bump).header old
    let x := m.1.orFlags (writtenFlags lim.1 lim.2 0 (occ.map (fun s => score.getD s 0)))
    let x := x.put p.base (h.take 64) (List.replicate 64 false)
    x.put (p.base + 0x700) ((h.drop 0x700).take 1024) (List.replicate 1024 x.rowBad)

/-- Page `k` of an attention: its triple, folded and written as R289 states; what is carried is the running triple. -/
def attnPage (x : Nbx) (env : NbEnv) (a : Attn) (k : Nat) (carry : List (List Nat)) : Nbx × List (List Nat) :=
  let lim := (env.limit, env.loss)
  let x := if a.fold && decide (0 < k) then x else { x with rowBad := false }
  let t := readTable Nbx.rd x (a.table + 8 * k) 8 1
  let h := attnHeads t.1 a []
  let qr := h.1.queryRows a
  let pg := readPage Nbx.rd qr.1 (t.2.headD 0 % 2 ^ 52)
  let p := pg.2.1
  if a.mass then (pg.1.attnMass lim a h.2.1 h.2.2.1 qr.2 p pg.2.2, [])
  else
    let r := (List.range 8).foldl (fun (st : Nbx × List OsmRow) b =>
      let y := st.1.attnBlock lim a h.2.1 h.2.2.1 qr.2 k p b
      let out := foldRows st.2 y.2
      (y.1.orFlags (foldFlags lim y.2 out), out)) (pg.1, List.replicate a.rows (emptyRow a.d))
    if a.fold then
      let start := if 0 < k then (r.1, unpackRows carry)
        else if a.runIn = 0 then (r.1, List.replicate a.rows (emptyRow a.d))
        else let b := r.1.rd a.runIn (recordLen a.d)
             (b.1, tripleOf a.d a.rows b.2)
      let out := foldRows start.2 r.2
      let x := start.1.orFlags (foldFlags lim r.2 out)
      if k + 1 = a.count then (x.put a.dest (tripleRecord a.d out) (List.replicate (recordLen a.d) x.rowBad), [])
      else (x, packRows out)
    else (r.1.put (a.dest + k * recordLen a.d) (tripleRecord a.d r.2) (List.replicate (recordLen a.d) r.1.rowBad), [])

end Nbx

/-! ### TS_UPDATE (R306 to R308) -/

/-- A positive, finite power of two (R301). -/
def isPow2 (b : Nat) : Bool :=
  match f32 b with
  | .fin false n d _ => decide (n ≠ 0 ∧ 2 ^ Nat.log2 n = n ∧ d = 1)
  | _ => false

structure Upd where
  adaptive : Bool
  lo : Bool
  srm : Nat
  gf : Nat
  sf : Nat
  count : Nat
  master : Nat
  comp : Nat
  grad : Nat
  m : Nat
  v : Nat
  scale : Nat
  lr : Nat
  beta1 : Nat
  beta2 : Nat
  eps : Nat
  wd : Nat
  bc1 : Nat
  bc2 : Nat
  tidM : Nat
  tidV : Nat
  idx : Nat
  seed : Nat
deriving DecidableEq, Repr

def Upd.of (b : List Byte) : Upd :=
  let f := fieldAt b
  { adaptive := bitAt (f 0 1) 0, lo := bitAt (f 0 1) 1, srm := bits (f 0 1) 2 2, gf := f 1 1 % 16, sf := f 1 1 / 16,
    count := f 4 4, master := f 8 4, comp := f 12 4, grad := f 16 4, m := f 20 4, v := f 24 4, scale := f 28 4,
    lr := f 32 4, beta1 := f 36 4, beta2 := f 40 4, eps := f 44 4, wd := f 48 4, bc1 := f 52 4, bc2 := f 56 4,
    tidM := f 60 4, tidV := f 64 4, idx := f 68 6, seed := f 80 8 }

/-- Bytes of a state element. -/
def Upd.sw (u : Upd) : Nat := if u.sf = 0 then 4 else 2
/-- The arrays from element `i`: address, length and element size (R306). -/
def Upd.arrays (u : Upd) (i : Nat) : List (Nat × Nat × Nat) :=
  let n := u.count - i
  [(u.master + 4 * i, 4 * n, 4)] ++ (if u.lo then [(u.comp + 4 * i, 4 * n, 4)] else []) ++ [(u.grad + 2 * i, 2 * n, 2)] ++
  [(u.m + u.sw * i, u.sw * n, u.sw)] ++ (if u.adaptive then [(u.v + u.sw * i, u.sw * n, u.sw)] else [])
def Upd.ranges (u : Upd) (i : Nat) : List (Nat × Nat) := (u.arrays i).map (fun r => (r.1, r.2.1))

/-- Any two ranges of a list overlap. -/
def anyMeet : List (Nat × Nat) → Bool
  | [] => false
  | p :: r => r.any (fun q => decide (0 < p.2 ∧ 0 < q.2 ∧ p.1 < q.1 + q.2 ∧ q.1 < p.1 + p.2)) || anyMeet r

/-- Cost of 32 elements: the bytes read and written (R303). -/
def Upd.cost (u : Upd) : Nat :=
  let b := 8 + (if u.lo then 8 else 0) + 2 + 2 * u.sw * (if u.adaptive then 2 else 1)
  ceilDiv (32 * b) 256

def updPlan (x : Nbx) (addr : Nat) : NbPlan :=
  x.descriptor addr 96 fun x b =>
  let u := Upd.of b
  let ok := (u.gf == 1 || u.gf == 2) && decide (u.sf ≤ 1)
  x.stage ([check (!ok) 0x0104, check (u.srm == 3) 0x0120, check (!isPow2 u.scale) 0x01A0, check (u.count == 0) 0x0102] ++
      (if ok then [check ((u.arrays 0).any (fun r => r.1 % r.2.2 != 0)) 0x0103, check (anyMeet (u.ranges 0)) 0x0171] else []))
    (if ok then u.ranges 0 else []) <|
  x.plan (Uop.unitsOf 0 0 u.count 32 true (fun _ => u.cost))

/-- The correctly rounded square root of an FP32 encoding. -/
def fsqrt (a : Nat) : Nat := (rvSqrt 0 a).1

/-- One element of R307: master, compensation, first and second state as FP32 values before the store, and g. -/
structure UpdOut where
  g : Nat
  master : Nat
  comp : Nat
  m : Nat
  v : Nat
deriving DecidableEq, Repr

def Upd.elem (u : Upd) (grad hi lo m v : Nat) : UpdOut :=
  let g := toF32 ((decodeElem u.gf grad).div (f32 u.scale))
  let mi := if u.adaptive then fadd (fmul u.beta1 m) (fmul (fsub f32One u.beta1) g) else fadd (fmul u.beta1 m) g
  let vi := fadd (fmul u.beta2 v) (fmul (fsub f32One u.beta2) (fmul g g))
  let d := if u.adaptive then fdiv (fmul mi u.bc1) (fadd (fsqrt (fmul vi u.bc2)) u.eps) else mi
  let w := fmul u.lr (fadd d (fmul u.wd hi))
  let x := ((f32 hi).add (f32 lo)).sub (f32 w)
  let r := toF32 x
  { g := g, master := r, comp := toF32 (x.sub (f32 r)), m := mi, v := vi }

namespace Nbx

/-- Elements `sl.start` on, updated whole (R307, R308). The carry remembers that a non-finite master was reported. -/
def updSlice (x : Nbx) (u : Upd) (sl : Slice) (carry : List (List Nat)) : Nbx × List (List Nat) :=
  let i := sl.start
  let n := sl.len
  let hi := x.elems 0 (u.master + 4 * i) n
  let lo := if u.lo then hi.1.elems 0 (u.comp + 4 * i) n else (hi.1, List.replicate n 0, List.replicate n false)
  let g := lo.1.elems u.gf (u.grad + 2 * i) n
  let m := g.1.elems u.sf (u.m + u.sw * i) n
  let v := if u.adaptive then m.1.elems u.sf (u.v + u.sw * i) n else (m.1, List.replicate n 0, List.replicate n false)
  let wide := fun e => toF32 (decodeElem u.sf e)
  let out := (List.range n).map (fun k =>
    u.elem (g.2.1.getD k 0) (hi.2.1.getD k 0) (lo.2.1.getD k 0) (wide (m.2.1.getD k 0)) (wide (v.2.1.getD k 0)))
  let st := fun (tid : Nat) (l : List Nat) => l.zipIdx.map (fun e =>
    if u.sf = 0 then (e.1, Flags.none)
    else encodeElem 1 { mode := u.srm, ovf := false, r := srBits u.seed tid ((u.idx + i + e.2) % 2 ^ 48) } (f32 e.1))
  let ms := st u.tidM (out.map (·.m))
  let vs := st u.tidV (out.map (·.v))
  let bad := fun k => hi.2.2.getD k false || lo.2.2.getD k false || g.2.2.getD k false || m.2.2.getD k false || v.2.2.getD k false
  let badM := (List.range n).map (fun k => g.2.2.getD k false || m.2.2.getD k false)
  let badV := (List.range n).map (fun k => g.2.2.getD k false || v.2.2.getD k false)
  let all := (List.range n).map bad
  let x := v.1.putElems 0 (u.master + 4 * i) (out.map (·.master)) all
  let x := if u.lo then x.putElems 0 (u.comp + 4 * i) (out.map (·.comp)) all else x
  let x := x.putElems u.sf (u.m + u.sw * i) (ms.map (·.1)) badM
  let x := if u.adaptive then x.putElems u.sf (u.v + u.sw * i) (vs.map (·.1)) badV else x
  let fl := ((inputFlags (out.map (fun o => f32 o.g))).or (Flags.any ((ms ++ (if u.adaptive then vs else [])).map (·.2)))).or
    ((writtenFlags 0 0 0 (out.map (·.master) ++ (if u.lo then out.map (·.comp) else []))).or
      (writtenFlags 0 0 u.sf ((ms ++ (if u.adaptive then vs else [])).map (·.1))))
  let x := x.orFlags fl
  match (out.zipIdx.find? (fun o => !(f32 o.1.master).isFin)), carry with
  | some o, [] => ({ x with s := x.s.record 0xC007 4 x.n (some x.sag) 0 (p4 x.n ++ p4 (i + o.2)) }, [[1]])
  | _, c => (x, c)

end Nbx

/-! ### TS_AUDIT (R311) -/

structure Audit where
  wf : Nat
  rm : Nat
  ovf : Bool
  lo : Bool
  count : Nat
  master : Nat
  comp : Nat
  work : Nat
  wscale : Nat
  bitmap : Nat
  tid : Nat
  idx : Nat
  seed : Nat
deriving DecidableEq, Repr

def Audit.of (b : List Byte) : Audit :=
  let f := fieldAt b
  { wf := f 0 1 % 16, rm := bits (f 0 1) 4 2, ovf := bitAt (f 0 1) 6, lo := bitAt (f 0 1) 7, count := f 4 4,
    master := f 8 4, comp := f 12 4, work := f 16 4, wscale := f 20 4, bitmap := f 24 4, tid := f 28 4, idx := f 32 6,
    seed := f 40 8 }

def auditBlock : Nat := 2 ^ 20
def Audit.blocks (a : Audit) : Nat := ceilDiv a.count auditBlock
/-- Ranges from element `i`. -/
def Audit.ranges (a : Audit) (i : Nat) : List (Nat × Nat) :=
  let n := a.count - i
  [(a.master + 4 * i, 4 * n), (a.work + fmtBytes a.wf i, fmtBytes a.wf n), (a.bitmap, ceilDiv a.blocks 8)] ++
  (if a.lo then [(a.comp + 4 * i, 4 * n)] else []) ++ (if fmtBlock a.wf then [(a.wscale + i / 32, n / 32)] else [])

/-- The slice units: 32 elements each, costed as CONVERT and DIGEST together (R303). -/
def Audit.units (a : Audit) : List (Slice × Nat) :=
  (List.range a.blocks).flatMap (fun b =>
    Uop.unitsOf b 0 (min auditBlock (a.count - b * auditBlock)) 32 true (fun m =>
      1 + 2 * ceilDiv (fmtBytes a.wf m + (if fmtBlock a.wf then 1 else 0)) 8))

def auditPlan (x : Nbx) (addr : Nat) : NbPlan :=
  x.descriptor addr 64 fun x b =>
  let a := Audit.of b
  let ok := a.wf ∈ [1, 3, 4, 5, 6]
  x.stage [check (!ok) 0x0104, check (a.rm == 3) 0x0120, check (a.count == 0) 0x0102,
      check (ok && fmtBlock a.wf && a.count % 32 != 0) 0x0103,
      check (a.master % 4 != 0 || (a.lo && a.comp % 4 != 0) || (ok && a.work % fmtAlign a.wf != 0)) 0x0103]
    (if ok then a.ranges 0 else []) <| x.plan a.units

namespace Nbx

/-- 32 elements of a block, and with its last the comparison of the two digests and the block's bit. The carry holds the
cast bytes, the cast scales, the stored bytes, the stored scales, the blocks that differ, and the bits not yet written. -/
def auditSlice (x : Nbx) (a : Audit) (sl : Slice) (carry : List (List Nat)) : Nbx × List (List Nat) :=
  let i := sl.op * auditBlock + sl.start
  let hi := x.elems 0 (a.master + 4 * i) sl.len
  let lo := if a.lo then hi.1.elems 0 (a.comp + 4 * i) sl.len else (hi.1, List.replicate sl.len 0, [])
  let vals := (hi.2.1.zip lo.2.1).map (fun p => if a.lo then (f32 p.1).add (f32 p.2) else f32 p.1)
  let c := convLine a.wf (fun k => { mode := a.rm, ovf := a.ovf, r := srBits a.seed a.tid ((a.idx + i + k) % 2 ^ 48) }) vals
  let w := lo.1.get (a.work + fmtBytes a.wf i) (fmtBytes a.wf sl.len)
  let k := if fmtBlock a.wf then w.1.get (a.wscale + i / 32) 1 else (w.1, [], [])
  let x := k.1.orFlags ((inputFlags vals).or (c.written 0 0))
  let part := fun n => carry.getD n []
  let nats := fun (l : List Byte) => l.map (·.toNat)
  let d0 := part 0 ++ nats (packElems a.wf c.els)
  let d1 := part 1 ++ (if fmtBlock a.wf then [c.scale] else [])
  let d2 := part 2 ++ nats w.2.1
  let d3 := part 3 ++ nats k.2.1
  if sl.lastOfOp then
    let digest := fun (l : List Nat) => sm3 (l.map (BitVec.ofNat 8))
    let differs := decide (digest (d0 ++ d1) ≠ digest (d2 ++ d3))
    let list := part 4 ++ (if differs then [sl.op] else [])
    let bits := part 5 ++ [b2n differs]
    let whole := bits.length == 8 || sl.op + 1 == a.blocks
    let byte := bits.zipIdx.foldl (fun v q => v + q.1 * 2 ^ q.2) 0
    let x := if whole then x.put (a.bitmap + sl.op / 8) [BitVec.ofNat 8 byte] [x.bad.isSome] else x
    (x, [[], [], [], [], list, if whole then [] else bits])
  else (x, [d0, d1, d2, d3, part 4, part 5])

end Nbx

/-! ### TS_DIGEST and TS_COMPARE (R312 to R314) -/

/-- Nodes of the levels of a tree of `b` leaves below level `l`. -/
def treeBelow (b l : Nat) : Nat := (List.range l).foldl (fun n k => n + ceilDiv b (2 ^ k)) 0
/-- ⌈log₂ b⌉ for at most 2,048 leaves. -/
def treeHeight (b : Nat) : Nat := ((List.range 12).find? (fun h => decide (b ≤ 2 ^ h))).getD 12
/-- Nodes of a whole tree. -/
def treeNodes (b : Nat) : Nat := treeBelow b (treeHeight b + 1)
/-- Address of node (l, i). -/
def nodeAddr (base b l i : Nat) : Nat := base + 32 * (treeBelow b l + i)

structure Dig where
  a : Nat
  len : Nat
  tree : Nat
  every : Nat
deriving DecidableEq, Repr
def Dig.of (b : List Byte) : Dig := { a := fieldAt b 0 4, len := fieldAt b 4 4, tree := fieldAt b 8 4, every := fieldAt b 12 4 }
def leafSize : Nat := 2 ^ 20
def Dig.leaves (d : Dig) : Nat := ceilDiv d.len leafSize
def Dig.ranges (d : Dig) : List (Nat × Nat) := [(d.a, d.len), (d.tree, 32 * treeNodes d.leaves)]

/-- The slice units of a digest: 64 bytes at 1 cycle per 8 bytes, leaf by leaf. -/
def Dig.units (d : Dig) : List (Slice × Nat) :=
  (List.range d.leaves).flatMap (fun i => Uop.unitsOf i 0 (min leafSize (d.len - i * leafSize)) 64 true (fun m => ceilDiv m 8))

def digestPlan (x : Nbx) (addr step : Nat) : NbPlan :=
  x.descriptor addr 64 fun x b =>
  let d := Dig.of b
  if d.every ≠ 0 ∧ step % d.every ≠ 0 then { x := x, status := 0, frame := none, left := [], notRun := true }
  else
    x.stage [check (d.len == 0) 0x0102, check (decide (0x80000000 < d.len)) 0x0101]
      (if d.len ≤ 0x80000000 then d.ranges else [(d.a, d.len)]) <| x.plan d.units

/-- The next level of a tree: pairs hashed under 0x01, a last single one promoted; each with its mark. -/
def nextLevel : List (List Byte × Bool) → List (List Byte × Bool)
  | a :: b :: r => (sm3 (1 :: (a.1 ++ b.1)), a.2 || b.2) :: nextLevel r
  | l => l
/-- All levels above the leaves, `f` of them. -/
def upperLevels : Nat → List (List Byte × Bool) → List (List (List Byte × Bool))
  | 0, _ => []
  | f + 1, l => if l.length ≤ 1 then [] else nextLevel l :: upperLevels f (nextLevel l)

namespace Nbx

/-- 64 bytes of a leaf; with its last the leaf is written, and with the last leaf the rest of the tree. The carry holds the
bytes of the leaf so far, and then each leaf done: its mark and its digest. -/
def digestSlice (x : Nbx) (d : Dig) (sl : Slice) (carry : List (List Nat)) : Nbx × List (List Nat) :=
  let x := if sl.start = 0 then { x with rowBad := false } else x
  let r := x.get (d.a + sl.op * leafSize + sl.start) sl.len
  let cur := carry.headD [] ++ r.2.1.map (·.toNat)
  let done := carry.tail
  if sl.lastOfOp then
    let h := sm3 (0 :: cur.map (BitVec.ofNat 8))
    let bad := r.1.rowBad
    let x := r.1.put (nodeAddr d.tree d.leaves 0 sl.op) h (List.replicate 32 bad)
    let done := done ++ [b2n bad :: h.map (·.toNat)]
    if sl.op + 1 = d.leaves then
      let leaves := done.map (fun l => ((l.tail).map (BitVec.ofNat 8), l.headD 0 == 1))
      ((upperLevels 12 leaves).zipIdx.foldl (fun (x : Nbx) lv =>
        lv.1.zipIdx.foldl (fun (x : Nbx) q =>
          x.put (nodeAddr d.tree d.leaves (lv.2 + 1) q.2) q.1.1 (List.replicate 32 q.1.2)) x) x, [])
    else (x, [] :: done)
  else (r.1, cur :: done)

end Nbx

structure Comp where
  loc : Nat
  peer : Nat
  leaves : Nat
  out : Nat
  max : Nat
  base : Nat
  pos : Nat
deriving DecidableEq, Repr
def Comp.of (b : List Byte) : Comp :=
  let f := fieldAt b
  { loc := f 0 4, peer := f 4 4, leaves := f 8 4, out := f 12 4, max := f 16 2, base := f 20 4, pos := f 24 1 }
def Comp.ranges (c : Comp) : List (Nat × Nat) :=
  [(c.loc, 32 * treeNodes c.leaves), (c.peer, 32 * treeNodes c.leaves), (c.out, 4 * c.max)]

/-- A walk of R314: the unit, node pairs compared, and differing leaves in ascending order. -/
abbrev Walk := Nbx × Nat × List Nat

/-- walk(l, i). -/
def Comp.walk (c : Comp) : Nat → Nat → Walk → Walk
  | 0, i, w =>
    let a := w.1.rd (nodeAddr c.loc c.leaves 0 i) 32
    let b := a.1.rd (nodeAddr c.peer c.leaves 0 i) 32
    (b.1, w.2.1 + 1, if a.2 = b.2 then w.2.2 else w.2.2 ++ [i])
  | l + 1, i, w =>
    let a := w.1.rd (nodeAddr c.loc c.leaves (l + 1) i) 32
    let b := a.1.rd (nodeAddr c.peer c.leaves (l + 1) i) 32
    let w : Walk := (b.1, w.2.1 + 1, w.2.2)
    if a.2 = b.2 then w
    else
      let w := Comp.walk c l (2 * i) w
      if (2 * i + 1) * 2 ^ l < c.leaves then Comp.walk c l (2 * i + 1) w else w

/-- TS_COMPARE at its start: its steps hold one slice unit for each node pair that it compares (R303). -/
def comparePlan (x : Nbx) (addr : Nat) : NbPlan :=
  x.descriptor addr 64 fun x b =>
  let c := Comp.of b
  let okB := decide (1 ≤ c.leaves ∧ c.leaves ≤ 2048)
  let past := okB && decide (2 ^ 31 < c.loc + 32 * treeNodes c.leaves ∨ 2 ^ 31 < c.peer + 32 * treeNodes c.leaves)
  x.stage [check (c.leaves == 0) 0x0102, check (decide (2048 < c.leaves)) 0x0101, check (c.max == 0) 0x0102, check past 0x01A2,
      check (c.out % 4 != 0) 0x0103]
    (if okB && !past then c.ranges else [(c.out, 4 * c.max)]) <|
  let n := (c.walk (treeHeight c.leaves) 0 (x, 0, [])).2.1
  x.plan ((List.range n).map (fun k =>
    ({ op := 0, row := 0, start := k, len := 1, lastOfRow := decide (k + 1 = n), lastOfOp := decide (k + 1 = n) }, 1)))

namespace Nbx

/-- The walk, in the step that holds its last node pair. The carry holds the pairs compared and the leaves that differ. -/
def compareSlice (x : Nbx) (c : Comp) (sl : Slice) (carry : List (List Nat)) : Nbx × List (List Nat) :=
  if sl.lastOfOp then
    let x := { x with rowBad := false }
    let w := c.walk (treeHeight c.leaves) 0 (x, 0, [])
    let out := w.2.2.take c.max
    let x := w.1.put c.out (out.flatMap (leBytes 4)) (List.replicate (4 * out.length) w.1.rowBad)
    let x := w.2.2.foldl (fun (x : Nbx) i =>
      { x with s := x.s.record 0xC006 4 x.n (some x.sag) 0 (p4 x.n ++ p8 (c.base + i * leafSize) ++ p4 c.pos) }) x
    (x, [[w.2.1], w.2.2])
  else (x, carry)

end Nbx

/-! ### Every kind of work -/

/-- The checks before a sequence writes any byte, and its steps (R239, R277, R303). The descriptor or the sequence is
fetched first. -/
def workPlan (x : Nbx) (q : NbSeq) : NbPlan :=
  match q.work with
  | .uops =>
    x.descriptor q.addr (32 * q.count) fun x b =>
    let ops := (List.range q.count).map (fun k => Uop.of ((b.drop (32 * k)).take 32))
    let c := x.s.uopsCheck x.n x.sag ops
    if c.1 ≠ 0 then NbPlan.refused x c.1 c.2
    else { x := x, status := 0, frame := none, left := planUops ops, notRun := false }
  | .attn => attnPlan x q.addr
  | .update => updPlan x q.addr
  | .audit => auditPlan x q.addr
  | .digest => digestPlan x q.addr q.step
  | .compare => comparePlan x q.addr

/-- What the unit keeps of a sequence: its micro-operations, or its descriptor. -/
def workStore (x : Nbx) (q : NbSeq) : List (List Byte) :=
  match q.work with
  | .uops => let b := (x.rd q.addr (32 * q.count)).2
             (List.range q.count).map (fun k => (b.drop (32 * k)).take 32)
  | .attn => [(x.rd q.addr 128).2]
  | .update => [(x.rd q.addr 96).2]
  | _ => [(x.rd q.addr 64).2]

/-- One slice of a sequence. -/
def Nbx.workSlice (x : Nbx) (env : NbEnv) (r : NbRunning) (sl : Slice) (carry : List (List Nat)) : Nbx × List (List Nat) :=
  let d := r.ops.headD []
  match r.seq.work with
  | .uops => x.uopSlice env (Uop.of (r.ops.getD sl.op [])) sl carry
  | .attn => if sl.lastOfOp then x.attnPage env (Attn.of d) sl.op carry else (x, carry)
  | .update => x.updSlice (Upd.of d) sl carry
  | .audit => x.auditSlice (Audit.of d) sl carry
  | .digest => x.digestSlice (Dig.of d) sl carry
  | .compare => x.compareSlice (Comp.of d) sl carry

/-- Channel ranges that the rest of a sequence uses: after a commit its frames must still be the saggar's (R249). -/
def workRanges (x : Nbx) (r : NbRunning) : List (Nat × Nat) :=
  let d := r.ops.headD []
  let next := (r.left.headD []).headD { op := 0, row := 0, start := 0, len := 0, lastOfRow := false, lastOfOp := false }
  match r.seq.work with
  | .uops => ((r.ops.drop r.opsDone).map Uop.of).flatMap (fun u => u.rangesA ++ u.rangesB ++ u.rangesD)
  | .attn =>
    let a := Attn.of d
    let t := (readTable Nbx.rd x a.table 8 a.count).2
    a.ranges ++ (t.drop next.op).map (fun p => (p % 2 ^ 52, (readPage Nbx.rd x (p % 2 ^ 52)).2.1.size))
  | .update => (Upd.of d).ranges next.start
  | .audit => (Audit.of d).ranges (next.op * auditBlock + next.start)
  | .digest => (Dig.of d).ranges
  | .compare => (Comp.of d).ranges

/-- Result words of a training state command (Table 10-6). `free` stands for the first differing leaf of a comparison
that found none: the manual gives that word no value. -/
def workWords (q : NbSeq) (d : List Byte) (done : Nat) (flags : Flags) (carry : List (List Nat)) (free : Nat) : Result :=
  match q.work with
  | .update => { progress := done, r0 := done, r1 := flags.word, r2 := 0, r3 := 0 }
  | .audit =>
    let l := carry.getD 4 []
    { progress := done, r0 := done, r1 := flags.word, r2 := l.length, r3 := l.headD 0xFFFFFFFF }
  | .digest =>
    let g := Dig.of d
    { progress := done, r0 := done, r1 := 0, r2 := if done = g.leaves then treeNodes g.leaves else done, r3 := 0 }
  | .compare =>
    let l := carry.getD 1 []
    let n := (carry.headD []).headD 0
    { progress := n, r0 := n, r1 := 0, r2 := l.length, r3 := l.headD free }
  | _ => Result.zero

end Sys2Proof.Machine
end

