-- ==== Sys2Proof/Machine/NearBank.lean ====
section
/-! DEFINITION. Near-bank units (chapter 8): commands from rings and cores (R245 to R248, R251, R253), the choice of a
sequence (R247), its steps and gaps (R239 to R243), suspension (R249), status words (R250) and reset (R253), with
ATTN_DECODE's queueing (R287). A unit's step takes effect whole when it ends (R242). -/
namespace Sys2Proof.Machine
open Sys2Proof

/-- Near-bank units. -/
def nbUnits : Nat := 512

/-- A unit of the model at work on a sequence. -/
def Nbx.start (s : State) (n sag : Nat) (flags : Flags) : Nbx :=
  { s := s, n := n, sag := sag, flags := flags, bad := none, rowBad := false, fail := 0, failOp := none }

/-- Results that a running sequence has so far (R250; Tables 9-3 and 10-6). -/
def NbRunning.result (r : NbRunning) (free : Nat) : Result :=
  match r.seq.work with
  | .uops | .attn => { progress := r.opsDone, r0 := r.opsDone, r1 := r.flags.word, r2 := r.steps, r3 := 0 }
  | _ => workWords r.seq (r.ops.headD []) r.opsDone r.flags r.carry free

namespace State

/-! ### Acceptance -/

/-- Statuses that any near-bank command of a saggar may get: the unit (R245), its share (Table 8-9), a retired channel
(R463), and, where it matters, a unit in reset (R253). -/
def nbUnitCheck (s : State) (sag n : Nat) (resetMatters : Bool) : List Nat :=
  if nbUnits ≤ n then [0x0101]
  else
    [check ((s.nb n).shares.get (fun _ => 0) sag == 0) 0x0230, check (s.chanRetired n) 0x05E0,
     check (resetMatters && (s.nb n).state == .inReset) 0x0602]

/-- Room in a unit's queue (R246). -/
def nbQueueCheck (s : State) (n : Nat) : Nat := check (decide (n < nbUnits) && decide (32 ≤ (s.nb n).queue.length)) 0x0330

/-- Status of NB_RUN (R246, R10, R339). -/
def nbRunCheck (s : State) (sag n count seq status : Nat) : Nat :=
  lowest (s.nbUnitCheck sag n true ++
    [s.nbQueueCheck n, check (count == 0) 0x0102, check (decide (4096 < count)) 0x0101, check (seq % 32 != 0) 0x0103,
     s.statusAddrCheck sag status false])

/-- Status of a command whose descriptor lies at a channel offset (R263, R287, R303). -/
def nbDescCheck (s : State) (sag n desc status : Nat) : Nat :=
  lowest (s.nbUnitCheck sag n true ++
    [s.nbQueueCheck n, check (desc % 64 != 0) 0x0103, s.statusAddrCheck sag status false])

/-! ### Status words (R250, R340) -/

/-- Write the status word of a sequence. One that a core sent has no ring: the manual gives the RING field no value
there. -/
def nbWord (s : State) (q : NbSeq) (st status : Nat) (r : Result) : State :=
  match q.cmd with
  | some id => s.statusWord id q.statusAddr st status r
  | none =>
    (s.draw).putStatusWord q.saggar q.statusAddr
      (statusBytes q.tag st status q.opcode (q.updates + 1) r (Config.freeWord s.free).toNat)

/-- The sequence after a write of its status word. -/
def worded (q : NbSeq) : NbSeq := { q with updates := q.updates + 1 }

/-- A sequence ends: its status word, its completion when a ring carried it, and its place among the KV services. -/
def nbFinish (s : State) (q : NbSeq) (status : Nat) (r : Result) : State :=
  let s := s.nbWord q (endState status) status r
  match q.cmd with
  | some id => ({ s with kvs := s.kvs.filter (fun k => k.1 != id) }).finish id status r
  | none => s

/-- Queue a sequence on its unit: its status word reads queued (R250). -/
def nbQueue (s : State) (n : Nat) (q : NbSeq) : State :=
  let s := s.nbWord q 1 0 Result.zero
  let s := s.modNb n (fun u => { u with queue := u.queue ++ [worded q] })
  match q.cmd with
  | some id => s.setPhase id .queued
  | none => s

/-- The sequence of a command with the parameters of NB_RUN (Table 8-6). -/
def runSeq (cmd : Option Nat) (sag tag ring job : Nat) (p : Nat → Nat → Nat) : NbSeq :=
  { work := .uops, cmd := cmd, opcode := 0x300, saggar := sag, tag := tag, ring := ring, job := job, count := p 2 2, addr := p 4 4,
    statusAddr := p 8 8 % 2 ^ 52, updates := 0, seed := BitVec.ofNat 64 (p 16 8), absLimit := BitVec.ofNat 32 (p 24 4),
    lossScale := BitVec.ofNat 32 (p 28 4), step := 0, kill := 0 }

/-- The sequence of a command of chapters 9 and 10 that runs on a near-bank unit (Tables 9-3 and 10-7). -/
def descSeq (c : Cmd) (work : NbWork) : NbSeq :=
  { work := work, cmd := some c.id, opcode := c.opcode, saggar := c.saggar, tag := c.tag, ring := c.ringNo, job := c.job, count := 1,
    addr := c.addr 8, statusAddr := c.addr 16, updates := 0, seed := 0
    absLimit := if work = .attn then BitVec.ofNat 32 (c.p 24 4) else 0
    lossScale := if work = .attn then BitVec.ofNat 32 (c.p 28 4) else 0
    step := c.p 32 8, kill := 0 }

/-! ### Starting (R247) -/

/-- Steps that a unit ran for a saggar in the last 100 ms. -/
def recentSteps (u : Nb) (now sag : Nat) : Nat := (u.recent.filter (fun p => p.1 == sag && decide (now < p.2 + 100000))).length

/-- Saggar `a` comes before saggar `b` on unit `u`: the smaller ratio of steps to share, a share of 0 last, ties to the
lower number. -/
def nbBefore (u : Nb) (now a b : Nat) : Bool :=
  let sa := u.shares.get (fun _ => 0) a
  let sb := u.shares.get (fun _ => 0) b
  let ra := recentSteps u now a * sb
  let rb := recentSteps u now b * sa
  if sa = 0 ∨ sb = 0 then (if sa ≠ 0 then true else if sb ≠ 0 then false else decide (a < b))
  else decide (ra < rb) || (ra == rb && decide (a < b))

/-- A queued sequence may start: its saggar is not brought to a quiescence point, and, when it reads or writes pages, no
earlier service that conflicts waits (R282, R351). -/
def mayStart (s : State) (q : NbSeq) : Bool :=
  (s.saggar q.saggar).quiescing == 0 && (match q.cmd with
    | some id => s.kvFree id
    | none => true)

/-- Place in the queue of the sequence that starts next (R247). -/
def nbChoose (s : State) (n : Nat) : Option Nat :=
  let u := s.nb n
  (u.queue.zipIdx.filter (fun q => s.mayStart q.1)).foldl (fun (b : Option (Nat × Nat)) q => match b with
    | none => some (q.2, q.1.saggar)
    | some (k, sag) => if q.1.saggar ≠ sag ∧ nbBefore u s.nowUs q.1.saggar sag then some (q.2, q.1.saggar) else some (k, sag)) none
  |>.map (·.1)

/-- The stack of a unit has reached 95 °C: it starts no step (R445). -/
def nbHeldNow (s : State) (n : Nat) : Bool := s.thermal.nbHeld.getLsbD (n / 32)

/-- Serve every ordinary request that waited: no sequence runs on the channel any more (R243). -/
def drainGap (s : State) (n : Nat) : State :=
  let l := (s.nb n).gapq
  l.foldl (fun s p => s.attachServe n p { ce := [], ue := [] })
    (s.modNb n (fun u => { u with gapq := [], gapReady := 0, gapWaited := 0 }))

/-- A unit's sequence ends with a status. -/
def nbEnd (s : State) (n : Nat) (r : NbRunning) (status : Nat) : State :=
  let s := s.nbFinish r.seq status (r.result ((Config.freeWord s.free).toNat % 2 ^ 32))
  (s.draw.modNb n (fun u => { u with state := .idle, running := none })).drainGap n

/-- Event 0x4001: a sequence failed on uncorrectable data at a channel offset (Table 8-11). -/
def nbBadEvent (s : State) (n : Nat) (q : NbSeq) (off steps : Nat) : State :=
  s.record 0x4001 4 n (some q.saggar) q.job (p4 n ++ p4 q.tag ++ p8 off ++ p4 steps)
/-- Event 0x4004: a sequence was refused for the ownership of a frame. -/
def nbFrameEvent (s : State) (n : Nat) (q : NbSeq) (frame : Nat) : State :=
  s.record 0x4004 4 n (some q.saggar) q.job (p4 n ++ p4 q.saggar ++ p4 frame)

/-- Start a sequence: the scratch is cleared, the sequence fetched and checked, and its first step begins, or it ends as
failed with nothing written (R239, R247). -/
def nbStart (s : State) (n : Nat) (q : NbSeq) : State :=
  let s := s.modNb n (fun u => { u with scratch := [], scratchBad := [] })
  let s := s.nbWord q 2 0 Result.zero
  let q := worded q
  let p := workPlan (Nbx.start s n q.saggar Flags.none) q
  let r : NbRunning :=
    { seq := q, ops := workStore p.x q, left := p.left, opsDone := 0, steps := 0, flags := Flags.none, carry := [], fail := 0 }
  let s := p.x.s
  if p.notRun then
    (s.nbFinish q 0 { Result.zero with r1 := 2 ^ 31 }).drainGap n
  else if p.status ≠ 0 then
    let s := if p.status = 0x0520 then s.nbBadEvent n q (p.x.bad.getD 0) 0 else s
    let s := match p.frame with
      | some f => if p.status = 0x0220 then s.nbFrameEvent n q f else s
      | none => s
    s.nbFinish q p.status Result.zero
  else
    let s := match q.cmd with
      | some id => s.setPhase id .running
      | none => s
    s.modNb n (fun u => { u with state := .inStep, running := some r })

/-! ### A step (R235, R240 to R242) -/

/-- The step has a dot product on the narrow lanes, which the residue checks. -/
def stepNarrow (r : NbRunning) (sl : List Slice) : Bool :=
  match r.seq.work with
  | .uops => sl.any (fun x => let u := Uop.of (r.ops.getD x.op [])
                              u.op == 1 && narrowFmt u.fa)
  | .attn => let a := Attn.of (r.ops.headD [])
             narrowFmt a.qf || narrowFmt a.pf
  | _ => false

/-- What a step counts toward result word 0: operations, pages, blocks or leaves that it completes, or elements. -/
def stepDone (r : NbRunning) (sl : List Slice) : Nat :=
  match r.seq.work with
  | .update => (sl.map (·.len)).foldl (· + ·) 0
  | _ => (sl.filter (·.lastOfOp)).length

/-- Upsets of scratch words: numbers from 2⁵² on name the words of the unit's scratch. -/
def strikeScratch (s : State) (n : Nat) (x : Strikes) : State :=
  let s := s.strike { ce := x.ce.filter (fun a => decide (a < 2 ^ 52)), ue := x.ue.filter (fun a => decide (a < 2 ^ 52)) }
  let words := (x.ue.filter (fun a => decide (2 ^ 52 ≤ a))).map (fun a => (a - 2 ^ 52) % 2 ^ 15)
  let s := s.modNb n (fun u => { u with scratchBad := words.foldl (fun l w => insertNat w l) u.scratchBad })
  (x.ce.filter (fun a => decide (2 ^ 52 ≤ a))).foldl (fun s _ => s.countCe (5120 + n)) s

/-- Run the slices of a step: the unit after, and what is carried on. -/
def runStep (x : Nbx) (env : NbEnv) (r : NbRunning) (sl : List Slice) : Nbx × List (List Nat) :=
  sl.foldl (fun st q => st.1.workSlice env r q st.2) (x, r.carry)

/-- The running sequence goes into the gap after a step, or is suspended there (R243, R249). -/
def nbGap (s : State) (n : Nat) (r : NbRunning) : State :=
  if (s.saggar r.seq.saggar).quiescing ≠ 0 then
    (s.modNb n (fun u => { u with state := .suspended, running := some r })).drainGap n
  else s.modNb n (fun u => { u with state := .inGap, running := some r, gapReady := u.gapq.length })

/-- A step ends. -/
def nbStepEnd (s : State) (n : Nat) (r : NbRunning) (strikes : Strikes) (residue : Nat) : State :=
  let sl := r.left.headD []
  let s := s.strikeScratch n strikes
  let narrow := stepNarrow r sl && decide (0 < residue)
  let lost := narrow && decide (2 ≤ residue)
  let s := if narrow && !lost then
      ((s.countCe (5120 + n)).modNb n (fun u => { u with retry := satAdd (top 32) u.retry 1 })).record 0x4002 4 n (some r.seq.saggar) r.seq.job []
    else s
  let env : NbEnv :=
    { seed := r.seq.seed.toNat, limit := r.seq.absLimit.toNat, loss := r.seq.lossScale.toNat, residueFail := lost }
  let x0 := Nbx.start s n r.seq.saggar r.flags
  let out := if lost && r.seq.work == .attn then ({ x0 with fail := 0x0540 }, r.carry) else runStep x0 env r sl
  let x := out.1
  let u := x.s.nb n
  let s := x.s.setNb n { u with
    stepsRun := (u.stepsRun + 1) % 2 ^ 64
    recent := (u.recent.filter (fun p => decide (s.nowUs < p.2 + 100000))) ++ [(r.seq.saggar, s.nowUs)] }
  let s := if x.fail = 0x0540 then
      (s.modRegion (5120 + n) (fun g => { g with ueTotal := satAdd (top 32) g.ueTotal 1 })).record 0x4003 4 n
        (some r.seq.saggar) r.seq.job [] else s
  let opsDone := match x.failOp with
    | some k => min (r.opsDone + stepDone r sl) (max r.opsDone k)
    | none => if x.fail = 0 then r.opsDone + stepDone r sl else r.opsDone
  let published := r.seq.work == .uops && (span r.opsDone (opsDone - r.opsDone)).any (fun k => (Uop.of (r.ops.getD k [])).publish)
  let r := { r with left := r.left.tail, opsDone := opsDone, steps := r.steps + 1, flags := x.flags, carry := out.2 }
  let s := match x.bad with
    | some off => s.nbBadEvent n r.seq off r.steps
    | none => s
  let status := lowest [check x.bad.isSome 0x0520, x.fail]
  let status := if status = 0 then r.seq.kill else status
  if status ≠ 0 then s.nbEnd n r status
  else if r.left.isEmpty then s.nbEnd n r 0
  else
    let s := s.nbWord r.seq (if published then 3 else 2) 0 (r.result ((Config.freeWord s.free).toNat % 2 ^ 32))
    s.draw.nbGap n { r with seq := worded r.seq }

/-- The next step starts after a gap or a suspension: it waits while the stack is too hot (R445), is suspended while its
saggar is brought to a quiescence point, and ends when a commit took a frame that it still needs (R249). -/
def nbResume (s : State) (n : Nat) (r : NbRunning) (wasSuspended : Bool) : State :=
  if r.seq.kill ≠ 0 then s.nbEnd n r r.seq.kill
  else if (s.saggar r.seq.saggar).quiescing ≠ 0 then
    if wasSuspended then s else (s.modNb n (fun u => { u with state := .suspended })).drainGap n
  else
    let x := Nbx.start s n r.seq.saggar Flags.none
    let frame := if wasSuspended then (workRanges x r).findSome? (fun q => s.nbForeign r.seq.saggar q.1 q.2) else none
    match frame with
    | some f => (s.nbFrameEvent n r.seq f).nbEnd n r 0x0220
    | none =>
      if s.nbHeldNow n then s.modNb n (fun u => { u with state := .inGap, gapReady := u.gapq.length })
      else s.modNb n (fun u => { u with state := .inStep })

/-- Cancel the sequence with a tag that a saggar holds on a unit: a queued one ends at once, the running one at its next
step boundary; none when the unit holds no such sequence (R248). -/
def nbCancel (s : State) (n sag tag : Nat) : Option State :=
  let u := s.nb n
  match u.running with
  | some r =>
    if r.seq.saggar = sag ∧ r.seq.tag = tag then
      some (s.modNb n (fun u => { u with running := some { r with seq := { r.seq with kill := if r.seq.kill = 0 then 1 else r.seq.kill } } }))
    else queued u
  | none => queued u
where
  /-- Cancel among the queued sequences. -/
  queued (u : Nb) : Option State :=
    (u.queue.find? (fun q => q.saggar == sag && q.tag == tag)).map (fun q =>
      (s.setNb n { u with queue := removeFirst (fun x => x.saggar == sag && x.tag == tag) u.queue }).nbFinish q 1 Result.zero)

/-- FENCE_NB: every write of every completed step is in the banks; the channel's read buffer is discarded (R251). -/
def nbFence (s : State) (n : Nat) : State := s.modNb n (fun u => { u with readBuf := [] })

/-- A unit that was asked to is at a step boundary (R253). -/
def atBoundary (u : Nb) : Bool := u.state != .inStep && u.state != .inReset

end State

/-! ### Commands -/

/-- NB_RUN, opcode 0x300: queue a sequence (R245, R246, R250). -/
def execNbRun (id : Nat) (s : State) : Out :=
  match s.ready id 0x300 with
  | none => .next s
  | some c =>
    let n := c.p 0 2
    let q := State.runSeq (some id) c.saggar c.tag c.ringNo c.job c.p
    let st := s.nbRunCheck c.saggar n q.count q.addr q.statusAddr
    if st ≠ 0 then .next (s.refuse id st) else .next (s.nbQueue n q)

/-- FENCE_NB, opcode 0x301 (R251). -/
def execFenceNb (id : Nat) (s : State) : Out :=
  match s.ready id 0x301 with
  | none => .next s
  | some c =>
    let n := c.p 0 2
    let st := lowest (s.nbUnitCheck c.saggar n false)
    if st ≠ 0 then .next (s.refuse id st) else .next ((s.nbFence n).finish id 0 Result.zero)

/-- NB_CANCEL, opcode 0x302 (R248). -/
def execNbCancel (id : Nat) (s : State) : Out :=
  match s.ready id 0x302 with
  | none => .next s
  | some c =>
    let n := c.p 0 2
    let t := s.nbCancel n c.saggar (c.p 2 2)
    let st := lowest (s.nbUnitCheck c.saggar n true ++ [check (decide (n < nbUnits) && t.isNone) 0x0142])
    if st ≠ 0 then .next (s.refuse id st) else .next ((t.getD s).finish id 0 Result.zero)

/-- NB_RESET, opcode 0x303: the unit enters reset at the next step boundary, and the command completes when it has
returned (R253, R490). -/
def execNbReset (id : Nat) (s : State) : Out :=
  match s.ready id 0x303 with
  | none => .next s
  | some c =>
    let n := c.p 0 2
    let st := lowest (s.nbUnitCheck c.saggar n true)
    if st ≠ 0 then .next (s.refuse id st)
    else .next ((s.modNb n (fun u => { u with resetAsked := true, waiters := u.waiters ++ [id] })).setPhase id .running)

/-- NB_CORE_COMMAND: a core sends a 64-byte command packet to a unit; the response carries the acceptance status, and there
is no completion (R245, R336, R62, R64). -/
def execNbCoreCommand (site unit : Nat) (checkEpoch : Bool) (packet : List Byte) (s : State) : Out :=
  if sitesN ≤ site ∨ (s.site site).inReset ∨ (s.core site).run ≠ .running then .next s
  else
    match s.siteOwner site with
    | none => .next (s.remoteStatus site 0x0210)
    | some sag =>
      let p := fieldAt packet
      let op := p 0 2 % 4096
      let par := fun lo n => p (16 + lo) n
      let n := par 0 2
      let q := State.runSeq none sag (p 4 2) 0 (p 8 2) par
      let stale := checkEpoch && s.heardEpoch sag (channelCode unit) != (s.nb unit).epoch
      let st := if nbUnits ≤ unit then 0x0110
        else if op ∉ [0x300, 0x301, 0x302, 0x303] then 0x0107
        else lowest ([check stale 0x0601, check (n != unit) 0x0101] ++ s.nbUnitCheck sag unit (op != 0x301) ++
          (if op = 0x300 then [s.nbRunCheck sag unit q.count q.addr q.statusAddr]
           else if op = 0x302 then [check (s.nbCancel unit sag (par 2 2)).isNone 0x0142] else []))
      if st ≠ 0 then .next (s.remoteStatus site st)
      else if op = 0x300 then .next (s.nbQueue unit q)
      else if op = 0x301 then .next (s.nbFence unit)
      else if op = 0x302 then .next ((s.nbCancel unit sag (par 2 2)).getD s)
      else .next (s.modNb unit (fun u => { u with resetAsked := true }))

/-- ATTN_DECODE, opcode 0x403: queue an attention on a near-bank unit; a mass pass takes its place among the services that
write pages (R263, R282, R287). -/
def execAttnDecode (id : Nat) (s : State) : Out :=
  match s.ready id 0x403 with
  | none => .next s
  | some c =>
    let n := c.p 0 2
    let st := s.nbDescCheck c.saggar n (c.addr 8) (c.addr 16)
    if st ≠ 0 then .next (s.refuse id st)
    else
      let look := fun (a k : Nat) => if a + k ≤ 2 ^ 31 then (List.range k).map (fun i => s.byteAt (linOf n a + i)) else []
      let a := Attn.of (look (c.addr 8) 128)
      let t := look a.table (8 * a.count)
      let pages := if t.isEmpty then [] else (List.range a.count).map (fun i => linOf n (fieldAt t (8 * i) 8 % 2 ^ 31))
      .next (({ s with kvs := s.kvs ++ [(id, pages, a.mass)] }).nbQueue n (State.descSeq c .attn))

/-! ### What units do -/

/-- NB_SEQUENCE_START: an idle unit starts the queued sequence that R247 chooses. -/
def execNbSequenceStart (unit : Nat) (s : State) : Out :=
  let u := s.nb unit
  if nbUnits ≤ unit ∨ u.state ≠ .idle ∨ u.resetAsked ∨ s.nbHeldNow unit then .next s
  else
    match s.nbChoose unit with
    | none => .next s
    | some k =>
      match u.queue[k]? with
      | none => .next s
      | some q => .next ((s.setNb unit { u with queue := dropAt u.queue k }).nbStart unit q)

/-- NB_STEP_END: the running step ends: its effects apply whole, the status word is updated, and the gap begins or the
sequence ends (R235, R240 to R243, R248 to R250). -/
def execNbStepEnd (unit : Nat) (strikes : Strikes) (residue : Nat) (s : State) : Out :=
  let u := s.nb unit
  match u.running with
  | some r => if u.state = .inStep then .next ((s.nbStepEnd unit r strikes residue).unitSettle unit) else .next s
  | none => .next s

/-- NB_GAP_END: the gap's requests are served and the next step starts; a suspended sequence goes on here once its saggar
is released (R243, R249). -/
def execNbGapEnd (unit : Nat) (s : State) : Out :=
  let u := s.nb unit
  match u.running with
  | some r =>
    if u.state = .inGap then
      if u.resetAsked then .next (s.serveGap unit) else .next ((s.serveGap unit).nbResume unit r false)
    else if u.state = .suspended ∧ !u.resetAsked then .next (s.nbResume unit r true)
    else .next s
  | none => .next s

/-- NB_RESET_ENTRY: at a step boundary the unit enters reset; its running sequence and every queued one end with 0x0602
(R253, R63, R396). -/
def execNbResetEntry (unit : Nat) (s : State) : Out :=
  let u := s.nb unit
  if u.resetAsked && State.atBoundary u then
    let s := s.setNb unit { u with state := .inReset, resetAsked := false, epoch := u.epoch + 1, queue := [], running := none }
    let s := (s.tellEpoch (channelCode unit) (u.epoch + 1)).bumpSessions (s.epochAudience (channelCode unit))
    let s := match u.running with
      | some r => s.nbFinish r.seq 0x0602 (r.result ((Config.freeWord s.free).toNat % 2 ^ 32))
      | none => s
    let s := u.queue.foldl (fun s q => s.nbFinish q 0x0602 Result.zero) s
    .next ((s.draw.drainGap unit).unitSettle unit)
  else .next s

/-- NB_UNIT_REWET_DONE: the unit returns with scratch, sequence store and queue cleared and its counters kept; event 0x4005
and the completions of the commands that reset it (R253). -/
def execNbUnitRewetDone (unit : Nat) (s : State) : Out :=
  let u := s.nb unit
  if u.state = .inReset then
    let s := s.setNb unit { u with state := .idle, epoch := u.epoch + 1, scratch := [], scratchBad := [], waiters := [] }
    let s := (s.tellEpoch (channelCode unit) (u.epoch + 1)).record 0x4005 4 unit none 0 []
    .next (u.waiters.foldl (fun s id => s.finish id 0 Result.zero) s)
  else .next s

end Sys2Proof.Machine
end

