-- ==== Sys2Proof/Machine/Reliability.lean ====
section
/-! DEFINITION. Reliability and the cistern (chapter 15): error buckets that leak (R457), scrubs (R459, R460), retirement of
granules and sites by command (R461, R464), the return of a site from rewet (R465, R466), the ledger mirror (R473), and
CIS_READ and CIS_CLEAR (R474, R476). -/
namespace Sys2Proof.Machine
open Sys2Proof

/-- Number of granules of stack memory (R197). -/
def granulesN : Nat := 524288

namespace State

/-! ### Scrubs (R459, R460) -/

/-- The authority of a scrub: an operator ring scrubs with PRIV (R459). -/
def scrubAuth (s : State) (c : Cmd) : Auth := if c.oper then Auth.firmware else s.engineAuth c.saggar

/-- The unit that ADDRESS and LENGTH must be multiples of. -/
def scrubUnit (a : Nat) : Nat := if a < columnBase then 64 else 8

/-- How a scrub's range is refused: a range it may not read gives 0x0220; a unit in reset refuses nothing yet. -/
def scrubReach (s : State) (c : Cmd) : Nat :=
  let st := s.reach (s.scrubAuth c) false (c.addr 0) (c.p 8 8)
  if st = 0x0210 then 0x0220 else if st = 0x0602 then 0 else st

/-- The checks of REL_SCRUB (R459, R10, R339). -/
def scrubCheck (s : State) (c : Cmd) : Nat :=
  let u := scrubUnit (c.addr 0)
  lowest [check (c.p 8 8 = 0) 0x0102, check (c.addr 0 % u ≠ 0 ∨ c.p 8 8 % u ≠ 0) 0x0103,
    if c.p 8 8 = 0 then 0 else s.scrubReach c, s.statusAddrCheck c.saggar (c.addr 16) true,
    check (decide (64 ≤ s.rel.scrubs.length)) 0x03E3]

/-- Scrub one unit: its status when it cannot be read, else it is corrected or counted (R208, R458, R460). -/
def scrubOne (s : State) (c : Cmd) (x : Scrub) (a : Nat) : State × Scrub :=
  let u := scrubUnit x.addr
  let st := s.reach (s.scrubAuth c) false a u
  if st ≠ 0 then (s, { x with status := st })
  else
    let lin := ((s.segs a u).map (·.lin)).headD a
    let fixes := decide (lin ∈ s.latentCe) && (s.badUnit lin u).isNone
    let before := (s.rel.granState.filter (fun p => p.2 == 1)).length
    let r := s.load 9 0xFFFF a u
    let after := (r.1.rel.granState.filter (fun p => p.2 == 1)).length
    (r.1, { x with read := x.read + 1, corrected := x.corrected + b2n fixes, bad := x.bad + b2n r.2.1.isSome
                   marked := x.marked + (after - before) })

/-- Scrub units in ascending order until one cannot be read. -/
def scrubUnits (c : Cmd) : Nat → Nat → State × Scrub → State × Scrub
  | 0, _, r => r
  | n + 1, a, (s, x) =>
    if x.status ≠ 0 then (s, x) else scrubUnits c n (a + scrubUnit x.addr) (s.scrubOne c x a)

def setScrub (s : State) (x : Scrub) : State :=
  { s with rel := { s.rel with scrubs := replaceFirst (fun y => y.cmd == x.cmd) (fun _ => x) s.rel.scrubs } }

/-- Result words of a scrub (R459). -/
def scrubResult (x : Scrub) : Result :=
  { progress := x.read * scrubUnit x.addr / 1024, r0 := x.read, r1 := x.corrected, r2 := x.bad, r3 := x.marked }

/-! ### Reading the cistern (R474) -/

/-- The entries that a CIS_READ may give, in ascending SEQ. -/
def cisEntries (s : State) (c : Cmd) : List Entry :=
  let l := if bitAt (c.p 18 1) 3 then s.rel.mirror else s.rel.entries
  (l.filter (fun e => decide (c.p 0 8 ≤ e.seq ∧ c.p 18 1 % 8 ≤ e.severity) &&
      (c.oper || (e.hasSaggar && e.saggar == c.saggar)))).map
    (fun e => if c.oper then e else { e with suppressed := 0 })

/-- The lowest SEQ held in the store that a CIS_READ reads, none when it is empty. -/
def cisLowest (s : State) (c : Cmd) : Option Nat :=
  ((if bitAt (c.p 18 1) 3 then s.rel.mirror else s.rel.entries).map (·.seq)).head?

end State

/-- CE_BUCKET_LEAK: every CE_LEAK_S seconds of the management counter each LEVEL falls by 1 (R457). -/
def execCeBucketLeak (s : State) : Out :=
  if s.nowUs < s.rel.leakUs + s.rel.ceLeakS * 1000000 then .next s
  else
    let s := { s with rel := { s.rel with leakUs := s.nowUs } }
    .next ((s.rel.regions.map (·.1)).foldl (fun s r => s.modRegion r (fun g => { g with level := g.level - 1 })) s)

/-- REL_SCRUB, opcode 0x800: the scrub joins the queue (R459). -/
def execRelScrub (id : Nat) (s : State) : Out :=
  match s.ready id 0x800 with
  | none => .next s
  | some c =>
    let st := s.scrubCheck c
    if st ≠ 0 then .next (s.refuse id st)
    else
      let x : Scrub :=
        { cmd := id, addr := c.addr 0, length := c.p 8 8, statusAddr := wordOrNone (c.addr 16), started := false, read := 0
          corrected := 0, bad := 0, marked := 0, status := 0 }
      let s := { s with rel := { s.rel with scrubs := s.rel.scrubs ++ [x] } }
      .next ((s.statusWord id x.statusAddr 1 0 Result.zero).setPhase id .queued)

/-- SCRUB_START: one of sixteen engines runs the next scrub of the queue over its range (R459, R460). -/
def execScrubStart (id : Nat) (strikes : Strikes) (s : State) : Out :=
  match s.rel.scrubs.find? (fun x => !x.started), s.inPhase id 0x800 .queued with
  | some x, some c =>
    if x.cmd ≠ id ∨ 16 ≤ (s.rel.scrubs.filter (fun y => y.started)).length then .next s
    else
      let s := (s.statusWord id x.statusAddr 2 0 Result.zero).setPhase id .running
      let r := State.scrubUnits c (x.length / State.scrubUnit x.addr) x.addr (s.strike strikes, { x with started := true })
      .next (r.1.setScrub r.2)
  | _, _ => .next s

/-- SCRUB_COMPLETE: a scrub that has run its range, or has stopped, completes; with errors found event 0x8007 is recorded
(R459). -/
def execScrubComplete (id : Nat) (s : State) : Out :=
  match s.rel.scrubs.find? (fun x => x.cmd == id && x.started) with
  | none => .next s
  | some x =>
    let r := State.scrubResult x
    let s := { s with rel := { s.rel with scrubs := removeFirst (fun y => y.cmd == id) s.rel.scrubs } }
    let job := ((s.cmd? id).map (·.job)).getD 0
    let s := if x.corrected ≠ 0 ∨ x.bad ≠ 0 then
        s.recordFw 3 0x8007 none job (p4 r.r0 ++ p4 r.r1 ++ p4 r.r2 ++ p4 r.r3) else s
    .next (s.finishWord id x.statusAddr x.status r)

/-- REL_RETIRE_GRANULE, opcode 0x801: the granule becomes RETIRE_PENDING (R461). -/
def execRelRetireGranule (id : Nat) (s : State) : Out :=
  match s.ready id 0x801 with
  | none => .next s
  | some c =>
    if granulesN ≤ c.p 0 4 then .next (s.refuse id 0x0101)
    else .next ((s.retirePending (c.p 0 4)).finish id 0 Result.zero)

/-- REL_RETIRE_SITE, opcode 0x802: an active site is retired under R41 to R44 (R464). -/
def execRelRetireSite (id : Nat) (s : State) : Out :=
  match s.ready id 0x802 with
  | none => .next s
  | some c =>
    let i := c.p 0 2
    if sitesN ≤ i ∨ (s.site i).role ≠ .active then .next (s.refuse id 0x0101)
    else .next ((s.retireSite i .retired).settleResets.finish id 0 Result.zero)

/-- SITE_REWET_DONE: the rewet of a site in reset ends. The site returns with an odd epoch (R63, R465), or, when a unit at `bad`
reads back uncorrectable, stays in reset with ROLE 3 and event 0x8011 (R466); R464 then retires it. -/
def execSiteRewetDone (site : Nat) (bad : Option Nat) (s : State) : Out :=
  if sitesN ≤ site ∨ !s.siteMayReturn site then .next s
  else
    match bad with
    | none => .next ((s.returnSite site).siteReturned site).settleResets
    | some a =>
      let wasActive := (s.site site).role == .active
      let s := s.record 0x8011 1 site (s.siteOwner site) 0 (p4 site ++ p8 a)
      let s := if s.rel.autoRetire ∧ wasActive then s.autoRetire site 2 .failed
        else s.modSite site (fun x => { x with role := .failed, lcol := 63 })
      .next (s.siteReturned site).settleResets

/-- MIRROR_WRITE: an entry of severity 5 or 6 is written to the ledger mirror within 1 ms (R473). -/
def execMirrorWrite (seq : Nat) (s : State) : Out :=
  match s.rel.toMirror.find? (fun e => e.seq == seq) with
  | some e => .next (s.mirrorOne e)
  | none => .next s

/-- CIS_READ, opcode 0x808: copy entries that the caller may read to DEST, in ascending SEQ (R474). -/
def execCisRead (id : Nat) (s : State) : Out :=
  match s.ready id 0x808 with
  | none => .next s
  | some c =>
    let n := c.p 16 2
    let dest := c.addr 8
    let okDest := n = 0 ∨ s.reach (s.engineAuth c.saggar) true dest (64 * n) = 0
    let st := lowest [check (n = 0) 0x0102, check (1024 < n) 0x0101, check (!okDest) 0x0220]
    if st ≠ 0 then .next (s.refuse id st)
    else
      let l := (s.cisEntries c).take n
      let w := s.store 12 0xFFFF dest (l.flatMap entryBytes)
      match w.2 with
      | some _ => .next (w.1.finish id 0x0520 Result.zero)
      | none =>
        let next := if l.length = n then ((l.getLast?).map (fun e => e.seq + 1)).getD 0 else s.rel.nextSeq
        let below := match s.cisLowest c with
          | some q => decide (c.p 0 8 < q)
          | none => false
        .next (w.1.finish id 0
          { progress := 0, r0 := l.length, r1 := next % 2 ^ 32, r2 := next / 2 ^ 32 % 2 ^ 32, r3 := b2n below })

/-- CIS_CLEAR, opcode 0x809: entries at or below the limit leave the SRAM, and the mirror when asked; then event 0x8010 (R476). -/
def execCisClear (id : Nat) (s : State) : Out :=
  match s.ready id 0x809 with
  | none => .next s
  | some c =>
    let lim := c.p 0 8
    let both := bitAt (c.p 8 1) 0
    let keep := fun (e : Entry) => decide (lim < e.seq)
    let gone := (s.rel.entries.filter (fun e => !keep e)).length + (if both then (s.rel.mirror.filter (fun e => !keep e)).length else 0)
    let s := { s with rel := { s.rel with
      entries := s.rel.entries.filter keep, mirror := if both then s.rel.mirror.filter keep else s.rel.mirror } }
    .next ((s.recordFw 4 0x8010 none 0 (p8 lim ++ p4 gone ++ p4 (b2n both))).finish id 0 Result.zero)

end Sys2Proof.Machine
end

