-- ==== Sys2Proof/Machine/Resets.lean ====
section
/-! DEFINITION. The reset scopes of Table 16-5 (R490 to R492) and SAGGAR_CLOSE (R356). A site, sluice or ring returns in a row of
its own; a reset ends when every unit that it waits for has returned. -/
namespace Sys2Proof.Machine
open Sys2Proof

/-- What a reset covers: its scope code (the row of Table 16-5, from 0) and index, the saggar that its event names, and its
units. -/
structure Scope where
  code : Nat
  index : Nat
  owner : Option Nat
  sites : List Nat
  sluices : List Nat
  rings : List Nat
deriving DecidableEq, Repr

namespace State

/-! ### Which units (R490, R492) -/

/-- A site that will return from a reset: it serves, and its cluster is on. -/
def siteReturns (s : State) (i : Nat) : Bool :=
  s.siteServes i && !(s.site i).gated && !(s.cluster (clusterOf i)).asleep && !(s.cluster (clusterOf i)).dark

/-- Resets of Table 16-5 and RING_RESET in progress. -/
def running (s : State) : List ResetRun := s.fw.resets.filter (fun r => !r.wake)

/-- Every unit of a scope is already in reset under resets in progress (R492). A site that no reset could bring back counts as
one of those it was listed in. -/
def allTaken (s : State) (x : Scope) : Bool :=
  x.sites.all (fun i => (s.site i).inReset && (!s.siteReturns i || s.running.any (fun r => decide (i ∈ r.sites)))) &&
  x.sluices.all (fun n => (s.sluice n).state == .inReset && s.running.any (fun r => decide (n ∈ r.sluices))) &&
  x.rings.all (fun n => (s.ring n).inReset && s.running.any (fun r => decide (n ∈ r.rings))) &&
  (x.sites.any s.siteReturns || !x.sluices.isEmpty || !x.rings.isEmpty)

/-- A firmware activation runs (R492). A GLAZE_SET is one command of the model, so none is ever seen running. -/
def fwBusy (s : State) : Bool := s.fw.activation.isSome || s.fw.rtActivation.isSome

/-! ### Starting a reset -/

/-- Every unit of a scope enters reset, rings before sluices so that a ring reports the descriptor it interrupts (R329). -/
def enterScope (s : State) (x : Scope) : State :=
  x.sluices.foldl enterSluice (x.rings.foldl enterRing (x.sites.foldl enterSite s))

/-- The reset that a command starts: event 0x900C, and the units that it waits for (R490). -/
def beginReset (s : State) (c : Cmd) (x : Scope) (units : List Nat) (closing : Option Nat) : State :=
  let s := (s.enterScope x).recordFw 5 0x900C x.owner 0 (p4 x.code ++ p4 x.index ++ p4 c.ringNo)
  let r : ResetRun :=
    { cmd := some c.id, sites := x.sites.filter s.siteReturns, sluices := x.sluices, rings := x.rings, units := units
      closing := closing, wake := false }
  let s := s.setPhase c.id .running
  ({ s with fw := { s.fw with resets := s.fw.resets ++ [r] } }).settleResets

/-! ### The saggar scope (R490) -/

/-- The units of a saggar's reset: its rings, but for the issuing ring and its PAIR. -/
def saggarScope (s : State) (c : Cmd) (g : Nat) : Scope :=
  let spare := match c.origin with
    | .ring n => [n, (s.ring n).pair]
    | .mgmt _ => []
  { code := 1, index := g, owner := some g, sites := s.saggarSites g, sluices := s.saggarSluices g
    rings := (s.saggarRings g).filter (fun n => n ∉ spare) }

/-- The near-bank sequences of a saggar end with 0x0602: a queued one and one between steps at once, one in a step when the
step ends. -/
def killUnit (s : State) (g n : Nat) : State :=
  let u := s.nb n
  let mine := u.queue.filter (fun q => q.saggar == g)
  let s := s.setNb n { u with queue := u.queue.filter (fun q => q.saggar != g) }
  let s := mine.foldl (fun s q => s.nbFinish q 0x0602 Result.zero) s
  match u.running with
  | some r =>
    if r.seq.saggar ≠ g then s
    else if u.state = .inStep then s.modNb n (fun u => { u with running := some { r with seq := { r.seq with kill := 0x0602 } } })
    else s.nbEnd n r 0x0602
  | none => s

/-- Near-bank units that still run a sequence of a saggar. -/
def saggarUnits (s : State) (g : Nat) : List Nat :=
  (s.nbs.filter (fun p => p.2.running.any (fun r => r.seq.saggar == g))).map (·.1)

/-- The pours of a saggar end on one port: those it sends, and the one it receives with ABORT carrying 0x0602 (R387). -/
def killPours (s : State) (g port : Nat) : State :=
  let p := s.port port
  let mine := fun (x : Pour) => x.saggar == g && x.relay.isNone
  let gone := p.current.toList.filter mine ++ p.awaiting.filter mine ++ p.queue.filter mine
  let s := s.modPort port (fun q => { q with
    current := if q.current.any mine then none else q.current
    awaiting := q.awaiting.filter (fun x => !mine x), queue := q.queue.filter (fun x => !mine x) })
  let s := gone.foldl (fun s x => s.endPour port x 0x0602 true Report.none) s
  match p.recv with
  | some r => if r.resv.dstSaggar = g ∧ r.relay = none then s.abortRecv port 0x0602 else s
  | none => s

/-- The saggar reset of Table 16-5, for RST_SAGGAR and SAGGAR_CLOSE. -/
def resetSaggar (s : State) (c : Cmd) (g : Nat) (closing : Option Nat) : State :=
  let x := s.saggarScope c g
  let s := (s.nbs.map (·.1)).foldl (fun s n => s.killUnit g n) s
  let s := (s.ports.map (·.1)).foldl (fun s p => s.killPours g p) s
  let s := s.bumpSession g
  s.beginReset c x (s.saggarUnits g) closing

/-! ### The stack scope (R490, R491) -/

/-- Remap changes that wait apply at once: every site is in reset (R351, R492). -/
def applyRemaps (s : State) : State :=
  s.remaps.foldl (fun s r =>
    let s := r.moves.foldl (fun s m => s.modSite m.1 (fun x => { x with lcol := m.2, shiftPending := false })) s
    ((s.modSite r.retired (fun x => { x with shiftPending := false })).recordFw 5 0x2001 (s.siteOwner r.retired) 0 []).releaseSaggars
      r.waitFor) { s with remaps := [] }

/-- What TEST adds: VMESH is back, links and sites are tested and mended (R491, R32). -/
def testStack (s : State) (env : BringupEnv) : State :=
  let s := (s.applyRemaps.bondRepairs env).stackLinks env
  if s.linksStop env then s.stopBringup 10 3
  else
    let s := s.testSites env
    { s with pkg := { s.pkg with vmesh := true, computeLost := false } }

def stackScope : Scope :=
  { code := 3, index := 0, owner := none, sites := List.range sitesN, sluices := List.range 1024, rings := [] }

end State

/-- RST_CLUSTER, opcode 0x910: the four sites of a cluster (R490). -/
def execRstCluster (id : Nat) (s : State) : Out :=
  match s.ready id 0x910 with
  | none => .next s
  | some c =>
    let k := c.p 0 2
    let own := if (s.cluster k).assigned then some (s.cluster k).saggar else none
    let x : Scope := { code := 0, index := k, owner := own, sites := clusterSites k, sluices := [], rings := [] }
    let st := lowest [check (1151 < k) 0x0101, check (!c.oper && decide (k ≤ 1151) && own != some c.saggar) 0x02C0,
      check (decide (k ≤ 1151) && s.allTaken x) 0x0602]
    if !s.resetTurn c then .next s
    else if st ≠ 0 then .next (s.refuse id st) else .next (s.beginReset c x [] none)

/-- RST_SAGGAR, opcode 0x911: the units of a saggar, its near-bank sequences and its pours (R490). -/
def execRstSaggar (id : Nat) (s : State) : Out :=
  match s.ready id 0x911 with
  | none => .next s
  | some c =>
    let g := c.p 0 1 % 64
    let st := lowest [check (!c.oper && c.saggar != g) 0x0202, check (s.allTaken (s.saggarScope c g)) 0x0602]
    if !s.resetTurn c then .next s
    else if st ≠ 0 then .next (s.refuse id st) else .next (s.resetSaggar c g none)

/-- RST_DIE, opcode 0x912: every site of a die (R490). -/
def execRstDie (id : Nat) (s : State) : Out :=
  match s.ready id 0x912 with
  | none => .next s
  | some c =>
    let d := c.p 0 1 % 2
    let x : Scope := { code := 2, index := d, owner := none, sites := span (d * 2304) 2304, sluices := [], rings := [] }
    let st := lowest [check s.fwBusy 0x06F0, check (s.allTaken x) 0x0602]
    if !s.resetTurn c then .next s
    else if st ≠ 0 then .next (s.refuse id st) else .next (s.beginReset c x [] none)

/-- RST_STACK, opcode 0x913: every site and sluice; sensors recalibrate, and with TEST the stack is tested and mended (R490,
R491). -/
def execRstStack (id : Nat) (env : BringupEnv) (s : State) : Out :=
  match s.ready id 0x913 with
  | none => .next s
  | some c =>
    let x := State.stackScope
    let st := lowest [check s.fwBusy 0x06F0, check (s.allTaken x) 0x0602]
    if !s.resetTurn c then .next s
    else if st ≠ 0 then .next (s.refuse id st)
    else
      let s := (s.enterScope x).recalibrate env
      let s := if bitAt (c.p 0 1) 0 then s.testStack env else s
      .next (s.beginReset c x [] none)

/-- RST_PACKAGE, opcode 0x914: completes when it is accepted; a refire follows, or with BISQUE a bisque start (R490, R491). -/
def execRstPackage (id : Nat) (s : State) : Out :=
  match s.ready id 0x914 with
  | none => .next s
  | some c =>
    if !s.resetTurn c then .next s
    else if s.fwBusy then .next (s.refuse id 0x06F0)
    else
      let s := s.recordFw 5 0x900C none 0 (p4 4 ++ p4 0 ++ p4 c.ringNo)
      .next ({ s with fw := { s.fw with bringup := some (bitAt (c.p 0 1) 0) } }.finish id 0 Result.zero)

/-- SAGGAR_CLOSE, opcode 0x010: the saggar's unfetched commands complete with 0x0602, and every resource of it is reset; the
close goes on when the reset ends (R356). -/
def execSaggarClose (id : Nat) (s : State) : Out :=
  match s.ready id 0x010 with
  | none => .next s
  | some c =>
    let g := c.p 0 1 % 64
    if !s.resetTurn c then .next s
    else if (s.saggar g).active = false then .next (s.refuse id 0x0203)
    else if s.allTaken (s.saggarScope c g) ∨ s.running.any (fun r => r.closing == some g) then .next (s.refuse id 0x0602)
    else
      let subs := (s.saggarRings g).filter (fun n => (s.ring n).role == .submission && !(s.ring n).inReset)
      let s := subs.foldl (fun s n =>
        let r := s.ring n
        ((State.openSlots r).foldl (fun s k => s.lostEntry n r k) s).setRing n { r with head := r.tail }) s
      let s := s.flushCompls.holdSaggars [g]
      .next (s.resetSaggar c g (some g))

end Sys2Proof.Machine
end

