-- ==== Sys2Proof/Machine/Security.lean ====
section
/-! DEFINITION. Glazed settings (R501 to R504, R519, R521) and the security commands: quotes (R515, R516), the certificate
and SEC_EXTEND (R517), wrap keys (R523), pond and pair keys (R522, R524, R525) and identity re-keying (R521). -/
namespace Sys2Proof.Machine
open Sys2Proof

namespace State

/-- Status of a range that a command's data is read from or written to: a place in reset answers 0x0602, any other place that
the saggar may not use 0x0220. -/
def placeCheck (s : State) (sag : Nat) (write : Bool) (a n : Nat) : Nat :=
  let st := s.reach (s.engineAuth sag) write a n
  if st = 0 ∨ st = 0x0602 then st else 0x0220

/-- 64 bytes of a signature or of an ephemeral key: the randomness is secret, so every byte is free. -/
def freeBytes (s : State) (n : Nat) : List Byte := (List.range n).map (Config.freeByte s.free)

/-- Write a command's output and complete the command; an uncorrectable unit met by the write gives 0x0520. -/
def deliver (s : State) (id a : Nat) (bs : List Byte) (r : Result) : State :=
  let w := s.store 12 0xFFFF a bs
  if w.2.isSome then w.1.finish id 0x0520 Result.zero else w.1.finish id 0 r

/-! ### Keys (R389, R522, R524) -/

/-- Counters and replay windows of a key number are gone. -/
def forgetKey (s : State) (key : Nat) : State :=
  { s with sec := { s.sec with
    txCounters := s.sec.txCounters.filter (fun p => p.1 / 32 != key)
    replays := s.sec.replays.filter (fun p => p.1 / 64 != key) } }

/-- Erase the pond key of a port, which enters NO_KEY (R389, R519). -/
def erasePond (s : State) (port : Nat) : State :=
  let s := { s with sec := { s.sec with pondKeys := s.sec.pondKeys.drop port } }.forgetKey (pondKeyId port)
  let s := if (s.port port).state = .disabled ∨ (s.port port).state = .dark ∨ (s.port port).state = .noKey then s
    else s.portDown port .noKey 0
  (s.recordFw 5 0xA005 none 0 (p4 0 ++ p4 port)).extendDev 3 6 port zeroDigest

/-- Install the pond key of a port; a port in NO_KEY begins ranging (R389, R522). -/
def installPond (s : State) (port key : Nat) : State :=
  let s := { s with sec := { s.sec with pondKeys := (s.sec.pondKeys.drop port).place port key } }.forgetKey (pondKeyId port)
  let s := if (s.port port).state = .noKey then s.modPort port (fun p => { p with state := .ranging, faultCause := 0 }) else s
  (s.recordFw 5 0xA005 none 0 (p4 0 ++ p4 port)).extendDev 3 6 port zeroDigest

/-- A pair key of saggar and position was installed or erased: SMEAS of an active saggar (Table 17-1). -/
def measurePair (s : State) (k : Nat) (erase : Bool) : State :=
  if (s.saggar (k / 256)).active then
    let peer := s.fab.peers.get (fun _ => 0) k % 64
    s.extendSag (k / 256) 0x0014 (k % 256 + peer * 256 + b2n erase * 16384) zeroDigest
  else s

/-- The replay windows when a key follows another: those of the old key go to its grace number, and the new key starts with
none (R524). -/
def shiftReplays (t : Tbl Replay) (key : Nat) : Tbl Replay :=
  let old := t.filter (fun p => p.1 / 32 == 2 * key)
  let rest := t.filter (fun p => p.1 / 64 != key)
  old.foldl (fun (t : Tbl Replay) p => t.put (fun _ => { top := 0, seen := [] }) (p.1 + 32) p.2) rest

/-- Install a pair key: the old one stays for 10 ms, the counters restart at 0, and the session advances (R396, R522, R524). -/
def installPair (s : State) (k key : Nat) : State :=
  let old := (s.sec.pairKeys.find? (fun p => p.1 == k)).map (fun p => p.2.key)
  let id := pairKeyId k
  let v : PairKey := { key := key, previous := old, changedUs := s.nowUs }
  let s := { s with sec := { s.sec with
    pairKeys := (s.sec.pairKeys.drop k).place k v
    txCounters := s.sec.txCounters.filter (fun p => p.1 / 32 != id)
    replays := if old.isSome then shiftReplays s.sec.replays id else s.sec.replays.filter (fun p => p.1 / 64 != id) } }
  ((s.recordFw 5 0xA005 (some (k / 256)) 0 (p4 1 ++ p4 k)).bumpSession (k / 256)).measurePair k false

/-- Erase an installed pair key by command (R522). -/
def removePair (s : State) (k : Nat) : State :=
  if s.sec.pairKeys.any (fun p => p.1 == k) then (((s.erasePair k).forgetKey (pairKeyId k)).bumpSession (k / 256)).measurePair k true
  else s

/-- Bytes of a key record. -/
def keyRecordBytes (c : Cmd) : Nat := if c.p 0 1 = 1 ∧ bitAt (c.p 3 1) 0 then 44 else 16

/-- The key in a record: none when its tag fails under the wrap key (R522). -/
def recordKey (s : State) (c : Cmd) (b : List Byte) : Option Nat :=
  if c.p 0 1 = 1 ∧ bitAt (c.p 3 1) 0 then
    let sag := c.p 1 1 % 64
    let pos := c.p 2 1
    let aad := leBytes 1 sag ++ leBytes 1 pos ++ leBytes 1 (s.fab.peers.get (fun _ => 0) (sag * 256 + pos) % 64)
    match s.sec.wrapKeys.find? (fun p => p.1 == sag) with
    | none => none
    | some w =>
      let iv := beNat (b.take 12)
      let ct := (b.drop 12).take 16
      if gcmTag w.2 iv aad ct = (b.drop 28).take 16 then some (beNat (gcmCrypt w.2 iv ct)) else none
  else some (beNat (b.take 16))

/-- A saggar has an open wrap key. -/
def hasWrap (s : State) (sag : Nat) : Bool := s.sec.wrapKeys.any (fun p => p.1 == sag)

/-- The checks of SEC_KEY_SET that need no memory read (R522). -/
def keySetCheck (s : State) (c : Cmd) : Nat :=
  let kind := c.p 0 1
  let sag := c.p 1 1 % 64
  let wrapped := kind == 1 && bitAt (c.p 3 1) 0
  lowest [check (2 < kind) 0x01F8,
    check (!c.oper && (kind == 0 || (decide (kind ≤ 2) && sag != c.saggar))) 0x0202,
    if kind ≤ 1 then s.placeCheck c.saggar false (c.addr 8) (keyRecordBytes c) else 0,
    check (wrapped && !s.hasWrap sag) 0x03FA]

/-! ### Glazed settings (R501 to R504, R519, R521) -/

/-- Changes left of a setting. -/
def glazeLeft (s : State) (setting : Nat) : Nat :=
  if setting = 0 then s.fw.leftVariant else if setting = 1 then s.fw.leftIdentity else s.fw.leftOwner

/-- The value in force of a setting: the variant, the re-keys made, or 1 when an owner key is set. -/
def glazeValue (s : State) (setting : Nat) : Nat :=
  if setting = 0 then s.fw.variant else if setting = 1 then s.sec.rekeys else b2n s.sec.owned

/-- The authorisation of a change passes (R501, R503, R519, R521). Key 1 is the vendor's, key 2 + h that of the owner whose key
hashes to h. -/
def authPasses (s : State) (setting value : Nat) (auth : List Byte) : Bool :=
  if setting = 0 then
    decide (s.fw.variant ≤ value) ||
      (s.sec.identityOk && auth.length == 64 &&
        Config.sm2Verifies 1 (sm3 (Config.identityKey s.sec.rekeys) ++ leBytes 4 value ++ leBytes 1 s.fw.leftVariant) auth)
  else if setting = 1 then s.sec.candidate && Config.certifies auth (Config.identityKey (s.sec.rekeys + 1))
  else if s.sec.owned then
    s.sec.identityOk && auth.length == 128 &&
      Config.sm2Verifies (2 + leNat s.sec.ownerHash)
        (sm3 (Config.identityKey s.sec.rekeys ++ auth.take 64 ++ leBytes 1 s.fw.leftOwner)) (auth.drop 64)
  else auth.length == 64

/-- The checks of R502 on an authorisation, then that of R519. -/
def glazeCheck (s : State) (setting value : Nat) (auth : List Byte) : Nat :=
  staged [
    [check (!s.authPasses setting value auth) 0x02F0, check (s.glazeLeft setting = 0) 0x03F0,
      check (setting == 0 && !(decide (value ≤ 2) && bitAt s.fw.qualified value)) 0x03F1],
    [check (setting == 2 && s.saggars.any (fun p => p.2.active)) 0x03F9]]

/-- VARIANT is written: the value waits until the next bisque start (R503). -/
def glazeVariant (s : State) (value : Nat) : State :=
  { s with fw := { s.fw with pendingVariant := some value, leftVariant := s.fw.leftVariant - 1 } }.measureGlazed

/-- IDENTITY is re-keyed: k increments, and the new key and certificate take effect (R521). -/
def glazeIdentity (s : State) (cert : List Byte) : State :=
  let k := s.sec.rekeys + 1
  let s := { s with
    fw := { s.fw with leftIdentity := s.fw.leftIdentity - 1 }
    sec := { s.sec with rekeys := k, certificate := some cert, candidate := false } }
  (s.measureGlazed.extendDev 2 4 k (sm3 (Config.identityKey k))).recordFw 5 0xA009 none 0 (p4 k)

/-- OWNER is set or transferred: sessions close and pond keys are erased (R519). -/
def glazeOwner (s : State) (key : List Byte) : State :=
  let h := sm3 key
  let s := { s with
    fw := { s.fw with leftOwner := s.fw.leftOwner - 1 }
    sec := { s.sec with ownerHash := h, owned := true } }
  let s := s.fab.sessions.foldl closeSession s.measureGlazed
  let s := (s.sec.pondKeys.map (·.1)).foldl erasePond s
  (s.extendDev 3 5 s.changesLeft h).recordFw 5 0xA008 none 0 h

/-- The change itself. -/
def glazeApply (s : State) (setting value : Nat) (auth : List Byte) : State :=
  if setting = 0 then s.glazeVariant value else if setting = 1 then s.glazeIdentity auth else s.glazeOwner (auth.take 64)

/-- A passed change: the setting is written with its counter and a history record, event 0x900B, and the command completes with
the changes left and the history index (R502). -/
def glazeChange (s : State) (id setting value : Nat) (auth : List Byte) : State :=
  let index := s.fw.history.length
  let s := s.glazeApply setting value auth
  let v := if setting = 0 then value else s.glazeValue setting
  let left := s.glazeLeft setting
  let s := { s with fw := { s.fw with history := s.fw.history ++ [leBytes 1 setting ++ leBytes 4 v ++ leBytes 1 left] } }
  (s.recordFw 5 0x900B none 0 (p4 setting ++ p4 v ++ p4 left)).finish id 0 (Result.w01 left index)

/-! ### Quotes (R515, R516) -/

/-- A log entry as a quote holds it, 64 bytes. -/
def logBytes (b : List Byte) : List Byte := (b ++ List.replicate 64 0).take 64

/-- Entries that a quote of a scope holds. -/
def quoteLog (s : State) (scope sag : Nat) : List (List Byte) :=
  s.sec.dlog ++ (if scope = 1 then (s.saggar sag).slog else [])

/-- Bytes 0 to 255 + 64 n of a quote (Table 17-2). -/
def quoteBody (s : State) (scope sag : Nat) (nonce : List Byte) : List Byte :=
  let l := s.quoteLog scope sag
  let g := if scope = 1 then sag else 0
  leBytes 2 1 ++ leBytes 1 scope ++ leBytes 1 g ++ leBytes 4 (320 + 64 * l.length) ++ leBytes 8 s.rel.bootCount ++
  leBytes 4 l.length ++
  leBytes 1 (b2n s.sec.dlogOver + 2 * b2n (scope == 1 && (s.saggar sag).slogOver) + 4 * b2n s.sec.owned) ++
  leBytes 1 s.fw.variant ++ leBytes 1 s.fw.leftIdentity ++ leBytes 1 s.fw.leftOwner ++ List.replicate 8 0 ++
  nonce ++ s.meas 0 ++ s.meas 1 ++ s.meas 2 ++ s.meas 3 ++
  (if scope = 1 then (s.saggar sag).smeas else zeroDigest) ++ s.sec.ownerHash ++ l.flatMap logBytes

/-- A digest-sized field of the parameters: 32 bytes from byte 16 (R515, R517). -/
def digestParam (c : Cmd) : List Byte := ((c.params.drop 16) ++ List.replicate 32 0).take 32

/-- The checks of SEC_QUOTE (R511, R515). -/
def quoteCheck (s : State) (c : Cmd) : Nat :=
  let scope := c.p 12 1
  let sag := c.p 13 1 % 64
  let n := 320 + 64 * (s.quoteLog scope sag).length
  lowest [check (!s.sec.identityOk) 0x05F8, check (1 < scope) 0x01F8,
    check (scope == 1 && !c.oper && sag != c.saggar) 0x0202, check (c.p 8 4 = 0) 0x0102,
    check (c.p 8 4 ≠ 0 ∧ c.p 8 4 < n) 0x0101,
    s.placeCheck c.saggar true (c.addr 0) n]

end State

/-- GLAZE_SET, opcode 0x930: every check runs before any effect (R502). An authorisation of more than 2,048 bytes exceeds the
largest one that exists (R10). -/
def execGlazeSet (id : Nat) (s : State) : Out :=
  match s.ready id 0x930 with
  | none => .next s
  | some c =>
    let setting := c.p 0 1
    let n := c.p 16 4
    let st := lowest [check (2 < setting) 0x0101, check (2048 < n) 0x0101,
      if n = 0 ∨ 2048 < n then 0 else s.placeCheck c.saggar false (c.addr 8) n]
    if st ≠ 0 then .next (s.refuse id st)
    else
      let r := if n = 0 then (s, none, []) else s.load 7 0xFFFF (c.addr 8) n
      if r.2.1.isSome then .next (r.1.finish id 0x0520 Result.zero)
      else
        let bad := r.1.glazeCheck setting (c.p 4 4) r.2.2
        if bad ≠ 0 then .next (r.1.refuse id bad) else .next (r.1.glazeChange id setting (c.p 4 4) r.2.2)

/-- GLAZE_READ, opcode 0x931 (R504). -/
def execGlazeRead (id : Nat) (s : State) : Out :=
  match s.ready id 0x931 with
  | none => .next s
  | some c =>
    let setting := c.p 0 1
    if 2 < setting then .next (s.refuse id 0x0101)
    else
      .next (s.finish id 0
        { progress := 0, r0 := s.glazeValue setting
          r1 := if setting = 0 then s.fw.pendingVariant.getD 0xFFFFFFFF else 0xFFFFFFFF
          r2 := s.glazeLeft setting, r3 := if setting = 0 then s.fw.qualified else 0 })

/-- SEC_QUOTE, opcode 0xA00 (R515, R516). -/
def execSecQuote (id : Nat) (s : State) : Out :=
  match s.ready id 0xA00 with
  | none => .next s
  | some c =>
    let st := s.quoteCheck c
    if st ≠ 0 then .next (s.refuse id st)
    else
      let b := s.quoteBody (c.p 12 1) (c.p 13 1 % 64) (State.digestParam c) ++ s.freeBytes 64
      .next (s.draw.deliver id (c.addr 0) b (Result.w0 (320 + 64 * (s.quoteLog (c.p 12 1) (c.p 13 1 % 64)).length)))

/-- SEC_CERT_READ, opcode 0xA01: the certificate, at most 2,048 bytes, within the length given (R517). -/
def execSecCertRead (id : Nat) (s : State) : Out :=
  match s.ready id 0xA01 with
  | none => .next s
  | some c =>
    let b := s.certificateNow.take 2048
    let st := lowest [check (c.p 8 4 = 0) 0x0102, check (c.p 8 4 ≠ 0 ∧ c.p 8 4 < b.length) 0x0101,
      s.placeCheck c.saggar true (c.addr 0) b.length]
    if st ≠ 0 then .next (s.refuse id st) else .next (s.deliver id (c.addr 0) b (Result.w0 b.length))

/-- SEC_EXTEND, opcode 0xA02 (R514, R517). -/
def execSecExtend (id : Nat) (s : State) : Out :=
  match s.ready id 0xA02 with
  | none => .next s
  | some c =>
    let st := lowest [check c.oper 0x0202, check (!c.oper && decide (256 ≤ (s.saggar c.saggar).slog.length)) 0x03F8]
    if st ≠ 0 then .next (s.refuse id st)
    else .next ((s.extendSag c.saggar 0x0015 0 (State.digestParam c)).finish id 0 Result.zero)

/-- SEC_WRAP_OPEN, opcode 0xA03: the SM2 key exchange with a device ephemeral key gives a new wrap key (R523). What the
exchange yields is free. -/
def execSecWrapOpen (id : Nat) (s : State) : Out :=
  match s.ready id 0xA03 with
  | none => .next s
  | some c =>
    let st := lowest [check c.oper 0x0202, check (!s.sec.identityOk) 0x05F8, s.placeCheck c.saggar false (c.addr 0) 64,
      s.placeCheck c.saggar true (c.addr 8) 96]
    if st ≠ 0 then .next (s.refuse id st)
    else
      let r := s.load 12 0xFFFF (c.addr 0) 64
      if r.2.1.isSome then .next (r.1.finish id 0x0520 Result.zero)
      else
        let s := r.1
        let out := s.freeBytes 96
        let key := (Config.freeKey s.free).toNat
        let s := s.draw
        let s := { s with sec := { s.sec with wrapKeys := (s.sec.wrapKeys.drop c.saggar).place c.saggar key } }
        .next ((s.extendSag c.saggar 0x0013 0 (sm3 r.2.2)).deliver id (c.addr 8) out Result.zero)

/-- SEC_KEY_SET, opcode 0xA04: install a pond or pair key, or erase a pair key (R522). -/
def execSecKeySet (id : Nat) (s : State) : Out :=
  match s.ready id 0xA04 with
  | none => .next s
  | some c =>
    let kind := c.p 0 1
    let k := c.p 1 1 % 64 * 256 + c.p 2 1
    let st := s.keySetCheck c
    if st ≠ 0 then .next (s.refuse id st)
    else if kind = 2 then .next ((s.removePair k).finish id 0 Result.zero)
    else
      let r := s.load 12 0xFFFF (c.addr 8) (State.keyRecordBytes c)
      if r.2.1.isSome then .next (r.1.finish id 0x0520 Result.zero)
      else match r.1.recordKey c r.2.2 with
        | none => .next (r.1.refuse id 0x02F8)
        | some key =>
          .next ((if kind = 0 then r.1.installPond (c.p 1 1 % 32) key else r.1.installPair k key).finish id 0 Result.zero)

/-- SEC_REKEY_PREPARE, opcode 0xA05: the candidate public key and a signature over it (R521). -/
def execSecRekeyPrepare (id : Nat) (s : State) : Out :=
  match s.ready id 0xA05 with
  | none => .next s
  | some c =>
    let st := lowest [check (!s.sec.identityOk) 0x05F8, s.placeCheck c.saggar true (c.addr 0) 128]
    if st ≠ 0 then .next (s.refuse id st)
    else
      let b := (Config.identityKey (s.sec.rekeys + 1) ++ List.replicate 64 0).take 64 ++ s.freeBytes 64
      let s := s.draw
      .next ({ s with sec := { s.sec with candidate := true } }.deliver id (c.addr 0) b Result.zero)

/-- KEY_GRACE_EXPIRY: 10 ms after a change the previous key of a pair is accepted no longer (R524). -/
def execKeyGraceExpiry (saggar pos : Nat) (s : State) : Out :=
  let k := saggar * 256 + pos
  match s.sec.pairKeys.find? (fun p => p.1 == k) with
  | none => .next s
  | some p =>
    if p.2.previous.isNone ∨ s.nowUs < p.2.changedUs + 10000 then .next s
    else
      .next { s with sec := { s.sec with
        pairKeys := (s.sec.pairKeys.drop k).place k { p.2 with previous := none }
        replays := s.sec.replays.filter (fun q => q.1 / 32 != 2 * State.pairKeyId k + 1) } }

end Sys2Proof.Machine
end

