-- ==== Sys2Proof/Machine/Thermal.lean ====
section
/-! DEFINITION. Thermal control and the coolant interface (chapter 14). Temperatures are counts of 1/16 °C; biases, and the
model values that hold them, counts of 1/320 K. Durations of 20 ms are 80 updates of 250 µs. -/
namespace Sys2Proof.Machine
open Sys2Proof

/-! ### Points, sensors and clusters (R433, R436, R442) -/

/-- A point of the stack by its number. -/
inductive Pt where
  | site (i : Nat)
  | layer (l b : Nat)
  | foot (b : Nat)
  | die (d b : Nat)
  | stack (m : Nat)
  | none
deriving DecidableEq, Repr

def ptOf (p : Nat) : Pt :=
  if p < 4608 then .site p
  else if p < 4680 then .layer ((p - 4608) / 36) ((p - 4608) % 36)
  else if p < 4716 then .foot (p - 4680)
  else if p < 4788 then .die ((p - 4716) / 36) ((p - 4716) % 36)
  else if p < 4804 then .stack (p - 4788)
  else .none

/-- Sensors of a point. -/
def ptSensors : Pt → List Nat
  | .site i => [siteSensor i 0, siteSensor i 1]
  | .layer l b => [layerSensor l b]
  | .foot b => [regSensor b]
  | .stack m => [hbmSensor m]
  | _ => []

/-- Limit of a point in 1/16 °C (Table 14-2). -/
def ptLimit : Pt → Int
  | .layer _ _ => 95 * 16
  | .stack _ => 95 * 16
  | _ => 105 * 16

/-- The 32 clusters of a block (R433). -/
def blockClusters (b : Nat) : List Nat :=
  (List.range 2).flatMap (fun d => (List.range 16).map (fun k => d * 576 + (b / 6 * 4 + k / 4) * 24 + b % 6 * 4 + k % 4))

/-- Clusters that a point governs (R442, R443). -/
def ptClusters : Pt → List Nat
  | .site i => [clusterOf i]
  | .layer _ b => blockClusters b
  | .foot b => blockClusters b
  | _ => []

/-- A reading code as a temperature (R434). -/
def tempOf (code : Nat) : Int := if code % 65536 < 32768 then (code % 65536 : Nat) else (code % 65536 : Nat) - 65536

/-- Thermal cone of a margin in 1/16 K (Table 14-3). -/
def coneOfMargin (d : Int) : Nat :=
  if 112 < d then 0 else if 96 < d then 1 else if 80 < d then 2 else if 64 < d then 3 else if 48 < d then 4
  else if 32 < d then 5 else if 16 < d then 6 else 7

/-- Updates of 250 µs in 20 ms. -/
def updates20ms : Nat := 80

namespace State

/-- A sensor takes part in control: its reading is valid, and it is neither suspect nor failed (R438, R446). -/
def sensorGood (s : State) (k : Nat) : Bool :=
  let x := s.sensor k
  x.temp % 65536 != 0x8000 && !x.suspect && !x.failed

/-- Present model value of a point in 1/320 K, from the model's value in 1/16 K (R436). -/
def modelOf (s : State) (p : PointIn) : Int := p.node * 20 + (s.point p.point).bias

/-- A sensor departs from a model value by more than 6 K, or stays within a number of kelvin of it. -/
def departs (s : State) (k : Nat) (m : Int) : Bool := decide (6 * 320 < (tempOf (s.sensor k).temp * 20 - m).natAbs)
def within (s : State) (k : Nat) (m : Int) (kelvin : Nat) : Bool := decide ((tempOf (s.sensor k).temp * 20 - m).natAbs ≤ kelvin * 320)

/-- Reading that the sensors of a point select: the higher of those that take part (R438, R440). -/
def selected (s : State) (x : Pt) : Option Int :=
  match ((ptSensors x).filter s.sensorGood).map (fun k => tempOf (s.sensor k).temp) with
  | [] => none
  | a :: r => some (r.foldl max a)

/-- A point lies in a layer whose block is in hidden heating (R440). -/
def hidden (s : State) (x : Pt) : Bool :=
  match x with
  | .layer 1 b => (s.block b).hiddenL1
  | .site i => siteDie i == 0 && (s.block (blockOf i)).hiddenA
  | .die 0 b => (s.block b).hiddenA
  | _ => false

/-! ### One update (R436 to R440) -/

/-- Step 1: the sensors of a point are read; those of a site whose cluster is off give no valid reading (R434, R436). -/
def readSensors (s : State) (p : PointIn) : State :=
  ((ptSensors (ptOf p.point)).zip p.readings).foldl (fun s k =>
    let off := match ptOf p.point with
      | .site i => (s.site i).gated || (s.cluster (clusterOf i)).asleep || (s.cluster (clusterOf i)).dark
      | _ => false
    s.setSensor k.1 { s.sensor k.1 with temp := if off then 0x8000 else k.2 % 65536 }) s

/-- Step 3: the bias of a point with a good sensor moves toward the reading by at most 0.05 K, within 3 K (R436). -/
def moveBias (s : State) (p : PointIn) : State :=
  let x := ptOf p.point
  match (if s.hidden x then none else s.selected x) with
  | none => s
  | some r =>
    let q := s.point p.point
    let want := r * 20 - p.node * 20
    let step := max (-16) (min 16 (want - q.bias))
    s.setPoint p.point { q with bias := max (-960) (min 960 (q.bias + step)) }

/-- A sensor is marked suspect, with event 0x7002 (R438, R439). -/
def markSuspect (s : State) (k : Nat) (sag : Option Nat) (m : Int) : State :=
  (s.setSensor k { s.sensor k with suspect := true, departs := 0 }).recordFw 0 0x7002 sag 0
    (p4 k ++ pInt (tempOf (s.sensor k).temp) ++ pInt (m / 20))

/-- Count an update at which a sensor departs, or start the count again; at `n` of them it is suspect. -/
def countDepart (s : State) (k n : Nat) (sag : Option Nat) (m : Int) (yes : Bool) : State :=
  let x := s.sensor k
  if !yes then s.setSensor k { x with departs := 0 }
  else if n ≤ x.departs + 1 then s.markSuspect k sag m
  else s.setSensor k { x with departs := x.departs + 1 }

/-- The rules of a core pair (R438). -/
def pairRules (s : State) (i : Nat) (m : Int) : State :=
  let a := siteSensor i 0
  let b := siteSensor i 1
  let sag := s.siteOwner i
  let ra := tempOf (s.sensor a).temp
  let rb := tempOf (s.sensor b).temp
  let s := if s.sensorGood a ∧ s.sensorGood b ∧ 64 < (ra - rb).natAbs then
      s.recordFw 0 0x7001 sag 0 (p4 i ++ pInt ra ++ pInt rb) else s
  let both := s.sensorGood a && s.sensorGood b
  let da := both && s.departs a m && s.within b m 2
  let db := both && s.departs b m && s.within a m 2
  (s.countDepart a 4 sag m da).countDepart b 4 sag m db

/-- Sensors of a layer in a block: 0 the foot die, 1 and 2 the column memory layers, 3 and 4 the dies (R451). -/
def layerSensors (l b : Nat) : List Nat :=
  if l = 0 then [regSensor b] else if l < 3 then [layerSensor (l - 1) b]
  else (blockSites (l - 3) b).flatMap (fun i => [siteSensor i 0, siteSensor i 1])

/-- Model value at a sensor, in 1/320 K. -/
def sensorModel (s : State) (pts : List PointIn) (k : Nat) : Option Int :=
  let pt := if k < 9216 then k / 2 else if k < 9288 then 4608 + (k - 9216) else if k < 9324 then 4680 + (k - 9288) else 4788 + (k - 9324)
  (pts.find? (fun p => p.point == pt)).map s.modelOf

/-- Every good sensor among these satisfies a test of its reading against the model at its point. -/
def allGood (s : State) (pts : List PointIn) (l : List Nat) (test : Nat → Int → Bool) : Bool :=
  (l.filter s.sensorGood).all (fun k => match s.sensorModel pts k with
    | some m => test k m
    | none => true)

/-- The rule of a single sensor of layer 0 or of a regulator group (R439). -/
def singleRule (s : State) (pts : List PointIn) (l b k : Nat) (m : Int) : State :=
  let near := (if l = 0 then [1] else [0, 2]).flatMap (fun j => layerSensors j b)
  s.countDepart k updates20ms none m (s.sensorGood k && s.departs k m && s.allGood pts near (fun k m => s.within k m 2))

/-- Greatest departure below the model among good sensors, in 1/16 K. -/
def deepest (s : State) (pts : List PointIn) (l : List Nat) : Int :=
  ((l.filter s.sensorGood).map (fun k => match s.sensorModel pts k with
    | some m => m / 20 - tempOf (s.sensor k).temp
    | none => 0)).foldl max 0

/-- Hidden heating of a middle layer of a block: its flag, and the counts of cold and of warm updates, after one update; and the
event to record, if any (R440). -/
def hiddenStep (s : State) (pts : List PointIn) (l b : Nat) (flag : Bool) (cold warm : Nat) : Bool × Nat × Nat × Option Nat :=
  let own := layerSensors l b
  if flag then
    let w := if s.allGood pts own (fun k m => s.within k m 3) then warm + 1 else 0
    if updates20ms ≤ w then (false, 0, 0, some 0x7004) else (true, 0, w, none)
  else
    let isCold := own.any s.sensorGood && s.allGood pts own (fun k m => decide (tempOf (s.sensor k).temp * 20 + 6 * 320 < m)) &&
      s.allGood pts (layerSensors (l - 1) b ++ layerSensors (l + 1) b) (fun k m => s.within k m 2)
    let c := if isCold then cold + 1 else 0
    if updates20ms ≤ c then (true, 0, 0, some 0x7003) else (false, c, 0, none)

/-- Hidden heating of both middle layers of a block (R440). -/
def blockHidden (s : State) (pts : List PointIn) (b : Nat) : State :=
  let x := s.block b
  let l1 := s.hiddenStep pts 2 b x.hiddenL1 x.coldL1 x.warmL1
  let a := s.hiddenStep pts 3 b x.hiddenA x.coldA x.warmA
  let x := { x with
    hiddenL1 := l1.1, coldL1 := l1.2.1, warmL1 := l1.2.2.1, hiddenA := a.1, coldA := a.2.1, warmA := a.2.2.1 }
  let tell := fun (s : State) (l : Nat) (e : Option Nat) => match e with
    | some 0x7003 => s.recordFw 0 0x7003 none 0 (p4 b ++ p4 l ++ pInt (s.deepest pts (layerSensors l b)))
    | some c => s.recordFw 0 c none 0 []
    | none => s
  tell (tell (s.setBlock b x) 2 l1.2.2.2) 3 a.2.2.2

/-- Control value and forecast of a point (R436): the selected reading, or the model value and 3 K. -/
def control (s : State) (p : PointIn) : State :=
  let x := ptOf p.point
  let m := s.modelOf p
  let c := match (if s.hidden x then none else s.selected x) with
    | some r => r * 20
    | none => m + 960
  s.setPoint p.point { s.point p.point with
    control := c / 20, forecast := (c + (p.peak - p.node) * 20) / 20, valid := true }

/-! ### Thermal cones (R442) and memory stacks (R445) -/

/-- Cone that a point's forecast gives; 0 before the model has given one. -/
def pointCone (s : State) (p : Nat) : Nat :=
  if (s.point p).valid then coneOfMargin (ptLimit (ptOf p) - (s.point p).forecast) else 0

/-- Cone given by the layer 0, layer 1 and foot die points of a block. -/
def blockCone (s : State) (b : Nat) : Nat := max (s.pointCone (layerPoint 0 b)) (max (s.pointCone (layerPoint 1 b)) (s.pointCone (footPoint b)))

/-- A cluster's thermal cone after an update that gives `k`: it rises at once, and falls by one step per ms after four
consecutive updates have given less (R442). -/
def stepThermalCone (now k : Nat) (x : Cluster) : Cluster :=
  if x.thermalCone ≤ k then { x with thermalCone := k, lowerCone := 0, lowerCount := 0 }
  else
    let low := if x.lowerCount = 0 then k else max x.lowerCone k
    let n := x.lowerCount + 1
    if 4 ≤ n ∧ low < x.thermalCone ∧ x.lowerUs + 1000 ≤ now then
      { x with thermalCone := x.thermalCone - 1, lowerCone := low, lowerCount := n, lowerUs := now }
    else { x with lowerCone := low, lowerCount := n }

def updateCones (s : State) : State :=
  let s := (List.range 36).foldl (fun s b => s.setBlock b { s.block b with tCone := s.blockCone b }) s
  (List.range clustersN).foldl (fun s c =>
    let k := ((clusterSites c).map s.pointCone).foldl max (s.block (clusterBlock c)).tCone
    s.modCluster c (stepThermalCone s.nowUs k)) s

/-- The near-bank flags of a stack: NB_HALF within 5 K of its limit, NB_HELD from 95 °C until 92 °C, with event 0x700C
(R445). -/
def stackFlags (s : State) (m : Nat) : State :=
  let half := (s.point (hbmPoint m)).valid && decide (90 * 16 ≤ (s.point (hbmPoint m)).forecast)
  let t := tempOf (s.sensor (hbmSensor m)).temp
  let was := s.thermal.nbHeld.getLsbD m
  let good := s.sensorGood (hbmSensor m)
  let held := if was then !(good && decide (t ≤ 92 * 16)) else good && decide (95 * 16 ≤ t)
  let bit := 1#16 <<< m
  let set := fun (v : BitVec 16) (on : Bool) => if on then v ||| bit else v &&& ~~~bit
  let s := { s with thermal := { s.thermal with nbHalf := set s.thermal.nbHalf half, nbHeld := set s.thermal.nbHeld held } }
  if held ∧ !was then s.recordFw 0 0x700C none 0 (p4 m) else s

/-- Spread of the forecasts over the active sites of a saggar, in 1/16 K (Table 14-6). -/
def spreadOf (s : State) (g : Nat) : Nat :=
  match (((s.saggarSites g).filter (fun i => decide ((s.site i).role = .active) && (s.point i).valid)).map (fun i => (s.point i).forecast)) with
  | [] => 0
  | a :: r => (r.foldl max a - r.foldl min a).toNat

/-! ### THM_RANK (R450) -/

/-- A core's forecast: that of the point of its site. -/
def coreForecast (s : State) (k : Nat) : Int := ((s.siteOfCore k).map (fun i => (s.point i).forecast)).getD 0

/-- Insert a core into a list that is sorted by forecast, then by core number. -/
def insertCore (s : State) (k : Nat) : List Nat → List Nat
  | [] => [k]
  | a :: r => if s.coreForecast k < s.coreForecast a ∨ (s.coreForecast k = s.coreForecast a ∧ k < a) then k :: a :: r
    else a :: insertCore s k r

/-- Status of a THM_RANK, first from its parameters, then from the list. -/
def rankCheck (s : State) (c : Cmd) : Nat :=
  let n := c.p 8 2
  let au := s.engineAuth c.saggar
  lowest [check (n = 0) 0x0102, check (4416 < n) 0x0101,
    check (n ≠ 0 ∧ (s.reach au false (c.addr 0) (2 * n) ∉ [0, 0x0602] ∨ s.reach au true (c.addr 0) (2 * n) ∉ [0, 0x0602])) 0x0220]

def rankListCheck (s : State) (sag : Nat) (l : List Nat) : Nat :=
  lowest [check (l.any (fun k => match s.siteOfCore k with
      | some i => s.siteOwner i != some sag
      | none => false)) 0x02C0,
    check (l.any (fun k => (s.siteOfCore k).isNone)) 0x0354, check (decide (l.eraseDups.length < l.length)) 0x0108]

/-! ### The coolant (R447) and flow records (R449) -/

/-- Quantities of the coolant in event 0x7007: 0 inlet, 1 flow, 2 pressure drop. -/
def coolantSet (s : State) (q v : Nat) : State :=
  let t := s.thermal
  { s with thermal := if q = 0 then { t with inlet := v % 65536 } else if q = 1 then { t with flow := v } else { t with dp := v } }

/-- A coolant quantity outside the range of Table 14-4 that sets COOLANT_OOR (Table 14-5). -/
def coolantBad (q v : Nat) : Bool :=
  if q = 0 then decide (tempOf v < 18 * 16 ∨ 40 * 16 < tempOf v) else if q = 1 then decide (6000 < v) else q == 2 && decide (1500 < v)

/-- A flow record (R449): the layout of Table 11-6, with the fields that the rule gives. PROGRESS, RING and IRQ are free
values. -/
def flowRecordBytes (s : State) : List Byte :=
  let t := s.thermal
  complBytes { target := .mgmt 0, cmd := none, tag := 0, status := 0, progress := (Config.freeWord s.free).toNat, r0 := t.flowWant
               r1 := t.heatW, r2 := t.inlet, r3 := t.outlet, ring := (Config.freeWord (s.free + 1)).toNat, irq := Config.freeBit s.free
               opcode := 0x70F, desc := false, job := 0 } (Config.freeBit (s.free + 1))

/-- Send the flow record to every open management session, with event 0x7008 (R449). -/
def sendFlow (s : State) : State :=
  if s.fab.sessions.isEmpty then s
  else
    let b := s.flowRecordBytes
    let s := { s.draw.draw with fab := { s.fab with
      sessions := s.fab.sessions.map (fun (x : MgmtSession) => { x with sent := x.sent ++ [b] }) } }
    s.recordFw 0 0x7008 none 0 (p4 s.thermal.flowWant)

/-! ### Wear (R451) -/

/-- Points of a wear region. -/
def wearPoints (r : Nat) : List Nat :=
  let b := r % 36
  if r < 36 then [footPoint b] else if r < 72 then [layerPoint 0 b] else if r < 108 then [layerPoint 1 b]
  else if r < 144 then dieNode 0 b :: blockSites 0 b else if r < 180 then dieNode 1 b :: blockSites 1 b else [hbmPoint (r - 180)]

/-- Add half cycles of a range to its bin; a range below 10 K is not counted. -/
def addRange (w : Wear) (range n : Nat) : Wear :=
  if range < 160 then w
  else if range < 320 then { w with b0 := satAdd (top 32) w.b0 n }
  else if range < 640 then { w with b1 := satAdd (top 32) w.b1 n }
  else if range < 1280 then { w with b2 := satAdd (top 32) w.b2 n }
  else { w with b3 := satAdd (top 32) w.b3 n }

/-- Close the cycles of the turning points, newest first: a range enclosed by the next one is a full cycle, and the first range
of the record a half cycle (rainflow counting). -/
def rainflow : Nat → Wear → List Int → Wear × List Int
  | 0, w, l => (w, l)
  | f + 1, w, x :: y :: z :: r =>
    let rx := (x - y).natAbs
    let ry := (y - z).natAbs
    if rx < ry then (w, x :: y :: z :: r)
    else if r.isEmpty then rainflow f (addRange w ry 1) [x, y]
    else rainflow f (addRange w ry 2) (x :: r)
  | _ + 1, w, l => (w, l)

/-- A temperature sample joins the turning points of a region: it extends the last range, or turns. -/
def pushTurn (l : List Int) (t : Int) : List Int :=
  match l with
  | x :: y :: r => if (y ≤ x ∧ x ≤ t) ∨ (x ≤ y ∧ t ≤ x) then t :: y :: r else t :: x :: y :: r
  | [x] => if t = x then [x] else [t, x]
  | [] => [t]

/-- One sample of a region (R451). -/
def wearStep (w : Wear) (t : Int) : Wear :=
  let l := pushTurn w.stack t
  let r := rainflow l.length w l
  { r.1 with stack := r.2 }

end State

/-- KILN_MODEL_UPDATE: every 250 µs the kiln reads the sensors, corrects the model, forecasts and sets the thermal cones (R436 to
R442, R445). `points` holds what the RC model gives for each point. -/
def execKilnModelUpdate (points : List PointIn) (s : State) : Out :=
  if s.up = false then .next s
  else
    let s := points.foldl State.readSensors s
    let s := points.foldl State.moveBias s
    let s := points.foldl (fun s p =>
      let m := s.modelOf p
      match ptOf p.point with
      | .site i => s.pairRules i m
      | .layer 0 b => s.singleRule points 1 b (layerSensor 0 b) m
      | .foot b => s.singleRule points 0 b (regSensor b) m
      | _ => s) s
    let s := (List.range 36).foldl (fun s b => s.blockHidden points b) s
    let s := points.foldl State.control s
    let s := s.updateCones
    let s := (List.range 16).foldl State.stackFlags s
    let s := s.activeSaggars.foldl (fun s g => s.modSaggar g (fun x => { x with spread := s.spreadOf g })) s
    .next { s with thermal := { s.thermal with kilnStale := false, lastUpdateUs := s.nowUs, staleRaises := 0 } }

/-- KILN_STALE_TIMEOUT: no update for 500 µs: KILN_STALE sets, event 0x7009, and column memory refresh runs at double rate while
the model does not run (R209, R437). -/
def execKilnStaleTimeout (s : State) : Out :=
  if s.up = false ∨ s.thermal.kilnStale ∨ s.nowUs < s.thermal.lastUpdateUs + 500 then .next s
  else
    let s := { s with thermal := { s.thermal with kilnStale := true, staleRaises := 0 } }
    let s := s.recordFw 0 0x7009 none 0 []
    .next ((List.range 36).foldl (fun s b => (s.doubleRate b 0 (s.sensor (layerSensor 0 b)).temp).doubleRate b 1 (s.sensor (layerSensor 1 b)).temp) s)

/-- KILN_STALE_CONE_RAISE: every 1 ms without updates the foot die raises every cluster's thermal cone by one (R437). -/
def execKilnStaleConeRaise (s : State) : Out :=
  let t := s.thermal
  if t.kilnStale = false ∨ s.nowUs < t.lastUpdateUs + 500 + 1000 * (t.staleRaises + 1) then .next s
  else
    let s := { s with thermal := { t with staleRaises := t.staleRaises + 1 } }
    .next ((List.range clustersN).foldl (fun s c => s.modCluster c (fun x =>
      { x with thermalCone := min 7 (x.thermalCone + 1), cone := max x.cone (min 7 (x.thermalCone + 1)) })) s)

/-- THERMAL_CLAMP: a reading reaches its limit: cone 7 on every cluster that the point governs, event 0x7005 (R443). -/
def execThermalClamp (point reading : Nat) (s : State) : Out :=
  let x := ptOf point
  let l := ptClusters x
  if reading % 65536 = 0x8000 ∨ tempOf reading < ptLimit x ∨ l.isEmpty ∨
      (ptSensors x).all (fun k => (s.sensor k).suspect || (s.sensor k).failed) ∨ l.all (fun c => decide (point ∈ (s.cluster c).clamps)) then .next s
  else
    let s := l.foldl (fun s c => s.modCluster c (fun y => { y with clamps := insertNat point y.clamps, cone := 7 })) s
    .next (s.recordFw 0 0x7005 none 0 (p4 point ++ pInt (tempOf reading)))

/-- THERMAL_CLAMP_RELEASE: the reading falls below the limit less 2 K, and the clamp of the point ends (R443). The kiln sets the cone
at its next recomputation. -/
def execThermalClampRelease (point reading : Nat) (s : State) : Out :=
  let x := ptOf point
  if reading % 65536 = 0x8000 ∨ ptLimit x - 32 ≤ tempOf reading then .next s
  else .next ((ptClusters x).foldl (fun s c => s.modCluster c (fun y => { y with clamps := y.clamps.filter (· != point) })) s)

/-- THERMAL_SHUTDOWN: a temperature or the coolant flow has been out of bounds: commands end with 0x05D0, event 0x7006 is mirrored and
the package powers down (R444). Causes: 1 the compute stack, 2 a memory stack, 3 the flow. -/
def execThermalShutdown (cause : Nat) (s : State) : Out :=
  if s.pkg.poweredDown then .next s
  else .next (((s.stopCommands 0x05D0).recordFw 0 0x7006 none 0 (p4 cause)).powerDown)

/-- COOLANT_OUT_OF_RANGE: a coolant quantity has left its range for 10 s: COOLANT_OOR sets, event 0x7007 (R447). -/
def execCoolantOutOfRange (quantity value : Nat) (s : State) : Out :=
  if State.coolantBad quantity value = false then .next s
  else
    let s := s.coolantSet quantity value
    let s := { s with thermal := { s.thermal with coolantOor := true } }
    .next (s.recordFw 0 0x7007 none 0 (p4 quantity ++ (if quantity = 0 then pInt (tempOf value) else p4 value)))

/-- COOLANT_OOR_CLEAR: every quantity has been in range for 10 s. What each then measures within its range is a free value
where the last one known lay outside (R447). -/
def execCoolantOorClear (s : State) : Out :=
  if s.thermal.coolantOor = false then .next s
  else
    let t := s.thermal
    let pick := fun (k lo hi : Nat) => lo + (Config.freeWord (s.free + k)).toNat % (hi - lo + 1)
    let inlet := if State.coolantBad 0 t.inlet then pick 0 288 640 else t.inlet
    let flow := if 6000 < t.flow ∨ t.flow < 3000 then pick 1 3000 6000 else t.flow
    let dp := if 1500 < t.dp then pick 2 0 1500 else t.dp
    .next { s.draw.draw.draw with thermal := { t with coolantOor := false, inlet := inlet, flow := flow, dp := dp } }

/-- FLOW_LIMITED: the flow has been below 3.0 L/min for 1 s: the cap is limited, FLOW_LIMITED sets, event 0x7007 (R447). -/
def execFlowLimited (flow : Nat) (s : State) : Out :=
  if 3000 ≤ flow ∨ s.thermal.flowLimited then .next s
  else
    let s := { s with thermal := { s.thermal with flowLimited := true, flow := flow } }
    .next (s.setCap.recordFw 0 0x7007 none 0 (p4 1 ++ p4 flow))

/-- FLOW_LIMIT_LIFT: the flow has been at 3.0 L/min or more for 1 s (R447). -/
def execFlowLimitLift (flow : Nat) (s : State) : Out :=
  if flow < 3000 ∨ s.thermal.flowLimited = false then .next s
  else .next { s with thermal := { s.thermal with flowLimited := false, flow := flow } }.setCap

/-- Input power in mW at the latest closed window of the input's telemetry (Table 13-6). -/
def State.inputMw (s : State) : Nat := (s.domain 1174).mean * (s.domain 1174).voltMv / 1000

/-- HEAT_MISMATCH: the heat removed has stayed below 85 % of the input power: HEAT_MISMATCH sets, event 0x700B (R448). -/
def execHeatMismatch (heatW : Nat) (s : State) : Out :=
  if s.thermal.heatMismatch ∨ 85 * s.inputMw ≤ heatW * 100000 then .next s
  else
    let s := { s with thermal := { s.thermal with heatMismatch := true, heatW := heatW } }
    .next (s.recordFw 0 0x700B none 0 [])

/-- HEAT_MISMATCH_CLEAR: the condition has ended (R452). -/
def execHeatMismatchClear (s : State) : Out := .next { s with thermal := { s.thermal with heatMismatch := false } }

/-- FLOW_RECORD: a hot package asks for more flow, and a cool one ends its request, with one record to every session (R449). -/
def execFlowRecord (heatW : Nat) (s : State) : Out :=
  let t := s.thermal
  let hot := s.clusters.any (fun p => decide (0 < s.thermalConeOf p.1))
  if t.flowAsk = false ∨ s.up = false then .next s
  else if hot ∧ t.flow < 6000 then
    .next { s with thermal := { t with heatW := heatW, flowWant := min 6000 (t.flow + 500) } }.sendFlow
  else if !hot ∧ 0 < t.flowWant then .next { s with thermal := { t with heatW := heatW, flowWant := 0 } }.sendFlow
  else .next s

/-- ROTATE_DUE: the forecasts over a saggar have differed by more than ROT_SPREAD for 100 ms (R450). -/
def execRotateDue (saggar : Nat) (s : State) : Out :=
  if 64 ≤ saggar ∨ (s.saggar saggar).spread ≤ s.thermal.rotSpread * 16 then .next s
  else .next (s.modSaggar saggar (fun g => { g with rotateDue := true }))

/-- THM_RANK, opcode 0x708: the list of cores is sorted in place by ascending forecast (R450). -/
def execThmRank (id : Nat) (s : State) : Out :=
  match s.ready id 0x708 with
  | none => .next s
  | some c =>
    let st := s.rankCheck c
    if st ≠ 0 then .next (s.refuse id st)
    else
      let n := c.p 8 2
      let r := s.load 7 0xFFFF (c.addr 0) (2 * n)
      if r.2.1.isSome then .next (r.1.finish id 0x0520 Result.zero)
      else
        let l := coreList n r.2.2
        let st := r.1.rankListCheck c.saggar l
        if st ≠ 0 then .next (r.1.refuse id st)
        else
          let o := l.foldl (fun a k => r.1.insertCore k a) []
          let w := r.1.store 12 0xFFFF (c.addr 0) (o.flatMap (fun k => leBytes 2 k))
          let t := w.1.modSaggar c.saggar (fun g => { g with rotateDue := false })
          let spread := (r.1.coreForecast (o.getLastD 0) - r.1.coreForecast (o.headD 0)).toNat
          .next (if w.2.isSome then w.1.finish id 0x0520 Result.zero else t.finish id 0 (Result.w0 spread))

/-- WEAR_SAMPLE: every 10 ms the temperature of each region, the highest control value over its points, joins its rainflow count
(R451). -/
def execWearSample (s : State) : Out :=
  .next { s with thermal := { s.thermal with
    wear := (List.range 196).foldl (fun w r =>
      match (((State.wearPoints r).filter (fun p => (s.point p).valid)).map (fun p => (s.point p).control)) with
      | [] => w
      | a :: l => w.put (fun _ => Wear.none) r (State.wearStep (w.get (fun _ => Wear.none) r) (l.foldl max a))) s.thermal.wear } }

/-- WEAR_PERSIST: every hour the counts are written to the ledger (R451). -/
def execWearPersist (s : State) : Out := .next s.persistWear

end Sys2Proof.Machine
end

