-- ==== Sys2Proof/Machine/Training.lean ====
section
/-! DEFINITION. Training state (chapter 10): the commands of Table 10-6 from acceptance to their engines (R302, R303), step
gates (R296 to R298), TS_SCALE (R300, R301) and TS_CASTOUT (R309, R310). TS_UPDATE, TS_AUDIT, TS_DIGEST and TS_COMPARE run
on near-bank units. -/
namespace Sys2Proof.Machine
open Sys2Proof

/-- The decision for a reduced word is skip (R294). -/
def skips (w : Nat) : Bool := (w % 128) &&& (bits w 8 7) != 0

/-- GATE, STEP, COND and GATE_WAIT of a command (Table 10-7). -/
def Cmd.gate (c : Cmd) : Nat := c.addr 24
def Cmd.step (c : Cmd) : Nat := c.p 32 8
def Cmd.cond (c : Cmd) : Nat := c.p 40 1 % 4
def Cmd.gateWait (c : Cmd) : Nat := c.p 44 4
/-- The command is conditional (R298). -/
def Cmd.conditional (c : Cmd) : Bool := c.gate != 0 && c.cond != 0

/-- The work of a training state opcode that runs on a near-bank unit. -/
def trainWork (op : Nat) : Option NbWork :=
  if op = 0x500 then some .update else if op = 0x503 then some .audit else if op = 0x504 then some .digest
  else if op = 0x505 then some .compare else none

/-- Result of a command that its condition kept from running (R304). -/
def notRun : Result := { Result.zero with r1 := 2 ^ 31 }

namespace State

/-- Status of a training state command at acceptance and at dispatch (R302, R303, R301, R10). -/
def trainCheck (s : State) (c : Cmd) : Nat :=
  let gate := check (c.gate % 64 ≠ 0) 0x0103
  match trainWork c.opcode with
  | some _ => lowest [gate, s.nbDescCheck c.saggar (c.p 0 2) (c.addr 8) (c.addr 16)]
  | none => lowest [gate, s.sluiceEngine c, check (c.opcode == 0x502 && (c.gate == 0 || c.cond != 3)) 0x01A3]

/-- End a training state command: one for a near-bank unit has a status word (Table 10-7). -/
def trainEnd (s : State) (c : Cmd) (status : Nat) (r : Result) : State :=
  s.finishWord c.id (if (trainWork c.opcode).isSome then c.addr 16 else noAddr) status r

/-- Dispatch to the engine: the near-bank unit queues the command, a sluice serves it when it is free (R303). -/
def trainDispatch (s : State) (c : Cmd) : State :=
  match trainWork c.opcode with
  | some w => s.nbQueue (c.p 0 2) (descSeq c w)
  | none => s.setPhase c.id .queued

/-- Accept a training state command: refuse it, hold it at its gate, or dispatch it (R298, R303). A held near-bank
command shows its status word as queued. -/
def trainAccept (s : State) (c : Cmd) : State :=
  let st := s.trainCheck c
  if st ≠ 0 then s.refuse c.id st
  else if c.conditional then
    let s := if (trainWork c.opcode).isSome then s.statusWord c.id (c.addr 16) 1 0 Result.zero else s
    s.setPhase c.id (.held s.nowUs)
  else s.trainDispatch c

/-- The gate as the host interface reads it with the command's saggar: the state after, a failing status, and bytes 0 to
15 (R298). -/
def readGate (s : State) (c : Cmd) : State × Nat × List Byte :=
  let st := s.reach (s.engineAuth c.saggar) false c.gate 16
  if st ≠ 0 then (s, st, [])
  else
    let r := s.load 7 0xFFFF c.gate 16
    (r.1, check r.2.1.isSome 0x0520, r.2.2)

/-- A gate first shows a skip for a step: event 0xC001, once for that gate and step (R298). -/
def noteSkip (s : State) (c : Cmd) (step w : Nat) : State :=
  if (c.gate, step) ∈ s.gatesSeen then s
  else
    ({ s with gatesSeen := s.gatesSeen ++ [(c.gate, step)] }).recordFw 1 0xC001 (some c.saggar) c.job (p8 c.gate ++ p8 step ++ p4 w)

/-- A conditional command expires at an undecided gate: 0x0604 and event 0xC004 (Table 10-4). -/
def gateExpired (s : State) (c : Cmd) : State :=
  (s.recordFw 1 0xC004 (some c.saggar) c.job (p8 c.gate ++ p8 c.step ++ p4 c.opcode)).trainEnd c 0x0604 Result.zero

/-- The gate of a held command is read: it is dispatched, completed or held on (Table 10-4). -/
def gateRead (s : State) (c : Cmd) : State :=
  let r := s.readGate c
  if r.2.1 ≠ 0 then r.1.trainEnd c r.2.1 Result.zero
  else
    let step := fieldAt r.2.2 0 8
    let w := fieldAt r.2.2 8 4
    let valid := bitAt (fieldAt r.2.2 12 1) 0
    let s := if valid && skips w then r.1.noteSkip c step w else r.1
    if valid && step == c.step then
      if c.cond = 3 ∨ (c.cond = 1 ∧ skips w = false) ∨ (c.cond = 2 ∧ skips w = true) then
        let st := s.trainCheck c
        if st ≠ 0 then s.trainEnd c st Result.zero else s.trainDispatch c
      else s.trainEnd c 0 notRun
    else if valid && decide (c.step < step) then s.trainEnd c 0x0605 Result.zero
    else if c.gateWait = 0 then s.gateExpired c
    else s

end State

/-! ### TS_SCALE (R300, R301) -/

/-- The record after step `step` decided with `w`, and whether an overflow skip found SCALE at MIN: SCALE and CLEAN. -/
def scaleStep (scale lo hi interval clean w : Nat) : Nat × Nat × Bool :=
  if skips w && (bitAt w 0 || bitAt w 1) then
    (fmax (fmul scale 0x3F000000) lo, 0, scale == lo)
  else if skips w then (scale, 0, false)
  else
    let c := (clean + 1) % 2 ^ 32
    if interval ≠ 0 ∧ interval ≤ c then
      let d := fmul scale 0x40000000
      (if (f32 hi).lt (f32 d) then hi else d, 0, false)
    else (scale, c, false)

/-- TS_SCALE on its sluice. -/
def tsScale (x : Slx) (c : Cmd) (job : Nat) : Served :=
  let g := x.s.readGate c
  let x := { x with s := g.1, fail := g.2.1 }
  let b := x.rd (c.addr 8) 32
  b.1.orElse fun x =>
  let f := fieldAt b.2
  let w := fieldAt g.2.2 8 4
  let ok := isPow2 (f 0 4) && isPow2 (f 4 4) && isPow2 (f 8 4) && (f32 (f 4 4)).le (f32 (f 0 4)) && (f32 (f 0 4)).le (f32 (f 8 4))
  x.require [check (!ok) 0x01A0] fun x =>
  if c.step ≤ f 24 8 then
    { x := x, status := 0, r := { progress := 0, r0 := f 0 4, r1 := 0, r2 := f 16 4, r3 := 0 } }
  else
    let n := scaleStep (f 0 4) (f 4 4) (f 8 4) (f 12 4) (f 16 4) w
    let new := leBytes 4 n.1 ++ (b.2.drop 4).take 12 ++ leBytes 4 n.2.1 ++ (b.2.drop 20).take 4 ++ leBytes 8 c.step
    (x.wr [(c.addr 8, new)]).orElse fun x =>
    let s := if n.2.2 then x.s.recordFw 3 0xC003 (some x.sag) job [] else x.s
    let s := if n.1 ≠ f 0 4 then s.recordFw 3 0xC002 (some x.sag) job (p8 c.step ++ p4 (f 0 4) ++ p4 n.1) else s
    { x := { x with s := s }, status := 0, r := { progress := 1, r0 := n.1, r1 := 0, r2 := n.2.1, r3 := 0 } }

/-! ### TS_CASTOUT (R309, R310) -/

/-- A layout map and its shard table, checked (R148, R150). -/
def castMap (x : Slx) (a : Nat) : Slx × LMap × List Byte × Nat :=
  if a % 64 ≠ 0 then (x, LMap.of [], [], 0x0103)
  else
    let b := x.rd a 64
    let m := LMap.of b.2
    if b.1.fail ≠ 0 ∨ m.check ≠ 0 then (b.1, m, [], m.check)
    else
      let t := b.1.rd m.table (32 * m.shards)
      (t.1, m, t.2, 0)

/-- A shard of a map lies in another package. -/
def shardAway (here : Nat) (m : LMap) (t : List Byte) : Bool := (List.range m.shards).any (fun i => (shardEntry t i).2.2 != here)
/-- A shard of a map is not aligned for its format. -/
def shardOff (m : LMap) (t : List Byte) : Bool := (List.range m.shards).any (fun i => (shardEntry t i).1 % fmtAlign m.fmt != 0)

/-- Cast one piece: hi + lo for each element, formed exactly, rounded once (R309). -/
def castPiece (m : Move) (d : Desc) (seed : Nat) (lo : Option (LMap × List Byte)) (p : Piece) : Move :=
  if m.halt.isSome then m else
  let got := p.runs.foldl (fun (a : Move × List Val) r =>
    let x := a.1.readRun 0 p.first r
    let hi := f32 (x.2.1.headD 0)
    match lo with
    | none => (x.1, a.2 ++ [hi])
    | some (lm, lt) =>
      let q := lm.spot (coords lm.ext r.idx)
      let y := x.1.read ((shardEntry lt q.shard).1 + 4 * q.t) 4 p.first
      (y.1, a.2 ++ [hi.add (f32 (leNat y.2))])) (m, [])
  let m := got.1
  if m.halt.isSome then m
  else
    let idx := fun i => ((p.runs.map (·.idx)).getD i 0) % 2 ^ 48
    let c := convLine d.df (fun i => { mode := d.rm, ovf := d.ovf, r := srBits seed d.tid (idx i) }) got.2
    let m := { m with flags := (m.flags.or (inputFlags got.2)).or (c.written 0 0) }
    let m := m.putBits p.dbit (fmtWidth d.df) p.n (packNat (fmtWidth d.df) c.els) p.first
    match p.dscale with
    | some a => m.put false a (BitVec.ofNat 8 c.scale) p.first
    | none => m

/-- TS_CASTOUT on its sluice. -/
def tsCastout (x : Slx) (desc : Nat) : Served :=
  let b := x.rd desc 64
  b.1.orElse fun x =>
  let f := fieldAt b.2
  let hasLo := bitAt (f 0 1) 4
  let rm := f 0 1 % 4
  let mm := castMap x (f 8 8 % 2 ^ 52)
  let lm := if hasLo then castMap mm.1 (f 16 8 % 2 ^ 52) else (mm.1, mm.2)
  let wm := castMap lm.1 (f 24 8 % 2 ^ 52)
  let st := [mm.2.2.2, lm.2.2.2, wm.2.2.2]
  let ok := lowest st = 0
  let a := mm.2.1
  let l := lm.2.1
  let w := wm.2.1
  let here := wm.1.s.pkg.posValue
  wm.1.require (st ++ [check (rm == 3) 0x0120] ++ (if ok then
      [check (a.rank != w.rank || a.ext != w.ext || l.rank != w.rank || l.ext != w.ext) 0x0151,
       check (a.fmt != 0 || l.fmt != 0) 0x0104, check (!([1, 3, 4, 5, 6].contains w.fmt)) 0x0104,
       check (shardAway here a mm.2.2.1 || shardAway here l lm.2.2.1 || shardAway here w wm.2.2.1) 0x01A1,
       check (shardOff a mm.2.2.1 || shardOff l lm.2.2.1 || shardOff w wm.2.2.1) 0x0103] else [])) fun x =>
  let d := { Desc.of [] with type := 3, sf := 0, df := w.fmt, rm := rm, ovf := bitAt (f 0 1) 2, iscale := bitAt (f 0 1) 3, tid := w.tid }
  let ps := reshardPieces d a w mm.2.2.1 wm.2.2.1 here
  let m : Move := { s := x.s, n := x.n, sag := x.sag, view := [], data := none, scales := none, flags := Flags.none,
                    halt := none, stop := none }
  let r := (ps.foldl (fun m p => castPiece m d (f 32 8) (if hasLo then some (l, lm.2.2.1) else none) p) m).flushAll
  match r.halt with
  | some (st, _, e) => { x := { x with s := r.s }, status := st, r := { Result.zero with progress := e % 2 ^ 32, r0 := e % 2 ^ 32, r1 := r.flags.word } }
  | none =>
    let n := prod w.ext % 2 ^ 32
    { x := { x with s := r.s }, status := 0, r := { progress := n, r0 := n, r1 := r.flags.word, r2 := 0, r3 := 0 } }

namespace State

/-- A queued training state command of a sluice runs and completes once its sluice is free (R263, R303). -/
def trainServe (s : State) (c : Cmd) : State :=
  let n := c.p 0 2 % 1024
  if s.sluiceEngine c ≠ 0 then s.finish c.id (s.sluiceEngine c) Result.zero
  else if s.sluiceFree n c.id then
    let x : Slx := { s := s, n := n, sag := c.saggar, fail := 0 }
    let r := if c.opcode = 0x501 then tsCastout x (c.addr 8) else tsScale x c c.job
    r.x.s.finish c.id r.status r.r
  else s

/-- A sluice command of chapter 10: accepted when it is dispatched, run when its sluice is free. -/
def trainSluice (s : State) (id opcode : Nat) : State :=
  match s.ready id opcode with
  | some c => s.trainAccept c
  | none =>
    match s.inPhase id opcode .queued with
    | some c => s.trainServe c
    | none => s

end State

/-- TS_UPDATE, opcode 0x500 (R302, R303, R307). -/
def execTsUpdate (id : Nat) (s : State) : Out :=
  match s.ready id 0x500 with
  | none => .next s
  | some c => .next (s.trainAccept c)

/-- TS_CASTOUT, opcode 0x501 (R302, R303, R309, R310). -/
def execTsCastout (id : Nat) (s : State) : Out := .next (s.trainSluice id 0x501)

/-- TS_SCALE, opcode 0x502 (R300 to R303). -/
def execTsScale (id : Nat) (s : State) : Out := .next (s.trainSluice id 0x502)

/-- TS_AUDIT, opcode 0x503 (R302, R303, R311). -/
def execTsAudit (id : Nat) (s : State) : Out :=
  match s.ready id 0x503 with
  | none => .next s
  | some c => .next (s.trainAccept c)

/-- TS_DIGEST, opcode 0x504 (R302, R303, R312). -/
def execTsDigest (id : Nat) (s : State) : Out :=
  match s.ready id 0x504 with
  | none => .next s
  | some c => .next (s.trainAccept c)

/-- TS_COMPARE, opcode 0x505 (R302, R303, R314). -/
def execTsCompare (id : Nat) (s : State) : Out :=
  match s.ready id 0x505 with
  | none => .next s
  | some c => .next (s.trainAccept c)

/-- STEP_GATE_REREAD: the host interface reads the gate of a held command (R298). -/
def execStepGateReread (id : Nat) (s : State) : Out :=
  match s.cmd? id with
  | none => .next s
  | some c =>
    match c.phase with
    | .held _ => .next (s.gateRead c)
    | _ => .next s

/-- STEP_GATE_TIMEOUT: a command held for GATE_WAIT µs completes with 0x0604 (R298). -/
def execStepGateTimeout (id : Nat) (s : State) : Out :=
  match s.cmd? id with
  | none => .next s
  | some c =>
    match c.phase with
    | .held t => if t + c.gateWait ≤ s.nowUs then .next (s.gateExpired c) else .next s
    | _ => .next s

end Sys2Proof.Machine
end

