-- ==== Sys2Proof/Machine/Dispatch.lean ====
section
/-! DEFINITION. What each command does: one arm per constructor of Instr, one direct call of its meaning. -/
namespace Sys2Proof.Machine
open Sys2Proof

def exec (i : Instr) (s : State) : Host.Outcome State Fault Refusal :=
  match i with
  | .standbyPowerUp => Sys2Proof.Machine.execStandbyPowerUp s
  | .railGood rail => Sys2Proof.Machine.execRailGood rail s
  | .railWindowExpiry rail => Sys2Proof.Machine.execRailWindowExpiry rail s
  | .vmeshOutOfRange => Sys2Proof.Machine.execVmeshOutOfRange s
  | .refLoss => Sys2Proof.Machine.execRefLoss s
  | .refRecovery => Sys2Proof.Machine.execRefRecovery s
  | .holdoverExpiry => Sys2Proof.Machine.execHoldoverExpiry s
  | .inputUndervolt mv => Sys2Proof.Machine.execInputUndervolt mv s
  | .inputRecovery mv => Sys2Proof.Machine.execInputRecovery mv s
  | .inputPowerLost mv => Sys2Proof.Machine.execInputPowerLost mv s
  | .inputOvervoltage mv => Sys2Proof.Machine.execInputOvervoltage mv s
  | .bisqueStart env => Sys2Proof.Machine.execBisqueStart env s
  | .refire env => Sys2Proof.Machine.execRefire env s
  | .packetInject k => Sys2Proof.Machine.execPacketInject k s
  | .meshRequestArrival k strikes => Sys2Proof.Machine.execMeshRequestArrival k strikes s
  | .meshResponseArrival k => Sys2Proof.Machine.execMeshResponseArrival k s
  | .priorityFlitAged site => Sys2Proof.Machine.execPriorityFlitAged site s
  | .epochUpdate k => Sys2Proof.Machine.execEpochUpdate k s
  | .remapApply k => Sys2Proof.Machine.execRemapApply k s
  | .remapQuiescenceTimeout k => Sys2Proof.Machine.execRemapQuiescenceTimeout k s
  | .imageBroadcast k good => Sys2Proof.Machine.execImageBroadcast k good s
  | .rillInterrupt site => Sys2Proof.Machine.execRillInterrupt site s
  | .scalarVectorInstruction site strikes => Sys2Proof.Machine.execScalarVectorInstruction site strikes s
  | .apertureLoad site => Sys2Proof.Machine.execApertureLoad site s
  | .apertureStore site => Sys2Proof.Machine.execApertureStore site s
  | .fence site => Sys2Proof.Machine.execFence site s
  | .fenceI site => Sys2Proof.Machine.execFenceI site s
  | .csrWrite site => Sys2Proof.Machine.execCsrWrite site s
  | .tld site strikes => Sys2Proof.Machine.execTld site strikes s
  | .tst site strikes => Sys2Proof.Machine.execTst site strikes s
  | .taclr site => Sys2Proof.Machine.execTaclr site s
  | .tmma site residue => Sys2Proof.Machine.execTmma site residue s
  | .tepi site => Sys2Proof.Machine.execTepi site s
  | .tcvt site => Sys2Proof.Machine.execTcvt site s
  | .osm site => Sys2Proof.Machine.execOsm site s
  | .tmv site => Sys2Proof.Machine.execTmv site s
  | .tcasOpen site => Sys2Proof.Machine.execTcasOpen site s
  | .tcasClose site => Sys2Proof.Machine.execTcasClose site s
  | .tcasExport site => Sys2Proof.Machine.execTcasExport site s
  | .tcasFold site => Sys2Proof.Machine.execTcasFold site s
  | .foldComplete site => Sys2Proof.Machine.execFoldComplete site s
  | .foldTimeout site => Sys2Proof.Machine.execFoldTimeout site s
  | .tcasDiscard site => Sys2Proof.Machine.execTcasDiscard site s
  | .cascadeNodeArrival k => Sys2Proof.Machine.execCascadeNodeArrival k s
  | .taorC site => Sys2Proof.Machine.execTaorC site s
  | .allorWordArrival k => Sys2Proof.Machine.execAllorWordArrival k s
  | .allorTimeout site => Sys2Proof.Machine.execAllorTimeout site s
  | .taorW site => Sys2Proof.Machine.execTaorW site s
  | .taorWComplete site => Sys2Proof.Machine.execTaorWComplete site s
  | .tret site => Sys2Proof.Machine.execTret site s
  | .kernelExit site => Sys2Proof.Machine.execKernelExit site s
  | .kernelEndByTrap site => Sys2Proof.Machine.execKernelEndByTrap site s
  | .lagNoticeArrival k => Sys2Proof.Machine.execLagNoticeArrival k s
  | .attachPortRequest k strikes => Sys2Proof.Machine.execAttachPortRequest k strikes s
  | .cxlMemRequest module write offset data strikes => Sys2Proof.Machine.execCxlMemRequest module write offset data strikes s
  | .columnRefresh block => Sys2Proof.Machine.execColumnRefresh block s
  | .refreshRateChange block layer temp => Sys2Proof.Machine.execRefreshRateChange block layer temp s
  | .refreshNormalReturn block layer => Sys2Proof.Machine.execRefreshNormalReturn block layer s
  | .hbmRefresh channel bank => Sys2Proof.Machine.execHbmRefresh channel bank s
  | .sluiceDescriptorStart sluice strikes => Sys2Proof.Machine.execSluiceDescriptorStart sluice strikes s
  | .sluiceDescriptorComplete sluice => Sys2Proof.Machine.execSluiceDescriptorComplete sluice s
  | .sluiceHalt sluice strikes => Sys2Proof.Machine.execSluiceHalt sluice strikes s
  | .sluiceResume id => Sys2Proof.Machine.execSluiceResume id s
  | .sluiceRewetDone sluice => Sys2Proof.Machine.execSluiceRewetDone sluice s
  | .nbRun id => Sys2Proof.Machine.execNbRun id s
  | .nbCoreCommand site unit checkEpoch packet => Sys2Proof.Machine.execNbCoreCommand site unit checkEpoch packet s
  | .fenceNb id => Sys2Proof.Machine.execFenceNb id s
  | .nbCancel id => Sys2Proof.Machine.execNbCancel id s
  | .nbReset id => Sys2Proof.Machine.execNbReset id s
  | .nbSequenceStart unit => Sys2Proof.Machine.execNbSequenceStart unit s
  | .nbStepEnd unit strikes residue => Sys2Proof.Machine.execNbStepEnd unit strikes residue s
  | .nbGapEnd unit => Sys2Proof.Machine.execNbGapEnd unit s
  | .nbResetEntry unit => Sys2Proof.Machine.execNbResetEntry unit s
  | .nbUnitRewetDone unit => Sys2Proof.Machine.execNbUnitRewetDone unit s
  | .kvAppend id => Sys2Proof.Machine.execKvAppend id s
  | .kvEvict id => Sys2Proof.Machine.execKvEvict id s
  | .kvStage id => Sys2Proof.Machine.execKvStage id s
  | .attnDecode id => Sys2Proof.Machine.execAttnDecode id s
  | .kvScore id => Sys2Proof.Machine.execKvScore id s
  | .kvAccept id => Sys2Proof.Machine.execKvAccept id s
  | .kvServiceStart id => Sys2Proof.Machine.execKvServiceStart id s
  | .tsUpdate id => Sys2Proof.Machine.execTsUpdate id s
  | .tsCastout id => Sys2Proof.Machine.execTsCastout id s
  | .tsScale id => Sys2Proof.Machine.execTsScale id s
  | .tsAudit id => Sys2Proof.Machine.execTsAudit id s
  | .tsDigest id => Sys2Proof.Machine.execTsDigest id s
  | .tsCompare id => Sys2Proof.Machine.execTsCompare id s
  | .stepGateReread id => Sys2Proof.Machine.execStepGateReread id s
  | .stepGateTimeout id => Sys2Proof.Machine.execStepGateTimeout id s
  | .ucieModuleLoss module => Sys2Proof.Machine.execUcieModuleLoss module s
  | .registerWrite module offset size value => Sys2Proof.Machine.execRegisterWrite module offset size value s
  | .doorbell module ring value => Sys2Proof.Machine.execDoorbell module ring value s
  | .coreDoorbell site port priority ring value => Sys2Proof.Machine.execCoreDoorbell site port priority ring value s
  | .commandFetch ring strikes => Sys2Proof.Machine.execCommandFetch ring strikes s
  | .completionWrite k => Sys2Proof.Machine.execCompletionWrite k s
  | .completionStallTimeout ring => Sys2Proof.Machine.execCompletionStallTimeout ring s
  | .completionSlotRetry ring => Sys2Proof.Machine.execCompletionSlotRetry ring s
  | .interruptCoalesceTimeout ring => Sys2Proof.Machine.execInterruptCoalesceTimeout ring s
  | .nop id => Sys2Proof.Machine.execNop id s
  | .cfgBegin id => Sys2Proof.Machine.execCfgBegin id s
  | .cfgSet id => Sys2Proof.Machine.execCfgSet id s
  | .cfgCommit id => Sys2Proof.Machine.execCfgCommit id s
  | .commitApply id badFills => Sys2Proof.Machine.execCommitApply id badFills s
  | .quiescenceTimeout id => Sys2Proof.Machine.execQuiescenceTimeout id s
  | .cfgAbort id => Sys2Proof.Machine.execCfgAbort id s
  | .transactionTimeout txn => Sys2Proof.Machine.execTransactionTimeout txn s
  | .cfgGet id => Sys2Proof.Machine.execCfgGet id s
  | .saggarClose id => Sys2Proof.Machine.execSaggarClose id s
  | .jobOpen id => Sys2Proof.Machine.execJobOpen id s
  | .jobClose id => Sys2Proof.Machine.execJobClose id s
  | .jobCloseComplete id => Sys2Proof.Machine.execJobCloseComplete id s
  | .ringReset id => Sys2Proof.Machine.execRingReset id s
  | .ringRewetDone ring => Sys2Proof.Machine.execRingRewetDone ring s
  | .klaunch id => Sys2Proof.Machine.execKlaunch id s
  | .launchStart id => Sys2Proof.Machine.execLaunchStart id s
  | .kabort id => Sys2Proof.Machine.execKabort id s
  | .fabPour id => Sys2Proof.Machine.execFabPour id s
  | .fabWindow id => Sys2Proof.Machine.execFabWindow id s
  | .fabPortReset id => Sys2Proof.Machine.execFabPortReset id s
  | .laserInputLoss port => Sys2Proof.Machine.execLaserInputLoss port s
  | .portRanging port echoNs => Sys2Proof.Machine.execPortRanging port echoNs s
  | .helloSend port => Sys2Proof.Machine.execHelloSend port s
  | .memberExpiry port comb => Sys2Proof.Machine.execMemberExpiry port comb s
  | .beaconSend port => Sys2Proof.Machine.execBeaconSend port s
  | .leaderTimeout port => Sys2Proof.Machine.execLeaderTimeout port s
  | .controlFrameSend port echo backoff => Sys2Proof.Machine.execControlFrameSend port echo backoff s
  | .controlBackoffExpiry port echo backoff => Sys2Proof.Machine.execControlBackoffExpiry port echo backoff s
  | .lendAbandon port => Sys2Proof.Machine.execLendAbandon port s
  | .beacon port f => Sys2Proof.Machine.execBeacon port f s
  | .hello port f => Sys2Proof.Machine.execHello port f s
  | .reserve port f => Sys2Proof.Machine.execReserve port f s
  | .accept port f => Sys2Proof.Machine.execAccept port f s
  | .refuse port f => Sys2Proof.Machine.execRefuse port f s
  | .done port f => Sys2Proof.Machine.execDone port f s
  | .query port f => Sys2Proof.Machine.execQuery port f s
  | .relayed port f => Sys2Proof.Machine.execRelayed port f s
  | .abort port f => Sys2Proof.Machine.execAbort port f s
  | .mesh port f => Sys2Proof.Machine.execMesh port f s
  | .session port f => Sys2Proof.Machine.execSession port f s
  | .lag port f => Sys2Proof.Machine.execLag port f s
  | .lend port f => Sys2Proof.Machine.execLend port f s
  | .pourStart port => Sys2Proof.Machine.execPourStart port s
  | .reservationTake port => Sys2Proof.Machine.execReservationTake port s
  | .pourSegmentsStart port => Sys2Proof.Machine.execPourSegmentsStart port s
  | .dataFrameReceive port f => Sys2Proof.Machine.execDataFrameReceive port f s
  | .reserveTimeout port => Sys2Proof.Machine.execReserveTimeout port s
  | .reserveRetry port => Sys2Proof.Machine.execReserveRetry port s
  | .firstSegmentTimeout port => Sys2Proof.Machine.execFirstSegmentTimeout port s
  | .doneTimeout port => Sys2Proof.Machine.execDoneTimeout port s
  | .doneRetentionExpiry port srcPos pourId => Sys2Proof.Machine.execDoneRetentionExpiry port srcPos pourId s
  | .relayedTimeout port pourId => Sys2Proof.Machine.execRelayedTimeout port pourId s
  | .opticalAttachPacket k => Sys2Proof.Machine.execOpticalAttachPacket k s
  | .cascadeGatherTimeout attach destPos => Sys2Proof.Machine.execCascadeGatherTimeout attach destPos s
  | .mgmtDatagram d => Sys2Proof.Machine.execMgmtDatagram d s
  | .mgmtSessionTimeout session => Sys2Proof.Machine.execMgmtSessionTimeout session s
  | .pwrMeterRead id => Sys2Proof.Machine.execPwrMeterRead id s
  | .pwrSleep id => Sys2Proof.Machine.execPwrSleep id s
  | .pwrWake id => Sys2Proof.Machine.execPwrWake id s
  | .clusterSwitchStage cluster npPermille => Sys2Proof.Machine.execClusterSwitchStage cluster npPermille s
  | .clusterStartDeferralEnd cluster npPermille waitNs => Sys2Proof.Machine.execClusterStartDeferralEnd cluster npPermille waitNs s
  | .regulatorPhaseFault phase => Sys2Proof.Machine.execRegulatorPhaseFault phase s
  | .kilnRecompute m => Sys2Proof.Machine.execKilnRecompute m s
  | .lendLeaseExpiry k => Sys2Proof.Machine.execLendLeaseExpiry k s
  | .lendReductionExpiry k => Sys2Proof.Machine.execLendReductionExpiry k s
  | .telemetryWindowClose w => Sys2Proof.Machine.execTelemetryWindowClose w s
  | .energyAttribution input shares => Sys2Proof.Machine.execEnergyAttribution input shares s
  | .kilnModelUpdate points => Sys2Proof.Machine.execKilnModelUpdate points s
  | .kilnStaleTimeout => Sys2Proof.Machine.execKilnStaleTimeout s
  | .kilnStaleConeRaise => Sys2Proof.Machine.execKilnStaleConeRaise s
  | .thermalClamp point reading => Sys2Proof.Machine.execThermalClamp point reading s
  | .thermalClampRelease point reading => Sys2Proof.Machine.execThermalClampRelease point reading s
  | .thermalShutdown cause => Sys2Proof.Machine.execThermalShutdown cause s
  | .coolantOutOfRange quantity value => Sys2Proof.Machine.execCoolantOutOfRange quantity value s
  | .flowLimited flow => Sys2Proof.Machine.execFlowLimited flow s
  | .flowLimitLift flow => Sys2Proof.Machine.execFlowLimitLift flow s
  | .heatMismatch heatW => Sys2Proof.Machine.execHeatMismatch heatW s
  | .flowRecord heatW => Sys2Proof.Machine.execFlowRecord heatW s
  | .rotateDue saggar => Sys2Proof.Machine.execRotateDue saggar s
  | .thmRank id => Sys2Proof.Machine.execThmRank id s
  | .wearSample => Sys2Proof.Machine.execWearSample s
  | .wearPersist => Sys2Proof.Machine.execWearPersist s
  | .ceBucketLeak => Sys2Proof.Machine.execCeBucketLeak s
  | .relScrub id => Sys2Proof.Machine.execRelScrub id s
  | .scrubStart id strikes => Sys2Proof.Machine.execScrubStart id strikes s
  | .scrubComplete id => Sys2Proof.Machine.execScrubComplete id s
  | .relRetireGranule id => Sys2Proof.Machine.execRelRetireGranule id s
  | .relRetireSite id => Sys2Proof.Machine.execRelRetireSite id s
  | .siteRewetDone site bad => Sys2Proof.Machine.execSiteRewetDone site bad s
  | .mirrorWrite seq => Sys2Proof.Machine.execMirrorWrite seq s
  | .cisRead id => Sys2Proof.Machine.execCisRead id s
  | .cisClear id => Sys2Proof.Machine.execCisClear id s
  | .rstCluster id => Sys2Proof.Machine.execRstCluster id s
  | .rstSaggar id => Sys2Proof.Machine.execRstSaggar id s
  | .rstDie id => Sys2Proof.Machine.execRstDie id s
  | .rstStack id env => Sys2Proof.Machine.execRstStack id env s
  | .rstPackage id => Sys2Proof.Machine.execRstPackage id s
  | .fwStage id => Sys2Proof.Machine.execFwStage id s
  | .fwActivate id => Sys2Proof.Machine.execFwActivate id s
  | .fwRoleHandover role controller => Sys2Proof.Machine.execFwRoleHandover role controller s
  | .fwActivationConfirm => Sys2Proof.Machine.execFwActivationConfirm s
  | .runtimeActivationStart id bad => Sys2Proof.Machine.execRuntimeActivationStart id bad s
  | .runtimeActivationTimeout id => Sys2Proof.Machine.execRuntimeActivationTimeout id s
  | .controllerHeartbeatMiss role => Sys2Proof.Machine.execControllerHeartbeatMiss role s
  | .glazeSet id => Sys2Proof.Machine.execGlazeSet id s
  | .glazeRead id => Sys2Proof.Machine.execGlazeRead id s
  | .twinDrain id => Sys2Proof.Machine.execTwinDrain id s
  | .drainComplete id => Sys2Proof.Machine.execDrainComplete id s
  | .twinRejoin id => Sys2Proof.Machine.execTwinRejoin id s
  | .secQuote id => Sys2Proof.Machine.execSecQuote id s
  | .secCertRead id => Sys2Proof.Machine.execSecCertRead id s
  | .secExtend id => Sys2Proof.Machine.execSecExtend id s
  | .secWrapOpen id => Sys2Proof.Machine.execSecWrapOpen id s
  | .secKeySet id => Sys2Proof.Machine.execSecKeySet id s
  | .secRekeyPrepare id => Sys2Proof.Machine.execSecRekeyPrepare id s
  | .keyGraceExpiry saggar pos => Sys2Proof.Machine.execKeyGraceExpiry saggar pos s
  | .laserInputRestored port echoNs => Sys2Proof.Machine.execLaserInputRestored port echoNs s
  | .coolantOorClear => Sys2Proof.Machine.execCoolantOorClear s
  | .heatMismatchClear => Sys2Proof.Machine.execHeatMismatchClear s
  | .mgmtLinkUpChange up => Sys2Proof.Machine.execMgmtLinkUpChange up s

end Sys2Proof.Machine
end

