-- ==== Sys2Proof/Safety.lean ====
section
/-! DEFINITION. What counts as a well-kept state: memory in canonical form, and the glazed record that counts its own
changes (R501, R502, Table 16-8). -/
namespace Sys2Proof.Machine
open Sys2Proof

/-- Memory is in its canonical form: addresses strictly rising, and no listed byte equal to what an unlisted address holds. -/
abbrev Memory.wf (m : Tbl Byte) : Prop := Tbl.wf (fun _ => 0) m = true

/-- The core of site `i` runs, and the next instruction that its fetch gives is the 32-bit word `w` (R155, R160). -/
abbrev State.nextWord (s : State) (i w : Nat) : Prop := s.live i = true ∧ (s.fetch i).2 = .inl (w, 4)

/-- The state after the fetch of a core's next instruction: corrected errors are counted, and nothing has executed. -/
abbrev State.fetched (s : State) (i : Nat) : State := (s.fetch i).1

/-- The state after the fetch, with the core of site `i` changed by an instruction that retires and moves on by 4 bytes. -/
abbrev State.retired (s : State) (i : Nat) (f : Core → Core) : State :=
  (s.fetched i).setCore i ((f ((s.fetched i).core i)).adv 4)

/-- The glazed record balances: every change that a counter has given up stands in the history (R501, R502), of 4, 8 and 16
changes in a part's life (Table 16-8), and each re-key used one of IDENTITY. -/
abbrev State.glazedOk (s : State) : Prop :=
  s.fw.history.length + s.fw.leftVariant + s.fw.leftIdentity + s.fw.leftOwner = 28 ∧
  s.sec.rekeys + s.fw.leftIdentity = 8 ∧ s.fw.leftVariant ≤ 4 ∧ s.fw.leftOwner ≤ 16

end Sys2Proof.Machine
end

