-- ==== Sys2Proof/WellFormed.lean ====
section
/-! DEFINITION. Well-formed commands: every operand names a thing that the package has (R2, R3, Table 2-10), and every frame
has the size and the fields that its layout gives it (Tables 12-3, 12-7). -/
namespace Sys2Proof

/-- A physical site (R2). -/
def siteOk (n : Nat) : Bool := decide (n < 4608)
/-- An optical port (R370). -/
def portOk (n : Nat) : Bool := decide (n < 32)
/-- A host ring (R323). -/
def ringOk (n : Nat) : Bool := decide (n < 16384)
/-- A sluice (R215). -/
def sluiceOk (n : Nat) : Bool := decide (n < 1024)
/-- A near-bank unit, one for each channel (R228). -/
def unitOk (n : Nat) : Bool := decide (n < 512)
/-- A UCIe module (R318). -/
def moduleOk (n : Nat) : Bool := decide (n < 16)
/-- A power domain (Table 13-9). -/
def domainOk (n : Nat) : Bool := decide (n < 1175)

/-- The VHBM rail of a stack names one of the 16 stacks (Table 1-7). -/
def Rail.wf : Rail → Bool
  | .vhbm k => decide (k < 16)
  | .vstby | .vfoot | .vmesh | .vcm | .vhost | .vopt => true

/-- What a bring-up reports names sites, phases, channels, modules, ports and controllers that exist. -/
def BringupEnv.wf (e : BringupEnv) : Bool :=
  e.failedSites.all siteOk && e.badImageSites.all siteOk && e.badRewet.all (fun p => siteOk p.1) &&
  e.failedPhases.all (fun n => decide (n < 4608)) && e.failedChannels.all unitOk && e.failedModules.all moduleOk &&
  e.failedPorts.all portOk && e.echoNs.all (fun p => portOk p.1) && e.darkPorts.all portOk &&
  e.failedControllers.all (fun n => decide (n < 8))

/-- A control frame has the fields of Table 12-3. -/
def CtlFrame.wf (f : CtlFrame) : Bool :=
  decide (f.type < 16) && decide (f.srcPos < 256) && decide (f.dstPos < 256) && portOk f.srcPort &&
  decide (f.srcSaggar < 64) && decide (f.dstSaggar < 64) && decide (f.pourId < 65536) && decide (f.counter < 2 ^ 64) &&
  decide (f.body.length = 192) && decide (f.tag.length = 16)

/-- A data frame has the fields of Table 12-7; its payload is at most 4,096 bytes. -/
def DataFrame.wf (f : DataFrame) : Bool :=
  decide (f.segment < 1024) && decide (f.frame < 16) && decide (f.hopSrc < 256) && decide (f.hopDst < 256) &&
  decide (f.srcPos < 256) && decide (f.dstPos < 256) && decide (f.srcSaggar < 64) && decide (f.dstSaggar < 64) &&
  decide (f.payload.length ≤ 4096) && decide (f.tag.length = 16)

/-- A datagram names a 32-bit session and carries whole packets (R401). -/
def Datagram.wf (d : Datagram) : Bool :=
  decide (d.session < 2 ^ 32) && decide (d.seq < 2 ^ 64) && d.packets.all (fun b => decide (b.length = 64))

/-- A command is well formed. Commands named by their serial, and those that name a packet, a message or a lease by its place,
are well formed whatever the number: one that names nothing changes nothing. -/
def Instr.wf : Instr → Bool
  | .railGood r | .railWindowExpiry r => r.wf
  | .bisqueStart e | .refire e | .rstStack _ e => e.wf
  | .priorityFlitAged i | .rillInterrupt i | .scalarVectorInstruction i _ | .apertureLoad i | .apertureStore i | .fence i
  | .fenceI i | .csrWrite i | .tld i _ | .tst i _ | .taclr i | .tmma i _ | .tepi i | .tcvt i | .osm i | .tmv i
  | .tcasOpen i | .tcasClose i | .tcasExport i | .tcasFold i | .foldComplete i | .foldTimeout i | .tcasDiscard i | .taorC i
  | .allorTimeout i | .taorW i | .taorWComplete i | .tret i | .kernelExit i | .kernelEndByTrap i | .siteRewetDone i _ => siteOk i
  | .imageBroadcast _ l => l.all siteOk
  | .runtimeActivationStart _ l => l.all siteOk
  | .cxlMemRequest m _ _ _ _ | .ucieModuleLoss m => moduleOk m
  | .registerWrite m _ n _ => moduleOk m && (n == 4 || n == 8)
  | .doorbell m r v => moduleOk m && ringOk r && decide (v < 2 ^ 32)
  | .coreDoorbell i p _ r v => siteOk i && moduleOk p && ringOk r && decide (v < 2 ^ 32)
  | .columnRefresh b => decide (b < 36)
  | .refreshRateChange b l _ | .refreshNormalReturn b l => decide (b < 36) && decide (l < 2)
  | .hbmRefresh c b => unitOk c && decide (b < 64)
  | .sluiceDescriptorStart n _ | .sluiceDescriptorComplete n | .sluiceHalt n _ | .sluiceRewetDone n => sluiceOk n
  | .nbCoreCommand i u _ b => siteOk i && unitOk u && decide (b.length = 64)
  | .nbSequenceStart u | .nbStepEnd u _ _ | .nbGapEnd u | .nbResetEntry u | .nbUnitRewetDone u => unitOk u
  | .commandFetch r _ | .completionStallTimeout r | .completionSlotRetry r | .interruptCoalesceTimeout r | .ringRewetDone r => ringOk r
  | .laserInputLoss p | .portRanging p _ | .helloSend p | .memberExpiry p _ | .beaconSend p | .leaderTimeout p
  | .controlFrameSend p _ _ | .controlBackoffExpiry p _ _ | .lendAbandon p | .pourStart p | .reservationTake p
  | .pourSegmentsStart p | .reserveTimeout p | .reserveRetry p | .firstSegmentTimeout p | .doneTimeout p
  | .doneRetentionExpiry p _ _ | .relayedTimeout p _ | .laserInputRestored p _ => portOk p
  | .beacon p f | .hello p f | .reserve p f | .accept p f | .refuse p f | .done p f | .query p f | .relayed p f
  | .abort p f | .mesh p f | .session p f | .lag p f | .lend p f => portOk p && f.wf
  | .dataFrameReceive p f => portOk p && f.wf
  | .mgmtDatagram d => d.wf
  | .clusterSwitchStage c _ | .clusterStartDeferralEnd c _ _ => decide (c < 1152)
  | .regulatorPhaseFault n => decide (n < 4608)
  | .telemetryWindowClose w => domainOk w.domain
  | .energyAttribution _ l => l.all (fun x => domainOk x.domain && decide (x.saggar < 64))
  | .rotateDue g => decide (g < 64)
  | .keyGraceExpiry g p => decide (g < 64) && decide (p < 256)
  | .thermalShutdown c => decide (1 ≤ c ∧ c ≤ 3)
  | .coolantOutOfRange q _ => decide (q < 3)
  | .fwRoleHandover r c => decide (r < 6) && decide (c < 8)
  | .controllerHeartbeatMiss r => decide (r < 6)
  | .standbyPowerUp | .vmeshOutOfRange | .refLoss | .refRecovery | .holdoverExpiry | .inputUndervolt _ | .inputRecovery _
  | .inputPowerLost _ | .inputOvervoltage _ | .packetInject _ | .meshRequestArrival _ _ | .meshResponseArrival _
  | .epochUpdate _ | .remapApply _ | .remapQuiescenceTimeout _ | .cascadeNodeArrival _ | .allorWordArrival _
  | .lagNoticeArrival _ | .attachPortRequest _ _ | .sluiceResume _ | .nbRun _ | .fenceNb _ | .nbCancel _ | .nbReset _
  | .kvAppend _ | .kvEvict _ | .kvStage _ | .attnDecode _ | .kvScore _ | .kvAccept _ | .kvServiceStart _ | .tsUpdate _
  | .tsCastout _ | .tsScale _ | .tsAudit _ | .tsDigest _ | .tsCompare _ | .stepGateReread _ | .stepGateTimeout _
  | .completionWrite _ | .nop _ | .cfgBegin _ | .cfgSet _ | .cfgCommit _ | .commitApply _ _ | .quiescenceTimeout _
  | .cfgAbort _ | .transactionTimeout _ | .cfgGet _ | .saggarClose _ | .jobOpen _ | .jobClose _ | .jobCloseComplete _
  | .ringReset _ | .klaunch _ | .launchStart _ | .kabort _ | .fabPour _ | .fabWindow _ | .fabPortReset _
  | .opticalAttachPacket _ | .cascadeGatherTimeout _ _ | .mgmtSessionTimeout _ | .pwrMeterRead _ | .pwrSleep _
  | .pwrWake _ | .kilnRecompute _ | .lendLeaseExpiry _ | .lendReductionExpiry _ | .kilnModelUpdate _ | .kilnStaleTimeout
  | .kilnStaleConeRaise | .thermalClamp _ _ | .thermalClampRelease _ _ | .flowLimited _ | .flowLimitLift _
  | .heatMismatch _ | .flowRecord _ | .thmRank _ | .wearSample | .wearPersist | .ceBucketLeak | .relScrub _
  | .scrubStart _ _ | .scrubComplete _ | .relRetireGranule _ | .relRetireSite _ | .mirrorWrite _ | .cisRead _ | .cisClear _
  | .rstCluster _ | .rstSaggar _ | .rstDie _ | .rstPackage _ | .fwStage _ | .fwActivate _ | .fwActivationConfirm
  | .runtimeActivationTimeout _ | .glazeSet _ | .glazeRead _ | .twinDrain _ | .drainComplete _ | .twinRejoin _
  | .secQuote _ | .secCertRead _ | .secExtend _ | .secWrapOpen _ | .secKeySet _ | .secRekeyPrepare _ | .coolantOorClear
  | .heatMismatchClear | .mgmtLinkUpChange _ => true

end Sys2Proof
end

