-- ==== Sys2Proof/Certificates/Slice0/Obligations.lean ====
section
/-! DEFINITION. The statements for the provers, by chapter of the manual and then of the machine as a whole. A statement names
the rules it formalises in its docstring; its text in OBLIGATIONS.json says which clause is a choice of the model. -/
open Sys2Proof Sys2Proof.Machine

/-- A step runs the command at the front of the queue on the state with the queue's rest. -/
def Obligations.StepRunsFrontCommand : Prop :=
  ∀ (c : Instr) (rest : List Instr) (s : State), step { s with pending := c :: rest } = exec c { s with pending := rest }

/-- With nothing waiting, a step advances the management counter by 1 µs and changes nothing else (log entry 4). -/
def Obligations.EmptyQueueStepTicks : Prop :=
  ∀ s : State, s.pending = [] → step s = .next { s with nowUs := s.nowUs + 1 }

/-- STANDBY_POWER_UP and RAIL_GOOD (R30, Table 1-8). -/
def Obligations.RailsComeUpInOrder : Prop :=
  (∀ s : State, s.pkg.inputOn = false →
    ∃ t, exec .standbyPowerUp s = .next t ∧ t.pkg.inputOn = true ∧ t.railGood .vstby = true ∧ t.pkg.enabled = 2 ∧
      (∀ r, r ≠ .vstby → t.railGood r = s.railGood r) ∧ t = { s with pkg := t.pkg }) ∧
  (∀ (rail : Rail) (s : State), rail.wf = true → s.pkg.seqStopped = false → railOrder rail < s.pkg.enabled → s.railGood rail = false →
    ∃ t, exec (.railGood rail) s = .next t ∧ t.railGood rail = true ∧ (∀ r, r.wf = true → r ≠ rail → t.railGood r = s.railGood r) ∧
      (rail = .vfoot → s.pkg.enabled = 2 → t.pkg.enabled = 3) ∧ (rail = .vmesh → s.pkg.enabled = 3 → t.pkg.enabled = 4) ∧
      (rail = .vcm → s.pkg.enabled = 4 → t.pkg.enabled = 5) ∧
      (s.pkg.enabled = 5 → (t.pkg.enabled = 7 ↔ t.pkg.vhbm = 0xFFFF)) ∧ t = { s with pkg := t.pkg })

/-- RAIL_WINDOW_EXPIRY (R31). -/
def Obligations.RailWindowExpiryStops : Prop :=
  ∀ (rail : Rail) (s : State), s.pkg.seqStopped = false → railOrder rail < s.pkg.enabled → s.railGood rail = false →
    ∃ u t, exec (.railWindowExpiry rail) s = .next t ∧
      u = { s with pkg := { s.pkg with seqStopped := true }, fw := { s.fw with stopped := true }, host := { s.host with ready := false } } ∧
      t = (u.recordFw 5 0x1003 none 0 (p4 (railBit rail))).recordFw 5 0x9003 none 0
        (p4 (if rail = .vstby then 1 else 4) ++ p4 (railBit rail)) ∧
      (∀ r, t.railGood r = s.railGood r) ∧ t.pkg.enabled = s.pkg.enabled ∧ ∀ r, exec (.railGood r) t = .next t

/-- VMESH_OUT_OF_RANGE (R32), REF_LOSS, REF_RECOVERY and HOLDOVER_EXPIRY (R36). -/
def Obligations.ClockAndMeshRailEvents : Prop :=
  (∀ s : State, s.up = true → s.pkg.vmesh = true →
    ∃ t, exec .vmeshOutOfRange s = .next t ∧ t.pkg.computeLost = true ∧ t.outq = [] ∧ t.net = [] ∧
      t.rill = [] ∧ t.launches = []) ∧
  (∀ s : State, s.up = true → s.pkg.holdover = false →
    exec .refLoss s = .next ({ s with pkg := { s.pkg with
      holdover := true, refPresent := false, locked := false, refLossCount := min 65535 (s.pkg.refLossCount + 1) } }.recordFw 5 0x1005 none 0 [])) ∧
  (∀ s : State, s.pkg.heldInReset = false → s.pkg.holdover = true →
    exec .refRecovery s = .next ({ s with pkg := { s.pkg with
      holdover := false, refPresent := true, locked := true } }.recordFw 5 0x1006 none 0 [])) ∧
  (∀ s : State, s.up = true → s.pkg.holdover = true →
    ∃ t, exec .holdoverExpiry s = .next t ∧ t.pkg.heldInReset = true ∧ t.pkg.holdover = false ∧ t.host.ready = false ∧ t.cmds = [] ∧
      t.compls = [] ∧ t.launches = [])

/-- INPUT_UNDERVOLT, INPUT_RECOVERY, INPUT_POWER_LOST (R408) and INPUT_OVERVOLTAGE (R529). -/
def Obligations.InputVoltageEvents : Prop :=
  (∀ (mv : Nat) (s : State), s.up = true → mv < 40000 → s.power.undervolt = false →
    exec (.inputUndervolt mv) s = .next
      ({ s with power := { s.power with undervolt := true, inputMv := mv } }.setCap.recordFw 0 0x6001 none 0 (p4 (mv / 4)))) ∧
  (∀ (mv : Nat) (s : State), s.up = true → 40000 ≤ mv → s.power.undervolt = true →
    exec (.inputRecovery mv) s = .next
      ({ s with power := { s.power with undervolt := false, inputMv := mv } }.setCap.recordFw 0 0x600A none 0 [])) ∧
  (∀ (mv : Nat) (s : State), mv < 37000 → s.pkg.poweredDown = false →
    ∃ t, exec (.inputPowerLost mv) s = .next t ∧ t.pkg.poweredDown = true ∧ t.host.ready = false ∧ t.cmds = [] ∧ t.compls = [] ∧
      (∀ r, r ≠ .vstby → t.railGood r = false) ∧ (mv < 36000 → t.pkg.vstby = false)) ∧
  (∀ (mv : Nat) (s : State), 66000 < mv → s.pkg.poweredDown = false →
    ∃ t, exec (.inputOvervoltage mv) s = .next t ∧ t.pkg.poweredDown = true ∧ t.host.ready = false ∧ t.cmds = [] ∧
      ∀ r, t.railGood r = false)

/-- PACKET_INJECT (R43, R52, R55, R62). -/
def Obligations.PacketInjectSends : Prop :=
  (∀ (k : Nat) (s : State) (p q : Packet) (h : Shape), s.outq[k]? = some p →
    ((s.outq.take k).any (fun x => x.src == p.src && x.vc == p.vc)) = false → s.injectCheck p = 0 → s.translate p = some q →
    p.src < 4608 → State.Shape.spend ((s.site p.src).shapeOf p.vc) s.nowUs s.meshPerUs (p.flits + 1) = some h →
    ∃ t x, exec (.packetInject k) s = .next t ∧ t.outq = dropAt s.outq k ∧ t.net = s.net ++ [x] ∧
      x = { q with saggar := if p.isResponse ∨ p.priv then q.saggar else (s.siteOwner p.src).getD q.saggar } ∧
      (∀ i, i ≠ p.src → t.site i = s.site i) ∧ t = { s with outq := t.outq, net := t.net, sites := t.sites }) ∧
  (∀ (k : Nat) (s : State) (p : Packet), s.outq[k]? = some p →
    ((s.outq.take k).any (fun x => x.src == p.src && x.vc == p.vc)) = false → s.injectCheck p ≠ 0 →
    exec (.packetInject k) s = .next ({ s with outq := dropAt s.outq k }.answerLocal p (s.injectCheck p))) ∧
  (∀ (s : State) (p : Packet) (c : Nat), p.isResponse = false → p.priv = true → p.core = some c → s.siteOfCore c = none →
    s.injectCheck p = 0x0354)

/-- MESH_REQUEST_ARRIVAL, MESH_RESPONSE_ARRIVAL, CASCADE_NODE_ARRIVAL and ALLOR_WORD_ARRIVAL. -/
def Obligations.MeshArrivalsApply : Prop :=
  (∀ (k : Nat) (x : Strikes) (s t : State) (p : Packet),
    s.siteRequest k (fun q => q != .casNode && q != .allorUp && q != .allorDown) = some (t, p) → (t.siteGate p).2 = 0 →
    exec (.meshRequestArrival k x) s = .next ((t.strike x).serveAccess p { saggar := p.saggar, isPriv := p.priv, carve := false } 3)) ∧
  (∀ (k : Nat) (s : State) (p : Packet), s.net[k]? = some p → p.isResponse = true → p.dest < 4608 → s.meshHead k p = true →
    (s.site p.dest).inReset = false →
    exec (.meshResponseArrival k) s = .next ({ s with net := dropAt s.net k }.answerCore p.dest p.tag p.status p.payload)) ∧
  (∀ (k : Nat) (s : State) (p : Packet), s.net[k]? = some p → p.isResponse = true → p.dest < 4608 → s.meshHead k p = true →
    (s.site p.dest).inReset = true →
    ∃ t, exec (.meshResponseArrival k) s = .next t ∧ (t.site p.dest).cntLate = min (2 ^ 32 - 1) ((s.site p.dest).cntLate + 1) ∧
      t.cores = s.cores ∧ t.net = dropAt s.net k) ∧
  (∀ (k : Nat) (s t : State) (p : Packet), s.siteRequest k (fun q => q == .casNode) = some (t, p) → (t.siteGate p).2 = 0 →
    exec (.cascadeNodeArrival k) s = .next ((t.takeNode p).1.respond p (t.takeNode p).2 [])) ∧
  (∀ (k : Nat) (s t : State) (p : Packet), s.siteRequest k (fun q => q == .allorUp || q == .allorDown) = some (t, p) →
    (t.siteGate p).2 = 0 → exec (.allorWordArrival k) s = .next ((t.takeWord p).1.respond p (t.takeWord p).2 []))

/-- PRIORITY_FLIT_AGED (R58), EPOCH_UPDATE (R66), REMAP_APPLY, REMAP_QUIESCENCE_TIMEOUT (R42), LAG_NOTICE_ARRIVAL (R420),
RILL_INTERRUPT (R156, R351). -/
def Obligations.RillAndRemapCommands : Prop :=
  (∀ (i : Nat) (s : State), i < 4608 → exec (.priorityFlitAged i) s = .next (s.record 0x2006 2 i (s.siteOwner i) 0 [])) ∧
  (∀ (k u : Nat) (v : BitVec 32) (l : List Nat) (s : State), s.rill[k]? = some (.epoch u v l) → u < 65536 →
    ∃ t, exec (.epochUpdate k) s = .next t ∧ (∀ g ∈ l, t.heardEpoch g u = v) ∧
      (∀ g w, w < 65536 → w ≠ u ∨ g ∉ l → t.heardEpoch g w = s.heardEpoch g w) ∧
      t = { s with rill := dropAt s.rill k, heard := t.heard }) ∧
  (∀ (k : Nat) (r : Remap) (s : State), s.remaps[k]? = some r → r.waitFor.all s.quiescent = true →
    ∃ u, u = { s with remaps := dropAt s.remaps k }.moveSites r ∧ exec (.remapApply k) s =
      .next ((u.recordFw 5 0x2001 (u.siteOwner r.retired) 0 []).releaseSaggars r.waitFor)) ∧
  (∀ (k : Nat) (r : Remap) (s : State), s.remaps[k]? = some r → r.timeoutSeen = false → r.waitFor.all s.quiescent = false →
    r.sinceUs + 10000000 ≤ s.nowUs → exec (.remapQuiescenceTimeout k) s =
      .next ({ s with remaps := s.remaps.set k { r with timeoutSeen := true } }.recordFw 5 0x2003 none 0 [])) ∧
  (∀ (k i g j d : Nat) (s : State), s.rill[k]? = some (.lagNotice i g j d) →
    exec (.lagNoticeArrival k) s = .next ({ s with rill := dropAt s.rill k }.lagExtend i g j d)) ∧
  (∀ (i : Nat) (s : State), i < 4608 → (s.site i).inReset = false →
    ∃ t, exec (.rillInterrupt i) s = .next t ∧ (t.core i).coreEpoch = (s.site i).epoch ∧ (t.core i).pc = (s.core i).pc ∧
      (∀ j, j ≠ i → t.core j = s.core j) ∧ t = { s with cores := t.cores })

/-- ADDI and ADD: result, x0, pc and frame (R155; RISC-V by log entry 21). -/
def Obligations.ScalarAdd : Prop :=
  ∀ (i w : Nat) (s : State) (b : Nat), s.nextWord i w →
    ((w % 128 = 0x13 ∧ bits w 12 3 = 0 ∧ b = w32 (immI w)) ∨
     (w % 128 = 0x33 ∧ bits w 12 3 = 0 ∧ bits w 25 7 = 0 ∧ b = ((s.fetched i).core i).getX (bits w 20 5))) →
    ∃ t, exec (.scalarVectorInstruction i { ce := [], ue := [] }) s = .next t ∧
      (t.core i).getX (bits w 7 5) = (if bits w 7 5 = 0 then 0 else (((s.fetched i).core i).getX (bits w 15 5) + b) % 2 ^ 32) ∧
      (∀ n, n < 32 → n ≠ bits w 7 5 → (t.core i).getX n = ((s.fetched i).core i).getX n) ∧
      (t.core i).pc = ((s.fetched i).core i).pc + 4 ∧ (∀ j, j ≠ i → t.core j = (s.fetched i).core j) ∧
      (∀ a, t.byteAt a = (s.fetched i).byteAt a)

/-- APERTURE_LOAD and APERTURE_STORE (R159). -/
def Obligations.ApertureAccesses : Prop :=
  (∀ (i w : Nat) (s u : State) (need : List (Nat × Nat)), s.nextWord i w → isBase w = true →
    (s.fetched i).baseEff i w 4 [] = .far u need → exec (.apertureLoad i) s = .next (u.issueLoads i 4 need)) ∧
  (∀ (i w : Nat) (s u : State), s.nextWord i w → isBase w = true →
    (s.fetched i).baseEff i w 4 [] = .done u true → exec (.apertureStore i) s = .next u) ∧
  (∀ (u : State) (i a n sag dest b : Nat) (chk : Bool), u.siteOwner i = some sag → u.place i false false a n = some (.aper b chk) →
    u.routeOf sag b n = .inr dest →
    ∃ t, u.issueLoads i 4 [(a, n)] = t ∧ (t.core i).run = .waitLoad [((u.core i).nextTag, a, n)] [] none ∧
      (t.core i).pc = (u.core i).pc ∧ (∀ j, j ≠ i → t.core j = u.core j) ∧ t.mem = u.mem ∧
      t.outq = u.outq ++ [u.requestOf i sag dest (u.core i).nextTag b chk (.read n) []])

/-- FENCE (R188), FENCE_I (R190) and CSR_WRITE (R182, R183). -/
def Obligations.FencesAndCsrWrites : Prop :=
  (∀ (i w : Nat) (s : State), s.nextWord i w → isFence w = true → fencesWrites w = false →
    exec (.fence i) s = .next (if fencesReads w then (s.retired i id).fencedReads i else s.retired i id)) ∧
  (∀ (i w : Nat) (s : State), s.nextWord i w → fencesWrites w = true → ((s.fetched i).core i).posted = [] →
    ((s.fetched i).core i).remCount = 0 →
    ∃ t, exec (.fence i) s = .next t ∧ (t.core i).pc = ((s.fetched i).core i).pc + 4 ∧ (t.core i).run = .running ∧
      (∀ j, j ≠ i → t.core j = (s.fetched i).core j) ∧ t.mem = (s.fetched i).mem ∧
      (fencesReads w = true → ∀ p ∈ t.unseen, ¬ (columnBase ≤ p.1 ∧ siteOfAddr p.1 = i)) ∧
      (bitAt w 20 = true → ∀ p ∈ t.unsent, ¬ (columnBase ≤ p.1 ∧ siteOfAddr p.1 = i))) ∧
  (∀ (i w : Nat) (s : State), s.nextWord i w → fencesWrites w = true → ((s.fetched i).core i).posted ≠ [] →
    exec (.fence i) s = .next ((if fencesReads w then (s.fetched i).fencedReads i else s.fetched i).modCore i
      (fun k => { k with run := .waitFence (bitAt w 20) }))) ∧
  (∀ (i w : Nat) (s : State), s.nextWord i w → isFenceI w = true →
    ∃ t, exec (.fenceI i) s = .next t ∧ (∀ p ∈ t.stale, ¬ (storeAddr i 0 ≤ p.1 ∧ p.1 < storeAddr (i + 1) 0)) ∧
      (t.core i).pc = ((s.fetched i).core i).pc + 4 ∧ t.mem = (s.fetched i).mem) ∧
  (∀ (i w v : Nat) (s : State), s.nextWord i w → w % 128 = 0x73 → bits w 12 3 = 1 → bits w 20 12 = 0x801 →
    v = ((s.fetched i).core i).getX (bits w 15 5) →
    ∃ t, exec (.csrWrite i) s = .next t ∧ (t.core i).absLimit = BitVec.ofNat 32 v ∧
      (bits w 7 5 ≠ 0 → (t.core i).getX (bits w 7 5) = ((s.fetched i).core i).absLimit.toNat) ∧ (t.core i).pc = ((s.fetched i).core i).pc + 4 ∧
      (t.core i).fmtFlags = ((s.fetched i).core i).fmtFlags ∧ (∀ j, j ≠ i → t.core j = (s.fetched i).core j) ∧ t.mem = (s.fetched i).mem) ∧
  (∀ (i w : Nat) (s : State), s.nextWord i w → w % 128 = 0x73 → 1 ≤ bits w 12 3 → bits w 12 3 ≤ 3 → bits w 15 5 ≠ 0 → bits w 20 12 = 0x800 →
    ∃ t, exec (.csrWrite i) s = .next t ∧
      (t.core i).fmtFlags = ((s.fetched i).core i).fmtFlags.clearBits (((s.fetched i).core i).getX (bits w 15 5)) ∧
      (t.core i).absLimit = ((s.fetched i).core i).absLimit ∧ (∀ j, j ≠ i → t.core j = (s.fetched i).core j) ∧ t.mem = (s.fetched i).mem)

/-- KERNEL_EXIT (R192) and KERNEL_END_BY_TRAP (R187). -/
def Obligations.KernelEnds : Prop :=
  (∀ (i : Nat) (v : W32) (s : State), s.present i = true → (s.core i).run = .trapped 8 v → (s.core i).getX 17 = 0 → s.answered i = true →
    (s.core i).remCount = 0 →
    ∃ t, exec (.kernelExit i) s = .next t ∧ t = s.endKernel i 0 0 (BitVec.ofNat 32 ((s.core i).getX 10)) ∧
      (t.core i).run = .idle ∧ (t.core i).user = false) ∧
  (∀ (i cause : Nat) (v : W32) (s : State), s.present i = true → (s.core i).run = .trapped cause v → s.answered i = true →
    (cause ≠ 8 ∨ (s.core i).getX 17 ≠ 0) →
    ∃ t, exec (.kernelEndByTrap i) s = .next t ∧ t = s.endByTrap i cause v ∧ (t.core i).run = .idle ∧ (t.core i).user = false)

/-- TLD, TST (R164, R165), TACLR (R166) and TMV (R175). -/
def Obligations.TileMoves : Prop :=
  (∀ (i w : Nat) (x : Strikes) (s u : State) (rows : List (Nat × Nat)) (bs : List Byte), s.nextWord i w → tileOp w = some .tld →
    u = (s.fetched i).strike x → State.tldCheck (u.core i) w = 0 →
    rows = (State.tldRows (u.core i) w).map (fun a => (a, (State.tldShape (bits w 25 3)).2.1)) →
    rows.find? (fun q => (u.place i false false q.1 q.2).isNone) = none → u.farPieces i [] rows = [] →
    (u.coreReads i [] rows).2 = .ok bs →
    exec (.tld i x) s = .next ((u.coreReads i [] rows).1.modCore i (fun k =>
      (k.setTBytes (bits w 7 3 * 1024 + (State.tldShape (bits w 25 3)).2.2.1) bs).adv 4))) ∧
  (∀ (i w : Nat) (x : Strikes) (s u v : State) (p : Bool), s.nextWord i w → tileOp w = some .tst →
    u = (s.fetched i).strike x → State.tldCheck (u.core i) w = 0 →
    (State.tldRows (u.core i) w).find? (fun a => (u.place i true false a (State.tldShape (bits w 25 3)).2.1).isNone) = none →
    u.coreWrites i ((State.tldRows (u.core i) w).zipIdx.flatMap (fun q => (State.linesOf q.1 (State.tldShape (bits w 25 3)).2.1).map (fun a =>
      (a.1, (u.core i).getTBytes (bits w 7 3 * 1024 + (State.tldShape (bits w 25 3)).2.2.1 + q.2 * (State.tldShape (bits w 25 3)).2.1 +
        (a.1 - q.1)) a.2)))) = .done v p →
    exec (.tst i x) s = .next (v.modCore i (fun k => k.adv 4))) ∧
  (∀ (i w : Nat) (s : State), s.nextWord i w → tileOp w = some .taclr → (s.fetched i).exporting i (bits w 7 2) = false →
    ((((s.fetched i).core i).acc (bits w 7 2)).redOpen = true → (((s.fetched i).core i).acc (bits w 7 2)).red16 = bitAt w 9) →
    ∃ t, exec (.taclr i) s = .next t ∧ (∀ r c, r < 32 → c < 32 → (t.core i).getAc (bits w 7 2) r c = 0) ∧
      ((t.core i).acc (bits w 7 2)).fp16 = bitAt w 9 ∧ ((t.core i).acc (bits w 7 2)).isOpen = false ∧
      (t.core i).pc = ((s.fetched i).core i).pc + 4 ∧ t = (s.fetched i).setCore i (t.core i)) ∧
  (∀ (i w : Nat) (s : State), s.nextWord i w → tileOp w = some .tmv → bits w 7 5 % 4 = 0 → bits w 20 2 = 0 →
    exec (.tmv i) s = .next (s.retired i (fun k => State.setVecKib k (bits w 7 5) (k.getTBytes (bits w 15 3 * 1024) 1024)))) ∧
  (∀ (i w : Nat) (s : State), s.nextWord i w → tileOp w = some .tmv → bits w 7 5 % 4 = 0 → bits w 20 2 = 1 →
    exec (.tmv i) s = .next (s.retired i (fun k => k.setTBytes (bits w 15 3 * 1024) (State.vecKib k (bits w 7 5)))))

/-- TMMA (R99, R118, R167), TEPI (R168), TCVT (R171) and OSM (R172 to R174). -/
def Obligations.TileArithmetic : Prop :=
  (∀ (i w : Nat) (x : Residue) (s u : State), s.nextWord i w → tileOp w = some .tmma → u = s.fetched i →
    u.exporting i (bits w 7 2) = false → u.tmmaCheck i w = 0 → x.first.toNat &&& State.tmmaColumns (u.core i) w = 0 →
    exec (.tmma i x) s = .next (s.residueCheck ((u.tmmaAdd i w).modCore i (fun k => k.adv 4)) i)) ∧
  (∀ (i w : Nat) (x : Residue) (s u : State), s.nextWord i w → tileOp w = some .tmma → u = s.fetched i →
    u.exporting i (bits w 7 2) = false → u.tmmaCheck i w = 0 → x.first.toNat &&& State.tmmaColumns (u.core i) w ≠ 0 →
    x.repeat2.toNat &&& State.tmmaColumns (u.core i) w ≠ 0 →
    exec (.tmma i x) s = .next (s.residueCheck ((u.residueFault i (bits w 7 2)).takeTrap i 26
      (x.repeat2.toNat &&& State.tmmaColumns (u.core i) w) (bits w 7 2) 4) i)) ∧
  (∀ (i w : Nat) (s u : State), s.nextWord i w → tileOp w = some .tepi → u = s.fetched i → u.exporting i (bits w 7 2) = false →
    State.tepiCheck (u.core i) w = 0 → bitAt ((u.core i).getX (bits w 15 5)) 3 = false →
    exec (.tepi i) s = .next (s.retired i (fun k => State.tepiWrite k w (State.tepiIn k w [])))) ∧
  (∀ (i w : Nat) (s : State), s.nextWord i w → tileOp w = some .tcvt → State.tcvtCheck w = 0 →
    exec (.tcvt i) s = .next (s.retired i (fun k => State.tcvtRun k w))) ∧
  (∀ (i w : Nat) (s u : State), s.nextWord i w → tileOp w = some .osm → u = s.fetched i → u.exporting i (bits w 7 2) = false →
    (bitAt w 9 = true ∨ u.exporting i (bits w 10 2) = false) → State.osmCheck (u.core i) w = 0 →
    exec (.osm i) s = .next (s.retired i (fun k => State.osmRun k w)))

/-- TCAS.OPEN (R136), TCAS.CLOSE (R137), TCAS.EXPORT (R138), TCAS.FOLD (R139) and TCAS.DISCARD (R140). -/
def Obligations.CascadeInstructions : Prop :=
  (∀ (i w : Nat) (s u : State), s.nextWord i w → tileOp w = some .casOpen → u = s.fetched i → u.exporting i (bits w 7 2) = false →
    (u.core i).getX (bits w 15 5) ≠ 0 → (u.core i).getX (bits w 20 5) < (u.core i).getX (bits w 15 5) →
    ((u.core i).acc (bits w 7 2)).redOpen = false →
    ∃ t, exec (.tcasOpen i) s = .next t ∧ ((t.core i).acc (bits w 7 2)).redOpen = true ∧
      ((t.core i).acc (bits w 7 2)).redId = (u.core i).getX (bits w 27 5) % 65536 ∧
      ((t.core i).acc (bits w 7 2)).nb = (u.core i).getX (bits w 15 5) ∧ ((t.core i).acc (bits w 7 2)).next = (u.core i).getX (bits w 20 5) ∧
      ((t.core i).acc (bits w 7 2)).failed = false ∧ (t.core i).pc = (u.core i).pc + 4 ∧ t = u.setCore i (t.core i)) ∧
  (∀ (i w : Nat) (s : State), s.nextWord i w → tileOp w = some .casClose → (s.fetched i).exporting i (bits w 7 2) = false →
    (((s.fetched i).core i).acc (bits w 7 2)).isOpen = false → exec (.tcasClose i) s = .next (s.retired i id)) ∧
  (∀ (i w : Nat) (s u : State), s.nextWord i w → tileOp w = some .casClose → u = s.fetched i → u.exporting i (bits w 7 2) = false →
    ((u.core i).acc (bits w 7 2)).isOpen = true → u.closeCheck i (bits w 7 2) ((u.core i).acc (bits w 7 2)).groups true = 0 →
    exec (.tcasClose i) s = .next ((u.closeBlock i (bits w 7 2)).modCore i (fun k => k.adv 4))) ∧
  (∀ (i w : Nat) (s u : State), s.nextWord i w → tileOp w = some .casExport → u = s.fetched i → u.exporting i (bits w 7 2) = false →
    u.exportCheck i (bits w 7 2) ((u.core i).getX (bits w 15 5)) = 0 →
    exec (.tcasExport i) s = .next ((u.exportNodes i (bits w 7 2) ((u.core i).getX (bits w 15 5))).modCore i (fun k => k.adv 4))) ∧
  (∀ (i w : Nat) (s u : State), s.nextWord i w → tileOp w = some .casFold → u = s.fetched i → u.exporting i (bits w 7 2) = false →
    ((u.core i).acc (bits w 7 2)).redOpen = true → ((u.core i).acc (bits w 7 2)).isOpen = false →
    (((u.core i).acc (bits w 7 2)).failed = true → exec (.tcasFold i) s = .next (u.takeTrap i 27 (bits w 7 2) 0 4)) ∧
    (∀ n, ((u.core i).acc (bits w 7 2)).failed = false → ((u.core i).acc (bits w 7 2)).root = some n →
      exec (.tcasFold i) s = .next (u.settle i 4 (u.foldNow i (bits w 7 2) n))) ∧
    (((u.core i).acc (bits w 7 2)).failed = false → ((u.core i).acc (bits w 7 2)).root = none → (u.core i).casWait ≠ 0 →
      exec (.tcasFold i) s = .next (u.modCore i (fun k => { k with run := .waitFold (bits w 7 2) u.nowUs 0 })))) ∧
  (∀ (i w : Nat) (s u : State), s.nextWord i w → tileOp w = some .casDiscard → u = s.fetched i →
    ∃ t, exec (.tcasDiscard i) s = .next t ∧ ((t.core i).acc (bits w 7 2)).redOpen = false ∧
      ((t.core i).acc (bits w 7 2)).exporting = ((u.core i).acc (bits w 7 2)).exporting.map (fun x => { x with dropped := true }) ∧ (t.core i).acw = (u.core i).acw ∧ (t.core i).pc = (u.core i).pc + 4 ∧ t = u.setCore i (t.core i))

/-- FOLD_COMPLETE and FOLD_TIMEOUT (R139), TAOR.C and TAOR.W with their completion and time-out (R147, R178), TRET (R179). -/
def Obligations.WaitsAndReturn : Prop :=
  (∀ (i a since extra : Nat) (s : State), s.present i = true → (s.core i).run = .waitFold a since extra →
    (((s.core i).acc a).failed = true →
      exec (.foldComplete i) s = .next ((s.modCore i (fun k => { k with run := .running })).takeTrap i 27 a 0 4)) ∧
    (∀ n, ((s.core i).acc a).failed = false → ((s.core i).acc a).root = some n →
      exec (.foldComplete i) s = .next (s.settle i 4 (s.foldNow i a n))) ∧
    (((s.core i).acc a).root = none → since + (s.core i).casWait + extra ≤ s.nowUs →
      exec (.foldTimeout i) s = .next (((s.record 0x2021 1 i (s.siteOwner i) (s.core i).job []).modCore i
        (fun k => { k with run := .running })).takeTrap i 28 (0x0603 + a * 65536) 0 4))) ∧
  (∀ (i w : Nat) (s u : State), s.nextWord i w → tileOp w = some .taorC → u = s.fetched i → (u.core i).aorCount ≠ 0 →
    (u.core i).aorCount ≤ 65536 → (u.core i).aorSelf < (u.core i).aorCount → (u.core i).aorTable % 4 = 0 →
    (u.core i).aor.isOpen = false →
    exec (.taorC i) s = .next ((u.aorOpen i ((u.core i).getX (bits w 20 5) % 65536)
      (BitVec.ofNat 32 ((u.core i).getX (bits w 15 5)))).modCore i (fun k => k.adv 4))) ∧
  (∀ (i w : Nat) (s u : State), s.nextWord i w → tileOp w = some .taorW → u = s.fetched i → (u.core i).aor.isOpen = true →
    ((u.core i).aor.done = true → ∃ t, exec (.taorW i) s = .next t ∧ (t.core i).aor.isOpen = false ∧
      (t.core i).getX (bits w 7 5) = (if bits w 7 5 = 0 then 0 else (u.core i).aor.word.toNat) ∧
      (t.core i).pc = (u.core i).pc + 4 ∧ t = u.setCore i (t.core i)) ∧
    ((u.core i).aor.done = false → exec (.taorW i) s = .next (u.modCore i (fun k => { k with run := .waitAor (bits w 7 5) })))) ∧
  (∀ (i rd : Nat) (s : State), s.present i = true → (s.core i).run = .waitAor rd →
    ((s.core i).aor.done = true → ∃ t, exec (.taorWComplete i) s = .next t ∧ (t.core i).run = .running ∧
      (t.core i).aor.isOpen = false ∧ (t.core i).getX rd = (if rd % 32 = 0 then 0 else (s.core i).aor.word.toNat) ∧
      (t.core i).pc = (s.core i).pc + 4 ∧ t = s.setCore i (t.core i)) ∧
    ((s.core i).aor.isOpen = false → (s.core i).aor.expired = true →
      exec (.allorTimeout i) s = .next ((s.modCore i (fun k => { k with run := .running })).takeTrap i 28 (0x0603 + 0x40000) 0 4))) ∧
  (∀ (i w : Nat) (s u : State), s.nextWord i w → tileOp w = some .tret → u = s.fetched i → (u.core i).kactive = true →
    ∃ t, exec (.tret i) s = .next t ∧ (t.core i).pc = (u.core i).kepc ∧ (t.core i).kactive = false ∧ t = u.setCore i (t.core i))

/-- ATTACH_PORT_REQUEST (R198, R243), CXL_MEM_REQUEST (R201), COLUMN_REFRESH, REFRESH_RATE_CHANGE and REFRESH_NORMAL_RETURN
(R209, R210), HBM_REFRESH (R211). -/
def Obligations.StackMemoryAndRefresh : Prop :=
  (∀ (k : Nat) (x : Strikes) (s t : State) (p : Packet), s.net[k]? = some p → p.isResponse = false → 4608 ≤ p.dest → p.dest < 5120 →
    s.meshHead k p = true → t = { s with net := dropAt s.net k } →
    (∀ n, p.kind = .read n → t.stepsRun (p.dest - 4608) = false →
      t.reach { saggar := p.saggar, isPriv := p.priv, carve := false } false p.address n = 0 →
      exec (.attachPortRequest k x) s = .next ((t.strike x).serveAccess p { saggar := p.saggar, isPriv := p.priv, carve := false } 3)) ∧
    (p.kind = .write → t.stepsRun (p.dest - 4608) = false →
      t.reach { saggar := p.saggar, isPriv := p.priv, carve := false } true p.address p.payload.length = 0 →
      exec (.attachPortRequest k x) s = .next ((((t.strike x).store 3 p.src p.address p.payload).1).respond p
        (if (((t.strike x).store 3 p.src p.address p.payload).2).isSome then 0x0520 else 0) [])) ∧
    (p.kind ≠ .nbCommand → t.stepsRun (p.dest - 4608) = true →
      exec (.attachPortRequest k x) s = .next ((t.strike x).modNb (p.dest - 4608) (fun u => { u with gapq := u.gapq ++ [p] })))) ∧
  (∀ (m offset : Nat) (data : List Byte) (x : Strikes) (s : State) (a : Nat), m ∈ s.host.modules → offset % 64 = 0 →
    a = firstCarveGranule s.fw.carveoutNow * 0x200000 + offset →
    (a < linearBase → (s.owner (a / 0x200000)).carveout = true → (s.owner (a / 0x200000)).assigned = false →
      a / 0x200000 ∉ s.filling → s.isDonor (a / 0x200000) = false →
      (data.length = 64 → exec (.cxlMemRequest m true offset data x) s = .next ((s.strike x).store 6 0xFFFF a data).1) ∧
      ∃ t, exec (.cxlMemRequest m false offset data x) s = .next t ∧
        t.host.lastRead = (if (((s.strike x).load 6 0xFFFF a 64).2.1).isSome then none else some ((s.strike x).load 6 0xFFFF a 64).2.2) ∧
        t.mem = ((s.strike x).load 6 0xFFFF a 64).1.mem) ∧
    (linearBase ≤ a ∨ (s.owner (a / 0x200000)).carveout = false → ∃ u, u = s.record 0x3010 5 m (s.granOwner (a / 0x200000)) 0
        (p8 a ++ p4 ((s.granOwner (a / 0x200000)).getD 0)) ∧
      exec (.cxlMemRequest m true offset data x) s = .next u ∧
      exec (.cxlMemRequest m false offset data x) s = .next { u with host := { u.host with lastRead := none } })) ∧
  (∀ (b : Nat) (s : State), b < 36 →
    exec (.columnRefresh b) s = .next (s.setBlock b { s.block b with refreshes := (s.block b).refreshes + 1 })) ∧
  (∀ (b temp : Nat) (s : State), b < 36 → 1360 < temp →
    ((s.block b).double0 = false → exec (.refreshRateChange b 0 temp) s =
      .next ((s.setBlock b { s.block b with double0 := true }).recordFw 3 0x3030 none 0 (p4 b ++ p4 0 ++ p4 temp))) ∧
    ((s.block b).double1 = false → exec (.refreshRateChange b 1 temp) s =
      .next ((s.setBlock b { s.block b with double1 := true }).recordFw 3 0x3030 none 0 (p4 b ++ p4 1 ++ p4 temp)))) ∧
  (∀ (b : Nat) (s : State), b < 36 → s.thermal.kilnStale = false →
    ((s.block b).double0 = true → exec (.refreshNormalReturn b 0) s =
      .next ((s.setBlock b { s.block b with double0 := false }).recordFw 3 0x3031 none 0 [])) ∧
    ((s.block b).double1 = true → exec (.refreshNormalReturn b 1) s =
      .next ((s.setBlock b { s.block b with double1 := false }).recordFw 3 0x3031 none 0 []))) ∧
  (∀ (c b : Nat) (s : State), exec (.hbmRefresh c b) s = .next s)

/-- Writes to storage, one byte at a time (R206, R207): read after write, and the frame. -/
def Obligations.StoredBytesReadBack : Prop :=
  (∀ (s : State) (lin : Nat) (bs : List Byte),
    (∀ k (h : k < bs.length), (s.putBytes lin bs).byteAt (lin + k) = bs[k]) ∧
    (∀ a, (a < lin ∨ lin + bs.length ≤ a) → (s.putBytes lin bs).byteAt a = s.byteAt a) ∧
    s.putBytes lin bs = { s with mem := (s.putBytes lin bs).mem, stale := (s.putBytes lin bs).stale }) ∧
  (∀ (s : State) (lo n a : Nat),
    (lo ≤ a → a < lo + n → (s.zeroLin lo n).byteAt a = 0) ∧ ((a < lo ∨ lo + n ≤ a) → (s.zeroLin lo n).byteAt a = s.byteAt a))

/-- SLUICE_DESCRIPTOR_START (R214, R219, R537), SLUICE_DESCRIPTOR_COMPLETE (R218), SLUICE_HALT (R224), SLU_RESUME (R225) and
SLUICE_REWET_DONE (R229). -/
def Obligations.SluicesRunDescriptors : Prop :=
  (∀ (n : Nat) (x : Strikes) (s u : State) (r : Ring), n < sluicesN → s.sluiceReady n = true → r = s.ring (s.sluice n).ring →
    (∀ bs, (s.strike x).load 7 (State.sluiceSrc n) (State.slotAddr r r.head 64) 128 = (u, none, bs) →
      ∃ v, v = (u.modRing (s.sluice n).ring (fun r => { r with head := (r.head + 2) % 2 ^ 32 })).modSluice n (fun y => { y with
          state := .running, desc := bs, progress := 0, dflags := Flags.none, unread := false
          view := (u.modRing (s.sluice n).ring (fun r => { r with head := (r.head + 2) % 2 ^ 32 })).epochView (s.sluice n).saggar }) ∧
        ((Desc.of bs).type = 3 → exec (.sluiceDescriptorStart n x) s = .next (v.beginReshard n)) ∧
        ((Desc.of bs).type ≠ 3 → v.descCheck (s.sluice n).saggar (Desc.of bs) = 0 → exec (.sluiceDescriptorStart n x) s = .next v) ∧
        (∀ st, (Desc.of bs).type ≠ 3 → v.descCheck (s.sluice n).saggar (Desc.of bs) = st → st ≠ 0 →
          exec (.sluiceDescriptorStart n x) s = .next (v.descDone n (Desc.of bs).tag st 0 0 0 (Desc.of bs).irq))) ∧
    (∀ a bs, (s.strike x).load 7 (State.sluiceSrc n) (State.slotAddr r r.head 64) 128 = (u, some a, bs) →
      exec (.sluiceDescriptorStart n x) s = .next ((u.modSluice n (fun y => { y with
        unread := true, desc := [], dflags := Flags.none })).haltSluice n 0x0520 a 0))) ∧
  (∀ (n : Nat) (s : State) (m : Move), (s.sluice n).state = .running → m = s.runDesc n → m.halt = none → m.stop = none →
    ∃ t k, exec (.sluiceDescriptorComplete n) s = .next t ∧ (t.sluice n).state = .idle ∧
      (t.sluice n).doneCount = ((m.s.sluice n).doneCount + 1) % 2 ^ 32 ∧ t.compls = m.s.compls ++ [k] ∧ k.desc = true ∧ k.status = 0 ∧
      k.tag = (Desc.of (s.sluice n).desc).tag ∧ k.progress = (s.descTotals (s.sluice n).desc).1 % 2 ^ 32 ∧
      k.r1 = m.flags.word ∧ k.r2 = (s.descTotals (s.sluice n).desc).2 % 2 ^ 32 ∧ t.mem = m.s.mem ∧ t.rings = m.s.rings) ∧
  (∀ (n st a e : Nat) (x : Strikes) (s : State) (m : Move), (s.sluice n).state = .running → m = (s.strike x).runDesc n →
    m.halt = some (st, a, e) → (Desc.of (s.sluice n).desc).type ≠ 3 →
    exec (.sluiceHalt n x) s = .next ((m.s.modSluice n (fun u => { u with flags := u.flags.or m.flags, dflags := m.flags })).haltSluice
      n st a (State.haltProgress m e))) ∧
  (∀ (id : Nat) (s u : State) (c : Cmd) (n : Nat), s.ready id 0x210 = some c → n = c.p 0 2 % 1024 → (s.sluice n).valid = true →
    (s.sluice n).state = .halted → (c.oper = true ∨ (s.sluice n).saggar = c.saggar) →
    u = s.recordFw 3 0x3021 (some (s.sluice n).saggar) 0 (p4 n ++ p4 (c.p 2 1)) →
    (c.p 2 1 = 1 → exec (.sluiceResume id) s = .next ((u.endHalted n).finish id 0 Result.zero)) ∧
    (c.p 2 1 = 0 → (s.sluice n).unread = true → exec (.sluiceResume id) s = .next
      (((u.modRing (s.sluice n).ring (fun r => { r with halted := false })).modSluice n
        (fun y => { y with state := .idle, unread := false })).finish id 0 Result.zero)) ∧
    (c.p 2 1 = 0 → (s.sluice n).unread = false → (Desc.of (s.sluice n).desc).type ≠ 3 → ∃ v,
      v = u.modRing (s.sluice n).ring (fun r => { r with halted := false }) ∧
      exec (.sluiceResume id) s = .next ((v.modSluice n (fun y => { y with
        state := .running, progress := retryFrom y.desc y.progress, view := v.epochView y.saggar })).finish id 0 Result.zero))) ∧
  (∀ (n : Nat) (s : State), (s.sluice n).state = .inReset →
    exec (.sluiceRewetDone n) s = .next (((s.returnSluice n).sluiceReturned n).settleResets))

/-- KLAUNCH (R360, R361), IMAGE_BROADCAST (R69, R362, R493), LAUNCH_START (R362) and KABORT (R364). -/
def Obligations.KernelLaunches : Prop :=
  (∀ (id : Nat) (s u : State) (c : Cmd) (st : Nat) (b : List Byte) (cores : List Nat), s.ready id 0x100 = some c →
    s.launchRead c = (u, st, b, cores) →
    (st ≠ 0 → exec (.klaunch id) s = .next (u.refuse id st)) ∧
    (st = 0 → ∃ (l : Launch) (v t : State), exec (.klaunch id) s = .next t ∧
      v = (u.setPhase id .queued).statusWord id (wordOrNone (c.addr 8)) 1 0 Result.zero ∧ t.launches = v.launches ++ [l] ∧
      l.cmd = id ∧ l.saggar = c.saggar ∧ l.job = c.job ∧ l.desc = b ∧ l.started = false ∧ l.ranks.map (·.core) = cores ∧
      (l.imageReady = true ↔ (LDesc.of b).src = 1) ∧
      t = { v with launches := t.launches, bcasts := if (LDesc.of b).src = 1 then v.bcasts else
        v.bcasts ++ [{ launch := id, image := [], loadAt := (LDesc.of b).load, missing := [], tries := 0 }] })) ∧
  (∀ (k : Nat) (good : List Nat) (s u v : State) (b : Bcast) (l m : Launch) (bs : List Byte), s.bcasts[k]? = some b →
    s.launch? b.launch = some l → s.launchEligible l = true → b.tries = 0 →
    s.reach (s.engineAuth l.saggar) false (LDesc.of l.desc).image (LDesc.of l.desc).bytes = 0 →
    s.load 7 0xFFFF (LDesc.of l.desc).image (LDesc.of l.desc).bytes = (u, none, bs) →
    (∀ i ∈ (u.reserve l).launchSites l, i ∈ good ∧ ((u.reserve l).site i).inReset = false) →
    v = ((u.reserve l).launchSites l).foldl (fun s i => (s.store 0 0xFFFF (storeAddr i b.loadAt) bs).1) (u.reserve l) →
    v.launch? l.cmd = some m →
    exec (.imageBroadcast k good) s = .next (({ v with bcasts := dropAt v.bcasts k } : State).setLaunch { m with imageReady := true })) ∧
  (∀ (id : Nat) (s u v : State) (l m : Launch), s.launch? id = some l → l.imageReady = true → s.launchEligible l = true →
    (LDesc.of l.desc).argBytes = 0 →
    u = ((s.setPhase id .running).statusWord id l.statusAddr 2 0 Result.zero).setLaunch { l with started := true } →
    v = (if (LDesc.of l.desc).src = 1 then u.reserve { l with started := true } else u) → v.launch? id = some m →
    exec (.launchStart id) s = .next (m.ranks.zipIdx.foldl (fun s p => s.startRank m (LDesc.of l.desc) [] p.2 p.1) v)) ∧
  (∀ (id : Nat) (s u v : State) (l m : Launch) (bs : List Byte), s.launch? id = some l → l.imageReady = true →
    s.launchEligible l = true → (LDesc.of l.desc).argBytes ≠ 0 →
    s.reach (s.engineAuth l.saggar) false (LDesc.of l.desc).args (LDesc.of l.desc).argBytes = 0 →
    s.load 7 0xFFFF (LDesc.of l.desc).args (LDesc.of l.desc).argBytes = (u, none, bs) → (LDesc.of l.desc).src ≠ 1 →
    v = ((u.setPhase id .running).statusWord id l.statusAddr 2 0 Result.zero).setLaunch { l with started := true } →
    v.launch? id = some m →
    exec (.launchStart id) s = .next (m.ranks.zipIdx.foldl (fun s p => s.startRank m (LDesc.of l.desc) bs p.2 p.1) v)) ∧
  (∀ (id : Nat) (s u : State) (c : Cmd) (o : Option Launch), s.ready id 0x101 = some c → (s.ring (c.p 2 2 % ringsN)).saggar = c.saggar →
    s.abortTarget (c.p 2 2 % ringsN) (c.p 0 2) = o →
    (o = none → exec (.kabort id) s = .next (s.refuse id 0x0142)) ∧
    (∀ l open', o = some l → open' = l.ranks.zipIdx.filter (fun p => !p.1.ended) →
      u = (s.setPhase id .running).setLaunch { l with aborts := l.aborts ++ [(id, if l.started then open'.length else 0)] } →
      exec (.kabort id) s = .next (open'.foldl (fun s p => if l.started then
          s.stopRank { l with aborts := l.aborts ++ [(id, if l.started then open'.length else 0)] } p.2 p.1 else s.endRank l.cmd p.2 3 0 0)
        { u with bcasts := u.bcasts.filter (fun b => b.launch != l.cmd) })))

/-- NB_RUN (R245, R246, R250), FENCE_NB (R251), NB_CANCEL (R248), NB_RESET and its events (R253), commands from cores (R245, R336),
ATTN_DECODE (R263), NB_SEQUENCE_START (R247), NB_STEP_END and NB_GAP_END (R243, R249). -/
def Obligations.NearBankUnits : Prop :=
  (∀ (id : Nat) (s : State) (c : Cmd), s.ready id 0x300 = some c → ∀ st,
    st = s.nbRunCheck c.saggar (c.p 0 2) (c.p 2 2) (c.p 4 4) (c.p 8 8 % 2 ^ 52) →
    (st ≠ 0 → exec (.nbRun id) s = .next (s.refuse id st)) ∧
    (st = 0 → exec (.nbRun id) s = .next (s.nbQueue (c.p 0 2) (State.runSeq (some id) c.saggar c.tag c.ringNo c.job c.p)))) ∧
  (∀ (id : Nat) (s : State) (c : Cmd), s.ready id 0x301 = some c → lowest (s.nbUnitCheck c.saggar (c.p 0 2) false) = 0 →
    exec (.fenceNb id) s = .next ((s.modNb (c.p 0 2) (fun u => { u with readBuf := [] })).finish id 0 Result.zero)) ∧
  (∀ (id : Nat) (s t : State) (c : Cmd), s.ready id 0x302 = some c → lowest (s.nbUnitCheck c.saggar (c.p 0 2) true) = 0 →
    s.nbCancel (c.p 0 2) c.saggar (c.p 2 2) = some t → exec (.nbCancel id) s = .next (t.finish id 0 Result.zero)) ∧
  (∀ (id : Nat) (s : State) (c : Cmd), s.ready id 0x303 = some c → lowest (s.nbUnitCheck c.saggar (c.p 0 2) true) = 0 →
    exec (.nbReset id) s = .next ((s.modNb (c.p 0 2) (fun u => { u with resetAsked := true, waiters := u.waiters ++ [id] })).setPhase
      id .running)) ∧
  (∀ (site unit sag op : Nat) (packet : List Byte) (s : State), site < sitesN → (s.site site).inReset = false →
    (s.core site).run = .running → s.siteOwner site = some sag → unit < nbUnits → op = fieldAt packet 0 2 % 4096 →
    fieldAt packet 16 2 = unit → lowest (s.nbUnitCheck sag unit (op != 0x301)) = 0 →
    (op = 0x300 → s.nbRunCheck sag unit (fieldAt packet 18 2) (fieldAt packet 20 4) (fieldAt packet 24 8 % 2 ^ 52) = 0 →
      exec (.nbCoreCommand site unit false packet) s = .next (s.nbQueue unit
        (State.runSeq none sag (fieldAt packet 4 2) 0 (fieldAt packet 8 2) (fun lo n => fieldAt packet (16 + lo) n)))) ∧
    (op = 0x301 → exec (.nbCoreCommand site unit false packet) s = .next (s.modNb unit (fun u => { u with readBuf := [] }))) ∧
    (∀ t, op = 0x302 → s.nbCancel unit sag (fieldAt packet 18 2) = some t →
      exec (.nbCoreCommand site unit false packet) s = .next t) ∧
    (op = 0x303 → exec (.nbCoreCommand site unit false packet) s = .next (s.modNb unit (fun u => { u with resetAsked := true })))) ∧
  (∀ (id : Nat) (s : State) (c : Cmd), s.ready id 0x403 = some c → s.nbDescCheck c.saggar (c.p 0 2) (c.addr 8) (c.addr 16) = 0 →
    ∃ pages w, exec (.attnDecode id) s = .next (({ s with kvs := s.kvs ++ [(id, pages, w)] }).nbQueue (c.p 0 2) (State.descSeq c .attn))) ∧
  (∀ (n k : Nat) (s : State) (q : NbSeq), n < nbUnits → (s.nb n).state = .idle → (s.nb n).resetAsked = false → s.nbHeldNow n = false →
    s.nbChoose n = some k → (s.nb n).queue[k]? = some q →
    exec (.nbSequenceStart n) s = .next ((s.setNb n { s.nb n with queue := dropAt (s.nb n).queue k }).nbStart n q)) ∧
  (∀ (n res : Nat) (x : Strikes) (s : State) (r : NbRunning), (s.nb n).running = some r → (s.nb n).state = .inStep →
    exec (.nbStepEnd n x res) s = .next ((s.nbStepEnd n r x res).unitSettle n)) ∧
  (∀ (n : Nat) (s : State) (r : NbRunning), (s.nb n).running = some r → (s.nb n).resetAsked = false →
    ((s.nb n).state = .inGap → exec (.nbGapEnd n) s = .next ((s.serveGap n).nbResume n r false)) ∧
    ((s.nb n).state = .suspended → exec (.nbGapEnd n) s = .next (s.nbResume n r true))) ∧
  (∀ (n : Nat) (s v : State), (s.nb n).resetAsked = true → (s.nb n).running = none → (s.nb n).state = .idle →
    v = s.setNb n { s.nb n with state := .inReset, resetAsked := false, epoch := (s.nb n).epoch + 1, queue := [], running := none } →
    exec (.nbResetEntry n) s = .next (((((s.nb n).queue.foldl (fun s q => s.nbFinish q 0x0602 Result.zero)
      ((v.tellEpoch (channelCode n) ((s.nb n).epoch + 1)).bumpSessions (v.epochAudience (channelCode n)))).draw.drainGap n).unitSettle n))) ∧
  (∀ (n : Nat) (s v : State), (s.nb n).state = .inReset →
    v = s.setNb n { s.nb n with state := .idle, epoch := (s.nb n).epoch + 1, scratch := [], scratchBad := [], waiters := [] } →
    exec (.nbUnitRewetDone n) s = .next ((s.nb n).waiters.foldl (fun s id => s.finish id 0 Result.zero)
      ((v.tellEpoch (channelCode n) ((s.nb n).epoch + 1)).record 0x4005 4 n none 0 [])))

/-- The KV services at acceptance (R262, R263, R279 to R281) and when they run (R282). -/
def Obligations.KvServices : Prop :=
  (∀ (id op : Nat) (w : Bool) (c : Instr) (s : State) (k : Cmd),
    (c, op, w) ∈ [(Instr.kvAppend id, 0x400, true), (.kvEvict id, 0x401, true), (.kvStage id, 0x402, false), (.kvScore id, 0x404, true),
      (.kvAccept id, 0x405, true)] → s.ready id op = some k →
    (s.sluiceEngine k = 0 → exec c s = .next (({ s with kvs := s.kvs ++ [(id, s.kvPages k, w)] }).setPhase id .queued)) ∧
    (s.sluiceEngine k ≠ 0 → exec c s = .next (s.refuse id (s.sluiceEngine k)))) ∧
  (∀ (id : Nat) (s : State) (k : Cmd) (x : Slx) (r : Served), s.cmd? id = some k → k.phase = .queued →
    s.sluiceEngine k = 0 → s.sluiceFree (k.p 0 2 % 1024) id = true → s.kvFree id = true →
    x = { s := s, n := k.p 0 2 % 1024, sag := k.saggar, fail := 0 } →
    (k.opcode, r) ∈ [(0x400, kvAppend x (k.addr 8)), (0x401, kvEvict x (k.addr 8)), (0x402, kvStage x (k.addr 8)),
      (0x404, kvScore x (k.addr 8)), (0x405, kvAccept x (k.addr 8))] →
    exec (.kvServiceStart id) s = .next (({ r.x.s with kvs := r.x.s.kvs.filter (fun q => q.1 != id) }).finish id r.status r.r)) ∧
  (∀ (id : Nat) (s : State) (k : Cmd), s.cmd? id = some k → s.sluiceEngine k = 0 → s.kvFree id = false →
    exec (.kvServiceStart id) s = .next s)

/-- The training state commands (R302, R303) and their gates (R298, R304). -/
def Obligations.TrainingState : Prop :=
  (∀ (id op : Nat) (c : Instr) (s : State) (k : Cmd),
    (c, op) ∈ [(Instr.tsUpdate id, 0x500), (.tsCastout id, 0x501), (.tsScale id, 0x502), (.tsAudit id, 0x503), (.tsDigest id, 0x504),
      (.tsCompare id, 0x505)] → s.ready id op = some k → k.opcode = op → k.id = id →
    (s.trainCheck k ≠ 0 → exec c s = .next (s.refuse id (s.trainCheck k))) ∧
    (s.trainCheck k = 0 → k.conditional = true → (op = 0x501 ∨ op = 0x502) → exec c s = .next (s.setPhase id (.held s.nowUs))) ∧
    (s.trainCheck k = 0 → k.conditional = true → op ≠ 0x501 → op ≠ 0x502 →
      exec c s = .next ((s.statusWord id (k.addr 16) 1 0 Result.zero).setPhase id
        (.held (s.statusWord id (k.addr 16) 1 0 Result.zero).nowUs))) ∧
    (s.trainCheck k = 0 → k.conditional = false → (op = 0x501 ∨ op = 0x502) → exec c s = .next (s.setPhase id .queued)) ∧
    (∀ w, s.trainCheck k = 0 → k.conditional = false →
      (op, w) ∈ [(0x500, NbWork.update), (0x503, .audit), (0x504, .digest), (0x505, .compare)] →
      exec c s = .next (s.nbQueue (k.p 0 2) (State.descSeq k w)))) ∧
  (∀ (id : Nat) (s : State) (k : Cmd) (x : Slx), s.cmd? id = some k → k.id = id → k.phase = .queued → s.sluiceEngine k = 0 →
    s.sluiceFree (k.p 0 2 % 1024) id = true → x = { s := s, n := k.p 0 2 % 1024, sag := k.saggar, fail := 0 } →
    (k.opcode = 0x501 → exec (.tsCastout id) s = .next ((tsCastout x (k.addr 8)).x.s.finish id (tsCastout x (k.addr 8)).status
      (tsCastout x (k.addr 8)).r)) ∧
    (k.opcode = 0x502 → exec (.tsScale id) s = .next ((tsScale x k k.job).x.s.finish id (tsScale x k k.job).status (tsScale x k k.job).r))) ∧
  (∀ (id t : Nat) (s u : State) (k : Cmd) (bs : List Byte), s.cmd? id = some k → k.phase = .held t → s.readGate k = (u, 0, bs) →
    (bitAt (fieldAt bs 12 1) 0 = false → 0 < k.gateWait → exec (.stepGateReread id) s = .next u) ∧
    (bitAt (fieldAt bs 12 1) 0 = true → skips (fieldAt bs 8 4) = false → fieldAt bs 0 8 = k.step →
      (k.cond = 2 → exec (.stepGateReread id) s = .next (u.trainEnd k 0 notRun)) ∧
      (k.cond = 1 → u.trainCheck k = 0 → exec (.stepGateReread id) s = .next (u.trainDispatch k))) ∧
    (bitAt (fieldAt bs 12 1) 0 = true → skips (fieldAt bs 8 4) = false → k.step < fieldAt bs 0 8 →
      exec (.stepGateReread id) s = .next (u.trainEnd k 0x0605 Result.zero))) ∧
  (∀ (id t : Nat) (s : State) (k : Cmd), s.cmd? id = some k → k.phase = .held t → t + k.gateWait ≤ s.nowUs →
    exec (.stepGateTimeout id) s = .next ((s.recordFw 1 0xC004 (some k.saggar) k.job (p8 k.gate ++ p8 k.step ++ p4 k.opcode)).trainEnd k
      0x0604 Result.zero))

/-- REGISTER_WRITE (R7, R320), DOORBELL (R326), CORE_DOORBELL (R327) and UCIE_MODULE_LOSS (R318). -/
def Obligations.RegistersAndDoorbells : Prop :=
  (∀ (m o z v : Nat) (s : State), m ∈ s.host.modules → o < 0x10000000 →
    (((z ≠ 4 ∧ z ≠ 8) ∨ o % z ≠ 0) → exec (.registerWrite m o z v) s =
      .next { s with host := { s.host with unsupported := min 0xFFFFFFFF (s.host.unsupported + 1) } }) ∧
    (z = 4 → o % 4 = 0 → rwtAt o = none → exec (.registerWrite m o z v) s = .next ((s.regPut m o (v % 2 ^ 32)).raiseUnmasked)) ∧
    (z = 4 → o % 4 = 0 → (rwtAt o).isSome = true → exec (.registerWrite m o z v) s = .next
      ((({ s with host := { s.host with rwtIgnored := min 0xFFFFFFFF (s.host.rwtIgnored + 1) } } : State).regPut m o (v % 2 ^ 32)).raiseUnmasked)) ∧
    (z = 8 → o % 8 = 0 → rwtAt o = none → rwtAt (o + 4) = none → exec (.registerWrite m o z v) s = .next
      (((s.regPut m o (v % 2 ^ 32)).regPut m (o + 4) (v / 2 ^ 32 % 2 ^ 32)).raiseUnmasked))) ∧
  (∀ (m n v : Nat) (s : State), m ∈ s.host.modules → n < ringsN → v < 2 ^ 32 →
    (State.doorbellOk (s.ring n) v = true → ∃ t, exec (.doorbell m n v) s = .next t ∧ (t.ring n).db = v ∧
      ((s.ring n).role ≠ .completion → (t.ring n).tail = v ∧ (t.ring n).head = (s.ring n).head) ∧
      ((s.ring n).role = .completion → (t.ring n).head = v ∧ (t.ring n).tail = (s.ring n).tail) ∧
      (∀ k, k ≠ n → t.ring k = s.ring k) ∧ t = { s with rings := t.rings }) ∧
    (State.doorbellOk (s.ring n) v = false → ∃ u : State, exec (.doorbell m n v) s = .next (u.record 0xB001 5 m
        (if (s.ring n).role = .disabled then none else some (s.ring n).saggar) 0 (p4 n ++ p4 v)) ∧
      u.ring n = { s.ring n with dbErr := true } ∧ u.host.dbErrors = min 0xFFFFFFFF (s.host.dbErrors + 1) ∧
      u = { s with rings := u.rings, host := { s.host with dbErrors := u.host.dbErrors } })) ∧
  (∀ (i port n v sag : Nat) (s u : State) (h : Shape), i < sitesN → port < 64 → (s.site i).inReset = false → (s.core i).run = .running →
    State.Shape.spend ((s.site i).shapeOf 0) s.nowUs s.meshPerUs 1 = some h → u = s.modSite i (fun x => x.setShape 0 h) →
    u.siteOwner i = some sag → n < ringsN → v < 2 ^ 32 →
    ((u.ring n).saggar = sag → State.doorbellOk (u.ring n) v = true →
      exec (.coreDoorbell i port true n v) s = .next (u.ringTheBell 5 (port / 4) n v)) ∧
    ((u.ring n).saggar ≠ sag → exec (.coreDoorbell i port true n v) s = .next (u.remoteStatus i 0x0220))) ∧
  (∀ (m : Nat) (s : State), m ∈ s.host.modules → exec (.ucieModuleLoss m) s =
    .next ({ s with host := { s.host with modules := s.host.modules.filter (· != m) } }.record 0xB005 5 m none 0 (p4 m)))

/-- COMMAND_FETCH (R325, R333), COMPLETION_WRITE, COMPLETION_STALL_TIMEOUT and COMPLETION_SLOT_RETRY (R338),
INTERRUPT_COALESCE_TIMEOUT (R342) and NOP (R345). -/
def Obligations.CommandFlow : Prop :=
  (∀ (n : Nat) (x : Strikes) (s u v : State) (r : Ring), s.mayFetch n = true → r = s.ring n →
    v = u.setRing n { r with head := (r.head + 1) % 2 ^ 32 } →
    (∀ bs, (s.strike x).load 7 0xFFFF (State.slotAddr r r.head 64) 64 = (u, none, bs) → r.oper = true →
      exec (.commandFetch n x) s = .next (v.admitCmd (v.cmdOf (.ring n) true bs) r.saggar)) ∧
    (∀ bs w, (s.strike x).load 7 0xFFFF (State.slotAddr r r.head 64) 64 = (u, none, bs) → r.oper = false →
      w = v.noteTurn r.saggar n →
      exec (.commandFetch n x) s = .next (w.admitCmd (w.cmdOf (.ring n) false bs) r.saggar)) ∧
    (∀ a bs, (s.strike x).load 7 0xFFFF (State.slotAddr r r.head 64) 64 = (u, some a, bs) → ∃ t k, exec (.commandFetch n x) s = .next t ∧
      t.compls = v.compls ++ [k] ∧ k.status = 0x0520 ∧ k.tag = 0 ∧ k.target = .ring r.pair ∧ k.cmd = none ∧
      t.host.refused = min 0xFFFFFFFF (v.host.refused + 1) ∧ t.cmds = v.cmds ∧ t.rings = v.rings)) ∧
  (∀ (k n : Nat) (s : State) (c : Compl) (r : Ring), s.compls[k]? = some c → c.target = .ring n →
    (∀ x ∈ s.compls.take k, x.target ≠ .ring n) → r = s.ring n → r.inReset = false → r.role = .completion →
    (r.entries ≤ State.ringGap r.tail r.head → exec (.completionWrite k) s = .next (s.stallRing n false)) ∧
    (∀ u, State.ringGap r.tail r.head < r.entries → s.slotBad (State.slotAddr r r.tail 32) = false → c.irq = false →
      u = (s.store 7 0xFFFF (State.slotAddr r r.tail 32) (complBytes c (State.phaseOf r.tail r.entries))).1 →
      exec (.completionWrite k) s = .next ((u.modRing n (fun x => { x with
        tail := (x.tail + 1) % 2 ^ 32, stalled := false, stallSeen := false, slotPoisoned := false, slotSeen := false })).complGone k c))) ∧
  (∀ (n : Nat) (s : State), (s.ring n).stalled = true → (s.ring n).stallSeen = false → (s.ring n).stallSince + 1000 ≤ s.nowUs →
    exec (.completionStallTimeout n) s =
      .next ((s.setRing n { s.ring n with stallSeen := true }).recordFw 1 0xB002 (some (s.ring n).saggar) 0 (p4 n))) ∧
  (∀ (n k : Nat) (s : State) (c : Compl), (s.ring n).slotPoisoned = true →
    s.compls.zipIdx.find? (fun p => p.1.target == .ring n) = some (c, k) →
    exec (.completionSlotRetry n) s = .next (s.writeCompl n k c)) ∧
  (∀ (n : Nat) (s : State), (s.ring n).irqPending ≠ 0 → (s.ring n).irqSince + (s.ring n).coalUs ≤ s.nowUs → (s.ring n).vector ≠ 0 →
    exec (.interruptCoalesceTimeout n) s = .next ((s.setRing n { s.ring n with irqPending := 0 }).raiseVector (s.ring n).vector)) ∧
  (∀ (id : Nat) (s : State) (c : Cmd), s.ready id 0x000 = some c → exec (.nop id) s = .next (s.finish id 0 Result.zero))

/-- The end of a command (R334, R337, R338) and its refusal (R332). -/
def Obligations.CommandsEndOnce : Prop :=
  (∀ (s : State) (id st : Nat) (r : Result) (c : Cmd), s.cmd? id = some c → c.phase ≠ .ended → ∃ k : Compl,
    s.finish id st r = { s.setCmd { c with phase := .ended } with compls := s.compls ++ [k] } ∧ k.target = s.pairOf c.origin ∧
    k.cmd = some id ∧ k.tag = c.tag ∧ k.status = st ∧ k.progress = r.progress ∧ k.r0 = r.r0 ∧ k.r1 = r.r1 ∧ k.r2 = r.r2 ∧
    k.r3 = r.r3 ∧ k.opcode = c.opcode ∧ k.job = c.job ∧ k.irq = c.irq ∧ k.desc = false ∧
    (s.finish id st r).cmd? id = some { c with phase := .ended }) ∧
  (∀ (s : State) (id st : Nat) (r : Result), (s.cmd? id = none ∨ (∃ c, s.cmd? id = some c ∧ c.phase = .ended)) → s.finish id st r = s) ∧
  (∀ (s : State) (id st : Nat) (r : Result), s.finish id st r = { s with cmds := (s.finish id st r).cmds, compls := (s.finish id st r).compls }) ∧
  (∀ (s : State) (id st : Nat), s.refuse id st = ({ s with host := { s.host with refused := min 0xFFFFFFFF (s.host.refused + 1) } } : State).finish
    id st Result.zero)

/-- CFG_BEGIN (R348), CFG_SET (R346, R347), CFG_COMMIT and CFG_ABORT (R349), COMMIT_APPLY (R350), QUIESCENCE_TIMEOUT (R351),
CFG_GET (R352) and TRANSACTION_TIMEOUT (R348). -/
def Obligations.SettingsTransactions : Prop :=
  (∀ (id : Nat) (s : State) (c : Cmd), s.ready id 0x008 = some c →
    (64 ≤ s.txns.length → exec (.cfgBegin id) s = .next (s.refuse id 0x0403)) ∧
    (s.txns.length < 64 → ∃ (u : State) (t : Txn), exec (.cfgBegin id) s = .next (u.finish id 0 (Result.w0 (nextTxnId s))) ∧
      u.txns = s.txns ++ [t] ∧ t.id = nextTxnId s ∧ t.saggar = c.saggar ∧ t.oper = c.oper ∧ t.entries = [] ∧ t.committing = false ∧
      t.beganUs = s.nowUs ∧ u = { s with txns := u.txns, host := { s.host with nextTxn := u.host.nextTxn } })) ∧
  (∀ (id : Nat) (s u : State) (c : Cmd) (t : Txn) (checks : List Nat) (es st : List CfgEntry), s.ready id 0x009 = some c →
    s.ownTxn c = some t → s.setEntries c = (u, checks, es) → lowest checks = 0 →
    (∀ e ∈ es, lowest (State.entryCheck e t.oper c.saggar) = 0) → st = es.foldl State.stageEntry t.entries → st.length ≤ 256 →
    exec (.cfgSet id) s = .next (({ u with txns := u.txns.map (fun (x : Txn) => if x.id = c.txn then { x with entries := st } else x) } : State).finish id 0
      (Result.w0 st.length))) ∧
  (∀ (id op : Nat) (i : Instr) (s : State) (c : Cmd), (i, op) ∈ [(Instr.cfgCommit id, 0x00A), (.cfgAbort id, 0x00B)] → s.ready id op = some c →
    s.ownTxn c = none → exec i s = .next (s.refuse id 0x0401)) ∧
  (∀ (id : Nat) (s u : State) (c : Cmd) (t : Txn) (k : Commit), s.ready id 0x00A = some c → s.ownTxn c = some t →
    k = { cmd := id, txn := t.id, waitFor := [], sinceUs := (s.setPhase id .running).nowUs, applied := false, waitedUs := 0, rewets := [] } →
    u = { s.setPhase id .running with
      txns := (s.setPhase id .running).txns.map (fun (x : Txn) => if x.id = t.id then { x with committing := true } else x)
      commits := (s.setPhase id .running).commits ++ [k] } →
    exec (.cfgCommit id) s = .next (if (s.setPhase id .running).commits.isEmpty then u.beginCommits 64 else u)) ∧
  (∀ (id : Nat) (s : State) (c : Cmd) (t : Txn), s.ready id 0x00B = some c → s.ownTxn c = some t →
    exec (.cfgAbort id) s = .next (({ s with txns := s.txns.filter (fun x => x.id != t.id) }).finish id 0 Result.zero)) ∧
  (∀ (id : Nat) (s : State) (c : Cmd), s.ready id 0x00C = some c → s.getCheck c = 0 →
    (c.p 0 2 = 1 → ∀ v, s.regRead (c.p 4 4) = some v → exec (.cfgGet id) s = .next (s.finish id 0 (Result.wide v))) ∧
    (c.p 0 2 ≠ 1 → exec (.cfgGet id) s = .next (s.finish id 0 (Result.wide (s.getSetting (c.p 0 2) (c.p 4 4)))))) ∧
  (∀ (s : State) (k : Commit) (t : Txn), s.commits.head? = some k → s.txns.find? (fun x => x.id == k.txn) = some t →
    (∀ (bad : List Nat) (u : State) (k2 : Commit), k.applied = false → k.waitFor.all s.quiescent = true → s.relayWaits t.entries = false →
      k2 = { k with applied := true, waitedUs := s.nowUs - k.sinceUs, rewets := s.commitRewets t.entries } →
      u = (s.applyEntries t.id k.waitFor t.entries).noteChanged t.entries →
      (k2.rewets = [] → u.filling = [] → exec (.commitApply k.cmd bad) s = .next (((u.endFills []).endCommit k2 0
        (Result.w01 t.entries.length (s.nowUs - k.sinceUs))).beginCommits 64)) ∧
      (k2.rewets ≠ [] ∨ u.filling ≠ [] → exec (.commitApply k.cmd bad) s = .next { u with
        commits := u.commits.map (fun x => if x.cmd = k.cmd then k2 else x) })) ∧
    (∀ (bad : List Nat), k.applied = true → k.rewets.any s.siteMayReturn = false →
      exec (.commitApply k.cmd bad) s = .next (((s.endFills bad).endCommit k 0 (Result.w01 t.entries.length k.waitedUs)).beginCommits 64)) ∧
    (k.applied = false → k.sinceUs + 10000000 ≤ s.nowUs → (k.waitFor.all s.quiescent = false ∨ s.relayWaits t.entries = true) →
      exec (.quiescenceTimeout k.cmd) s = .next (((s.recordFw 1 0xB004 none 0 (p4 t.id ++
        p8 ((k.waitFor.filter (fun g => !s.quiescent g)).foldl (fun a g => a + 2 ^ g) 0))).endCommit k 0x0402 Result.zero).beginCommits 64))) ∧
  (∀ (n : Nat) (s : State) (t : Txn), s.txns.find? (fun x => x.id == n) = some t → t.committing = false → t.beganUs + 10000000 ≤ s.nowUs →
    exec (.transactionTimeout n) s = .next (({ s with txns := s.txns.filter (fun x => x.id != n) }).recordFw 1 0xB003 (some t.saggar) 0
      (p4 n ++ p4 t.saggar)))

/-- JOB_OPEN (R358), JOB_CLOSE and its completion (R359), RING_RESET (R329, R492) and RING_REWET_DONE (R465). -/
def Obligations.JobsAndRingResets : Prop :=
  (∀ (id : Nat) (s : State) (c : Cmd), s.ready id 0x018 = some c →
    (s.jobOpen c.saggar c.job = true → exec (.jobOpen id) s = .next (s.refuse id 0x0350)) ∧
    (s.jobOpen c.saggar c.job = false → (s.jobs.filter (fun j => j.id != 0 && j.closing.isNone)).length < 4096 →
      ∃ j : Job, exec (.jobOpen id) s = .next (({ s with jobs := s.jobs ++ [j] } : State).finish id 0 Result.zero) ∧ j.saggar = c.saggar ∧
        j.id = c.job ∧ j.busy = 0 ∧ j.idle = 0 ∧ j.openedUs = s.nowUs ∧ j.closing = none)) ∧
  (∀ (id : Nat) (s : State) (c : Cmd), s.ready id 0x019 = some c →
    ((c.job = 0 ∨ s.jobOpen c.saggar c.job = false) → exec (.jobClose id) s = .next (s.refuse id 0x0351)) ∧
    (c.job ≠ 0 → s.jobOpen c.saggar c.job = true → exec (.jobClose id) s = .next (({ s with jobs := s.jobs.map (fun (j : Job) =>
      if j.saggar = c.saggar ∧ j.id = c.job ∧ j.closing = none then { j with closing := some id } else j) } : State).setPhase id .running))) ∧
  (∀ (id : Nat) (s : State) (c : Cmd) (j : Job), s.inPhase id 0x019 .running = some c → s.jobs.find? (fun j => j.closing == some id) = some j →
    s.cmds.any (fun x => decide (x.id < id) && x.saggar == c.saggar && x.job == c.job) = false → j.lastUs / 1000 < s.nowUs / 1000 →
    ∃ r : Result, exec (.jobCloseComplete id) s = .next (({ s with jobs := s.jobs.filter (fun x => x.closing != some id) } : State).finish id 0 r) ∧
      r.r0 = (j.busy + j.idle) % 2 ^ 32 ∧ r.r1 = (j.busy + j.idle) / 2 ^ 32 % 2 ^ 32 ∧ r.r2 = (s.nowUs - j.openedUs) % 2 ^ 32 ∧
      r.r3 = (s.nowUs - j.openedUs) / 2 ^ 32 % 2 ^ 32) ∧
  (∀ (id n : Nat) (s u : State) (c : Cmd), s.ready id 0x020 = some c → s.resetTurn c = true → n = c.p 0 2 % ringsN →
    ((s.ring n).inReset = true → c.origin ≠ .ring n → (c.oper = true ∨ (s.ring n).saggar = c.saggar) →
      exec (.ringReset id) s = .next (s.refuse id 0x0602)) ∧
    (c.oper = false → (s.ring n).saggar ≠ c.saggar → c.origin ≠ .ring n → exec (.ringReset id) s = .next (s.refuse id 0x0220)) ∧
    ((s.ring n).inReset = false → c.origin ≠ .ring n → (c.oper = true ∨ (s.ring n).saggar = c.saggar) → u = (s.enterRing n).setPhase id .running →
      ∃ r : ResetRun, exec (.ringReset id) s = .next { u with fw := { u.fw with resets := u.fw.resets ++ [r] } } ∧ r.cmd = some id ∧
        r.sites = [] ∧ r.sluices = (if (s.ring n).role = .descriptor then s.sluiceOf n else none).toList ∧ r.rings = [n] ∧
        r.units = [] ∧ r.closing = none ∧ r.wake = false)) ∧
  (∀ (n : Nat) (s : State), (s.ring n).inReset = true →
    s.compls.any (fun c => c.ring == n && c.cmd.isNone && c.target == .ring (s.ring n).pair && c.status == 0x0602) = false →
    exec (.ringRewetDone n) s = .next (((s.returnRing n).ringReturned n).settleResets))

/-- The resets of Table 16-5 (R490 to R492), SAGGAR_CLOSE (R356) and SITE_REWET_DONE (R465, R466). -/
def Obligations.ResetScopes : Prop :=
  (∀ (id k : Nat) (s : State) (c : Cmd) (x : Scope), s.ready id 0x910 = some c → s.resetTurn c = true → k = c.p 0 2 → k ≤ 1151 →
    x = { code := 0, index := k, owner := if (s.cluster k).assigned then some (s.cluster k).saggar else none, sites := clusterSites k,
          sluices := [], rings := [] } →
    ((c.oper = true ∨ x.owner = some c.saggar) → s.allTaken x = false → exec (.rstCluster id) s = .next (s.beginReset c x [] none)) ∧
    (c.oper = false → x.owner ≠ some c.saggar → exec (.rstCluster id) s = .next (s.refuse id 0x02C0)) ∧
    (c.oper = true → s.allTaken x = true → exec (.rstCluster id) s = .next (s.refuse id 0x0602))) ∧
  (∀ (id g : Nat) (s : State) (c : Cmd), s.ready id 0x911 = some c → s.resetTurn c = true → g = c.p 0 1 % 64 →
    ((c.oper = true ∨ c.saggar = g) → s.allTaken (s.saggarScope c g) = false → exec (.rstSaggar id) s = .next (s.resetSaggar c g none)) ∧
    (c.oper = false → c.saggar ≠ g → exec (.rstSaggar id) s = .next (s.refuse id 0x0202))) ∧
  (∀ (id d : Nat) (s : State) (c : Cmd) (x : Scope), s.ready id 0x912 = some c → s.resetTurn c = true → d = c.p 0 1 % 2 →
    x = { code := 2, index := d, owner := none, sites := span (d * 2304) 2304, sluices := [], rings := [] } →
    (s.fwBusy = true → exec (.rstDie id) s = .next (s.refuse id (lowest [0x06F0, check (s.allTaken x) 0x0602]))) ∧
    (s.fwBusy = false → s.allTaken x = false → exec (.rstDie id) s = .next (s.beginReset c x [] none))) ∧
  (∀ (id : Nat) (env : BringupEnv) (s u : State) (c : Cmd), s.ready id 0x913 = some c → s.resetTurn c = true → s.fwBusy = false →
    s.allTaken State.stackScope = false → u = (s.enterScope State.stackScope).recalibrate env →
    exec (.rstStack id env) s = .next ((if bitAt (c.p 0 1) 0 then u.testStack env else u).beginReset c State.stackScope [] none)) ∧
  (∀ (id : Nat) (s : State) (c : Cmd), s.ready id 0x914 = some c → s.resetTurn c = true → s.fwBusy = false → ∃ u : State,
    u = s.recordFw 5 0x900C none 0 (p4 4 ++ p4 0 ++ p4 c.ringNo) ∧
    exec (.rstPackage id) s = .next (({ u with fw := { u.fw with bringup := some (bitAt (c.p 0 1) 0) } } : State).finish id 0 Result.zero)) ∧
  (∀ (id g : Nat) (s : State) (c : Cmd), s.ready id 0x010 = some c → s.resetTurn c = true → g = c.p 0 1 % 64 →
    ((s.saggar g).active = false → exec (.saggarClose id) s = .next (s.refuse id 0x0203)) ∧
    ((s.saggar g).active = true → s.allTaken (s.saggarScope c g) = false → s.running.any (fun r => r.closing == some g) = false →
      (s.saggarRings g).filter (fun n => (s.ring n).role == .submission && !(s.ring n).inReset) = [] →
      exec (.saggarClose id) s = .next ((s.flushCompls.holdSaggars [g]).resetSaggar c g (some g)))) ∧
  (∀ (i : Nat) (s : State), i < sitesN → s.siteMayReturn i = true →
    exec (.siteRewetDone i none) s = .next (((s.returnSite i).siteReturned i).settleResets)) ∧
  (∀ (i a : Nat) (s u : State), i < sitesN → s.siteMayReturn i = true → u = s.record 0x8011 1 i (s.siteOwner i) 0 (p4 i ++ p8 a) →
    (u.rel.autoRetire = false → exec (.siteRewetDone i (some a)) s =
      .next (((u.modSite i (fun x => { x with role := .failed, lcol := 63 })).siteReturned i).settleResets)) ∧
    (u.rel.autoRetire = true → (s.site i).role = .active →
      exec (.siteRewetDone i (some a)) s = .next (((u.autoRetire i 2 .failed).siteReturned i).settleResets)))

/-- CE_BUCKET_LEAK (R457), the scrubs (R459, R460), REL_RETIRE_GRANULE (R461) and REL_RETIRE_SITE (R464). -/
def Obligations.ScrubsAndRetirements : Prop :=
  (∀ s : State, s.rel.leakUs + s.rel.ceLeakS * 1000000 ≤ s.nowUs → ∃ t, exec .ceBucketLeak s = .next t ∧ t.rel.leakUs = s.nowUs ∧
    (∀ r, (∃ v, (r, v) ∈ s.rel.regions) → s.rel.regions.Pairwise (fun p q => p.1 ≠ q.1) →
      (t.region r) = { s.region r with level := (s.region r).level - 1 }) ∧
    (∀ r, (∀ v, (r, v) ∉ s.rel.regions) → t.region r = s.region r) ∧
    t = { s with rel := { s.rel with leakUs := s.nowUs, regions := t.rel.regions } }) ∧
  (∀ (id : Nat) (s : State) (c : Cmd), s.ready id 0x800 = some c →
    (s.scrubCheck c ≠ 0 → exec (.relScrub id) s = .next (s.refuse id (s.scrubCheck c))) ∧
    (s.scrubCheck c = 0 → ∃ (x : Scrub) (u : State), exec (.relScrub id) s = .next ((u.statusWord id x.statusAddr 1 0 Result.zero).setPhase id
        .queued) ∧ u = { s with rel := { s.rel with scrubs := s.rel.scrubs ++ [x] } } ∧ x.cmd = id ∧ x.addr = c.addr 0 ∧
      x.length = c.p 8 8 ∧ x.statusAddr = wordOrNone (c.addr 16) ∧ x.started = false ∧ x.read = 0 ∧ x.status = 0)) ∧
  (∀ (id : Nat) (up : Strikes) (s u : State) (c : Cmd) (x : Scrub) (r : State × Scrub), s.rel.scrubs.find? (fun x => !x.started) = some x →
    s.inPhase id 0x800 .queued = some c → x.cmd = id → (s.rel.scrubs.filter (fun y => y.started)).length < 16 →
    u = (s.statusWord id x.statusAddr 2 0 Result.zero).setPhase id .running →
    r = State.scrubUnits c (x.length / State.scrubUnit x.addr) x.addr (u.strike up, { x with started := true }) →
    exec (.scrubStart id up) s = .next (r.1.setScrub r.2)) ∧
  (∀ (id : Nat) (s u : State) (x : Scrub), s.rel.scrubs.find? (fun x => x.cmd == id && x.started) = some x →
    u = { s with rel := { s.rel with scrubs := removeFirst (fun y => y.cmd == id) s.rel.scrubs } } →
    (x.corrected = 0 → x.bad = 0 → exec (.scrubComplete id) s = .next (u.finishWord id x.statusAddr x.status
      { progress := x.read * State.scrubUnit x.addr / 1024, r0 := x.read, r1 := 0, r2 := 0, r3 := x.marked })) ∧
    ((x.corrected ≠ 0 ∨ x.bad ≠ 0) → exec (.scrubComplete id) s = .next ((u.recordFw 3 0x8007 none (((u.cmd? id).map (·.job)).getD 0)
        (p4 x.read ++ p4 x.corrected ++ p4 x.bad ++ p4 x.marked)).finishWord id x.statusAddr x.status
      { progress := x.read * State.scrubUnit x.addr / 1024, r0 := x.read, r1 := x.corrected, r2 := x.bad, r3 := x.marked }))) ∧
  (∀ (id : Nat) (s : State) (c : Cmd), s.ready id 0x801 = some c →
    (c.p 0 4 < granulesN → exec (.relRetireGranule id) s = .next ((s.retirePending (c.p 0 4)).finish id 0 Result.zero)) ∧
    (granulesN ≤ c.p 0 4 → exec (.relRetireGranule id) s = .next (s.refuse id 0x0101))) ∧
  (∀ (id : Nat) (s : State) (c : Cmd), s.ready id 0x802 = some c →
    (c.p 0 2 < sitesN → (s.site (c.p 0 2)).role = .active →
      exec (.relRetireSite id) s = .next (((s.retireSite (c.p 0 2) .retired).settleResets).finish id 0 Result.zero)) ∧
    ((sitesN ≤ c.p 0 2 ∨ (s.site (c.p 0 2)).role ≠ .active) → exec (.relRetireSite id) s = .next (s.refuse id 0x0101)))

/-- MIRROR_WRITE (R473), CIS_READ (R474) and CIS_CLEAR (R476). -/
def Obligations.CisternCommands : Prop :=
  (∀ (n : Nat) (s : State) (e : Entry), s.rel.toMirror.find? (fun e => e.seq == n) = some e →
    ∃ t, exec (.mirrorWrite n) s = .next t ∧ t.rel.toMirror = removeFirst (fun x => x.seq == e.seq) s.rel.toMirror ∧
      (storeEntry 8192 s.rel.mirror { e with mirrored := true } = none → t.rel.mirrorDrop = min 0xFFFFFFFF (s.rel.mirrorDrop + 1) ∧
        t.rel.mirror = s.rel.mirror ∧ t.rel.entries = s.rel.entries) ∧
      (∀ l, storeEntry 8192 s.rel.mirror { e with mirrored := true } = some l → t.rel.mirror = l ∧ t.rel.mirrorDrop = s.rel.mirrorDrop ∧
        t.rel.entries = s.rel.entries.map (fun x => if x.seq = e.seq then { x with mirrored := true } else x)) ∧
      t = { s with rel := t.rel }) ∧
  (∀ (id n : Nat) (s u : State) (c : Cmd) (l : List Entry), s.ready id 0x808 = some c → n = c.p 16 2 → 0 < n → n ≤ 1024 →
    s.reach (s.engineAuth c.saggar) true (c.addr 8) (64 * n) = 0 → l = (s.cisEntries c).take n →
    s.store 12 0xFFFF (c.addr 8) (l.flatMap entryBytes) = (u, none) → ∃ r : Result, exec (.cisRead id) s = .next (u.finish id 0 r) ∧
      r.progress = 0 ∧ r.r0 = l.length ∧ (l.length < n → r.r1 = s.rel.nextSeq % 2 ^ 32 ∧ r.r2 = s.rel.nextSeq / 2 ^ 32 % 2 ^ 32) ∧
      (∀ e, l.length = n → l.getLast? = some e → r.r1 = (e.seq + 1) % 2 ^ 32 ∧ r.r2 = (e.seq + 1) / 2 ^ 32 % 2 ^ 32)) ∧
  (∀ (id : Nat) (s : State) (c : Cmd), s.ready id 0x808 = some c →
    (c.p 16 2 = 0 → exec (.cisRead id) s = .next (s.refuse id 0x0102)) ∧
    (1024 < c.p 16 2 → s.reach (s.engineAuth c.saggar) true (c.addr 8) (64 * c.p 16 2) = 0 → exec (.cisRead id) s = .next (s.refuse id 0x0101))) ∧
  (∀ (id : Nat) (s : State) (c : Cmd), s.ready id 0x809 = some c → ∃ (u : State) (gone : Nat),
    exec (.cisClear id) s = .next ((u.recordFw 4 0x8010 none 0 (p8 (c.p 0 8) ++ p4 gone ++ p4 (b2n (bitAt (c.p 8 1) 0)))).finish id 0
      Result.zero) ∧ u.rel.entries = s.rel.entries.filter (fun e => decide (c.p 0 8 < e.seq)) ∧
      u.rel.mirror = (if bitAt (c.p 8 1) 0 then s.rel.mirror.filter (fun e => decide (c.p 0 8 < e.seq)) else s.rel.mirror) ∧
      u = { s with rel := { s.rel with entries := u.rel.entries, mirror := u.rel.mirror } })

/-- Firmware images and their activation (R495, R497, R499, R500), controllers (R498) and twins (R506). -/
def Obligations.FirmwareLifecycle : Prop :=
  (∀ (id n : Nat) (s u : State) (c : Cmd) (bs : List Byte), s.ready id 0x920 = some c → s.stageCheck c = 0 →
    s.freeSlotOf (c.p 0 1) = some n → s.load 7 0xFFFF (c.addr 8) (c.p 16 4) = (u, none, bs) →
    exec (.fwStage id) s = .next (if u.verifyImage (c.p 0 1) bs = 0 then
        ((u.setSlot (c.p 0 1) n { image := bs, ok := true }).imageEvent (c.p 0 1) n).finish id 0 (Result.w01 (State.imageVersion bs) n)
      else (u.setSlot (c.p 0 1) n ImageSlot.empty).finish id (u.verifyImage (c.p 0 1) bs) Result.zero)) ∧
  (∀ (id : Nat) (s : State) (c : Cmd), s.ready id 0x921 = some c →
    (s.activateCheck c ≠ 0 → exec (.fwActivate id) s = .next (s.refuse id (s.activateCheck c))) ∧
    (s.activateCheck c = 0 → c.p 0 1 = 1 → s.activateTargets c ≠ [] → ∃ r : RtActivation, exec (.fwActivate id) s =
        .next { s.setPhase id .running with fw := { (s.setPhase id .running).fw with rtActivation := some r } } ∧
      r.cmd = id ∧ r.slot = 1 - s.activeSlot 1 ∧ r.left = s.activateTargets c ∧ r.started = false ∧ r.sites = 0) ∧
    (s.activateCheck c = 0 → c.p 0 1 = 0 → bitAt (c.p 2 1) 1 = true → exec (.fwActivate id) s = .next (({ s with fw := { s.fw with
        refireMgmt := some (1 - s.activeSlot 0), refireFloor := bitAt (c.p 2 1) 0 } } : State).finish id 0 Result.zero)) ∧
    (s.activateCheck c = 0 → c.p 0 1 = 0 → bitAt (c.p 2 1) 1 = false → ∃ a : Activation, exec (.fwActivate id) s =
        .next { s.setPhase id .running with fw := { s.fw with activation := some a } } ∧
      a.cmd = id ∧ a.slot = 1 - s.activeSlot 0 ∧ a.moved = [] ∧ a.floor = bitAt (c.p 2 1) 0)) ∧
  (∀ (r k : Nat) (s u : State) (a : Activation), s.fw.activation = some a → r < 6 → r ∉ a.moved → k ∈ s.standbys →
    u = (s.setRoleMc r k).setMc k { s.mc k with slot := a.slot, tookUs := s.nowUs } →
    exec (.fwRoleHandover r k) s = .next { u with fw := { u.fw with activation := some { a with moved := a.moved ++ [r], lastUs := u.nowUs } } }) ∧
  (∀ (s u : State) (a : Activation), s.fw.activation = some a → (∀ r < 6, r ∈ a.moved) → a.lastUs + 1000000 ≤ s.nowUs → a.floor = false →
    u = (List.range 8).foldl (fun s c => s.setMc c { s.mc c with slot := a.slot })
      { s with fw := { s.fw with activation := none, activeMgmt := a.slot } } →
    exec .fwActivationConfirm s = .next (((u.measureSlot 0 a.slot).imageEvent 0 a.slot).finish a.cmd 0 Result.zero)) ∧
  (∀ (g : Nat) (l bad : List Nat) (s u : State) (r : RtActivation), s.fw.rtActivation = some r → r.left = g :: l →
    (r.started = false → s.saggarRuns g = false → u = s.holdSaggars [g] → exec (.runtimeActivationStart r.cmd bad) s =
      .next { u with fw := { u.fw with rtActivation := some { r with started := true, sinceUs := u.nowUs } } }) ∧
    (r.started = true → s.quiescent g = true → exec (.runtimeActivationStart r.cmd bad) s = .next (s.broadcastRuntime r g bad)) ∧
    (r.sinceUs + 10000000 ≤ s.nowUs → r.started = true → s.quiescent g = false → exec (.runtimeActivationTimeout r.cmd) s =
      .next (((({ s with fw := { s.fw with rtActivation := none } } : State).releaseSaggars [g]).recordFw 1 0xB004 (some g) 0 (p4 g)).finish
        r.cmd 0x0402 (Result.w0 r.sites))) ∧
    (r.sinceUs + 10000000 ≤ s.nowUs → r.started = false → s.saggarRuns g = true → exec (.runtimeActivationTimeout r.cmd) s =
      .next (({ s with fw := { s.fw with rtActivation := none } } : State).finish r.cmd 0x06F1 (Result.w0 r.sites)))) ∧
  (∀ (r : Nat) (s u : State), r < 6 → (s.mc (s.roleMc r)).working = true → s.fw.activation = none →
    u = s.setMc (s.roleMc r) { s.mc (s.roleMc r) with working := false } → u.workingMcs ≠ [] →
    3 ≤ ((u.rolesOf (s.roleMc r)).foldl (fun t k => t.takeOver (s.roleMc r) k) u).workingMcs.length →
    exec (.controllerHeartbeatMiss r) s = .next ((u.rolesOf (s.roleMc r)).foldl (fun t k => t.takeOver (s.roleMc r) k) u)) ∧
  (∀ (id : Nat) (s : State) (c : Cmd), s.ready id 0x940 = some c →
    ((bitAt (c.p 0 1) 0 = true ∨ s.saggars.any (fun p => p.2.active && !p.2.replicaValid) = false) → exec (.twinDrain id) s =
      .next { s.setPhase id .running with fw := { s.fw with draining := s.fw.draining ++ [(id, s.drainCount)] } }) ∧
    (bitAt (c.p 0 1) 0 = false → s.saggars.any (fun p => p.2.active && !p.2.replicaValid) = true →
      exec (.twinDrain id) s = .next (s.refuse id 0x03F4))) ∧
  (∀ (id n : Nat) (s : State), s.fw.draining.find? (fun p => p.1 == id) = some (id, n) → s.drainCount = 0 → s.poursDone = true →
    exec (.drainComplete id) s = .next ((({ s with fw := { s.fw with
      draining := removeFirst (fun p => p.1 == id) s.fw.draining, drained := true } } : State).recordFw 5 0x900D none 0 []).finish id 0 (Result.w0 n))) ∧
  (∀ (id : Nat) (s : State) (c : Cmd), s.ready id 0x941 = some c → exec (.twinRejoin id) s =
    .next ((({ s with fw := { s.fw with drained := false } } : State).recordFw 5 0x900D none 0 []).finish id 0 Result.zero))

/-- The security commands and the management port: GLAZE_SET (R501, R502), GLAZE_READ (R504), SEC_QUOTE (R515), SEC_CERT_READ and
SEC_EXTEND (R517), SEC_WRAP_OPEN (R523), SEC_KEY_SET (R522), SEC_REKEY_PREPARE (R521), the grace of R524, and R401, R404, R520. -/
def Obligations.SecurityCommands : Prop :=
  (∀ (id : Nat) (s : State) (c : Cmd), s.ready id 0x930 = some c → c.p 0 1 ≤ 2 → c.p 16 4 = 0 →
    (s.glazeCheck (c.p 0 1) (c.p 4 4) [] ≠ 0 → exec (.glazeSet id) s = .next (s.refuse id (s.glazeCheck (c.p 0 1) (c.p 4 4) []))) ∧
    (s.glazeCheck (c.p 0 1) (c.p 4 4) [] = 0 → exec (.glazeSet id) s = .next (s.glazeChange id (c.p 0 1) (c.p 4 4) []))) ∧
  (∀ (id : Nat) (s u : State) (c : Cmd) (auth : List Byte), s.ready id 0x930 = some c → c.p 0 1 ≤ 2 → 0 < c.p 16 4 → c.p 16 4 ≤ 2048 →
    s.placeCheck c.saggar false (c.addr 8) (c.p 16 4) = 0 → s.load 7 0xFFFF (c.addr 8) (c.p 16 4) = (u, none, auth) →
    exec (.glazeSet id) s = .next (if u.glazeCheck (c.p 0 1) (c.p 4 4) auth = 0 then u.glazeChange id (c.p 0 1) (c.p 4 4) auth
      else u.refuse id (u.glazeCheck (c.p 0 1) (c.p 4 4) auth))) ∧
  (∀ (id : Nat) (s : State) (c : Cmd), s.ready id 0x931 = some c →
    (c.p 0 1 = 0 → exec (.glazeRead id) s =
      .next (s.finish id 0 { progress := 0, r0 := s.fw.variant, r1 := s.fw.pendingVariant.getD 0xFFFFFFFF, r2 := s.fw.leftVariant, r3 := s.fw.qualified })) ∧
    (c.p 0 1 = 1 → exec (.glazeRead id) s =
      .next (s.finish id 0 { progress := 0, r0 := s.sec.rekeys, r1 := 0xFFFFFFFF, r2 := s.fw.leftIdentity, r3 := 0 })) ∧
    (c.p 0 1 = 2 → exec (.glazeRead id) s =
      .next (s.finish id 0 { progress := 0, r0 := b2n s.sec.owned, r1 := 0xFFFFFFFF, r2 := s.fw.leftOwner, r3 := 0 })) ∧
    (2 < c.p 0 1 → exec (.glazeRead id) s = .next (s.refuse id 0x0101))) ∧
  (∀ (id : Nat) (s : State) (c : Cmd), s.ready id 0xA00 = some c → s.quoteCheck c = 0 → exec (.secQuote id) s =
    .next (s.draw.deliver id (c.addr 0) (s.quoteBody (c.p 12 1) (c.p 13 1 % 64) (State.digestParam c) ++ s.freeBytes 64)
      (Result.w0 (320 + 64 * (s.quoteLog (c.p 12 1) (c.p 13 1 % 64)).length)))) ∧
  (∀ (id : Nat) (s : State) (c : Cmd), s.ready id 0xA01 = some c → s.certificateNow.length ≤ 2048 → s.certificateNow.length ≤ c.p 8 4 → 0 < c.p 8 4 →
    s.placeCheck c.saggar true (c.addr 0) s.certificateNow.length = 0 →
    exec (.secCertRead id) s = .next (s.deliver id (c.addr 0) s.certificateNow (Result.w0 s.certificateNow.length))) ∧
  (∀ (id : Nat) (s : State) (c : Cmd), s.ready id 0xA02 = some c →
    (c.oper = false → (s.saggar c.saggar).slog.length < 256 →
      exec (.secExtend id) s = .next ((s.extendSag c.saggar 0x0015 0 (State.digestParam c)).finish id 0 Result.zero)) ∧
    (c.oper = false → 256 ≤ (s.saggar c.saggar).slog.length → exec (.secExtend id) s = .next (s.refuse id 0x03F8)) ∧
    (c.oper = true → exec (.secExtend id) s = .next (s.refuse id 0x0202))) ∧
  (∀ (id : Nat) (s u v : State) (c : Cmd) (bs : List Byte), s.ready id 0xA03 = some c → c.oper = false → s.sec.identityOk = true →
    s.placeCheck c.saggar false (c.addr 0) 64 = 0 → s.placeCheck c.saggar true (c.addr 8) 96 = 0 → s.load 12 0xFFFF (c.addr 0) 64 = (u, none, bs) →
    v = { u.draw with sec := { u.draw.sec with wrapKeys := (u.draw.sec.wrapKeys.drop c.saggar).place c.saggar (Config.freeKey u.free).toNat } } →
    exec (.secWrapOpen id) s = .next ((v.extendSag c.saggar 0x0013 0 (sm3 bs)).deliver id (c.addr 8) (u.freeBytes 96) Result.zero)) ∧
  (∀ (id : Nat) (s : State) (c : Cmd), s.ready id 0xA04 = some c →
    (s.keySetCheck c ≠ 0 → exec (.secKeySet id) s = .next (s.refuse id (s.keySetCheck c))) ∧
    (s.keySetCheck c = 0 → c.p 0 1 = 2 →
      exec (.secKeySet id) s = .next ((s.removePair (c.p 1 1 % 64 * 256 + c.p 2 1)).finish id 0 Result.zero)) ∧
    (∀ (u : State) (bs : List Byte), s.keySetCheck c = 0 → s.load 12 0xFFFF (c.addr 8) (State.keyRecordBytes c) = (u, none, bs) →
      (c.p 0 1 = 0 → exec (.secKeySet id) s = .next ((u.installPond (c.p 1 1 % 32) (beNat (bs.take 16))).finish id 0 Result.zero)) ∧
      (c.p 0 1 = 1 → bitAt (c.p 3 1) 0 = false →
        exec (.secKeySet id) s = .next ((u.installPair (c.p 1 1 % 64 * 256 + c.p 2 1) (beNat (bs.take 16))).finish id 0 Result.zero)))) ∧
  (∀ (id : Nat) (s u : State) (c : Cmd), s.ready id 0xA05 = some c → s.sec.identityOk = true → s.placeCheck c.saggar true (c.addr 0) 128 = 0 →
    u = { s.draw with sec := { s.draw.sec with candidate := true } } → exec (.secRekeyPrepare id) s =
    .next (u.deliver id (c.addr 0) ((Config.identityKey (s.sec.rekeys + 1) ++ List.replicate 64 0).take 64 ++ s.freeBytes 64) Result.zero)) ∧
  (∀ (g k n : Nat) (s : State) (v : PairKey) (old : Nat), n = g * 256 + k → s.sec.pairKeys.find? (fun p => p.1 == n) = some (n, v) → v.previous = some old →
    (v.changedUs + 10000 ≤ s.nowUs → exec (.keyGraceExpiry g k) s = .next { s with sec :=
      { s.sec with pairKeys := (s.sec.pairKeys.drop n).place n { v with previous := none }, replays := s.sec.replays.filter (fun q => q.1 / 32 != 2 * State.pairKeyId n + 1) } }) ∧
    (s.nowUs < v.changedUs + 10000 → exec (.keyGraceExpiry g k) s = .next s)) ∧
  (∀ (d : Datagram) (s : State), s.fab.linkUp = true → s.pkg.poweredDown = false → s.pkg.heldInReset = false →
    (d.session = 0 → exec (.mgmtDatagram d) s = .next (s.exchange d)) ∧
    (∀ x : MgmtSession, d.session ≠ 0 → s.session? d.session = some x →
      (d.tag = datagramTag x.key d → d.seq ∉ x.seqs → d.packets ≠ [] → d.packets.length ≤ 16 → (∀ b ∈ d.packets, b.length = 64) →
        exec (.mgmtDatagram d) s = .next (d.packets.foldl (fun s b => s.mgmtPacket d.session b)
          (s.setSession { x with seqs := d.seq :: x.seqs, lastUs := s.nowUs, sender := d.sender }))) ∧
      ((d.tag ≠ datagramTag x.key d ∨ d.seq ∈ x.seqs) → exec (.mgmtDatagram d) s = .next s.mgmtDrop)) ∧
    (d.session ≠ 0 → s.session? d.session = none → exec (.mgmtDatagram d) s = .next s.mgmtDrop)) ∧
  (∀ (n : Nat) (s : State) (x : MgmtSession), s.session? n = some x →
    (x.lastUs + 300000000 ≤ s.nowUs → exec (.mgmtSessionTimeout n) s = .next (s.closeSession x)) ∧
    (s.nowUs < x.lastUs + 300000000 → exec (.mgmtSessionTimeout n) s = .next s)) ∧
  (∀ (up : Bool) (s : State), exec (.mgmtLinkUpChange up) s = .next { s with fab := { s.fab with linkUp := up } })

/-- PWR_METER_READ (R429), PWR_SLEEP and PWR_WAKE (R414), the ramp of a cluster (R412, R413) and its regulator's phases (R415). -/
def Obligations.ClusterPower : Prop :=
  (∀ (id : Nat) (s : State) (c : Cmd), s.ready id 0x700 = some c →
    (s.meterCheck c = 0 → ∃ r : Result, exec (.pwrMeterRead id) s = .next (s.finish id 0 r) ∧ r.progress = 0 ∧
      r.r0 + r.r1 * 2 ^ 32 = (s.meterOf (c.p 0 1) (c.p 2 2) (c.p 4 1 % 64)).1 % 2 ^ 64 ∧
      r.r2 + r.r3 * 2 ^ 32 = (s.meterOf (c.p 0 1) (c.p 2 2) (c.p 4 1 % 64)).2 % 2 ^ 64) ∧
    (s.meterCheck c ≠ 0 → exec (.pwrMeterRead id) s = .next (s.refuse id (s.meterCheck c)))) ∧
  (∀ (id : Nat) (s : State) (c : Cmd) (l : List Nat), s.ready id 0x701 = some c → l = span (c.p 0 2) (c.p 2 2) →
    (lowest (s.clusterRange c ++ [check (l.any s.clusterBusy) 0x06C0]) = 0 →
      exec (.pwrSleep id) s = .next ((l.foldl State.sleepCluster s).finish id 0 Result.zero)) ∧
    (lowest (s.clusterRange c) = 0 → l.any s.clusterBusy = true → exec (.pwrSleep id) s = .next (s.refuse id 0x06C0))) ∧
  (∀ (id : Nat) (s u : State) (c : Cmd) (l w : List Nat), s.ready id 0x702 = some c → lowest (s.clusterRange c) = 0 →
    l = (span (c.p 0 2) (c.p 2 2)).filter (fun k => (s.cluster k).asleep) → w = (l.flatMap clusterSites).filter s.siteServes →
    u = l.foldl (fun s k => s.modCluster k (fun x => { x with wantOn := true })) s →
    (w = [] → exec (.pwrWake id) s = .next (u.finish id 0 Result.zero)) ∧
    (w ≠ [] → ∃ r : ResetRun, exec (.pwrWake id) s = .next { u.setPhase id .running with fw := { u.fw with resets := u.fw.resets ++ [r] } } ∧
      r.cmd = some id ∧ r.sites = w ∧ r.wake = true ∧ r.sluices = [] ∧ r.rings = [] ∧ r.units = [])) ∧
  (∀ (n np : Nat) (s : State),
    ((s.cluster n).staging = false → s.nextRamp = some n → 950 < np → ∃ x : Cluster, exec (.clusterSwitchStage n np) s = .next (s.setCluster n x) ∧
      x = { s.cluster n with staging := true, deferred := true, bank := 0, mult := 8 }) ∧
    ((s.cluster n).staging = false → s.nextRamp = some n → np ≤ 950 → ∃ x : Cluster, exec (.clusterSwitchStage n np) s =
        .next ((s.setCluster n x).closeBank n np) ∧
      x = { s.cluster n with staging := true, bank := 0, mult := State.rampMult 1 np }) ∧
    ((s.cluster n).staging = true → (s.cluster n).deferred = false → exec (.clusterSwitchStage n np) s = .next (s.closeBank n np)) ∧
    (((s.cluster n).staging = true ∧ (s.cluster n).deferred = true) ∨ ((s.cluster n).staging = false ∧ s.nextRamp ≠ some n) →
      exec (.clusterSwitchStage n np) s = .next s)) ∧
  (∀ (n np ns : Nat) (s : State), (s.cluster n).staging = true → (s.cluster n).deferred = true → np ≤ 950 ∨ 50000 ≤ ns →
    exec (.clusterStartDeferralEnd n np ns) s = .next ((s.setCluster n { s.cluster n with deferred := false }).recordFw 0 0x6005
      (if (s.cluster n).assigned then some (s.cluster n).saggar else none) 0 (p4 n ++ p4 ns))) ∧
  (∀ (n k : Nat) (s : State) (left : BitVec 4), n < clustersN → k < 4 → bitAt (s.cluster n).phasesOk.toNat k = true →
    left = BitVec.ofNat 4 ((s.cluster n).phasesOk.toNat - 2 ^ k) →
    (((List.range 4).filter (fun j => bitAt left.toNat j)).length = 3 → exec (.regulatorPhaseFault (4 * n + k)) s =
      .next ((s.setCluster n { s.cluster n with phasesOk := left, derated := true }).recordFw 0 0x6003
        (if (s.cluster n).assigned then some (s.cluster n).saggar else none) 0 (p4 n ++ p4 (4 * n + k)))) ∧
    (((List.range 4).filter (fun j => bitAt left.toNat j)).length ≠ 3 → (s.cluster n).dark = true →
      exec (.regulatorPhaseFault (4 * n + k)) s = .next (s.setCluster n { s.cluster n with phasesOk := left })) ∧
    (∀ u v : State, ((List.range 4).filter (fun j => bitAt left.toNat j)).length ≠ 3 → (s.cluster n).dark = false →
      u = s.setCluster n { s.cluster n with phasesOk := left } →
      v = ((u.clusterActive n).foldl (fun s i => s.retireSite i .retired) ((clusterSites n).foldl (fun s i => s.modSite i (fun y =>
          if y.role = .spare then { y with role := .retired } else y)) ((clusterSites n).foldl State.enterSite u))).modCluster n (fun y =>
        { y with dark := true, wantOn := false, staging := false, bank := 0, mult := 1, deferred := false }) →
      exec (.regulatorPhaseFault (4 * n + k)) s = .next (((clusterSites n).foldl State.siteReturned v).recordFw 0 0x6004
        (if (s.cluster n).assigned then some (s.cluster n).saggar else none) 0 (p4 n ++ p4 (u.clusterActive n).length)).settleResets)) ∧
  (∀ (n k : Nat) (s : State), n < clustersN → bitAt (s.cluster n).phasesOk.toNat (k % 4) = false →
    exec (.regulatorPhaseFault (4 * n + k % 4)) s = .next s)

/-- The kiln (R416), its leases (R421, R422), the power domains' windows (R426) and the attribution of energy (R427). -/
def Obligations.KilnAndLeases : Prop :=
  (∀ (m : KilnIn) (s : State),
    (s.power.lastRecompute + 100 ≤ s.nowUs → exec (.kilnRecompute m) s = .next (s.recompute m)) ∧
    (s.nowUs < s.power.lastRecompute + 100 → exec (.kilnRecompute m) s = .next s)) ∧
  (∀ p0 b : Nat, State.coneFor p0 b ≤ 7 ∧ (∀ k, k < State.coneFor p0 b → b * 16 < p0 * coneQ k) ∧
    (∀ k, k ≤ 7 → p0 * coneQ k ≤ b * 16 → p0 * coneQ (State.coneFor p0 b) ≤ b * 16)) ∧
  (∀ (k : Nat) (s : State) (l : Lease), s.power.borrowed[k]? = some l →
    (l.sinceUs + 10000 ≤ s.nowUs → exec (.lendLeaseExpiry k) s =
      .next ({ s with power := { s.power with borrowed := dropAt s.power.borrowed k } } : State).setCap) ∧
    (s.nowUs < l.sinceUs + 10000 → exec (.lendLeaseExpiry k) s = .next s)) ∧
  (∀ (k : Nat) (s : State) (l : Lease), s.power.lent[k]? = some l →
    (l.running = true → l.sinceUs + 11000 ≤ s.nowUs → exec (.lendReductionExpiry k) s =
      .next ({ s with power := { s.power with lent := dropAt s.power.lent k } } : State).setCap) ∧
    ((l.running = false ∨ s.nowUs < l.sinceUs + 11000) → exec (.lendReductionExpiry k) s = .next s)) ∧
  (∀ (w : WindowIn) (s : State), w.domain < domainsN → ∃ t, exec (.telemetryWindowClose w) s = .next t ∧
    (t.domain w.domain).mean = w.mean % 2 ^ 32 ∧ (t.domain w.domain).least = w.least % 2 ^ 32 ∧
    (t.domain w.domain).greatest = w.greatest % 2 ^ 32 ∧ (t.domain w.domain).voltMv = w.voltMv % 2 ^ 16 ∧
    (t.domain w.domain).window = ((s.domain w.domain).window + 1) % 2 ^ 32 ∧ (t.domain w.domain).energy = (s.domain w.domain).energy + w.microjoules ∧
    (∀ n, n ≠ w.domain → t.domain n = s.domain n) ∧ t.power.inputMv = (if w.domain = 1174 then w.voltMv else s.power.inputMv) ∧
    t = { s with domains := t.domains, power := { s.power with inputMv := t.power.inputMv } }) ∧
  (∀ (input : Nat) (l : List EnergyShare) (s u : State), (l.map (fun e => e.microjoules)).foldl (· + ·) 0 ≤ input → u = l.foldl State.attribute_ s →
    exec (.energyAttribution input l) s = .next { u with power :=
      { u.power with overhead := u.power.overhead + (input - (l.map (fun e => e.microjoules)).foldl (· + ·) 0) } })

/-- The thermal control (R437, R442 to R444) and the coolant (R447 to R449). -/
def Obligations.ThermalEvents : Prop :=
  (∀ (l : List PointIn) (s : State), s.up = true → ∃ t, exec (.kilnModelUpdate l) s = .next t ∧ t.thermal.kilnStale = false ∧
    t.thermal.lastUpdateUs = t.nowUs ∧ t.thermal.staleRaises = 0) ∧
  (∀ d : Int, (112 < d → coneOfMargin d = 0) ∧ (d ≤ 16 → coneOfMargin d = 7) ∧
    (∀ k : Nat, 1 ≤ k → k ≤ 6 → (16 * (7 - (k : Int)) < d ∧ d ≤ 16 * (8 - (k : Int)) ↔ coneOfMargin d = k))) ∧
  (∀ s u : State, s.up = true → s.thermal.kilnStale = false → s.thermal.lastUpdateUs + 500 ≤ s.nowUs →
    u = ({ s with thermal := { s.thermal with kilnStale := true, staleRaises := 0 } } : State).recordFw 0 0x7009 none 0 [] →
    exec .kilnStaleTimeout s = .next ((List.range 36).foldl (fun s b =>
      (s.doubleRate b 0 (s.sensor (layerSensor 0 b)).temp).doubleRate b 1 (s.sensor (layerSensor 1 b)).temp) u)) ∧
  (∀ s : State, s.thermal.kilnStale = true → s.thermal.lastUpdateUs + 500 + 1000 * (s.thermal.staleRaises + 1) ≤ s.nowUs →
    ∃ t, exec .kilnStaleConeRaise s = .next t ∧ (∀ c < clustersN, t.cluster c = { s.cluster c with
      thermalCone := min 7 ((s.cluster c).thermalCone + 1), cone := max (s.cluster c).cone (min 7 ((s.cluster c).thermalCone + 1)) }) ∧
    t = { s with clusters := t.clusters, thermal := { s.thermal with staleRaises := s.thermal.staleRaises + 1 } }) ∧
  (∀ (p v : Nat) (s u : State) (l : List Nat), l = ptClusters (ptOf p) →
    u = l.foldl (fun s c => s.modCluster c (fun y => { y with clamps := insertNat p y.clamps, cone := 7 })) s →
    (v % 65536 ≠ 0x8000 → ptLimit (ptOf p) ≤ tempOf v → (∃ c ∈ l, p ∉ (s.cluster c).clamps) →
      (∃ k ∈ ptSensors (ptOf p), (s.sensor k).suspect = false ∧ (s.sensor k).failed = false) →
      exec (.thermalClamp p v) s = .next (u.recordFw 0 0x7005 none 0 (p4 p ++ pInt (tempOf v)))) ∧
    (v % 65536 = 0x8000 ∨ tempOf v < ptLimit (ptOf p) → exec (.thermalClamp p v) s = .next s)) ∧
  (∀ (p v : Nat) (s : State), v % 65536 ≠ 0x8000 → tempOf v < ptLimit (ptOf p) - 32 → exec (.thermalClampRelease p v) s =
    .next ((ptClusters (ptOf p)).foldl (fun s c => s.modCluster c (fun y => { y with clamps := y.clamps.filter (· != p) })) s)) ∧
  (∀ (k : Nat) (s : State), s.pkg.poweredDown = false →
    exec (.thermalShutdown k) s = .next (((s.stopCommands 0x05D0).recordFw 0 0x7006 none 0 (p4 k)).powerDown)) ∧
  (∀ (q v : Nat) (s u : State), u = { s.coolantSet q v with thermal := { (s.coolantSet q v).thermal with coolantOor := true } } →
    (State.coolantBad q v = true → exec (.coolantOutOfRange q v) s =
      .next (u.recordFw 0 0x7007 none 0 (p4 q ++ (if q = 0 then pInt (tempOf v) else p4 v)))) ∧
    (State.coolantBad q v = false → exec (.coolantOutOfRange q v) s = .next s)) ∧
  (∀ s : State, s.thermal.coolantOor = true → ∃ t, exec .coolantOorClear s = .next t ∧ t.thermal.coolantOor = false ∧
    State.coolantBad 0 t.thermal.inlet = false ∧ State.coolantBad 2 t.thermal.dp = false ∧ t.thermal.flow ≤ 6000 ∧ 3000 ≤ t.thermal.flow ∧
    (3000 ≤ s.thermal.flow → s.thermal.flow ≤ 6000 → t.thermal.flow = s.thermal.flow) ∧ (s.thermal.dp ≤ 1500 → t.thermal.dp = s.thermal.dp) ∧
    (State.coolantBad 0 s.thermal.inlet = false → t.thermal.inlet = s.thermal.inlet)) ∧
  (∀ (f : Nat) (s : State),
    (f < 3000 → s.thermal.flowLimited = false → exec (.flowLimited f) s = .next
      (({ s with thermal := { s.thermal with flowLimited := true, flow := f } } : State).setCap.recordFw 0 0x7007 none 0 (p4 1 ++ p4 f))) ∧
    (3000 ≤ f ∨ s.thermal.flowLimited = true → exec (.flowLimited f) s = .next s) ∧
    (3000 ≤ f → s.thermal.flowLimited = true → exec (.flowLimitLift f) s = .next
      ({ s with thermal := { s.thermal with flowLimited := false, flow := f } } : State).setCap) ∧
    (f < 3000 ∨ s.thermal.flowLimited = false → exec (.flowLimitLift f) s = .next s)) ∧
  (∀ (w : Nat) (s : State),
    (s.thermal.heatMismatch = false → w * 100000 < 85 * s.inputMw → exec (.heatMismatch w) s = .next
      (({ s with thermal := { s.thermal with heatMismatch := true, heatW := w } } : State).recordFw 0 0x700B none 0 [])) ∧
    (s.thermal.heatMismatch = true ∨ 85 * s.inputMw ≤ w * 100000 → exec (.heatMismatch w) s = .next s) ∧
    exec .heatMismatchClear s = .next { s with thermal := { s.thermal with heatMismatch := false } } ∧
    (s.thermal.flowAsk = true → s.up = true → s.clusters.any (fun p => decide (0 < s.thermalConeOf p.1)) = true → s.thermal.flow < 6000 →
      exec (.flowRecord w) s = .next ({ s with thermal := { s.thermal with heatW := w, flowWant := min 6000 (s.thermal.flow + 500) } } : State).sendFlow) ∧
    (s.thermal.flowAsk = true → s.up = true → s.clusters.any (fun p => decide (0 < s.thermalConeOf p.1)) = false → 0 < s.thermal.flowWant →
      exec (.flowRecord w) s = .next ({ s with thermal := { s.thermal with heatW := w, flowWant := 0 } } : State).sendFlow) ∧
    (s.thermal.flowAsk = false → exec (.flowRecord w) s = .next s))

/-- ROTATE_DUE and THM_RANK (R450), WEAR_SAMPLE and WEAR_PERSIST (R451). -/
def Obligations.RankingAndWear : Prop :=
  (∀ (g : Nat) (s : State), g < 64 →
    (s.thermal.rotSpread * 16 < (s.saggar g).spread → exec (.rotateDue g) s = .next (s.modSaggar g (fun x => { x with rotateDue := true }))) ∧
    ((s.saggar g).spread ≤ s.thermal.rotSpread * 16 → exec (.rotateDue g) s = .next s)) ∧
  (∀ (id : Nat) (s u v : State) (c : Cmd) (bs : List Byte) (l o : List Nat), s.ready id 0x708 = some c → s.rankCheck c = 0 →
    s.load 7 0xFFFF (c.addr 0) (2 * c.p 8 2) = (u, none, bs) → l = coreList (c.p 8 2) bs → u.rankListCheck c.saggar l = 0 →
    o = l.foldl (fun a k => u.insertCore k a) [] → u.store 12 0xFFFF (c.addr 0) (o.flatMap (fun k => leBytes 2 k)) = (v, none) →
    exec (.thmRank id) s = .next ((v.modSaggar c.saggar (fun g => { g with rotateDue := false })).finish id 0
      (Result.w0 (u.coreForecast (o.getLastD 0) - u.coreForecast (o.headD 0)).toNat))) ∧
  (∀ (u : State) (l : List Nat), (l.foldl (fun a k => u.insertCore k a) []).Perm l ∧ (l.foldl (fun a k => u.insertCore k a) []).Pairwise
    (fun a b => u.coreForecast a < u.coreForecast b ∨ (u.coreForecast a = u.coreForecast b ∧ a ≤ b))) ∧
  (∀ (id : Nat) (s : State) (c : Cmd), s.ready id 0x708 = some c →
    (c.p 8 2 = 0 → exec (.thmRank id) s = .next (s.refuse id 0x0102)) ∧
    (4416 < c.p 8 2 → exec (.thmRank id) s = .next (s.refuse id 0x0101))) ∧
  (∀ s : State, ∃ t, exec .wearSample s = .next t ∧ t = { s with thermal := { s.thermal with wear := t.thermal.wear } } ∧
    (s.thermal.points = [] → t.thermal.wear = s.thermal.wear) ∧ exec .wearPersist s = .next s.persistWear)

/-- A control frame is accepted under its CRC, its key and its counter, and once only (R376, R390, R391). -/
def Obligations.ControlFramesAreAuthenticated : Prop :=
  (∀ (port type key id : Nat) (f : CtlFrame) (s : State), port < portsN → (s.port port).state = .up → f.crcOk = true → f.type = type → type < 13 →
    (f.dstPos = s.pkg.posValue ∨ (f.pondKey = true ∧ f.dstPos = 0xFF)) → s.onPond port f.srcPos = true → f.srcPort = port → f.pondKey = State.pondType type →
    s.rxKeys f.pondKey port f.dstSaggar f.srcPos = [(key, id)] →
    (f.tag = ctlTag f key → s.replayOk (id * 32 + port) f.counter = true →
      s.hear port type f = ((s.replayNote (id * 32 + port) f.counter).portCount port cFramesRx 1, true)) ∧
    (f.tag = ctlTag f key → s.replayOk (id * 32 + port) f.counter = false → s.hear port type f = (s.portCount port cReplay 1, false)) ∧
    (f.tag ≠ ctlTag f key → s.hear port type f = (s.authFail port, false))) ∧
  (∀ (k c : Nat) (s : State), s.replayOk k c = true → (s.replayNote k c).replayOk k c = false) ∧
  (∀ (port type : Nat) (f : CtlFrame) (s : State), port < portsN → (s.port port).state = .up → f.crcOk = false →
    s.hear port type f = (s.portCount port cCrcFail 1, false)) ∧
  (∀ (port type : Nat) (f : CtlFrame) (s : State),
    ((s.port port).state ≠ .up → s.hear port type f = (s, false)) ∧
    (port < portsN → (s.port port).state = .up → f.crcOk = true → f.type < 13 → f.dstPos ≠ s.pkg.posValue → f.dstPos ≠ 0xFF →
      s.hear port type f = (s, false)))

/-- The optical links: R369, R399, R400 (the port's state), R372 (membership), R373, R374 (the leader), R375 (ranging) and R377. -/
def Obligations.OpticalLinks : Prop :=
  (∀ (port k : Nat) (e : Echo) (s : State) (x : TxFrame) (l : List TxFrame), (s.port port).txq = x :: l →
    (x.tries = 0 → s.mayTransmit port = true → exec (.controlFrameSend port e k) s = .next (s.tryFrame port x e k)) ∧
    (0 < x.tries → exec (.controlFrameSend port e k) s = .next s) ∧
    (0 < x.tries → x.notBefore ≤ s.nowUs → s.mayTransmit port = true → exec (.controlBackoffExpiry port e k) s = .next (s.tryFrame port x e k)) ∧
    (s.nowUs < x.notBefore → exec (.controlBackoffExpiry port e k) s = .next s) ∧
    (x.frame.type = 12 → 0 < x.tries → x.firstUs + 900 ≤ s.nowUs → exec (.lendAbandon port) s = .next (s.abandon port x)) ∧
    (x.frame.type ≠ 12 → exec (.lendAbandon port) s = .next s)) ∧
  (∀ (port ns : Nat) (s : State), port < portsN →
    ((s.port port).state = .up → exec (.laserInputLoss port) s = .next (s.portDown port .dark 3)) ∧
    ((s.port port).state = .ranging ∨ (s.port port).state = .noKey → exec (.laserInputLoss port) s =
      .next ((s.portDown port .dark 3).portEvent port 0x5002 none 0 (p4 port ++ p4 (PortSt.code .dark) ++ p4 3))) ∧
    ((s.port port).state = .dark → exec (.laserInputLoss port) s = .next s) ∧
    ((s.port port).state = .dark → exec (.laserInputRestored port ns) s = .next (s.rangeOrWait port ns)) ∧
    ((s.port port).state ≠ .dark → exec (.laserInputRestored port ns) s = .next s) ∧
    ((s.port port).state = .ranging → 560 < ns → exec (.portRanging port ns) s = .next ((s.modPort port (fun p =>
      { p with state := .fault, faultCause := 2, echoNs := ns })).portEvent port 0x500B none 0 (p4 port ++ p4 ns))) ∧
    ((s.port port).state = .ranging → ns ≤ 560 → exec (.portRanging port ns) s = .next ((s.modPort port (fun p =>
      { p with state := .up, faultCause := 0, echoNs := ns, leader := false, synced := false, beaconUs := s.nowUs, helloUs := s.nowUs })).portEvent
        port 0x5001 none 0 (p4 port ++ p4 (s.ownComb port))))) ∧
  (∀ (id port : Nat) (s : State) (c : Cmd), s.ready id 0x603 = some c → port = c.p 0 1 % 32 →
    ((s.port port).state = .up ∨ (s.port port).state = .ranging ∨ ((s.port port).state = .fault ∧ (s.port port).faultCause ≠ 1) →
      exec (.fabPortReset id) s = .next ((s.portDown port .ranging 0).finish id 0 Result.zero)) ∧
    ((s.port port).state = .dark ∨ (s.port port).state = .disabled ∨ (s.port port).state = .noKey →
      exec (.fabPortReset id) s = .next (s.finish id 0 Result.zero))) ∧
  (∀ (port : Nat) (s : State), port < portsN → (s.port port).state = .up → (s.port port).helloUs + 4096 ≤ s.nowUs →
    exec (.helloSend port) s = .next ((s.queueFrame port (s.pondFrame 1 port (s.helloBody port))).modPort port (fun p => { p with helloUs := s.nowUs }))) ∧
  (∀ (port pos comb : Nat) (f : CtlFrame) (s u : State), s.hear port 1 f = (u, true) → pos = fieldAt f.body 0 1 → comb = State.combOf (fieldAt f.body 1 1) pos →
    pos ≠ u.pkg.posValue →
    (comb = u.ownComb port → exec (.hello port f) s = .next ((u.portEvent port 0x5003 none 0 (p4 port ++ p4 pos)).portDown port .fault 1)) ∧
    (comb ≠ u.ownComb port → u.onPond port pos = true → fieldAt f.body 1 1 = port → exec (.hello port f) s = .next (u.modPort port (fun p =>
      { p with present := insertNat comb p.present, heardUs := p.heardUs.put (fun _ => 0) comb u.nowUs })))) ∧
  (∀ (port comb : Nat) (s : State), ∃ t, exec (.memberExpiry port comb) s = .next t ∧
    ((s.port port).heardUs.get (fun _ => 0) comb + 10000 < s.nowUs → comb ∉ (t.port port).present) ∧
    (s.nowUs ≤ (s.port port).heardUs.get (fun _ => 0) comb + 10000 → (t.port port).present = (s.port port).present) ∧
    (∀ k, k ≠ comb → (k ∈ (t.port port).present ↔ k ∈ (s.port port).present)) ∧ ∀ q, q ≠ port → t.port q = s.port q) ∧
  (∀ (port : Nat) (s u : State) (f : CtlFrame), port < portsN → (s.port port).state = .up → (s.port port).leader = true →
    (s.port port).beaconUs + 64 ≤ s.nowUs → s.finalFrame port (s.pondFrame 0 port (leBytes 1 (s.ownComb port))) = some (u, f) →
    exec (.beaconSend port) s = .next ((u.portCount port cFramesTx 1).modPort port (fun p =>
      { p with txLast := some f, synced := true, beaconUs := u.nowUs }))) ∧
  (∀ (port : Nat) (f : CtlFrame) (s u : State), s.hear port 0 f = (u, true) →
    ((u.port port).leader = false → exec (.beacon port f) s = .next (u.modPort port (fun p =>
      { p with synced := true, beaconUs := s.nowUs, leaderComb := fieldAt f.body 0 1 % 16 }))) ∧
    ((u.port port).leader = true → exec (.beacon port f) s = .next u)) ∧
  (∀ (port : Nat) (s : State), port < portsN → (s.port port).state = .up → (s.port port).leader = false →
    ((s.port port).beaconUs + 256 + s.ownComb port * 64 ≤ s.nowUs → exec (.leaderTimeout port) s =
      .next ((s.modPort port (fun p => { p with leader := true, leaderComb := s.ownComb port })).portEvent port 0x5005 none 0
        (p4 port ++ p4 (s.ownComb port)))) ∧
    (s.nowUs < (s.port port).beaconUs + 256 + s.ownComb port * 64 → exec (.leaderTimeout port) s = .next s))

/-- Pours at their sender (R378 to R381, R384) and receive windows (R385). -/
def Obligations.PoursAtTheSender : Prop :=
  (∀ (id : Nat) (s : State) (c : Cmd), s.ready id 0x600 = some c →
    (s.pourCheck c = 0 → exec (.fabPour id) s = .next (((s.setPhase id .queued).statusWord id (s.pourOf c).statusAddr 1 0 Result.zero).enqueuePour
      (s.pourPort (s.pourOf c).auto (c.p 22 1 % 16) (s.pourOf c).destPos) (s.pourOf c))) ∧
    (s.pourCheck c ≠ 0 → exec (.fabPour id) s = .next (s.refuse id (s.pourCheck c)))) ∧
  (∀ (id : Nat) (s : State) (c : Cmd), s.ready id 0x602 = some c →
    (bitAt (c.p 0 1) 4 = false → exec (.fabWindow id) s = .next ((s.setWindow c.saggar (c.p 0 1 % 16) Window.closed).finish id 0 Result.zero)) ∧
    (bitAt (c.p 0 1) 4 = true → 0 < c.p 16 4 → c.addr 8 % 64 = 0 → c.p 16 4 % 64 = 0 → s.reach (s.engineAuth c.saggar) true (c.addr 8) (c.p 16 4) = 0 →
      (s.ring (c.p 22 2 % 16384)).role = .completion → (s.ring (c.p 22 2 % 16384)).saggar = c.saggar →
      exec (.fabWindow id) s = .next ((s.setWindow c.saggar (c.p 0 1 % 16) (Window.mk true (c.addr 8) (c.p 16 4) (c.p 20 1)
        (bitAt (c.p 21 1) 0) (c.p 22 2 % 16384))).finish id 0 Result.zero)) ∧
    (bitAt (c.p 0 1) 4 = true → c.p 16 4 = 0 → c.addr 8 % 64 = 0 → exec (.fabWindow id) s = .next (s.refuse id 0x0102))) ∧
  (∀ (port g t : Nat) (s u : State) (x : Pour), port < portsN → (s.port port).state = .up → (s.port port).current = none →
    s.nextPourOf port = some (x, g, t) → u = s.modPort port (fun p => { p with
      queue := p.queue.erase x, lastSaggar := g, turn := t, nextPour := if 65535 ≤ p.nextPour then 1 else p.nextPour + 1 }) →
    (x.cmd = none → exec (.pourStart port) s = .next (u.sendReserve port { x with pourId := (s.port port).nextPour })) ∧
    (∀ id, x.cmd = some id → exec (.pourStart port) s = .next (((u.setPhase id .running).statusWord id x.statusAddr 2 0 Result.zero).sendReserve port
      { x with pourId := (s.port port).nextPour }))) ∧
  (∀ (port : Nat) (f : CtlFrame) (s u : State) (x : Pour), u.namedPour port f = some x →
    (s.hear port 3 f = (u, true) → x.stage = .reserved → exec (.accept port f) s = .next (u.modPour port (fun x =>
      { x with stage := .accepted, sinceUs := s.nowUs + (fieldAt f.body 0 8 % 64 + 64 - s.slotNo port) % 64 }))) ∧
    (s.hear port 4 f = (u, true) → fieldAt f.body 0 2 = 0x06B1 → x.stage = .reserved → x.busyRetries < 100 → ∃ y, exec (.refuse port f) s =
        .next (u.modPort port (fun p => { p with current := some y })) ∧
      y = { x with stage := .backoff, busyRetries := x.busyRetries + 1, sinceUs := u.nowUs }) ∧
    (s.hear port 4 f = (u, true) → fieldAt f.body 0 2 ≠ 0x06B1 → fieldAt f.body 0 2 ≠ 0x05B1 →
      exec (.refuse port f) s = .next (u.endCurrent port (fieldAt f.body 0 2) true Report.none)) ∧
    (s.hear port 5 f = (u, true) → x.stage = .sent → exec (.done port f) s = .next (u.takeDone port x (doneReport f.body))) ∧
    (s.hear port 8 f = (u, true) → exec (.abort port f) s = .next (u.endCurrent port (fieldAt f.body 0 2) false Report.none))) ∧
  (∀ (port : Nat) (f : CtlFrame) (s u : State) (x : Pour), s.hear port 7 f = (u, true) →
    (u.port port).awaiting.find? (fun x => x.pourId == f.pourId && s.hopEnd x.destPos == f.srcPos) = some x → exec (.relayed port f) s =
    .next ((u.modPort port (fun p => 
      { p with awaiting := removeFirst (fun x => x.pourId == f.pourId && s.hopEnd x.destPos == f.srcPos) p.awaiting })).endPour port { x with bytes := (relayedReport f.body).2.bytes } (relayedReport f.body).1 false (relayedReport f.body).2)) ∧
  (∀ (port : Nat) (s : State) (x : Pour), (s.port port).current = some x →
    (x.stage = .accepted → x.sinceUs ≤ s.nowUs → exec (.pourSegmentsStart port) s = .next (s.sendSegments port x (List.range (segsOf x.length)))) ∧
    (x.stage = .reserved → s.frameWaits port 2 = false → x.sinceUs + 200 ≤ s.nowUs →
      (x.sends < 8 → exec (.reserveTimeout port) s = .next (s.sendReserve port x)) ∧
      (8 ≤ x.sends → exec (.reserveTimeout port) s = .next (s.endCurrent port 0x06B2 true Report.none))) ∧
    (x.stage = .backoff → x.sinceUs + 50 ≤ s.nowUs → exec (.reserveRetry port) s = .next (s.sendReserve port { x with sends := 0 })) ∧
    (x.stage = .sent → s.frameWaits port 6 = false → x.sinceUs + 50 ≤ s.nowUs →
      (x.queries < 3 → exec (.doneTimeout port) s = .next ((s.modPour port (fun x => { x with queries := x.queries + 1, sinceUs := s.nowUs })).queueFrame
        port (s.pairFrame 6 (s.pourHop x) port x.saggar x.peer x.pourId []))) ∧
      (3 ≤ x.queries → exec (.doneTimeout port) s = .next (s.endCurrent port 0x05B1 true Report.none)))) ∧
  (∀ (port n : Nat) (s : State) (x : Pour), (s.port port).awaiting.find? (fun x => x.pourId == n && decide (x.sinceUs + 10000 ≤ s.nowUs)) = some x →
    exec (.relayedTimeout port n) s = .next ((s.modPort port (fun p =>
      { p with awaiting := removeFirst (fun x => x.pourId == n && decide (x.sinceUs + 10000 ≤ s.nowUs)) p.awaiting })).endPour port x 0x05B1 true Report.none))

/-- Pours at their receiver (R381, R383, R384, R387), also at a relay (R393) and at a quiescence point (R398). -/
def Obligations.PoursAtTheReceiver : Prop :=
  (∀ (port : Nat) (f : CtlFrame) (s u : State), s.hear port 2 f = (u, true) →
    (∀ x ∈ (u.port port).resvs, ¬(x.hopPos = f.srcPos ∧ x.pourId = f.pourId)) → (u.port port).recv = none →
    ((u.port port).resvs.length < 64 → (fieldAt f.body 16 1 ≠ u.pkg.posValue ∨ (u.saggar f.dstSaggar).quiescing = 0) →
      exec (.reserve port f) s = .next (u.modPort port (fun p => { p with resvs := p.resvs ++ [State.resvOf f] }))) ∧
    ((64 ≤ (u.port port).resvs.length ∨ (fieldAt f.body 16 1 = u.pkg.posValue ∧ (u.saggar f.dstSaggar).quiescing ≠ 0)) →
      exec (.reserve port f) s = .next (u.refuseResv port (State.resvOf f) 0x06B1))) ∧
  (∀ (port : Nat) (f : CtlFrame) (s u : State) (x : Resv), s.hear port 2 f = (u, true) → x ∈ (u.port port).resvs → x.hopPos = f.srcPos →
    x.pourId = f.pourId → exec (.reserve port f) s = .next u) ∧
  (∀ (port g t : Nat) (s u : State) (r : Resv), port < portsN → (s.port port).state = .up → (s.port port).recv = none →
    s.nextResv port = some (r, g, t) → u = s.modPort port (fun p => { p with resvs := p.resvs.erase r, lastResvSaggar := g, resvTurn := t }) →
    (u.resvCheck port r = 0 → exec (.reservationTake port) s = .next (u.takeResv port r)) ∧
    (u.resvCheck port r ≠ 0 → exec (.reservationTake port) s = .next (u.refuseResv port r (u.resvCheck port r)))) ∧
  (∀ (port : Nat) (f : DataFrame) (s u : State) (r v : Recv), (s.port port).recv = some r → v = { r with started := true, sinceUs := s.nowUs } →
    u = (s.modPort port (fun p => { p with recv := some v })).checkFrame port v f →
    ((s.port port).state = .up → s.ofHop r f = true → f.segment = r.lastSeg → f.frame + 1 = segFrames r.resv.length r.lastSeg →
      exec (.dataFrameReceive port f) s = .next (u.sendDone port)) ∧
    ((s.port port).state = .up → s.ofHop r f = true → f.segment ≠ r.lastSeg → exec (.dataFrameReceive port f) s = .next u) ∧
    (s.ofHop r f = false → exec (.dataFrameReceive port f) s = .next s)) ∧
  (∀ (port : Nat) (s : State) (r : Recv), (s.port port).recv = some r →
    (r.timed = true → r.started = false → r.sinceUs + 20 ≤ s.nowUs → exec (.firstSegmentTimeout port) s = .next (s.dropRecv port)) ∧
    (r.timed = true → r.sinceUs + 200 ≤ s.nowUs → exec (.firstSegmentTimeout port) s = .next (s.dropRecv port)) ∧
    (r.timed = false → exec (.firstSegmentTimeout port) s = .next s)) ∧
  (∀ (port : Nat) (f : CtlFrame) (s u : State) (r : Recv), s.hear port 6 f = (u, true) → (u.port port).recv = some r → r.resv.hopPos = f.srcPos →
    r.resv.pourId = f.pourId →
    (r.closing = true → exec (.query port f) s = .next u) ∧
    (r.closing = false → r.rounds = 0 → exec (.query port f) s = .next (u.sendDone port))) ∧
  (∀ (port pos n : Nat) (s : State), exec (.doneRetentionExpiry port pos n) s = .next (s.modPort port (fun p =>
    { p with kept := p.kept.filter (fun k => !(k.2.dstPos == pos && k.2.pourId == n && decide (k.1 + 1000 ≤ s.nowUs))) })))

/-- Frames that pass through (R397), packets between packages (R394 to R396), and lag notices and leases (R418, R420 to R422). -/
def Obligations.RemoteTraffic : Prop :=
  (∀ (port : Nat) (f : CtlFrame) (s : State), port < 16 → (s.port port).state = .up → f.crcOk = true → f.dstPos ≠ s.pkg.posValue → f.dstPos ≠ 0xFF →
    f.dstPos % 16 = s.pkg.posValue % 16 → s.onPond port f.srcPos = true →
    ∀ c ∈ [Instr.mesh port f, .session port f, .lag port f], exec c s = .next (s.queueFrame (16 + port) f)) ∧
  (∀ (port : Nat) (f : CtlFrame) (s u : State) (p : Packet), s.forwards port f = none → s.hear port 9 f = (u, true) → p = packetOf (f.body.take 64) [] →
    (p.isResponse = true → ∃ q, exec (.mesh port f) s = .next { u with outq := u.outq ++ [q] } ∧
      q = { p with src := opticalCode port 0, saggar := f.dstSaggar, remotePos := some f.srcPos }) ∧
    (p.isResponse = false → (u.takeRemote port f.srcPos f.dstSaggar p).2 = 0 →
      exec (.mesh port f) s = .next (u.takeRemote port f.srcPos f.dstSaggar p).1) ∧
    (p.isResponse = false → (u.takeRemote port f.srcPos f.dstSaggar p).2 ≠ 0 → exec (.mesh port f) s =
      .next ((u.takeRemote port f.srcPos f.dstSaggar p).1.answerRemote port f.srcPos f.dstSaggar
        (State.localResponse p (u.takeRemote port f.srcPos f.dstSaggar p).2)))) ∧
  (∀ (port : Nat) (f : CtlFrame) (s u : State), s.forwards port f = none → s.hear port 10 f = (u, true) → ∃ t, exec (.session port f) s = .next t ∧
    t.fab.peerSessions.get (fun _ => 0) (f.srcSaggar * 256 + f.srcPos) = fieldAt f.body 0 4 ∧
    (∀ n, n ≠ f.srcSaggar * 256 + f.srcPos → t.fab.peerSessions.get (fun _ => 0) n = u.fab.peerSessions.get (fun _ => 0) n) ∧
    t = { u with fab := { u.fab with peerSessions := t.fab.peerSessions } }) ∧
  (∀ (port : Nat) (f : CtlFrame) (s u v : State), s.forwards port f = none → s.hear port 11 f = (u, true) →
    ((fieldAt f.body 3 1 = 0 ∨ fieldAt f.body 3 1 ≠ u.power.powerGroup) →
      exec (.lag port f) s = .next (u.rillLag f.dstSaggar (fieldAt f.body 0 2) (fieldAt f.body 4 4))) ∧
    (fieldAt f.body 3 1 ≠ 0 → fieldAt f.body 3 1 = u.power.powerGroup → v = { u with power :=
        { u.power with lagSums := u.power.lagSums.put (fun _ => 0) f.srcPos (u.power.lagSums.get (fun _ => 0) f.srcPos + fieldAt f.body 8 2) } } →
      exec (.lag port f) s = .next (v.rillLag f.dstSaggar (fieldAt f.body 0 2) (fieldAt f.body 4 4)))) ∧
  (∀ (port w : Nat) (f : CtlFrame) (s u : State), s.hear port 12 f = (u, true) → w = min (fieldAt f.body 2 2)
      (min (u.power.lendMax - State.leaseSum u.power.borrowed)
        (ceilingW u.fw.variant - (u.power.pkgCap + State.leaseSum u.power.borrowed - State.leaseSum u.power.lent))) →
    (fieldAt f.body 1 1 = u.pkg.posValue → fieldAt f.body 0 1 ≠ 0 → fieldAt f.body 0 1 = u.power.powerGroup → 0 < w → ∃ x : Lease,
      exec (.lend port f) s = .next (({ u with power := { u.power with borrowed := u.power.borrowed ++ [x] } } : State).setCap.recordFw 0 0x6008 none 0
        (p4 f.srcPos ++ p4 w)) ∧ x.watts = w ∧ x.peer = f.srcPos ∧ x.sinceUs = u.nowUs ∧ x.running = true) ∧
    ((fieldAt f.body 1 1 ≠ u.pkg.posValue ∨ fieldAt f.body 0 1 = 0 ∨ fieldAt f.body 0 1 ≠ u.power.powerGroup ∨ w = 0) →
      exec (.lend port f) s = .next u)) ∧
  (∀ (k : Nat) (s u : State) (p : Packet), s.net[k]? = some p → 5184 ≤ p.dest → p.dest < 5248 → s.meshHead k p = true →
    u = { s with net := dropAt s.net k } →
    (p.isResponse = true → exec (.opticalAttachPacket k) s = .next (u.attachResponse (p.dest - 5184) p)) ∧
    (p.isResponse = false → exec (.opticalAttachPacket k) s = .next (u.attachRequest (p.dest - 5184) p))) ∧
  (∀ (a pos : Nat) (s u : State) (g : Gather), s.fab.gathers.find? (fun g => g.attach == a && g.destPos == pos && decide (g.sinceUs + 2 ≤ s.nowUs)) = some g →
    u = { s with fab := { s.fab with
      gathers := removeFirst (fun g => g.attach == a && g.destPos == pos && decide (g.sinceUs + 2 ≤ s.nowUs)) s.fab.gathers } } →
    exec (.cascadeGatherTimeout a pos) s = .next (u.gatherPour g))

/-- The position that the straps give, and the combs that its two indices select (R25, R370). -/
def Obligations.PositionFromStraps : Prop :=
  (∀ a b c d e f : Nat, strapValue [a, b, c, d, e, f] = a + 3 * b + 9 * c + 27 * d + 81 * e + 243 * f ∧
    (strapsValid [a, b, c, d, e, f] = true ↔ (a ≤ 2 ∧ b ≤ 2 ∧ c ≤ 2 ∧ d ≤ 2 ∧ e ≤ 2 ∧ f ≤ 2) ∧ a + 3 * b + 9 * c + 27 * d + 81 * e + 243 * f ≤ 255)) ∧
  (∀ (env : BringupEnv) (s : State) (l : List Nat), l = strapLevels env.strapOhms →
    (strapsValid l = true → (s.readStraps env).pkg.posValue = strapValue l ∧ (s.readStraps env).pkg.posValid = true) ∧
    (strapsValid l = false → (s.readStraps env).pkg.posValid = false) ∧ (s.readStraps env).pkg.strapLevels = l) ∧
  (∀ (port : Nat) (s : State), (port < 16 → s.ownComb port = s.pkg.posValue % 16) ∧ (16 ≤ port → s.pkg.posValue ≤ 255 → s.ownComb port = s.pkg.posValue / 16))

/-- When a bisque start and a refire run (R36, R482, R489, R491), and where they stop (R483). -/
def Obligations.BringupRuns : Prop :=
  (∀ (env : BringupEnv) (s : State),
    (s.pkg.poweredDown = true → s.pkg.inputOn = true → s.pkg.seqStopped = false → 40000 ≤ env.inputMv → exec (.bisqueStart env) s = .next (s.bisque env)) ∧
    (s.pkg.heldInReset = true → s.pkg.refPresent = true → exec (.bisqueStart env) s = .next (s.bisque env)) ∧
    (s.fw.bringup = some true → exec (.bisqueStart env) s = .next (s.bisque env)) ∧
    (s.pkg.poweredDown = false → s.pkg.heldInReset = false → s.fw.bringup ≠ some true → exec (.bisqueStart env) s = .next s) ∧
    (s.pkg.poweredDown = true → s.pkg.heldInReset = false → s.fw.bringup ≠ some true → env.inputMv < 40000 → exec (.bisqueStart env) s = .next s) ∧
    (s.fw.bringup = some false → s.up = true → exec (.refire env) s = .next (s.refireAll env)) ∧
    (s.fw.bringup ≠ some false ∨ s.up = false → exec (.refire env) s = .next s)) ∧
  (∀ (env : BringupEnv) (s : State),
    ((s.coldStart env).bootStep env env.failedControllers = none → s.bisque env = (s.coldStart env).stopBringup 2 1) ∧
    (∀ u v : State, (s.coldStart env).bootStep env env.failedControllers = some u → v = ((u.readStraps env).recalibrate env).testPhases env →
      (v.memoryLinks env = none → s.bisque env = v.stopBringup 8 2) ∧
      (∀ w, v.memoryLinks env = some w → s.bisque env = (w.applyRetirements env s.fw.carveoutNow).bisqueEnd env))) ∧
  (∀ (step cause : Nat) (s : State), (s.stopBringup step cause).fw.stopped = true)

/-- Every command of the table answers a next state, whatever the state: a failed check is a status, not a stop (R11, R334). -/
def Obligations.EveryCommandCompletes : Prop := ∀ (c : Instr) (s : State), ∃ t, exec c s = .next t

/-- A step removes the front of the queue and leaves the rest in order, whichever command runs. -/
def Obligations.StepTakesTheFront : Prop := ∀ s t : State, step s = .next t → t.pending = s.pending.tail

/-- Every step keeps memory in its canonical form: addresses strictly rising, no listed zero. -/
def Obligations.MemoryStaysCanonical : Prop := ∀ s t : State, Memory.wf s.mem → step s = .next t → Memory.wf t.mem

/-- Every step keeps the glazed record balanced: each change has its record and its counter (R501, R502). -/
def Obligations.GlazedRecordBalances : Prop := ∀ s t : State, s.glazedOk → step s = .next t → t.glazedOk

/-- Reset meets the invariants that every step keeps; the counters are those of Table 16-8. -/
def Obligations.ResetMeetsTheInvariants : Prop :=
  Memory.wf State.reset.mem ∧ State.reset.mem = [] ∧ State.reset.glazedOk ∧ State.reset.fw.history = [] ∧ State.reset.fw.leftVariant = 4 ∧
  State.reset.fw.leftIdentity = 8 ∧ State.reset.fw.leftOwner = 16 ∧ State.reset.pending = []

/-- The map of R197 with no channel retired: its formula, the key it takes, that it is a bijection between a granule and its
frames, and that keys never make two granules share storage. -/
def Obligations.HashedWindow : Prop :=
  (∀ (s : State) (g : Nat),
    ((s.owner g).assigned = true → (s.owner g).carveout = false → s.keyOf g = (s.saggar (s.owner g).saggar).hashKey.toNat) ∧
    ((s.owner g).assigned = false → s.keyOf g = 0)) ∧
  (∀ (s : State) (key g : Nat), s.retiredRuns = [] → g < 524288 →
    (∀ b, b < 0x200000 → s.hashLin key (g * 0x200000 + b) =
      linOf (b / 256 % 512 ^^^ mix (key ^^^ g) % 512)
        (g * 4096 + (b / 256 / 512 ^^^ mix (key ^^^ g) / 512 % 16) * 256 + b % 256)) ∧
    (∀ b b', b < 0x200000 → b' < 0x200000 → s.hashLin key (g * 0x200000 + b) = s.hashLin key (g * 0x200000 + b') → b = b') ∧
    (∀ n o, n < 512 → o < 4096 → ∃ b, b < 0x200000 ∧ s.hashLin key (g * 0x200000 + b) = linOf n (g * 4096 + o)) ∧
    (∀ key' g' b b', g' < 524288 → b < 0x200000 → b' < 0x200000 →
      s.hashLin key (g * 0x200000 + b) = s.hashLin key' (g' * 0x200000 + b') → g = g')) ∧
  (∀ n c, linOf n c = 0x010000000000 + n * 0x80000000 + c)

/-- Table 1-5, for a resistance in whole ohms; the readings are those that a bring-up takes. -/
def Obligations.StrapLevels : Prop :=
  (∀ r : Nat, (r ≤ 100 → strapLevel r = 0) ∧ (9000 ≤ r → r ≤ 11000 → strapLevel r = 1) ∧ (1000000 ≤ r → strapLevel r = 2) ∧
    (100 < r → (r < 9000 ∨ 11000 < r) → r < 1000000 → strapLevel r = 3)) ∧
  (∀ a b c d e f : Nat, strapLevels [a, b, c, d, e, f] =
    [strapLevel a, strapLevel b, strapLevel c, strapLevel d, strapLevel e, strapLevel f])

/-- The two windows of R195, and the site that an address of theirs names. -/
def Obligations.SiteWindows : Prop :=
  ∀ site o : Nat, site < 4608 →
    (o < 0x400000 → columnAddr site o = 0x020000000000 + site * 0x400000 + o ∧ winOf (columnAddr site o) = some (.column, columnEnd) ∧
      siteOfAddr (columnAddr site o) = site) ∧
    (o < 0x80000 → storeAddr site o = 0x030000000000 + site * 0x80000 + o ∧ winOf (storeAddr site o) = some (.store, storeEnd) ∧
      siteOfAddr (storeAddr site o) = site)

/-- The replacement rule of R472 on a store of `cap` entries kept in SEQ order. -/
def Obligations.CisternReplacement : Prop :=
  ∀ (cap : Nat) (l : List Entry) (e : Entry),
    (l.length < cap → storeEntry cap l e = some (l ++ [{ e with slot := freeSlot l }])) ∧
    (cap ≤ l.length → (∀ o ∈ l, e.severity < o.severity) → storeEntry cap l e = none) ∧
    (cap ≤ l.length → l.Pairwise (fun a b => a.seq < b.seq) → (∃ o ∈ l, o.severity ≤ e.severity) →
      ∃ o ∈ l, o.severity ≤ e.severity ∧ (∀ x ∈ l, x.severity ≤ e.severity → o.seq ≤ x.seq) ∧
        storeEntry cap l e = some (l.filter (fun x => x.seq != o.seq) ++ [{ e with slot := o.slot }]))

/-- The At bisque columns (R8), read through the control space of the state after reset. The variant -38 of a part as shipped is
the model's choice (log entry 28). -/
def Obligations.RegistersAfterReset : Prop :=
  (∀ p ∈ [(0x4, 0x41), (0x8, 0), (0x108, 0xFFFF003F), (0x110, 0x32D), (0x200, 0), (0x204, 0), (0x208, 0), (0x20C, 0), (0x4000000, 0),
      (0x4000010, 0), (0x4000014, 0), (0x4000020, 0), (0x4000024, 0), (0x4000028, 0), (0x400002C, 0), (0x4000030, 0), (0x4000034, 0),
      (0x4000038, 0), (0x3000000, 3800), (0x3000004, 0), (0x320000C, 0)],
    State.reset.regRead p.1 = some p.2) ∧
  (∀ n, n < 16384 →
    (State.reset.readRing n 0 = some (if n = 0 then 0x14001 else if n = 1 then 2 else 0)) ∧
    (State.reset.readRing n 4 = some (if n ≤ 1 then 256 else 0)) ∧
    (∀ o ∈ [0x10, 0x14, 0x18, 0x1C, 0x28], State.reset.readRing n o = some 0) ∧ State.reset.readRing n 0x20 = some 1 ∧
    State.reset.readRing n 0x24 = some 0x10000) ∧
  (∀ n, n < 1024 → (∀ o ∈ [0x0, 0x4, 0x10, 0x18, 0x20, 0x28, 0x2C], State.reset.readSluice n o = some 0) ∧ State.reset.readSluice n 8 = some 1) ∧
  (∀ n, n < 512 → (∀ o ∈ [0x0, 0x8, 0x10, 0x18, 0x1C], State.reset.readNb n o = some 0) ∧ State.reset.readNb n 4 = some 1 ∧
    State.reset.readNb n 0xC = some 65536) ∧
  (∀ i, i < 4608 → State.reset.readSite i 8 = some 1 ∧ State.reset.readSite i 0x10 = some 0x10000 ∧
    (∀ o ∈ [0x14, 0x18, 0x1C], State.reset.readSite i o = some 0x00FFFFFF) ∧ (∀ o ∈ [0x20, 0x24, 0x28, 0x2C], State.reset.readSite i o = some 0))
end

