-- ==== Sys2Proof/Laws/Tbl.lean ====
section
/-! SUPPORT. Sparse tables: what a read gives after a write, and that a write keeps the canonical form. -/
namespace Sys2Proof.Machine
open Sys2Proof

variable {α : Type}

theorem Tbl.get_drop_same (d : Nat → α) (t : Tbl α) (k : Nat) : Tbl.get d (t.drop k) k = d k := by
  induction t with
  | nil => rfl
  | cons p r ih =>
    obtain ⟨i, v⟩ := p
    by_cases h : i = k
    · simpa [Tbl.drop, h] using ih
    · simpa [Tbl.drop, Tbl.get, h] using ih

theorem Tbl.get_drop_ne (d : Nat → α) (t : Tbl α) (k j : Nat) (h : j ≠ k) : Tbl.get d (t.drop k) j = Tbl.get d t j := by
  induction t with
  | nil => rfl
  | cons p r ih =>
    obtain ⟨i, v⟩ := p
    by_cases hi : i = k
    · subst hi
      simpa [Tbl.drop, Tbl.get, Ne.symm h] using ih
    · simp only [Tbl.drop, List.filter_cons, bne_iff_ne, ne_eq, hi, not_false_eq_true, if_true, Tbl.get]
      split
      · rfl
      · exact ih

theorem Tbl.get_place_same (d : Nat → α) (t : Tbl α) (k : Nat) (v : α) (h : ∀ p ∈ t, p.1 ≠ k) : Tbl.get d (t.place k v) k = v := by
  induction t with
  | nil => simp [Tbl.place, Tbl.get]
  | cons p r ih =>
    obtain ⟨i, w⟩ := p
    have hi : i ≠ k := h (i, w) (by simp)
    by_cases hk : k < i
    · simp [Tbl.place, Tbl.get, hk]
    · simpa [Tbl.place, Tbl.get, hk, hi] using ih (fun p hp => h p (by simp [hp]))

theorem Tbl.get_place_ne (d : Nat → α) (t : Tbl α) (k j : Nat) (v : α) (h : j ≠ k) : Tbl.get d (t.place k v) j = Tbl.get d t j := by
  induction t with
  | nil => simp [Tbl.place, Tbl.get, Ne.symm h]
  | cons p r ih =>
    obtain ⟨i, w⟩ := p
    by_cases hk : k < i
    · simp [Tbl.place, Tbl.get, hk, Ne.symm h]
    · simp only [Tbl.place, hk, if_false, Tbl.get]
      split
      · rfl
      · exact ih

theorem Tbl.drop_ne (t : Tbl α) (k : Nat) : ∀ p ∈ t.drop k, p.1 ≠ k := by
  intro p hp
  simpa using (List.mem_filter.mp hp).2

theorem Tbl.get_put_same [DecidableEq α] (d : Nat → α) (t : Tbl α) (k : Nat) (v : α) : Tbl.get d (t.put d k v) k = v := by
  unfold Tbl.put
  split
  · rename_i h
    rw [Tbl.get_drop_same, h]
  · exact Tbl.get_place_same d _ k v (Tbl.drop_ne t k)

theorem Tbl.get_put_ne [DecidableEq α] (d : Nat → α) (t : Tbl α) (k : Nat) (v : α) (j : Nat) (h : j ≠ k) :
    Tbl.get d (t.put d k v) j = Tbl.get d t j := by
  unfold Tbl.put
  split
  · exact Tbl.get_drop_ne d t k j h
  · rw [Tbl.get_place_ne d _ k j v h, Tbl.get_drop_ne d t k j h]

theorem Tbl.drop_of_absent (t : Tbl α) (k : Nat) (h : ∀ p ∈ t, p.1 ≠ k) : t.drop k = t := by
  unfold Tbl.drop
  exact List.filter_eq_self.mpr (fun p hp => by simpa using h p hp)

theorem Tbl.drop_place_same (t : Tbl α) (k : Nat) (v : α) (h : ∀ p ∈ t, p.1 ≠ k) : (t.place k v).drop k = t := by
  induction t with
  | nil => simp [Tbl.place, Tbl.drop]
  | cons p r ih =>
    obtain ⟨i, w⟩ := p
    have hi : i ≠ k := h (i, w) (by simp)
    have hr : ∀ p ∈ r, p.1 ≠ k := fun p hp => h p (by simp [hp])
    by_cases hk : k < i
    · have := Tbl.drop_of_absent ((i, w) :: r) k h
      simpa [Tbl.place, hk, Tbl.drop] using this
    · simpa [Tbl.place, hk, Tbl.drop, hi] using ih hr

/-- Of two writes to one entry the later stands. -/
theorem Tbl.put_put_same [DecidableEq α] (d : Nat → α) (t : Tbl α) (k : Nat) (v w : α) : (t.put d k v).put d k w = t.put d k w := by
  have hd : (t.put d k v).drop k = t.drop k := by
    unfold Tbl.put
    split
    · exact Tbl.drop_of_absent _ k (Tbl.drop_ne t k)
    · exact Tbl.drop_place_same _ k v (Tbl.drop_ne t k)
  show (if _ then (t.put d k v).drop k else ((t.put d k v).drop k).place k w) = _
  rw [hd]
  rfl

/-! ### The canonical form -/

theorem Tbl.sorted_iff (t : Tbl α) : Tbl.sorted t = true ↔ t.Pairwise (fun p q => p.1 < q.1) := by
  induction t with
  | nil => simp [Tbl.sorted]
  | cons p r ih =>
    obtain ⟨i, v⟩ := p
    cases r with
    | nil => simp [Tbl.sorted]
    | cons q r =>
      obtain ⟨j, w⟩ := q
      rw [Tbl.sorted, Bool.and_eq_true, ih, decide_eq_true_eq, List.pairwise_cons (l := (j, w) :: r)]
      constructor
      · rintro ⟨h, hp⟩
        refine ⟨fun x hx => ?_, hp⟩
        rcases List.mem_cons.mp hx with rfl | hx
        · exact h
        · exact Nat.lt_trans h ((List.pairwise_cons.mp hp).1 x hx)
      · rintro ⟨h, hp⟩
        exact ⟨h (j, w) (by simp), hp⟩

theorem Tbl.wf_iff [DecidableEq α] (d : Nat → α) (t : Tbl α) :
    Tbl.wf d t = true ↔ t.Pairwise (fun p q => p.1 < q.1) ∧ ∀ p ∈ t, p.2 ≠ d p.1 := by
  simp only [Tbl.wf, Bool.and_eq_true, Tbl.sorted_iff, List.all_eq_true, decide_eq_true_eq]

theorem Tbl.wf_nil [DecidableEq α] (d : Nat → α) : Tbl.wf d ([] : Tbl α) = true := rfl

/-- Leaving entries out keeps the canonical form. -/
theorem Tbl.wf_filter [DecidableEq α] (d : Nat → α) (t : Tbl α) (p : Nat × α → Bool) (h : Tbl.wf d t = true) :
    Tbl.wf d (t.filter p) = true := by
  rw [Tbl.wf_iff] at *
  exact ⟨h.1.filter p, fun q hq => h.2 q (List.mem_filter.mp hq).1⟩

theorem Tbl.wf_drop [DecidableEq α] (d : Nat → α) (t : Tbl α) (k : Nat) (h : Tbl.wf d t = true) : Tbl.wf d (t.drop k) = true :=
  Tbl.wf_filter d t _ h

theorem Tbl.mem_place (t : Tbl α) (k : Nat) (v : α) (p : Nat × α) : p ∈ t.place k v ↔ p = (k, v) ∨ p ∈ t := by
  induction t with
  | nil => simp [Tbl.place]
  | cons q r ih =>
    obtain ⟨i, w⟩ := q
    by_cases hk : k < i
    · simp [Tbl.place, hk]
    · simp only [Tbl.place, hk, if_false, List.mem_cons, ih]
      exact or_left_comm

theorem Tbl.pairwise_place (t : Tbl α) (k : Nat) (v : α) (h : t.Pairwise (fun p q => p.1 < q.1)) (hk : ∀ p ∈ t, p.1 ≠ k) :
    (t.place k v).Pairwise (fun p q => p.1 < q.1) := by
  induction t with
  | nil => simp [Tbl.place]
  | cons q r ih =>
    obtain ⟨i, w⟩ := q
    have hr := List.pairwise_cons.mp h
    by_cases hlt : k < i
    · simp only [Tbl.place, hlt, if_true, List.pairwise_cons (l := (i, w) :: r)]
      refine ⟨fun p hp => ?_, h⟩
      rcases List.mem_cons.mp hp with rfl | hp
      · exact hlt
      · exact Nat.lt_trans hlt (hr.1 p hp)
    · have hi : i ≠ k := hk (i, w) (by simp)
      simp only [Tbl.place, hlt, if_false, List.pairwise_cons]
      refine ⟨fun p hp => ?_, ih hr.2 (fun p hp => hk p (by simp [hp]))⟩
      rcases (Tbl.mem_place r k v p).mp hp with rfl | hp
      · show i < k
        omega
      · exact hr.1 p hp

/-- A write keeps the canonical form. -/
theorem Tbl.wf_put [DecidableEq α] (d : Nat → α) (t : Tbl α) (k : Nat) (v : α) (h : Tbl.wf d t = true) :
    Tbl.wf d (t.put d k v) = true := by
  unfold Tbl.put
  split
  · exact Tbl.wf_drop d t k h
  · rename_i hv
    have h' := (Tbl.wf_iff d _).mp (Tbl.wf_drop d t k h)
    rw [Tbl.wf_iff]
    refine ⟨Tbl.pairwise_place _ k v h'.1 (Tbl.drop_ne t k), fun p hp => ?_⟩
    rcases (Tbl.mem_place _ k v p).mp hp with rfl | hp
    · exact hv
    · exact h'.2 p hp

end Sys2Proof.Machine
end

