-- ==== Sys2Proof/Laws/Keeps.lean ====
section
/-! SUPPORT. What every operation keeps: the queue of waiting commands, the canonical form of memory, and the glazed record. -/
namespace Sys2Proof.Machine
set_option linter.all false
open Sys2Proof

namespace State

/-- The part of the state that only a passed GLAZE_SET changes: the glazed record and its counters, and the re-keys made. -/
def glazed (s : State) : List (List Byte) × Nat × Nat × Nat × Nat :=
  (s.fw.history, s.fw.leftVariant, s.fw.leftIdentity, s.fw.leftOwner, s.sec.rekeys)

/-- `t` comes from `s` with the queue and the glazed record as they were, and memory in canonical form if it was. -/
structure Keeps (s t : State) : Prop where
  pending : t.pending = s.pending
  mem : Memory.wf s.mem → Memory.wf t.mem
  glazed : t.glazed = s.glazed

variable {s0 s t : State}

theorem Keeps.refl (s : State) : s.Keeps s := ⟨rfl, id, rfl⟩

/-- A change of fields that `Keeps` does not read. -/
theorem Keeps.set (h : s0.Keeps s) (hp : t.pending = s.pending) (hm : t.mem = s.mem) (hg : t.glazed = s.glazed) : s0.Keeps t :=
  ⟨hp.trans h.pending, fun w => hm ▸ h.mem w, hg.trans h.glazed⟩

theorem Keeps.step {x : State} {P : Prop} (h : s0.Keeps x) (f : s0.Keeps x → P) : P := f h

theorem Keeps.foldl {α : Type} {f : State → α → State} {l : List α} (h : s0.Keeps s) (hf : ∀ t a, s0.Keeps t → s0.Keeps (f t a)) :
    s0.Keeps (l.foldl f s) := by
  induction l generalizing s with
  | nil => exact h
  | cons a r ih => exact ih (hf s a h)

theorem Keeps.foldl1 {α β : Type} {f : State × β → α → State × β} {l : List α} {p : State × β} (h : s0.Keeps p.1)
    (hf : ∀ (t : State × β) a, s0.Keeps t.1 → s0.Keeps (f t a).1) : s0.Keeps (l.foldl f p).1 := by
  induction l generalizing p with
  | nil => exact h
  | cons a r ih => exact ih (hf p a h)

theorem Keeps.of_fst {β : Type} {p : State × β} {u : State} {x : β} (e : p = (u, x)) (h : s0.Keeps p.1) : s0.Keeps u := by
  subst e; exact h

/-- Every next state keeps. -/
structure OutKeeps (s0 : State) (o : Out) : Prop where
  all : ∀ t, o = .next t → s0.Keeps t
theorem OutKeeps.next (h : s0.Keeps s) : s0.OutKeeps (.next s) := by
  refine ⟨fun t ht => ?_⟩; injection ht with ht; exact ht ▸ h

structure OptKeeps (s0 : State) (o : Option State) : Prop where
  all : ∀ t, o = Option.some t → s0.Keeps t
theorem OptKeeps.some (h : s0.Keeps s) : s0.OptKeeps (some s) := by
  refine ⟨fun t ht => ?_⟩; injection ht with ht; exact ht ▸ h
theorem OptKeeps.none : s0.OptKeeps none := ⟨fun t ht => nomatch ht⟩
theorem OptKeeps.get {o : Option State} (e : o = Option.some t) (h : s0.OptKeeps o) : s0.Keeps t := h.all t e

theorem OptKeeps.step {x : Option State} {P : Prop} (h : s0.OptKeeps x) (f : s0.OptKeeps x → P) : P := f h

structure OptKeeps1 {β : Type} (s0 : State) (o : Option (State × β)) : Prop where
  all : ∀ t, o = Option.some t → s0.Keeps t.1
theorem OptKeeps1.some {β : Type} {p : State × β} (h : s0.Keeps p.1) : s0.OptKeeps1 (some p) := by
  refine ⟨fun t ht => ?_⟩; injection ht with ht; exact ht ▸ h
theorem OptKeeps1.none {β : Type} : s0.OptKeeps1 (none : Option (State × β)) := ⟨fun t ht => nomatch ht⟩
theorem OptKeeps1.get {β : Type} {o : Option (State × β)} {x : β} (e : o = Option.some (t, x)) (h : s0.OptKeeps1 o) : s0.Keeps t := h.all _ e

theorem OptKeeps1.step {β : Type} {x : Option (State × β)} {P : Prop} (h : s0.OptKeeps1 x) (f : s0.OptKeeps1 x → P) : P := f h

/-- Every state that an instruction's effect holds. -/
inductive EffKeeps (s0 : State) : Eff → Prop
  | done {s : State} {b : Bool} (h : s0.Keeps s) : EffKeeps s0 (.done s b)
  | trap {s : State} {a b c : Nat} (h : s0.Keeps s) : EffKeeps s0 (.trap s a b c)
  | far {s : State} {l : List (Nat × Nat)} (h : s0.Keeps s) : EffKeeps s0 (.far s l)
  | wait : EffKeeps s0 .wait

theorem EffKeeps.get {e : Eff} {b : Bool} (q : e = .done s b) (h : s0.EffKeeps e) : s0.Keeps s := by
  subst q; cases h; assumption
theorem EffKeeps.step {x : Eff} {P : Prop} (h : s0.EffKeeps x) (f : s0.EffKeeps x → P) : P := f h

theorem Keeps.ite {c : Prop} [Decidable c] {a b : State} (ha : s0.Keeps a) (hb : s0.Keeps b) : s0.Keeps (if c then a else b) := by
  split <;> assumption
theorem OutKeeps.ite {c : Prop} [Decidable c] {a b : Out} (ha : s0.OutKeeps a) (hb : s0.OutKeeps b) : s0.OutKeeps (if c then a else b) := by
  split <;> assumption
theorem OptKeeps.ite {c : Prop} [Decidable c] {a b : Option State} (ha : s0.OptKeeps a) (hb : s0.OptKeeps b) : s0.OptKeeps (if c then a else b) := by
  split <;> assumption
theorem EffKeeps.ite {c : Prop} [Decidable c] {a b : Eff} (ha : s0.EffKeeps a) (hb : s0.EffKeeps b) : s0.EffKeeps (if c then a else b) := by
  split <;> assumption
theorem OptKeeps1.ite {β : Type} {c : Prop} [Decidable c] {a b : Option (State × β)} (ha : s0.OptKeeps1 a) (hb : s0.OptKeeps1 b) : s0.OptKeeps1 (if c then a else b) := by
  split <;> assumption

theorem Keeps.foldlMove {α : Type} {f : Move → α → Move} {l : List α} {p : Move} (h : s0.Keeps p.s)
    (hf : ∀ t a, s0.Keeps t.s → s0.Keeps (f t a).s) : s0.Keeps (l.foldl f p).s := by
  induction l generalizing p with
  | nil => exact h
  | cons a r ih => exact ih (hf p a h)
theorem Keeps.foldlMove1 {α β : Type} {f : Move × β → α → Move × β} {l : List α} {p : Move × β} (h : s0.Keeps p.1.s)
    (hf : ∀ (t : Move × β) a, s0.Keeps t.1.s → s0.Keeps (f t a).1.s) : s0.Keeps (l.foldl f p).1.s := by
  induction l generalizing p with
  | nil => exact h
  | cons a r ih => exact ih (hf p a h)
theorem Keeps.foldlNbx {α : Type} {f : Nbx → α → Nbx} {l : List α} {p : Nbx} (h : s0.Keeps p.s)
    (hf : ∀ t a, s0.Keeps t.s → s0.Keeps (f t a).s) : s0.Keeps (l.foldl f p).s := by
  induction l generalizing p with
  | nil => exact h
  | cons a r ih => exact ih (hf p a h)
theorem Keeps.foldlNbx1 {α β : Type} {f : Nbx × β → α → Nbx × β} {l : List α} {p : Nbx × β} (h : s0.Keeps p.1.s)
    (hf : ∀ (t : Nbx × β) a, s0.Keeps t.1.s → s0.Keeps (f t a).1.s) : s0.Keeps (l.foldl f p).1.s := by
  induction l generalizing p with
  | nil => exact h
  | cons a r ih => exact ih (hf p a h)
theorem Keeps.foldlSlx {α : Type} {f : Slx → α → Slx} {l : List α} {p : Slx} (h : s0.Keeps p.s)
    (hf : ∀ t a, s0.Keeps t.s → s0.Keeps (f t a).s) : s0.Keeps (l.foldl f p).s := by
  induction l generalizing p with
  | nil => exact h
  | cons a r ih => exact ih (hf p a h)
theorem Keeps.foldlSlx1 {α β : Type} {f : Slx × β → α → Slx × β} {l : List α} {p : Slx × β} (h : s0.Keeps p.1.s)
    (hf : ∀ (t : Slx × β) a, s0.Keeps t.1.s → s0.Keeps (f t a).1.s) : s0.Keeps (l.foldl f p).1.s := by
  induction l generalizing p with
  | nil => exact h
  | cons a r ih => exact ih (hf p a h)
theorem OptKeeps.getD {o : Option State} (h : s0.OptKeeps o) (hs : s0.Keeps s) : s0.Keeps (o.getD s) := by
  cases o with
  | none => exact hs
  | some t => exact h.all t rfl
theorem OptKeeps.map {α : Type} {o : Option α} {f : α → State} (h : ∀ a, s0.Keeps (f a)) : s0.OptKeeps (o.map f) := by
  cases o with
  | none => exact .none
  | some a => exact .some (h a)
theorem OptKeeps.mapS {o : Option State} {f : State → State} (h : s0.OptKeeps o) (hf : ∀ a, s0.Keeps a → s0.Keeps (f a)) : s0.OptKeeps (o.map f) := by
  cases o with
  | none => exact .none
  | some a => exact .some (hf a (h.all a rfl))
theorem OptKeeps.bind {o : Option State} {f : State → Option State} (h : s0.OptKeeps o) (hf : ∀ a, s0.Keeps a → s0.OptKeeps (f a)) : s0.OptKeeps (o.bind f) := by
  cases o with
  | none => exact .none
  | some a => exact hf a (h.all a rfl)
theorem OptKeeps.foldl {α : Type} {f : Option State → α → Option State} {l : List α} {o : Option State} (h : s0.OptKeeps o)
    (hf : ∀ t a, s0.OptKeeps t → s0.OptKeeps (f t a)) : s0.OptKeeps (l.foldl f o) := by
  induction l generalizing o with
  | nil => exact h
  | cons a r ih => exact ih (hf o a h)

/-- A state with the firmware record of an earlier one. -/
theorem Keeps.mix {x : State} (h : s0.Keeps s) (h1 : s0.Keeps x) (hp : t.pending = x.pending) (hm : t.mem = x.mem)
    (hh : t.fw.history = s.fw.history) (hv : t.fw.leftVariant = s.fw.leftVariant) (hi : t.fw.leftIdentity = s.fw.leftIdentity)
    (ho : t.fw.leftOwner = s.fw.leftOwner) (hr : t.sec.rekeys = x.sec.rekeys) : s0.Keeps t := by
  refine ⟨hp.trans h1.pending, fun w => hm ▸ h1.mem w, ?_⟩
  have a := h.glazed
  have b := h1.glazed
  simp only [State.glazed, Prod.mk.injEq] at a b ⊢
  exact ⟨hh.trans a.1, hv.trans a.2.1, hi.trans a.2.2.1, ho.trans a.2.2.2.1, hr.trans b.2.2.2.2⟩

/-- A state written out from another's queue and memory. -/
theorem Keeps.mk' {x_nowUs : Nat} {x_free : Nat} {x_pkg : Pkg} {x_sites : Tbl Site} {x_cores : Tbl Core} {x_clusters :
    Tbl Cluster} {x_outq : List Packet} {x_net : List Packet} {x_remaps : List Remap} {x_rill : List RillMsg} {x_heard : Tbl
    (BitVec 32)} {x_bcasts : List Bcast} {x_poison : List Nat} {x_latentCe : List Nat} {x_latentUe : List Nat} {x_stale x_unseen x_unsent :
    List (Nat × Byte)} {x_owners : Tbl Owner} {x_filling : List Nat} {x_sluices : Tbl Sluice} {x_nbs : Tbl Nb} {x_kvs : List
    (Nat × List Nat × Bool)} {x_gatesSeen : List (Nat × Nat)} {x_rings : Tbl Ring} {x_cmds : List Cmd} {x_compls : List
    Compl} {x_txns : List Txn} {x_commits : List Commit} {x_changed : List (Nat × Nat × Nat × Nat)} {x_saggars : Tbl Saggar}
    {x_jobs : List Job} {x_launches : List Launch} {x_host : HostIf} {x_ports : Tbl Port} {x_fab : Fab} {x_power : Power}
    {x_domains : Tbl Domain} {x_thermal : Thermal} {x_rel : Rel} {x_fw : Fw} {x_sec : Sec}
    (h : s0.Keeps s) (hh : x_fw.history = s.fw.history) (hv : x_fw.leftVariant = s.fw.leftVariant) (hi : x_fw.leftIdentity = s.fw.leftIdentity)
    (ho : x_fw.leftOwner = s.fw.leftOwner) (hr : x_sec.rekeys = s.sec.rekeys) :
    s0.Keeps ⟨s.pending, x_nowUs, x_free, x_pkg, x_sites, x_cores, x_clusters, x_outq, x_net, x_remaps, x_rill, x_heard, x_bcasts, s.mem, x_poison, x_latentCe, x_latentUe, x_stale, x_unseen, x_unsent, x_owners, x_filling, x_sluices, x_nbs, x_kvs, x_gatesSeen, x_rings, x_cmds, x_compls, x_txns, x_commits, x_changed, x_saggars, x_jobs, x_launches, x_host, x_ports, x_fab, x_power, x_domains, x_thermal, x_rel, x_fw, x_sec⟩ :=
  h.set rfl rfl (by simp only [State.glazed, hh, hv, hi, ho, hr])

end State
end Sys2Proof.Machine
end

