-- ==== Sys2Proof/Laws/KeepsShared.lean ====
section
/-! SUPPORT. What the shared operations on registers, the cistern, memory, waiting commands and resets keep: one lemma for each operation, `f_keeps`, says that `f` leaves the queue of waiting commands, the
canonical form of memory and the glazed record as they were. -/
namespace Sys2Proof.Machine
set_option linter.all false
open Sys2Proof State

/-! ### Ops -/

theorem State.setSite_keeps {s0 : State} (s : State) (i : Nat) (v : Site) (h : s0.Keeps s) :
    s0.Keeps (State.setSite s i v) := by
  unfold State.setSite
  with_reducible repeat' first
    | exact State.Keeps.mk' (by assumption) rfl rfl rfl rfl rfl

theorem State.modSite_keeps {s0 : State} (s : State) (i : Nat) (f : Site → Site) (h : s0.Keeps s) :
    s0.Keeps (State.modSite s i f) := by
  unfold State.modSite
  with_reducible repeat' first
    | assumption | apply State.setSite_keeps

theorem State.setCore_keeps {s0 : State} (s : State) (i : Nat) (v : Core) (h : s0.Keeps s) :
    s0.Keeps (State.setCore s i v) := by
  unfold State.setCore
  with_reducible repeat' first
    | exact State.Keeps.mk' (by assumption) rfl rfl rfl rfl rfl

theorem State.modCore_keeps {s0 : State} (s : State) (i : Nat) (f : Core → Core) (h : s0.Keeps s) :
    s0.Keeps (State.modCore s i f) := by
  unfold State.modCore
  with_reducible repeat' first
    | assumption | apply State.setCore_keeps

theorem State.setCluster_keeps {s0 : State} (s : State) (i : Nat) (v : Cluster) (h : s0.Keeps s) :
    s0.Keeps (State.setCluster s i v) := by
  unfold State.setCluster
  with_reducible repeat' first
    | exact State.Keeps.mk' (by assumption) rfl rfl rfl rfl rfl

theorem State.modCluster_keeps {s0 : State} (s : State) (i : Nat) (f : Cluster → Cluster) (h : s0.Keeps s) :
    s0.Keeps (State.modCluster s i f) := by
  unfold State.modCluster
  with_reducible repeat' first
    | assumption | apply State.setCluster_keeps

theorem State.setOwner_keeps {s0 : State} (s : State) (g : Nat) (v : Owner) (h : s0.Keeps s) :
    s0.Keeps (State.setOwner s g v) := by
  unfold State.setOwner
  with_reducible repeat' first
    | exact State.Keeps.mk' (by assumption) rfl rfl rfl rfl rfl

theorem State.setSluice_keeps {s0 : State} (s : State) (i : Nat) (v : Sluice) (h : s0.Keeps s) :
    s0.Keeps (State.setSluice s i v) := by
  unfold State.setSluice
  with_reducible repeat' first
    | exact State.Keeps.mk' (by assumption) rfl rfl rfl rfl rfl

theorem State.modSluice_keeps {s0 : State} (s : State) (i : Nat) (f : Sluice → Sluice) (h : s0.Keeps s) :
    s0.Keeps (State.modSluice s i f) := by
  unfold State.modSluice
  with_reducible repeat' first
    | assumption | apply State.setSluice_keeps

theorem State.setNb_keeps {s0 : State} (s : State) (i : Nat) (v : Nb) (h : s0.Keeps s) :
    s0.Keeps (State.setNb s i v) := by
  unfold State.setNb
  with_reducible repeat' first
    | exact State.Keeps.mk' (by assumption) rfl rfl rfl rfl rfl

theorem State.modNb_keeps {s0 : State} (s : State) (i : Nat) (f : Nb → Nb) (h : s0.Keeps s) :
    s0.Keeps (State.modNb s i f) := by
  unfold State.modNb
  with_reducible repeat' first
    | assumption | apply State.setNb_keeps

theorem State.setRing_keeps {s0 : State} (s : State) (i : Nat) (v : Ring) (h : s0.Keeps s) :
    s0.Keeps (State.setRing s i v) := by
  unfold State.setRing
  with_reducible repeat' first
    | exact State.Keeps.mk' (by assumption) rfl rfl rfl rfl rfl

theorem State.modRing_keeps {s0 : State} (s : State) (i : Nat) (f : Ring → Ring) (h : s0.Keeps s) :
    s0.Keeps (State.modRing s i f) := by
  unfold State.modRing
  with_reducible repeat' first
    | assumption | apply State.setRing_keeps

theorem State.setSaggar_keeps {s0 : State} (s : State) (i : Nat) (v : Saggar) (h : s0.Keeps s) :
    s0.Keeps (State.setSaggar s i v) := by
  unfold State.setSaggar
  with_reducible repeat' first
    | exact State.Keeps.mk' (by assumption) rfl rfl rfl rfl rfl

theorem State.modSaggar_keeps {s0 : State} (s : State) (i : Nat) (f : Saggar → Saggar) (h : s0.Keeps s) :
    s0.Keeps (State.modSaggar s i f) := by
  unfold State.modSaggar
  with_reducible repeat' first
    | assumption | apply State.setSaggar_keeps

theorem State.setPort_keeps {s0 : State} (s : State) (i : Nat) (v : Port) (h : s0.Keeps s) :
    s0.Keeps (State.setPort s i v) := by
  unfold State.setPort
  with_reducible repeat' first
    | exact State.Keeps.mk' (by assumption) rfl rfl rfl rfl rfl

theorem State.modPort_keeps {s0 : State} (s : State) (i : Nat) (f : Port → Port) (h : s0.Keeps s) :
    s0.Keeps (State.modPort s i f) := by
  unfold State.modPort
  with_reducible repeat' first
    | assumption | apply State.setPort_keeps

theorem State.setDomain_keeps {s0 : State} (s : State) (i : Nat) (v : Domain) (h : s0.Keeps s) :
    s0.Keeps (State.setDomain s i v) := by
  unfold State.setDomain
  with_reducible repeat' first
    | exact State.Keeps.mk' (by assumption) rfl rfl rfl rfl rfl

theorem State.setRegion_keeps {s0 : State} (s : State) (i : Nat) (v : Region) (h : s0.Keeps s) :
    s0.Keeps (State.setRegion s i v) := by
  unfold State.setRegion
  with_reducible repeat' first
    | exact State.Keeps.mk' (by assumption) rfl rfl rfl rfl rfl

theorem State.modRegion_keeps {s0 : State} (s : State) (i : Nat) (f : Region → Region) (h : s0.Keeps s) :
    s0.Keeps (State.modRegion s i f) := by
  unfold State.modRegion
  with_reducible repeat' first
    | assumption | apply State.setRegion_keeps

theorem State.setWeir_keeps {s0 : State} (s : State) (c : Nat) (v : Weir) (h : s0.Keeps s) :
    s0.Keeps (State.setWeir s c v) := by
  unfold State.setWeir
  with_reducible repeat' first
    | exact State.Keeps.mk' (by assumption) rfl rfl rfl rfl rfl

theorem State.setGranState_keeps {s0 : State} (s : State) (g v : Nat) (h : s0.Keeps s) :
    s0.Keeps (State.setGranState s g v) := by
  unfold State.setGranState
  with_reducible repeat' first
    | exact State.Keeps.mk' (by assumption) rfl rfl rfl rfl rfl

theorem State.setSensor_keeps {s0 : State} (s : State) (i : Nat) (v : Sensor) (h : s0.Keeps s) :
    s0.Keeps (State.setSensor s i v) := by
  unfold State.setSensor
  with_reducible repeat' first
    | exact State.Keeps.mk' (by assumption) rfl rfl rfl rfl rfl

theorem State.setPoint_keeps {s0 : State} (s : State) (i : Nat) (v : Point) (h : s0.Keeps s) :
    s0.Keeps (State.setPoint s i v) := by
  unfold State.setPoint
  with_reducible repeat' first
    | exact State.Keeps.mk' (by assumption) rfl rfl rfl rfl rfl

theorem State.setBlock_keeps {s0 : State} (s : State) (i : Nat) (v : Block) (h : s0.Keeps s) :
    s0.Keeps (State.setBlock s i v) := by
  unfold State.setBlock
  with_reducible repeat' first
    | exact State.Keeps.mk' (by assumption) rfl rfl rfl rfl rfl

theorem State.setMc_keeps {s0 : State} (s : State) (i : Nat) (v : Mc) (h : s0.Keeps s) :
    s0.Keeps (State.setMc s i v) := by
  unfold State.setMc
  with_reducible repeat' first
    | exact State.Keeps.mk' (by assumption) rfl rfl rfl rfl rfl

theorem State.setRoleMc_keeps {s0 : State} (s : State) (r c : Nat) (h : s0.Keeps s) :
    s0.Keeps (State.setRoleMc s r c) := by
  unfold State.setRoleMc
  with_reducible repeat' first
    | exact State.Keeps.mk' (by assumption) rfl rfl rfl rfl rfl

theorem State.setWindow_keeps {s0 : State} (s : State) (sag w : Nat) (v : Window) (h : s0.Keeps s) :
    s0.Keeps (State.setWindow s sag w v) := by
  unfold State.setWindow
  with_reducible repeat' first
    | exact State.Keeps.mk' (by assumption) rfl rfl rfl rfl rfl

theorem State.draw_keeps {s0 : State} (s : State) (h : s0.Keeps s) :
    s0.Keeps (State.draw s) := by
  unfold State.draw
  with_reducible repeat' first
    | exact State.Keeps.mk' (by assumption) rfl rfl rfl rfl rfl

/-! ### Cistern -/

theorem State.raiseVector_keeps {s0 : State} (s : State) (v : Nat) (h : s0.Keeps s) :
    s0.Keeps (State.raiseVector s v) := by
  unfold State.raiseVector
  with_reducible repeat' first
    | assumption | exact State.Keeps.mk' (by assumption) rfl rfl rfl rfl rfl | apply State.Keeps.ite

theorem State.eventInterrupt_keeps {s0 : State} (s : State) (h : s0.Keeps s) :
    s0.Keeps (State.eventInterrupt s) := by
  unfold State.eventInterrupt
  with_reducible repeat' first
    | assumption | apply State.raiseVector_keeps | exact State.Keeps.mk' (by assumption) rfl rfl rfl rfl rfl
    | apply State.Keeps.ite

theorem State.arrive_keeps {s0 : State} (s : State) (e : Entry) (h : s0.Keeps s) :
    s0.Keeps (State.arrive s e) := by
  unfold State.arrive
  repeat' first
    | with_reducible assumption | with_reducible apply Nbx.put_keeps | with_reducible apply Nbx.get_keeps
    | with_reducible apply Move.put_keeps | with_reducible apply State.eventInterrupt_keeps
    | with_reducible exact State.Keeps.mk' (by assumption) rfl rfl rfl rfl rfl
    | (with_reducible refine State.Keeps.mk' ?_ rfl rfl rfl rfl rfl; first | with_reducible apply Nbx.put_keeps | with_reducible apply Nbx.get_keeps | with_reducible apply Move.put_keeps | with_reducible apply State.eventInterrupt_keeps)
    | ((try lift_lets); intro x; first | (refine State.Keeps.step (s0 := s0) (x := x) ?_ ?_ <;> first | (intro hx; clear_value x) | subst x) | (refine State.Keeps.step (s0 := s0) (x := x.1) ?_ ?_ <;> first | (intro hx; clear_value x) | subst x) | (refine State.Keeps.step (s0 := s0) (x := x.s) ?_ ?_ <;> first | (intro hx; clear_value x) | subst x) | (refine State.Keeps.step (s0 := s0) (x := x.1.s) ?_ ?_ <;> first | (intro hx; clear_value x) | subst x) | (refine State.Keeps.step (s0 := s0) (x := x.x.s) ?_ ?_ <;> first | (intro hx; clear_value x) | subst x) | (refine State.OptKeeps.step (s0 := s0) (x := x) ?_ ?_ <;> first | (intro hx; clear_value x) | subst x) | (refine State.OptKeeps1.step (s0 := s0) (x := x) ?_ ?_ <;> first | (intro hx; clear_value x) | subst x) | (refine State.EffKeeps.step (s0 := s0) (x := x) ?_ ?_ <;> first | (intro hx; clear_value x) | subst x) | (have hf : _ → _ := x; clear hf; subst x) | (have hf : Fw := x; clear hf; subst x) | (have hf : Sec := x; clear hf; subst x) | clear_value x | skip)
    | with_reducible apply State.Keeps.ite | split
    | (refine State.Keeps.mk' ?_ rfl rfl rfl rfl rfl; with_reducible assumption) | dsimp only

theorem State.record_keeps {s0 : State} (s : State) (code dom idx : Nat) (sag : Option Nat) (job : Nat) (payload : List Byte) (h : s0.Keeps s) :
    s0.Keeps (State.record s code dom idx sag job payload) := by
  unfold State.record
  with_reducible repeat' first
    | assumption | apply State.arrive_keeps | apply State.draw_keeps | apply State.setWeir_keeps
    | apply State.Keeps.ite

theorem State.recordFw_keeps {s0 : State} (s : State) (role code : Nat) (sag : Option Nat) (job : Nat) (payload : List Byte) (h : s0.Keeps s) :
    s0.Keeps (State.recordFw s role code sag job payload) := by
  unfold State.recordFw
  with_reducible repeat' first
    | assumption | apply State.record_keeps

theorem State.mirrorOne_keeps {s0 : State} (s : State) (e : Entry) (h : s0.Keeps s) :
    s0.Keeps (State.mirrorOne s e) := by
  unfold State.mirrorOne
  with_reducible repeat' first
    | exact State.Keeps.mk' (by assumption) rfl rfl rfl rfl rfl
    | ((try lift_lets); intro x; first | (refine State.Keeps.step (s0 := s0) (x := x) ?_ ?_ <;> first | (intro hx; clear_value x) | subst x) | skip)
    | split

theorem State.mirrorAll_keeps {s0 : State} (s : State) (h : s0.Keeps s) :
    s0.Keeps (State.mirrorAll s) := by
  unfold State.mirrorAll
  with_reducible repeat' first
    | assumption | apply State.mirrorOne_keeps | refine State.Keeps.foldl ?_ (fun t a ht => ?_)

theorem State.thresholdCross_keeps {s0 : State} (s : State) (r : Nat) (h : s0.Keeps s) :
    s0.Keeps (State.thresholdCross s r) := by
  unfold State.thresholdCross
  with_reducible repeat' first
    | assumption | apply State.record_keeps | apply State.eventInterrupt_keeps | apply State.setRegion_keeps
    | ((try lift_lets); intro x; first | (refine State.Keeps.step (s0 := s0) (x := x) ?_ ?_ <;> first | (intro hx; clear_value x) | subst x) | skip)
    | apply State.Keeps.ite

theorem State.countCe_keeps {s0 : State} (s : State) (r : Nat) (h : s0.Keeps s) :
    s0.Keeps (State.countCe s r) := by
  unfold State.countCe
  with_reducible repeat' first
    | assumption | apply State.thresholdCross_keeps | apply State.modRegion_keeps

theorem State.retirePending_keeps {s0 : State} (s : State) (g : Nat) (h : s0.Keeps s) :
    s0.Keeps (State.retirePending s g) := by
  unfold State.retirePending
  with_reducible repeat' first
    | assumption | apply State.recordFw_keeps | apply State.setGranState_keeps | apply State.Keeps.ite

theorem State.countUe_keeps {s0 : State} (s : State) (r addr path src : Nat) (sag : Option Nat) (h : s0.Keeps s) :
    s0.Keeps (State.countUe s r addr path src sag) := by
  unfold State.countUe
  with_reducible repeat' first
    | assumption | apply State.record_keeps | apply State.modRegion_keeps

/-! ### Space -/

theorem State.putBytes_keeps {s0 : State} (s : State) (lin : Nat) (bs : List Byte) (h : s0.Keeps s) :
    s0.Keeps (State.putBytes s lin bs) := by
  induction bs generalizing s lin with
  | nil => exact h
  | cons b r ih =>
    unfold State.putBytes
    have h1 : s0.Keeps { s with mem := s.mem.put (fun _ => 0) lin b } :=
      ⟨h.pending, fun w => Tbl.wf_put _ _ _ _ (h.mem w), h.glazed⟩
    apply ih
    dsimp only
    split
    · exact h1.set rfl rfl rfl
    · exact h1

theorem State.patchLines_keeps {s0 : State} (s : State) (lin : Nat) (bs : List Byte) (h : s0.Keeps s) :
    s0.Keeps (State.patchLines s lin bs) := by
  unfold State.patchLines
  with_reducible repeat' first
    | assumption | apply State.modNb_keeps | apply State.Keeps.ite

theorem State.zeroLin_keeps {s0 : State} (s : State) (lo n : Nat) (h : s0.Keeps s) :
    s0.Keeps (State.zeroLin s lo n) :=
  ⟨h.pending, fun w => Tbl.wf_filter _ _ _ (h.mem w), h.glazed⟩

theorem State.zeroGranule_keeps {s0 : State} (s : State) (g : Nat) (h : s0.Keeps s) :
    s0.Keeps (State.zeroGranule s g) :=
  ⟨h.pending, fun w => Tbl.wf_filter _ _ _ (h.mem w), h.glazed⟩

theorem State.strike_keeps {s0 : State} (s : State) (x : Strikes) (h : s0.Keeps s) :
    s0.Keeps (State.strike s x) := by
  unfold State.strike
  with_reducible repeat' first
    | exact State.Keeps.mk' (by assumption) rfl rfl rfl rfl rfl

theorem State.uncorrectable_keeps {s0 : State} (s : State) (acc lin path src : Nat) (h : s0.Keeps s) :
    s0.Keeps (State.uncorrectable s acc lin path src) := by
  unfold State.uncorrectable
  with_reducible repeat' first
    | assumption | apply State.countUe_keeps | apply State.retirePending_keeps | apply State.modSite_keeps
    | exact State.Keeps.mk' (by assumption) rfl rfl rfl rfl rfl
    | ((try lift_lets); intro x; first | (refine State.Keeps.step (s0 := s0) (x := x) ?_ ?_ <;> first | (intro hx; clear_value x) | subst x) | skip)
    | apply State.Keeps.ite

theorem State.correctSeg_keeps {s0 : State} (s : State) (lin n : Nat) (h : s0.Keeps s) :
    s0.Keeps (State.correctSeg s lin n) := by
  unfold State.correctSeg
  with_reducible repeat' first
    | apply State.countCe_keeps | refine State.Keeps.foldl ?_ (fun t a ht => ?_)
    | exact State.Keeps.mk' (by assumption) rfl rfl rfl rfl rfl

theorem State.readSegs_keeps {s0 : State} (s : State) (path src : Nat) (l : List Seg) (h : s0.Keeps s) :
    s0.Keeps (State.readSegs s path src l).1 := by
  induction l generalizing s with
  | nil => exact h
  | cons g r ih =>
    unfold State.readSegs
    have h1 : s0.Keeps (s.correctSeg g.lin g.len) := State.correctSeg_keeps s g.lin g.len h
    dsimp only
    split
    · exact State.uncorrectable_keeps _ _ _ _ _ h1
    · exact ih _ h1

theorem State.readMem_keeps {s0 : State} (s : State) (path src a n : Nat) (h : s0.Keeps s) :
    s0.Keeps (State.readMem s path src a n).1 := by
  unfold State.readMem
  with_reducible repeat' first
    | assumption | apply State.readSegs_keeps | exact State.Keeps.mk' (by assumption) rfl rfl rfl rfl rfl
    | ((try lift_lets); intro x; first | (refine State.Keeps.step (s0 := s0) (x := x) ?_ ?_ <;> first | (intro hx; clear_value x) | subst x) | (refine State.Keeps.step (s0 := s0) (x := x.1) ?_ ?_ <;> first | (intro hx; clear_value x) | subst x) | skip)
    | apply State.Keeps.ite

theorem State.writePiece_keeps {s0 : State} (s : State) (path src acc lin : Nat) (bs : List Byte) (h : s0.Keeps s) :
    s0.Keeps (State.writePiece s path src acc lin bs).1 := by
  unfold State.writePiece
  with_reducible repeat' first
    | assumption | apply State.correctSeg_keeps | apply State.uncorrectable_keeps | apply State.putBytes_keeps
    | exact State.Keeps.mk' (by assumption) rfl rfl rfl rfl rfl
    | ((try lift_lets); intro x; first | (refine State.Keeps.step (s0 := s0) (x := x) ?_ ?_ <;> first | (intro hx; clear_value x) | subst x) | skip)
    | split

theorem State.writePieces_keeps {s0 : State} (s : State) (path src : Nat) (l : List (Nat × Nat × List Byte)) (h : s0.Keeps s) :
    s0.Keeps (State.writePieces s path src l).1 := by
  induction l generalizing s with
  | nil => exact h
  | cons g r ih =>
    obtain ⟨acc, lin, bs⟩ := g
    unfold State.writePieces
    have h1 : s0.Keeps (s.writePiece path src acc lin bs).1 := State.writePiece_keeps s path src acc lin bs h
    lift_lets
    intro x
    split
    · exact h1
    · exact ih _ (State.patchLines_keeps _ _ _ h1)

theorem State.noteLate_keeps {s0 : State} (b s : State) (path src : Nat) (l : List Seg) (h : s0.Keeps s) :
    s0.Keeps (State.noteLate b s path src l) := by
  unfold State.noteLate
  with_reducible repeat' first
    | exact State.Keeps.mk' (by assumption) rfl rfl rfl rfl rfl
    | ((try lift_lets); intro x)
    | split

theorem State.writeMem_keeps {s0 : State} (s : State) (path src a : Nat) (bs : List Byte) (h : s0.Keeps s) :
    s0.Keeps (State.writeMem s path src a bs).1 := by
  unfold State.writeMem
  exact State.noteLate_keeps _ _ _ _ _ (State.writePieces_keeps _ _ _ _ h)

/-! ### Commands -/

theorem State.setCmd_keeps {s0 : State} (s : State) (c : Cmd) (h : s0.Keeps s) :
    s0.Keeps (State.setCmd s c) := by
  unfold State.setCmd
  with_reducible repeat' first
    | exact State.Keeps.mk' (by assumption) rfl rfl rfl rfl rfl

theorem State.putStatusWord_keeps {s0 : State} (s : State) (sag addr : Nat) (bs : List Byte) (h : s0.Keeps s) :
    s0.Keeps (State.putStatusWord s sag addr bs) := by
  unfold State.putStatusWord
  with_reducible repeat' first
    | assumption | apply State.writeMem_keeps | apply State.Keeps.ite

theorem State.statusWord_keeps {s0 : State} (s : State) (id addr st status : Nat) (r : Result) (h : s0.Keeps s) :
    s0.Keeps (State.statusWord s id addr st status r) := by
  unfold State.statusWord
  with_reducible repeat' first
    | assumption | apply State.putStatusWord_keeps | apply State.setCmd_keeps | split

theorem State.finish_keeps {s0 : State} (s : State) (id status : Nat) (r : Result) (h : s0.Keeps s) :
    s0.Keeps (State.finish s id status r) := by
  unfold State.finish
  with_reducible repeat' first
    | apply State.setCmd_keeps | exact State.Keeps.mk' (by assumption) rfl rfl rfl rfl rfl
    | ((try lift_lets); intro x; first | (refine State.Keeps.step (s0 := s0) (x := x) ?_ ?_ <;> first | (intro hx; clear_value x) | subst x) | skip)
    | split

theorem State.refuse_keeps {s0 : State} (s : State) (id status : Nat) (h : s0.Keeps s) :
    s0.Keeps (State.refuse s id status) := by
  unfold State.refuse
  with_reducible repeat' first
    | apply State.finish_keeps | exact State.Keeps.mk' (by assumption) rfl rfl rfl rfl rfl

theorem State.finishWord_keeps {s0 : State} (s : State) (id addr status : Nat) (r : Result) (h : s0.Keeps s) :
    s0.Keeps (State.finishWord s id addr status r) := by
  unfold State.finishWord
  with_reducible repeat' first
    | assumption | apply State.finish_keeps | apply State.statusWord_keeps

theorem State.setPhase_keeps {s0 : State} (s : State) (id : Nat) (ph : Phase) (h : s0.Keeps s) :
    s0.Keeps (State.setPhase s id ph) := by
  unfold State.setPhase
  with_reducible repeat' first
    | assumption | apply State.setCmd_keeps | split

theorem State.endAll_keeps {s0 : State} (s : State) (status : Nat) (h : s0.Keeps s) :
    s0.Keeps (State.endAll s status) := by
  unfold State.endAll
  with_reducible repeat' first
    | assumption | apply State.finish_keeps | refine State.Keeps.foldl ?_ (fun t a ht => ?_)

theorem State.setLaunch_keeps {s0 : State} (s : State) (l : Launch) (h : s0.Keeps s) :
    s0.Keeps (State.setLaunch s l) := by
  unfold State.setLaunch
  with_reducible repeat' first
    | exact State.Keeps.mk' (by assumption) rfl rfl rfl rfl rfl

theorem State.launchDone_keeps {s0 : State} (s : State) (l : Launch) (h : s0.Keeps s) :
    s0.Keeps (State.launchDone s l) := by
  unfold State.launchDone
  with_reducible repeat' first
    | assumption | apply State.finishWord_keeps | apply State.finish_keeps
    | refine State.Keeps.foldl ?_ (fun t a ht => ?_) | refine State.Keeps.foldl1 ?_ (fun t a ht => ?_)
    | exact State.Keeps.mk' (by assumption) rfl rfl rfl rfl rfl
    | ((try lift_lets); intro x; first | (refine State.Keeps.step (s0 := s0) (x := x) ?_ ?_ <;> first | (intro hx; clear_value x) | subst x) | skip)
    | apply State.Keeps.ite

theorem State.endRank_keeps {s0 : State} (s : State) (id k outcome cause : Nat) (value : W32) (h : s0.Keeps s) :
    s0.Keeps (State.endRank s id k outcome cause value) := by
  unfold State.endRank
  with_reducible repeat' first
    | assumption | apply State.launchDone_keeps | apply State.setLaunch_keeps | apply State.writeMem_keeps
    | apply State.modCore_keeps
    | ((try lift_lets); intro x; first | (refine State.Keeps.step (s0 := s0) (x := x) ?_ ?_ <;> first | (intro hx; clear_value x) | subst x) | skip)
    | split

/-! ### Reset -/

theorem State.tellEpoch_keeps {s0 : State} (s : State) (unit : Nat) (e : BitVec 32) (h : s0.Keeps s) :
    s0.Keeps (State.tellEpoch s unit e) := by
  unfold State.tellEpoch
  with_reducible repeat' first
    | exact State.Keeps.mk' (by assumption) rfl rfl rfl rfl rfl

theorem State.queueFrame_keeps {s0 : State} (s : State) (port : Nat) (f : CtlFrame) (h : s0.Keeps s) :
    s0.Keeps (State.queueFrame s port f) := by
  unfold State.queueFrame
  with_reducible repeat' first
    | assumption | apply State.modPort_keeps

theorem State.bumpSession_keeps {s0 : State} (s : State) (sag : Nat) (h : s0.Keeps s) :
    s0.Keeps (State.bumpSession s sag) := by
  unfold State.bumpSession
  with_reducible repeat' first
    | assumption | apply State.queueFrame_keeps | apply State.modSaggar_keeps
    | refine State.Keeps.foldl ?_ (fun t a ht => ?_) | split

theorem State.bumpSessions_keeps {s0 : State} (s : State) (l : List Nat) (h : s0.Keeps s) :
    s0.Keeps (State.bumpSessions s l) := by
  unfold State.bumpSessions
  with_reducible repeat' first
    | assumption | apply State.bumpSession_keeps | refine State.Keeps.foldl ?_ (fun t a ht => ?_)

theorem State.enterSite_keeps {s0 : State} (s : State) (i : Nat) (h : s0.Keeps s) :
    s0.Keeps (State.enterSite s i) := by
  unfold State.enterSite
  with_reducible repeat' first
    | apply State.bumpSessions_keeps | apply State.tellEpoch_keeps | apply State.endRank_keeps
    | apply State.modCore_keeps | apply State.modSite_keeps
    | exact State.Keeps.mk' (by assumption) rfl rfl rfl rfl rfl
    | ((try lift_lets); intro x; first | (refine State.Keeps.step (s0 := s0) (x := x) ?_ ?_ <;> first | (intro hx; clear_value x) | subst x) | skip)
    | split

theorem State.rewetSite_keeps {s0 : State} (s : State) (i : Nat) (h : s0.Keeps s) :
    s0.Keeps (State.rewetSite s i) := by
  unfold State.rewetSite
  with_reducible repeat' first
    | assumption | apply State.zeroLin_keeps | apply State.setCore_keeps

theorem State.returnSite_keeps {s0 : State} (s : State) (i : Nat) (h : s0.Keeps s) :
    s0.Keeps (State.returnSite s i) := by
  unfold State.returnSite
  with_reducible repeat' first
    | assumption | apply State.rewetSite_keeps | apply State.tellEpoch_keeps | apply State.record_keeps
    | apply State.modSite_keeps | apply State.Keeps.ite

theorem State.cycleSite_keeps {s0 : State} (s : State) (i : Nat) (h : s0.Keeps s) :
    s0.Keeps (State.cycleSite s i) := by
  unfold State.cycleSite
  with_reducible repeat' first
    | assumption | apply State.returnSite_keeps | apply State.enterSite_keeps | apply State.Keeps.ite

theorem State.holdSaggars_keeps {s0 : State} (s : State) (l : List Nat) (h : s0.Keeps s) :
    s0.Keeps (State.holdSaggars s l) := by
  unfold State.holdSaggars
  with_reducible repeat' first
    | assumption | apply State.modSaggar_keeps | refine State.Keeps.foldl ?_ (fun t a ht => ?_)

theorem State.releaseSaggars_keeps {s0 : State} (s : State) (l : List Nat) (h : s0.Keeps s) :
    s0.Keeps (State.releaseSaggars s l) := by
  unfold State.releaseSaggars
  with_reducible repeat' first
    | assumption | apply State.modSaggar_keeps | apply State.modCore_keeps
    | refine State.Keeps.foldl ?_ (fun t a ht => ?_)
    | ((try lift_lets); intro x; first | (refine State.Keeps.step (s0 := s0) (x := x) ?_ ?_ <;> first | (intro hx; clear_value x) | subst x) | skip)
    | apply State.Keeps.ite

theorem State.siteReturned_keeps {s0 : State} (s : State) (i : Nat) (h : s0.Keeps s) :
    s0.Keeps (State.siteReturned s i) := by
  unfold State.siteReturned
  with_reducible repeat' first
    | exact State.Keeps.mk' (by assumption) rfl rfl rfl rfl rfl

theorem State.gateCheck_keeps {s0 : State} (s : State) (c : Nat) (h : s0.Keeps s) :
    s0.Keeps (State.gateCheck s c) := by
  unfold State.gateCheck
  with_reducible repeat' first
    | assumption | apply State.modCluster_keeps | apply State.modSite_keeps
    | refine State.Keeps.foldl ?_ (fun t a ht => ?_)
    | ((try lift_lets); intro x; first | (refine State.Keeps.step (s0 := s0) (x := x) ?_ ?_ <;> first | (intro hx; clear_value x) | subst x) | skip)
    | apply State.Keeps.ite

theorem State.retireSite_keeps {s0 : State} (s : State) (i : Nat) (role : Role) (h : s0.Keeps s) :
    s0.Keeps (State.retireSite s i role) := by
  unfold State.retireSite
  with_reducible repeat' first
    | assumption | apply State.gateCheck_keeps | apply State.siteReturned_keeps | apply State.holdSaggars_keeps
    | apply State.enterSite_keeps | apply State.recordFw_keeps | apply State.modSite_keeps
    | refine State.Keeps.foldl ?_ (fun t a ht => ?_)
    | (refine State.Keeps.mk' ?_ rfl rfl rfl rfl rfl; first | apply State.gateCheck_keeps | apply State.siteReturned_keeps | apply State.holdSaggars_keeps | apply State.enterSite_keeps | apply State.recordFw_keeps | apply State.modSite_keeps | refine State.Keeps.foldl ?_ (fun t a ht => ?_))
    | ((try lift_lets); intro x; first | (refine State.Keeps.step (s0 := s0) (x := x) ?_ ?_ <;> first | (intro hx; clear_value x) | subst x) | clear_value x | skip)
    | split

theorem State.autoRetire_keeps {s0 : State} (s : State) (i cause : Nat) (role : Role) (h : s0.Keeps s) :
    s0.Keeps (State.autoRetire s i cause role) := by
  unfold State.autoRetire
  with_reducible repeat' first
    | assumption | apply State.retireSite_keeps | apply State.recordFw_keeps

theorem State.siteErrorCheck_keeps {s0 : State} (s : State) (i : Nat) (h : s0.Keeps s) :
    s0.Keeps (State.siteErrorCheck s i) := by
  unfold State.siteErrorCheck
  with_reducible repeat' first
    | assumption | apply State.autoRetire_keeps | apply State.Keeps.ite

theorem State.enterSluice_keeps {s0 : State} (s : State) (n : Nat) (h : s0.Keeps s) :
    s0.Keeps (State.enterSluice s n) := by
  unfold State.enterSluice
  with_reducible repeat' first
    | assumption | apply State.bumpSessions_keeps | apply State.tellEpoch_keeps | apply State.modRing_keeps
    | apply State.setSluice_keeps
    | ((try lift_lets); intro x; first | (refine State.Keeps.step (s0 := s0) (x := x) ?_ ?_ <;> first | (intro hx; clear_value x) | subst x) | skip)
    | apply State.Keeps.ite

theorem State.returnSluice_keeps {s0 : State} (s : State) (n : Nat) (h : s0.Keeps s) :
    s0.Keeps (State.returnSluice s n) := by
  unfold State.returnSluice
  with_reducible repeat' first
    | assumption | apply State.tellEpoch_keeps | apply State.setSluice_keeps

theorem State.lostEntry_keeps {s0 : State} (s : State) (n : Nat) (r : Ring) (k : Nat) (h : s0.Keeps s) :
    s0.Keeps (State.lostEntry s n r k) := by
  unfold State.lostEntry
  with_reducible repeat' first
    | assumption | apply State.readMem_keeps
    | (refine State.Keeps.mk' ?_ rfl rfl rfl rfl rfl; first | apply State.readMem_keeps)

theorem State.enterRing_keeps {s0 : State} (s : State) (n : Nat) (h : s0.Keeps s) :
    s0.Keeps (State.enterRing s n) := by
  unfold State.enterRing
  with_reducible repeat' first
    | assumption | apply State.lostEntry_keeps | apply State.enterSluice_keeps | apply State.bumpSession_keeps
    | apply State.tellEpoch_keeps | apply State.recordFw_keeps | apply State.setRing_keeps
    | refine State.Keeps.foldl ?_ (fun t a ht => ?_)
    | ((try lift_lets); intro x; first | (refine State.Keeps.step (s0 := s0) (x := x) ?_ ?_ <;> first | (intro hx; clear_value x) | subst x) | skip)
    | split

theorem State.returnRing_keeps {s0 : State} (s : State) (n : Nat) (h : s0.Keeps s) :
    s0.Keeps (State.returnRing s n) := by
  unfold State.returnRing
  with_reducible repeat' first
    | assumption | apply State.tellEpoch_keeps | apply State.setRing_keeps

theorem State.sluiceReturned_keeps {s0 : State} (s : State) (n : Nat) (h : s0.Keeps s) :
    s0.Keeps (State.sluiceReturned s n) := by
  unfold State.sluiceReturned
  with_reducible repeat' first
    | exact State.Keeps.mk' (by assumption) rfl rfl rfl rfl rfl

theorem State.unitReturned_keeps {s0 : State} (s : State) (n : Nat) (h : s0.Keeps s) :
    s0.Keeps (State.unitReturned s n) := by
  unfold State.unitReturned
  with_reducible repeat' first
    | exact State.Keeps.mk' (by assumption) rfl rfl rfl rfl rfl

theorem State.ringReturned_keeps {s0 : State} (s : State) (n : Nat) (h : s0.Keeps s) :
    s0.Keeps (State.ringReturned s n) := by
  unfold State.ringReturned
  with_reducible repeat' first
    | exact State.Keeps.mk' (by assumption) rfl rfl rfl rfl rfl

theorem State.afterBad_keeps {s0 : State} (s : State) (bad : Option Nat) (h : s0.Keeps s) :
    s0.Keeps (State.afterBad s bad) := by
  unfold State.afterBad
  with_reducible repeat' first
    | assumption | apply State.siteErrorCheck_keeps | split

theorem State.load_keeps {s0 : State} (s : State) (path src a n : Nat) (h : s0.Keeps s) :
    s0.Keeps (State.load s path src a n).1 := by
  unfold State.load
  with_reducible repeat' first
    | assumption | apply State.afterBad_keeps | apply State.readMem_keeps

theorem State.store_keeps {s0 : State} (s : State) (path src a : Nat) (bs : List Byte) (h : s0.Keeps s) :
    s0.Keeps (State.store s path src a bs).1 := by
  unfold State.store
  with_reducible repeat' first
    | assumption | apply State.afterBad_keeps | apply State.writeMem_keeps

end Sys2Proof.Machine
end

