-- ==== Sys2Proof/Laws/KeepsCore.lean ====
section
/-! SUPPORT. What keeps in every operation of a core and of the mesh: one lemma for each operation, `f_keeps`, says that `f` leaves the queue of waiting commands, the
canonical form of memory and the glazed record as they were. -/
namespace Sys2Proof.Machine
set_option linter.all false
open Sys2Proof State

/-! ### Kernel -/

theorem State.takeTrap_keeps {s0 : State} (s : State) (i cause tval tval2 len : Nat) (h : s0.Keeps s) :
    s0.Keeps (State.takeTrap s i cause tval tval2 len) := by
  unfold State.takeTrap
  with_reducible repeat' first
    | assumption | apply State.modCore_keeps

theorem State.remoteStatus_keeps {s0 : State} (s : State) (i status : Nat) (h : s0.Keeps s) :
    s0.Keeps (State.remoteStatus s i status) := by
  unfold State.remoteStatus
  with_reducible repeat' first
    | assumption | apply State.record_keeps | apply State.setCore_keeps

theorem State.postStore_keeps {s0 : State} (s : State) (i a : Nat) (check : Bool) (bs : List Byte) (h : s0.Keeps s) :
    s0.Keeps (State.postStore s i a check bs) := by
  unfold State.postStore
  with_reducible repeat' first
    | apply State.remoteStatus_keeps | apply State.modCore_keeps
    | exact State.Keeps.mk' (by assumption) rfl rfl rfl rfl rfl
    | ((try lift_lets); intro x; first | (refine State.Keeps.step (s0 := s0) (x := x) ?_ ?_ <;> first | (intro hx; clear_value x) | subst x) | skip)
    | split

theorem State.issueLoads_keeps {s0 : State} (s : State) (i len : Nat) (need : List (Nat × Nat)) (h : s0.Keeps s) :
    s0.Keeps (State.issueLoads s i len need) := by
  unfold State.issueLoads
  with_reducible repeat' first
    | assumption | apply State.takeTrap_keeps | apply State.modCore_keeps
    | refine State.Keeps.foldl1 ?_ (fun t a ht => ?_)
    | (refine State.Keeps.mk' ?_ rfl rfl rfl rfl rfl; first | apply State.takeTrap_keeps | apply State.modCore_keeps | refine State.Keeps.foldl1 ?_ (fun t a ht => ?_))
    | ((try lift_lets); intro x; first | (refine State.Keeps.step (s0 := s0) (x := x.1) ?_ ?_ <;> first | (intro hx; clear_value x) | subst x) | (have hf : _ → _ := x; clear hf; subst x) | skip)
    | split

theorem State.coreRead_keeps {s0 : State} (s : State) (i a n : Nat) (got : List (Nat × Byte)) (h : s0.Keeps s) :
    s0.Keeps (State.coreRead s i a n got).1 := by
  unfold State.coreRead
  with_reducible repeat' first
    | assumption | apply State.load_keeps
    | ((try lift_lets); intro x; first | (refine State.Keeps.step (s0 := s0) (x := x.1) ?_ ?_ <;> first | (intro hx; clear_value x) | subst x) | skip)
    | split

theorem State.coreWrite_keeps {s0 : State} (s : State) (i a : Nat) (bs : List Byte) (h : s0.Keeps s) :
    s0.EffKeeps (State.coreWrite s i a bs) := by
  unfold State.coreWrite
  with_reducible repeat' first
    | assumption | apply State.postStore_keeps | apply State.store_keeps | apply State.EffKeeps.done
    | apply State.EffKeeps.trap
    | ((try lift_lets); intro x; first | (refine State.Keeps.step (s0 := s0) (x := x.1) ?_ ?_ <;> first | (intro hx; clear_value x) | subst x) | skip)
    | split

theorem State.coreWrites_keeps {s0 : State} (s : State) (i : Nat) (l : List (Nat × List Byte)) (h : s0.Keeps s) :
    s0.EffKeeps (State.coreWrites s i l) := by
  induction l generalizing s with
  | nil => exact .done h
  | cons g r ih =>
    obtain ⟨a, bs⟩ := g
    unfold State.coreWrites
    have h1 := State.coreWrite_keeps s i a bs h
    split
    next t p e =>
      have h2 := ih t (State.EffKeeps.get e h1)
      split
      next e' => exact .done (State.EffKeeps.get e' h2)
      next => exact h2
    next => exact h1

theorem State.parcel_keeps {s0 : State} (s : State) (i a : Nat) (h : s0.Keeps s) :
    s0.Keeps (State.parcel s i a).1 := by
  unfold State.parcel
  with_reducible repeat' first
    | assumption | apply State.load_keeps
    | ((try lift_lets); intro x; first | (refine State.Keeps.step (s0 := s0) (x := x.1) ?_ ?_ <;> first | (intro hx; clear_value x) | subst x) | skip)
    | split

theorem State.fetch_keeps {s0 : State} (s : State) (i : Nat) (h : s0.Keeps s) :
    s0.Keeps (State.fetch s i).1 := by
  unfold State.fetch
  with_reducible repeat' first
    | assumption | apply State.parcel_keeps | apply State.draw_keeps
    | ((try lift_lets); intro x; first | (refine State.Keeps.step (s0 := s0) (x := x.1) ?_ ?_ <;> first | (intro hx; clear_value x) | subst x) | skip)
    | split

theorem State.settle_keeps {s0 : State} (s : State) (i len : Nat) (e : Eff) (h : s0.Keeps s) (he : s0.EffKeeps e) :
    s0.Keeps (State.settle s i len e) := by
  cases he with
  | done hx => exact hx
  | trap hx => exact State.takeTrap_keeps _ _ _ _ _ _ hx
  | far hx => exact State.issueLoads_keeps _ _ _ _ hx
  | wait => exact h

theorem State.retire_keeps {s0 : State} (s : State) (i len : Nat) (f : Core → Core) (h : s0.Keeps s) :
    s0.EffKeeps (State.retire s i len f) := by
  unfold State.retire
  with_reducible repeat' first
    | assumption | apply State.modCore_keeps | apply State.EffKeeps.done

theorem illegal_keeps {s0 : State} (s : State) (w : Nat) (h : s0.Keeps s) :
    s0.EffKeeps (illegal s w) := by
  unfold illegal
  with_reducible repeat' first
    | assumption | apply State.EffKeeps.trap

theorem rejected_keeps {s0 : State} (s : State) (st : Nat) (h : s0.Keeps s) :
    s0.EffKeeps (rejected s st) := by
  unfold rejected
  with_reducible repeat' first
    | assumption | apply State.EffKeeps.trap

/-! ### Cascade -/

theorem State.failReduction_keeps {s0 : State} (s : State) (i a st : Nat) (h : s0.Keeps s) :
    s0.Keeps (State.failReduction s i a st) := by
  unfold State.failReduction
  with_reducible repeat' first
    | assumption | apply State.record_keeps | apply State.modCore_keeps | apply State.Keeps.ite

theorem State.useNode_keeps {s0 : State} (s : State) (i a : Nat) (n : Node) (h : s0.Keeps s) :
    s0.Keeps (State.useNode s i a n).1 := by
  unfold State.useNode
  with_reducible repeat' first
    | assumption | apply State.failReduction_keeps | apply State.afterBad_keeps | apply State.correctSeg_keeps
    | apply State.uncorrectable_keeps
    | ((try lift_lets); intro x; first | (refine State.Keeps.step (s0 := s0) (x := x) ?_ ?_ <;> first | (intro hx; clear_value x) | subst x) | skip)
    | split

theorem State.putNode_keeps {s0 : State} (s : State) (i a : Nat) (n : Node) (h : s0.Keeps s) :
    s0.Keeps (State.putNode s i a n) := by
  unfold State.putNode
  with_reducible repeat' first
    | apply State.modCore_keeps | exact State.Keeps.mk' (by assumption) rfl rfl rfl rfl rfl

set_option maxRecDepth 20000 in
theorem State.insertNode_keeps {s0 : State} (n : Nat) (s : State) (i a lvl idx : Nat) (pre : Bool) (val : TileW) (h : s0.Keeps s) :
    s0.Keeps (State.insertNode n s i a lvl idx pre val).1 := by
  induction n generalizing s lvl idx pre val with
  | zero => exact h
  | succ f ih =>
    have take : ∀ (m : Node) (k : State → State × Bool), (∀ t, s0.Keeps t → s0.Keeps (k t).1) →
        s0.Keeps (if (s.useNode i a m).2 = true then k ((s.useNode i a m).1.modCore i (fun c => c.modAcc a (fun r =>
          if m.slot < 24 then { r with nodes := removeFirst (fun m' => m'.slot == m.slot) r.nodes }
          else { r with preSlot := none }))) else ((s.useNode i a m).1, true)).1 := by
      intro m k hk
      have h1 : s0.Keeps (s.useNode i a m).1 := State.useNode_keeps _ _ _ _ h
      split
      · exact hk _ (State.modCore_keeps _ _ _ h1)
      · exact h1
    have keep : s0.Keeps (match (s.core i).freeNodeSlot with
      | none => (s, false)
      | some sl => (s.putNode i a { slot := sl, lvl := lvl, idx := idx, isPre := false, val := val }, true)).1 := by
      split
      · exact h
      · exact State.putNode_keeps _ _ _ _ h
    unfold State.insertNode
    dsimp only
    split
    · dsimp only
      exact State.modCore_keeps s i _ h
    · split
      · split
        · exact State.putNode_keeps _ _ _ _ h
        · exact take _ _ (fun t ht => ih _ _ _ _ _ ht)
      · split
        · split
          · split
            · exact take _ _ (fun t ht => ih _ _ _ _ _ ht)
            · exact keep
          · exact keep
        · split
          · exact ih _ _ _ _ _ h
          · split
            · exact keep
            · exact take _ _ (fun t ht => ih _ _ _ _ _ ht)

theorem State.closeBlock_keeps {s0 : State} (s : State) (i a : Nat) (h : s0.Keeps s) :
    s0.Keeps (State.closeBlock s i a) := by
  unfold State.closeBlock
  with_reducible repeat' first
    | assumption | apply State.insertNode_keeps | apply State.modCore_keeps

theorem State.exportAnswer_keeps {s0 : State} (s : State) (i a tag st : Nat) (h : s0.Keeps s) :
    s0.Keeps (State.exportAnswer s i a tag st) := by
  unfold State.exportAnswer
  with_reducible repeat' first
    | assumption | apply State.record_keeps | apply State.modCore_keeps
    | ((try lift_lets); intro x; first | (refine State.Keeps.step (s0 := s0) (x := x) ?_ ?_ <;> first | (intro hx; clear_value x) | subst x) | skip)
    | split

theorem State.exportNodes_keeps {s0 : State} (s : State) (i a w : Nat) (h : s0.Keeps s) :
    s0.Keeps (State.exportNodes s i a w) := by
  unfold State.exportNodes
  with_reducible repeat' first
    | apply State.exportAnswer_keeps | apply State.useNode_keeps | apply State.modCore_keeps
    | refine State.Keeps.foldl ?_ (fun t a ht => ?_) | refine State.Keeps.foldl1 ?_ (fun t a ht => ?_)
    | exact State.Keeps.mk' (by assumption) rfl rfl rfl rfl rfl
    | ((try lift_lets); intro x; first | (refine State.Keeps.step (s0 := s0) (x := x) ?_ ?_ <;> first | (intro hx; clear_value x) | subst x) | (refine State.Keeps.step (s0 := s0) (x := x.1) ?_ ?_ <;> first | (intro hx; clear_value x) | subst x) | skip)
    | split

theorem State.foldRoot_keeps {s0 : State} (s : State) (i a : Nat) (root : Node) (h : s0.Keeps s) :
    s0.Keeps (State.foldRoot s i a root) := by
  unfold State.foldRoot
  with_reducible repeat' first
    | assumption | apply State.record_keeps | apply State.setCore_keeps
    | ((try lift_lets); intro x; first | (refine State.Keeps.step (s0 := s0) (x := x) ?_ ?_ <;> first | (intro hx; clear_value x) | subst x) | skip)
    | apply State.Keeps.ite

theorem State.memberEntry_keeps {s0 : State} (s : State) (i table m : Nat) (h : s0.Keeps s) :
    s0.Keeps (State.memberEntry s i table m).1 := by
  unfold State.memberEntry
  with_reducible repeat' first
    | assumption | apply State.load_keeps
    | ((try lift_lets); intro x; first | (refine State.Keeps.step (s0 := s0) (x := x.1) ?_ ?_ <;> first | (intro hx; clear_value x) | subst x) | skip)
    | split

theorem State.aorExpire_keeps {s0 : State} (s : State) (i : Nat) (h : s0.Keeps s) :
    s0.Keeps (State.aorExpire s i) := by
  unfold State.aorExpire
  with_reducible repeat' first
    | assumption | apply State.record_keeps | apply State.modCore_keeps

theorem State.aorSend_keeps {s0 : State} (s : State) (i m : Nat) (k : Kind) (word : W32) (h : s0.Keeps s) :
    s0.Keeps (State.aorSend s i m k word).1 := by
  unfold State.aorSend
  with_reducible repeat' first
    | apply State.memberEntry_keeps | apply State.modCore_keeps
    | exact State.Keeps.mk' (by assumption) rfl rfl rfl rfl rfl
    | ((try lift_lets); intro x; first | (refine State.Keeps.step (s0 := s0) (x := x) ?_ ?_ <;> first | (intro hx; clear_value x) | subst x) | (refine State.Keeps.step (s0 := s0) (x := x.1) ?_ ?_ <;> first | (intro hx; clear_value x) | subst x) | skip)
    | split

theorem State.aorDown_keeps {s0 : State} (s : State) (i : Nat) (h : s0.Keeps s) :
    s0.Keeps (State.aorDown s i) := by
  unfold State.aorDown
  with_reducible repeat' first
    | assumption | apply State.aorSend_keeps | apply State.aorExpire_keeps
    | refine State.Keeps.foldl1 ?_ (fun t a ht => ?_)
    | ((try lift_lets); intro x; first | (refine State.Keeps.step (s0 := s0) (x := x.1) ?_ ?_ <;> first | (intro hx; clear_value x) | subst x) | skip)
    | apply State.Keeps.ite

theorem State.aorAdvance_keeps {s0 : State} (s : State) (i : Nat) (h : s0.Keeps s) :
    s0.Keeps (State.aorAdvance s i) := by
  unfold State.aorAdvance
  with_reducible repeat' first
    | assumption | apply State.aorDown_keeps | apply State.aorSend_keeps | apply State.aorExpire_keeps
    | apply State.modCore_keeps
    | ((try lift_lets); intro x; first | (refine State.Keeps.step (s0 := s0) (x := x.1) ?_ ?_ <;> first | (intro hx; clear_value x) | subst x) | skip)
    | apply State.Keeps.ite

theorem State.aorTake_keeps {s0 : State} (s : State) (i rd : Nat) (h : s0.Keeps s) :
    s0.Keeps (State.aorTake s i rd) := by
  unfold State.aorTake
  with_reducible repeat' first
    | assumption | apply State.modCore_keeps

theorem State.aorOpen_keeps {s0 : State} (s : State) (i redId : Nat) (word : W32) (h : s0.Keeps s) :
    s0.Keeps (State.aorOpen s i redId word) := by
  unfold State.aorOpen
  with_reducible repeat' first
    | assumption | apply State.aorAdvance_keeps | apply State.aorExpire_keeps | apply State.setCore_keeps
    | ((try lift_lets); intro x; first | (refine State.Keeps.step (s0 := s0) (x := x) ?_ ?_ <;> first | (intro hx; clear_value x) | subst x) | skip)
    | apply State.Keeps.ite

/-! ### Tile -/

theorem State.coreReads_keeps {s0 : State} (s : State) (i : Nat) (got : List (Nat × Byte)) (l : List (Nat × Nat)) (h : s0.Keeps s) :
    s0.Keeps (State.coreReads s i got l).1 := by
  induction l generalizing s with
  | nil => exact h
  | cons g r ih =>
    obtain ⟨a, n⟩ := g
    unfold State.coreReads
    have h1 : s0.Keeps (s.coreRead i a n got).1 := State.coreRead_keeps s i a n got h
    dsimp only
    split
    · split
      · exact ih _ h1
      · exact ih _ h1
    · exact h1

theorem State.tldEff_keeps {s0 : State} (s : State) (i w : Nat) (got : List (Nat × Byte)) (h : s0.Keeps s) :
    s0.EffKeeps (State.tldEff s i w got) := by
  unfold State.tldEff
  with_reducible repeat' first
    | assumption | apply State.coreReads_keeps | apply rejected_keeps | apply State.retire_keeps
    | apply State.EffKeeps.trap | apply State.EffKeeps.far | exact State.EffKeeps.wait
    | ((try lift_lets); intro x; first | (refine State.Keeps.step (s0 := s0) (x := x.1) ?_ ?_ <;> first | (intro hx; clear_value x) | subst x) | skip)
    | split

theorem State.tstEff_keeps {s0 : State} (s : State) (i w : Nat) (h : s0.Keeps s) :
    s0.EffKeeps (State.tstEff s i w) := by
  unfold State.tstEff
  with_reducible repeat' first
    | assumption | apply rejected_keeps | apply State.coreWrites_keeps | apply State.modCore_keeps
    | apply State.EffKeeps.done | apply State.EffKeeps.trap
    | ((try lift_lets); intro x; first | (refine State.Keeps.step (s0 := s0) (x := x) ?_ ?_ <;> first | (intro hx; clear_value x) | subst x) | skip)
    | split | (refine State.EffKeeps.get ‹_ = Eff.done _ _› ?_)

theorem State.taclrEff_keeps {s0 : State} (s : State) (i w : Nat) (h : s0.Keeps s) :
    s0.EffKeeps (State.taclrEff s i w) := by
  unfold State.taclrEff
  with_reducible repeat' first
    | assumption | apply rejected_keeps | apply State.retire_keeps | exact State.EffKeeps.wait
    | apply State.EffKeeps.ite

theorem State.tmmaAdd_keeps {s0 : State} (s : State) (i w : Nat) (h : s0.Keeps s) :
    s0.Keeps (State.tmmaAdd s i w) := by
  unfold State.tmmaAdd
  with_reducible repeat' first
    | assumption | apply State.closeBlock_keeps | apply State.setCore_keeps
    | ((try lift_lets); intro x; first | (refine State.Keeps.step (s0 := s0) (x := x) ?_ ?_ <;> first | (intro hx; clear_value x) | subst x) | skip)
    | apply State.Keeps.ite

theorem State.residueFault_keeps {s0 : State} (s : State) (i a : Nat) (h : s0.Keeps s) :
    s0.Keeps (State.residueFault s i a) := by
  unfold State.residueFault
  with_reducible repeat' first
    | assumption | apply State.record_keeps | apply State.modRegion_keeps | apply State.modCore_keeps
    | apply State.modSite_keeps

theorem State.tmmaEff_keeps {s0 : State} (s : State) (i w : Nat) (res : Residue) (h : s0.Keeps s) :
    s0.EffKeeps (State.tmmaEff s i w res) := by
  unfold State.tmmaEff
  with_reducible repeat' first
    | assumption | apply State.residueFault_keeps | apply State.tmmaAdd_keeps | apply rejected_keeps
    | apply State.countCe_keeps | apply State.record_keeps | apply State.modCore_keeps | apply State.EffKeeps.done
    | apply State.EffKeeps.trap | exact State.EffKeeps.wait
    | ((try lift_lets); intro x; first | (refine State.Keeps.step (s0 := s0) (x := x) ?_ ?_ <;> first | (intro hx; clear_value x) | subst x) | skip)
    | apply State.EffKeeps.ite

theorem State.tepiEff_keeps {s0 : State} (s : State) (i w : Nat) (h : s0.Keeps s) :
    s0.EffKeeps (State.tepiEff s i w) := by
  unfold State.tepiEff
  with_reducible repeat' first
    | assumption | apply rejected_keeps | apply State.retire_keeps | apply State.coreRead_keeps
    | apply State.EffKeeps.trap | exact State.EffKeeps.wait
    | ((try lift_lets); intro x; first | (refine State.Keeps.step (s0 := s0) (x := x.1) ?_ ?_ <;> first | (intro hx; clear_value x) | subst x) | skip)
    | split

theorem State.tcvtEff_keeps {s0 : State} (s : State) (i w : Nat) (h : s0.Keeps s) :
    s0.EffKeeps (State.tcvtEff s i w) := by
  unfold State.tcvtEff
  with_reducible repeat' first
    | assumption | apply rejected_keeps | apply State.retire_keeps | apply State.EffKeeps.ite

theorem State.osmEff_keeps {s0 : State} (s : State) (i w : Nat) (h : s0.Keeps s) :
    s0.EffKeeps (State.osmEff s i w) := by
  unfold State.osmEff
  with_reducible repeat' first
    | assumption | apply rejected_keeps | apply State.retire_keeps | exact State.EffKeeps.wait
    | apply State.EffKeeps.ite

theorem State.tmvEff_keeps {s0 : State} (s : State) (i w : Nat) (h : s0.Keeps s) :
    s0.EffKeeps (State.tmvEff s i w) := by
  unfold State.tmvEff
  with_reducible repeat' first
    | assumption | apply rejected_keeps | apply State.retire_keeps | exact State.EffKeeps.wait
    | ((try lift_lets); intro x; first | clear_value x | skip) | split

theorem State.casOpenEff_keeps {s0 : State} (s : State) (i w : Nat) (h : s0.Keeps s) :
    s0.EffKeeps (State.casOpenEff s i w) := by
  unfold State.casOpenEff
  with_reducible repeat' first
    | assumption | apply rejected_keeps | apply State.retire_keeps | exact State.EffKeeps.wait
    | apply State.EffKeeps.ite

theorem State.casCloseEff_keeps {s0 : State} (s : State) (i w : Nat) (h : s0.Keeps s) :
    s0.EffKeeps (State.casCloseEff s i w) := by
  unfold State.casCloseEff
  with_reducible repeat' first
    | assumption | apply State.closeBlock_keeps | apply rejected_keeps | apply State.retire_keeps
    | exact State.EffKeeps.wait | apply State.EffKeeps.ite

theorem State.casExportEff_keeps {s0 : State} (s : State) (i w : Nat) (h : s0.Keeps s) :
    s0.EffKeeps (State.casExportEff s i w) := by
  unfold State.casExportEff
  with_reducible repeat' first
    | assumption | apply State.exportNodes_keeps | apply rejected_keeps | apply State.retire_keeps
    | exact State.EffKeeps.wait | apply State.EffKeeps.ite

theorem State.foldNow_keeps {s0 : State} (s : State) (i a : Nat) (root : Node) (h : s0.Keeps s) :
    s0.EffKeeps (State.foldNow s i a root) := by
  unfold State.foldNow
  with_reducible repeat' first
    | assumption | apply State.foldRoot_keeps | apply State.useNode_keeps | apply State.retire_keeps
    | apply State.modCore_keeps | apply State.EffKeeps.trap
    | ((try lift_lets); intro x; first | (refine State.Keeps.step (s0 := s0) (x := x.1) ?_ ?_ <;> first | (intro hx; clear_value x) | subst x) | skip)
    | apply State.EffKeeps.ite

theorem State.foldExpire_keeps {s0 : State} (s : State) (i a : Nat) (h : s0.Keeps s) :
    s0.EffKeeps (State.foldExpire s i a) := by
  unfold State.foldExpire
  with_reducible repeat' first
    | assumption | apply State.record_keeps | apply State.modCore_keeps | apply State.EffKeeps.trap

theorem State.casFoldEff_keeps {s0 : State} (s : State) (i w : Nat) (h : s0.Keeps s) :
    s0.EffKeeps (State.casFoldEff s i w) := by
  unfold State.casFoldEff
  with_reducible repeat' first
    | assumption | apply State.foldExpire_keeps | apply State.foldNow_keeps | apply rejected_keeps
    | apply State.modCore_keeps | apply State.EffKeeps.done | apply State.EffKeeps.trap | exact State.EffKeeps.wait
    | ((try lift_lets); intro x; first | (refine State.Keeps.step (s0 := s0) (x := x) ?_ ?_ <;> first | (intro hx; clear_value x) | subst x) | skip)
    | split

theorem State.casDiscardEff_keeps {s0 : State} (s : State) (i w : Nat) (h : s0.Keeps s) :
    s0.EffKeeps (State.casDiscardEff s i w) := by
  unfold State.casDiscardEff
  with_reducible repeat' first
    | assumption | apply State.retire_keeps

theorem State.taorCEff_keeps {s0 : State} (s : State) (i w : Nat) (h : s0.Keeps s) :
    s0.EffKeeps (State.taorCEff s i w) := by
  unfold State.taorCEff
  with_reducible repeat' first
    | assumption | apply State.aorOpen_keeps | apply rejected_keeps | apply State.retire_keeps
    | apply State.EffKeeps.ite

theorem State.aorTimeout_keeps {s0 : State} (s : State) (i : Nat) (h : s0.Keeps s) :
    s0.EffKeeps (State.aorTimeout s i) := by
  unfold State.aorTimeout
  with_reducible repeat' first
    | assumption | apply State.modCore_keeps | apply State.EffKeeps.trap

theorem State.taorWEff_keeps {s0 : State} (s : State) (i w : Nat) (h : s0.Keeps s) :
    s0.EffKeeps (State.taorWEff s i w) := by
  unfold State.taorWEff
  with_reducible repeat' first
    | assumption | apply State.aorTimeout_keeps | apply State.aorTake_keeps | apply rejected_keeps
    | apply State.retire_keeps | apply State.modCore_keeps | apply State.EffKeeps.done | apply State.EffKeeps.ite

theorem State.tretEff_keeps {s0 : State} (s : State) (i w : Nat) (h : s0.Keeps s) :
    s0.EffKeeps (State.tretEff s i w) := by
  unfold State.tretEff
  with_reducible repeat' first
    | assumption | apply illegal_keeps | apply State.modCore_keeps | apply State.EffKeeps.done
    | apply State.EffKeeps.ite

theorem State.runIf_keeps {s0 : State} (s : State) (i : Nat) (sel : Nat → Bool) (f : State → Nat → Nat → Eff) (h : s0.Keeps s)
    (hf : ∀ t w n, s0.Keeps t → s0.EffKeeps (f t w n)) : s0.Keeps (State.runIf s i sel f) := by
  unfold State.runIf
  split
  · split
    next t w len e =>
      have ht : s0.Keeps t := State.Keeps.of_fst e (State.fetch_keeps s i h)
      split
      · exact State.settle_keeps _ _ _ _ ht (hf _ _ _ ht)
      · exact h
    next => exact h
  · exact h

theorem State.runTile_keeps {s0 : State} (s : State) (i : Nat) (o : TileOp) (f : State → Nat → Eff) (h : s0.Keeps s)
    (hf : ∀ t w, s0.Keeps t → s0.EffKeeps (f t w)) : s0.Keeps (State.runTile s i o f) :=
  State.runIf_keeps s i _ _ h (fun t w _ ht => hf t w ht)

theorem execTld_keeps {s0 : State} (site : Nat) (strikes : Strikes) (s : State) (h : s0.Keeps s) :
    s0.OutKeeps (execTld site strikes s) := by
  unfold execTld
  with_reducible repeat' first
    | assumption | refine State.runTile_keeps _ _ _ _ ?_ (fun t w ht => ?_) | apply State.tldEff_keeps
    | apply State.strike_keeps | apply State.OutKeeps.next

theorem execTst_keeps {s0 : State} (site : Nat) (strikes : Strikes) (s : State) (h : s0.Keeps s) :
    s0.OutKeeps (execTst site strikes s) := by
  unfold execTst
  with_reducible repeat' first
    | assumption | refine State.runTile_keeps _ _ _ _ ?_ (fun t w ht => ?_) | apply State.tstEff_keeps
    | apply State.strike_keeps | apply State.OutKeeps.next

theorem execTaclr_keeps {s0 : State} (site : Nat) (s : State) (h : s0.Keeps s) :
    s0.OutKeeps (execTaclr site s) := by
  unfold execTaclr
  with_reducible repeat' first
    | assumption | refine State.runTile_keeps _ _ _ _ ?_ (fun t w ht => ?_) | apply State.taclrEff_keeps
    | apply State.OutKeeps.next

theorem State.residueCheck_keeps {s0 : State} (s t : State) (i : Nat) (h : s0.Keeps t) :
    s0.Keeps (State.residueCheck s t i) := by
  unfold State.residueCheck
  split
  · exact State.siteErrorCheck_keeps _ _ h
  · exact h

theorem execTmma_keeps {s0 : State} (site : Nat) (residue : Residue) (s : State) (h : s0.Keeps s) :
    s0.OutKeeps (execTmma site residue s) := by
  unfold execTmma
  with_reducible repeat' first
    | assumption | apply State.residueCheck_keeps | refine State.runTile_keeps _ _ _ _ ?_ (fun t w ht => ?_)
    | apply State.tmmaEff_keeps | apply State.OutKeeps.next

theorem execTepi_keeps {s0 : State} (site : Nat) (s : State) (h : s0.Keeps s) :
    s0.OutKeeps (execTepi site s) := by
  unfold execTepi
  with_reducible repeat' first
    | assumption | refine State.runTile_keeps _ _ _ _ ?_ (fun t w ht => ?_) | apply State.tepiEff_keeps
    | apply State.OutKeeps.next

theorem execTcvt_keeps {s0 : State} (site : Nat) (s : State) (h : s0.Keeps s) :
    s0.OutKeeps (execTcvt site s) := by
  unfold execTcvt
  with_reducible repeat' first
    | assumption | refine State.runTile_keeps _ _ _ _ ?_ (fun t w ht => ?_) | apply State.tcvtEff_keeps
    | apply State.OutKeeps.next

theorem execOsm_keeps {s0 : State} (site : Nat) (s : State) (h : s0.Keeps s) :
    s0.OutKeeps (execOsm site s) := by
  unfold execOsm
  with_reducible repeat' first
    | assumption | refine State.runTile_keeps _ _ _ _ ?_ (fun t w ht => ?_) | apply State.osmEff_keeps
    | apply State.OutKeeps.next

theorem execTmv_keeps {s0 : State} (site : Nat) (s : State) (h : s0.Keeps s) :
    s0.OutKeeps (execTmv site s) := by
  unfold execTmv
  with_reducible repeat' first
    | assumption | refine State.runTile_keeps _ _ _ _ ?_ (fun t w ht => ?_) | apply State.tmvEff_keeps
    | apply State.OutKeeps.next

theorem execTcasOpen_keeps {s0 : State} (site : Nat) (s : State) (h : s0.Keeps s) :
    s0.OutKeeps (execTcasOpen site s) := by
  unfold execTcasOpen
  with_reducible repeat' first
    | assumption | refine State.runTile_keeps _ _ _ _ ?_ (fun t w ht => ?_) | apply State.casOpenEff_keeps
    | apply State.OutKeeps.next

theorem execTcasClose_keeps {s0 : State} (site : Nat) (s : State) (h : s0.Keeps s) :
    s0.OutKeeps (execTcasClose site s) := by
  unfold execTcasClose
  with_reducible repeat' first
    | assumption | refine State.runTile_keeps _ _ _ _ ?_ (fun t w ht => ?_) | apply State.casCloseEff_keeps
    | apply State.OutKeeps.next

theorem execTcasExport_keeps {s0 : State} (site : Nat) (s : State) (h : s0.Keeps s) :
    s0.OutKeeps (execTcasExport site s) := by
  unfold execTcasExport
  with_reducible repeat' first
    | assumption | refine State.runTile_keeps _ _ _ _ ?_ (fun t w ht => ?_) | apply State.casExportEff_keeps
    | apply State.OutKeeps.next

theorem execTcasFold_keeps {s0 : State} (site : Nat) (s : State) (h : s0.Keeps s) :
    s0.OutKeeps (execTcasFold site s) := by
  unfold execTcasFold
  with_reducible repeat' first
    | assumption | refine State.runTile_keeps _ _ _ _ ?_ (fun t w ht => ?_) | apply State.casFoldEff_keeps
    | apply State.OutKeeps.next

theorem execFoldComplete_keeps {s0 : State} (site : Nat) (s : State) (h : s0.Keeps s) :
    s0.OutKeeps (execFoldComplete site s) := by
  unfold execFoldComplete
  with_reducible repeat' first
    | assumption | apply State.foldNow_keeps | apply State.settle_keeps | apply State.takeTrap_keeps
    | apply State.modCore_keeps | apply State.OutKeeps.next | split

theorem execFoldTimeout_keeps {s0 : State} (site : Nat) (s : State) (h : s0.Keeps s) :
    s0.OutKeeps (execFoldTimeout site s) := by
  unfold execFoldTimeout
  with_reducible repeat' first
    | assumption | apply State.foldExpire_keeps | apply State.settle_keeps | apply State.OutKeeps.next | split

theorem execTcasDiscard_keeps {s0 : State} (site : Nat) (s : State) (h : s0.Keeps s) :
    s0.OutKeeps (execTcasDiscard site s) := by
  unfold execTcasDiscard
  with_reducible repeat' first
    | assumption | refine State.runTile_keeps _ _ _ _ ?_ (fun t w ht => ?_) | apply State.casDiscardEff_keeps
    | apply State.OutKeeps.next

theorem execTaorC_keeps {s0 : State} (site : Nat) (s : State) (h : s0.Keeps s) :
    s0.OutKeeps (execTaorC site s) := by
  unfold execTaorC
  with_reducible repeat' first
    | assumption | refine State.runTile_keeps _ _ _ _ ?_ (fun t w ht => ?_) | apply State.taorCEff_keeps
    | apply State.OutKeeps.next

theorem execAllorTimeout_keeps {s0 : State} (site : Nat) (s : State) (h : s0.Keeps s) :
    s0.OutKeeps (execAllorTimeout site s) := by
  unfold execAllorTimeout
  with_reducible repeat' first
    | assumption | apply State.aorTimeout_keeps | apply State.aorExpire_keeps | apply State.settle_keeps
    | apply State.OutKeeps.next
    | ((try lift_lets); intro x; first | (refine State.Keeps.step (s0 := s0) (x := x) ?_ ?_ <;> first | (intro hx; clear_value x) | subst x) | skip)
    | split

theorem execTaorW_keeps {s0 : State} (site : Nat) (s : State) (h : s0.Keeps s) :
    s0.OutKeeps (execTaorW site s) := by
  unfold execTaorW
  with_reducible repeat' first
    | assumption | refine State.runTile_keeps _ _ _ _ ?_ (fun t w ht => ?_) | apply State.taorWEff_keeps
    | apply State.OutKeeps.next

theorem execTaorWComplete_keeps {s0 : State} (site : Nat) (s : State) (h : s0.Keeps s) :
    s0.OutKeeps (execTaorWComplete site s) := by
  unfold execTaorWComplete
  with_reducible repeat' first
    | assumption | apply State.aorTake_keeps | apply State.modCore_keeps | apply State.OutKeeps.next | split

theorem execTret_keeps {s0 : State} (site : Nat) (s : State) (h : s0.Keeps s) :
    s0.OutKeeps (execTret site s) := by
  unfold execTret
  with_reducible repeat' first
    | assumption | refine State.runTile_keeps _ _ _ _ ?_ (fun t w ht => ?_) | apply State.tretEff_keeps
    | apply State.OutKeeps.next

/-! ### Scalar -/

theorem State.writeCustom_keeps {s0 : State} (s : State) (i n v m : Nat) (h : s0.Keeps s) :
    s0.Keeps (State.writeCustom s i n v m) := by
  unfold State.writeCustom
  with_reducible repeat' first
    | assumption | apply State.modCore_keeps

theorem State.writeStd_keeps {s0 : State} (s : State) (i n v : Nat) (h : s0.Keeps s) :
    s0.Keeps (State.writeStd s i n v) := by
  unfold State.writeStd
  with_reducible repeat' first
    | assumption | apply State.modCore_keeps

theorem State.csrEff_keeps {s0 : State} (s : State) (i w : Nat) (h : s0.Keeps s) :
    s0.EffKeeps (State.csrEff s i w) := by
  unfold State.csrEff
  with_reducible repeat' first
    | assumption | apply State.writeStd_keeps | apply State.writeCustom_keeps | apply illegal_keeps
    | apply State.retire_keeps | apply State.draw_keeps
    | ((try lift_lets); intro x; first | (refine State.Keeps.step (s0 := s0) (x := x) ?_ ?_ <;> first | (intro hx; clear_value x) | subst x) | skip)
    | split

theorem State.loadEff_keeps {s0 : State} (s : State) (i a n len : Nat) (got : List (Nat × Byte)) (put : Core → Nat → Core) (h : s0.Keeps s) :
    s0.EffKeeps (State.loadEff s i a n len got put) := by
  unfold State.loadEff
  with_reducible repeat' first
    | assumption | apply State.retire_keeps | apply State.coreRead_keeps | apply State.EffKeeps.trap
    | apply State.EffKeeps.far
    | ((try lift_lets); intro x; first | (refine State.Keeps.step (s0 := s0) (x := x.1) ?_ ?_ <;> first | (intro hx; clear_value x) | subst x) | skip)
    | split

theorem State.storeEff_keeps {s0 : State} (s : State) (i len : Nat) (l : List (Nat × List Byte)) (h : s0.Keeps s) :
    s0.EffKeeps (State.storeEff s i len l) := by
  unfold State.storeEff
  with_reducible repeat' first
    | assumption | apply State.coreWrites_keeps | apply State.coreWrite_keeps | apply State.modCore_keeps
    | apply State.EffKeeps.done | apply State.EffKeeps.trap | split
    | (refine State.EffKeeps.get ‹_ = Eff.done _ _› ?_)

theorem State.jump_keeps {s0 : State} (s : State) (i dest : Nat) (f : Core → Core) (h : s0.Keeps s) :
    s0.EffKeeps (State.jump s i dest f) := by
  unfold State.jump
  with_reducible repeat' first
    | assumption | apply State.modCore_keeps | apply State.EffKeeps.done

theorem State.fpDone_keeps {s0 : State} (s : State) (i len : Nat) (r : Nat × Nat) (put : Core → Nat → Core) (h : s0.Keeps s) :
    s0.EffKeeps (State.fpDone s i len r put) := by
  unfold State.fpDone
  with_reducible repeat' first
    | assumption | apply State.retire_keeps

theorem State.fpEff_keeps {s0 : State} (s : State) (i w w0 len : Nat) (h : s0.Keeps s) :
    s0.EffKeeps (State.fpEff s i w w0 len) := by
  unfold State.fpEff
  with_reducible repeat' first
    | assumption | apply State.fpDone_keeps | apply illegal_keeps
    | ((try lift_lets); intro x; first | (have hf : _ → _ := x; clear hf; subst x) | skip) | split

theorem State.fmaEff_keeps {s0 : State} (s : State) (i w w0 len : Nat) (negP negC : Bool) (h : s0.Keeps s) :
    s0.EffKeeps (State.fmaEff s i w w0 len negP negC) := by
  unfold State.fmaEff
  with_reducible repeat' first
    | assumption | apply State.fpDone_keeps | apply illegal_keeps
    | ((try lift_lets); intro x; first | (refine State.Keeps.step (s0 := s0) (x := x) ?_ ?_ <;> first | (intro hx; clear_value x) | subst x) | skip)
    | split

theorem State.mretEff_keeps {s0 : State} (s : State) (i : Nat) (h : s0.Keeps s) :
    s0.EffKeeps (State.mretEff s i) := by
  unfold State.mretEff
  with_reducible repeat' first
    | assumption | apply State.modCore_keeps | apply State.EffKeeps.done

theorem State.systemEff_keeps {s0 : State} (s : State) (i w w0 len : Nat) (h : s0.Keeps s) :
    s0.EffKeeps (State.systemEff s i w w0 len) := by
  unfold State.systemEff
  with_reducible repeat' first
    | assumption | apply State.mretEff_keeps | apply State.csrEff_keeps | apply illegal_keeps
    | apply State.retire_keeps | apply State.EffKeeps.trap | apply State.EffKeeps.ite

theorem State.scalarEff_keeps {s0 : State} (s : State) (i w w0 len : Nat) (got : List (Nat × Byte)) (h : s0.Keeps s) :
    s0.EffKeeps (State.scalarEff s i w w0 len got) := by
  unfold State.scalarEff
  with_reducible repeat' first
    | assumption | apply State.systemEff_keeps | apply State.fmaEff_keeps | apply State.fpEff_keeps
    | apply State.jump_keeps | apply State.storeEff_keeps | apply State.loadEff_keeps | apply illegal_keeps
    | apply State.retire_keeps | apply State.EffKeeps.trap
    | ((try lift_lets); intro x; first | clear_value x | skip) | split

/-! ### Vector -/

theorem State.vdone_keeps {s0 : State} (s : State) (i len : Nat) (f : Core → Core) (h : s0.Keeps s) :
    s0.EffKeeps (State.vdone s i len f) := by
  unfold State.vdone
  with_reducible repeat' first
    | assumption | apply State.retire_keeps

theorem State.vsetEff_keeps {s0 : State} (s : State) (i w len : Nat) (h : s0.Keeps s) :
    s0.EffKeeps (State.vsetEff s i w len) := by
  unfold State.vsetEff
  with_reducible repeat' first
    | assumption | apply State.vdone_keeps | apply illegal_keeps | apply State.EffKeeps.ite

theorem State.vloadEff_keeps {s0 : State} (s : State) (i w len : Nat) (got : List (Nat × Byte)) (h : s0.Keeps s) :
    s0.EffKeeps (State.vloadEff s i w len got) := by
  unfold State.vloadEff
  with_reducible repeat' first
    | assumption | apply State.vdone_keeps | apply State.coreReads_keeps | apply illegal_keeps
    | apply State.EffKeeps.trap | apply State.EffKeeps.far | exact State.EffKeeps.wait | split | dsimp only

theorem State.vstoreEff_keeps {s0 : State} (s : State) (i w len : Nat) (h : s0.Keeps s) :
    s0.EffKeeps (State.vstoreEff s i w len) := by
  unfold State.vstoreEff
  with_reducible repeat' first
    | assumption | apply State.storeEff_keeps | apply illegal_keeps | apply State.modCore_keeps
    | apply State.EffKeeps.done | apply State.EffKeeps.trap
    | ((try lift_lets); intro x; first | (refine State.Keeps.step (s0 := s0) (x := x) ?_ ?_ <;> first | (intro hx; clear_value x) | subst x) | skip)
    | split | (refine State.EffKeeps.get ‹_ = Eff.done _ _› ?_)

theorem State.opiEff_keeps {s0 : State} (s : State) (i w len : Nat) (h : s0.Keeps s) :
    s0.EffKeeps (State.opiEff s i w len) := by
  unfold State.opiEff
  with_reducible repeat' first
    | assumption | apply State.vdone_keeps | apply illegal_keeps
    | ((try lift_lets); intro x; first | (have hf : _ → _ := x; clear hf; subst x) | skip)
    | apply State.EffKeeps.ite | split

theorem State.opmUnary_keeps {s0 : State} (s : State) (i w len : Nat) (k : Core) (c : VCfg) (h : s0.Keeps s) :
    s0.EffKeeps (State.opmUnary s i w len k c) := by
  unfold State.opmUnary
  with_reducible repeat' first
    | assumption | apply State.vdone_keeps | apply illegal_keeps
    | ((try lift_lets); intro x; first | clear_value x | skip) | apply State.EffKeeps.ite | split

theorem State.opmEff_keeps {s0 : State} (s : State) (i w len : Nat) (h : s0.Keeps s) :
    s0.EffKeeps (State.opmEff s i w len) := by
  unfold State.opmEff
  with_reducible repeat' first
    | assumption | apply State.opmUnary_keeps | apply State.vdone_keeps | apply illegal_keeps
    | ((try lift_lets); intro x; first | (refine State.Keeps.step (s0 := s0) (x := x) ?_ ?_ <;> first | (intro hx; clear_value x) | subst x) | skip)
    | split

theorem State.opfUnary_keeps {s0 : State} (s : State) (i w len : Nat) (k : Core) (c : VCfg) (rm : Nat) (h : s0.Keeps s) :
    s0.EffKeeps (State.opfUnary s i w len k c rm) := by
  unfold State.opfUnary
  with_reducible repeat' first
    | assumption | apply State.vdone_keeps | apply illegal_keeps
    | ((try lift_lets); intro x; first | (have hf : _ → _ := x; clear hf; subst x) | clear_value x | skip)
    | apply State.EffKeeps.ite | split

theorem State.opfEff_keeps {s0 : State} (s : State) (i w len : Nat) (h : s0.Keeps s) :
    s0.EffKeeps (State.opfEff s i w len) := by
  unfold State.opfEff
  with_reducible repeat' first
    | assumption | apply State.opfUnary_keeps | apply State.vdone_keeps | apply illegal_keeps | split | dsimp only

theorem State.vectorEff_keeps {s0 : State} (s : State) (i w len : Nat) (got : List (Nat × Byte)) (h : s0.Keeps s) :
    s0.EffKeeps (State.vectorEff s i w len got) := by
  unfold State.vectorEff
  with_reducible repeat' first
    | assumption | apply State.opfEff_keeps | apply State.opmEff_keeps | apply State.opiEff_keeps
    | apply State.vstoreEff_keeps | apply State.vloadEff_keeps | apply State.vsetEff_keeps | split

/-! ### Program -/

theorem State.baseEff_keeps {s0 : State} (s : State) (i w0 len : Nat) (got : List (Nat × Byte)) (h : s0.Keeps s) :
    s0.EffKeeps (State.baseEff s i w0 len got) := by
  unfold State.baseEff
  with_reducible repeat' first
    | assumption | apply State.vectorEff_keeps | apply State.scalarEff_keeps | apply illegal_keeps | split

theorem State.runBase_keeps {s0 : State} (s : State) (i : Nat) (strikes : Strikes) (pick : Eff → Bool) (h : s0.Keeps s) :
    s0.Keeps (State.runBase s i strikes pick) := by
  unfold State.runBase
  with_reducible repeat' first
    | assumption | apply State.baseEff_keeps | apply State.settle_keeps | apply State.fetch_keeps
    | apply State.takeTrap_keeps | apply State.strike_keeps
    | ((try lift_lets); intro x; first | (refine State.EffKeeps.step (s0 := s0) (x := x) ?_ ?_ <;> first | (intro hx; clear_value x) | subst x) | skip)
    | split | (refine State.Keeps.of_fst ‹_ = (_, _)› ?_)

theorem State.resumeLoad_keeps {s0 : State} (s : State) (i : Nat) (h : s0.Keeps s) :
    s0.Keeps (State.resumeLoad s i) := by
  unfold State.resumeLoad
  with_reducible repeat' first
    | assumption | apply State.baseEff_keeps | apply State.tldEff_keeps | apply State.settle_keeps
    | apply State.fetch_keeps | apply State.takeTrap_keeps | apply State.modCore_keeps
    | ((try lift_lets); intro x; first | (refine State.Keeps.step (s0 := s0) (x := x) ?_ ?_ <;> first | (intro hx; clear_value x) | subst x) | skip)
    | split | (refine State.Keeps.of_fst ‹_ = (_, _)› ?_)

theorem State.fencedReads_keeps {s0 : State} (s : State) (i : Nat) (h : s0.Keeps s) :
    s0.Keeps (State.fencedReads s i) := h.mk' rfl rfl rfl rfl rfl

theorem State.fencedWrites_keeps {s0 : State} (s : State) (i : Nat) (h : s0.Keeps s) :
    s0.Keeps (State.fencedWrites s i) := h.mk' rfl rfl rfl rfl rfl

theorem State.fenceDone_keeps {s0 : State} (s : State) (i : Nat) (stores : Bool) (h : s0.Keeps s) :
    s0.Keeps (State.fenceDone s i stores) := by
  unfold State.fenceDone
  have h1 : s0.Keeps (if stores then s.fencedWrites i else s) := .ite (State.fencedWrites_keeps _ _ h) h
  exact .ite (State.takeTrap_keeps _ _ _ _ _ _ (State.modCore_keeps _ _ _ h1))
    (State.modCore_keeps _ _ _ (State.modCore_keeps _ _ _ h1))

theorem State.fenceEff_keeps {s0 : State} (s : State) (i w : Nat) (h : s0.Keeps s) :
    s0.EffKeeps (State.fenceEff s i w) := by
  unfold State.fenceEff
  have h1 : s0.Keeps (if fencesReads w then s.fencedReads i else s) := .ite (State.fencedReads_keeps _ _ h) h
  exact .ite (.ite (.done (State.fenceDone_keeps _ _ _ h1)) (.done (State.modCore_keeps _ _ _ h1)))
    (State.retire_keeps _ _ _ _ h1)

theorem State.fenceIEff_keeps {s0 : State} (s : State) (i : Nat) (h : s0.Keeps s) :
    s0.EffKeeps (State.fenceIEff s i) := by
  unfold State.fenceIEff
  with_reducible repeat' first
    | apply State.retire_keeps | exact State.Keeps.mk' (by assumption) rfl rfl rfl rfl rfl

theorem State.endKernel_keeps {s0 : State} (s : State) (i outcome cause : Nat) (value : W32) (h : s0.Keeps s) :
    s0.Keeps (State.endKernel s i outcome cause value) := by
  unfold State.endKernel
  with_reducible repeat' first
    | assumption | apply State.endRank_keeps | apply State.modCore_keeps | split

theorem State.stopDone_keeps {s0 : State} (s : State) (i : Nat) (h : s0.Keeps s) :
    s0.Keeps (State.stopDone s i) := by
  unfold State.stopDone
  with_reducible repeat' first
    | assumption | apply State.endKernel_keeps | apply State.Keeps.ite

theorem State.endByTrap_keeps {s0 : State} (s : State) (i cause : Nat) (value : W32) (h : s0.Keeps s) :
    s0.Keeps (State.endByTrap s i cause value) := by
  unfold State.endByTrap
  with_reducible repeat' first
    | assumption | apply State.endKernel_keeps | apply State.record_keeps

theorem execScalarVectorInstruction_keeps {s0 : State} (site : Nat) (strikes : Strikes) (s : State) (h : s0.Keeps s) :
    s0.OutKeeps (execScalarVectorInstruction site strikes s) := by
  unfold execScalarVectorInstruction
  with_reducible repeat' first
    | assumption | apply State.runBase_keeps | apply State.OutKeeps.next

theorem execApertureLoad_keeps {s0 : State} (site : Nat) (s : State) (h : s0.Keeps s) :
    s0.OutKeeps (execApertureLoad site s) := by
  unfold execApertureLoad
  with_reducible repeat' first
    | assumption | apply State.runBase_keeps | apply State.OutKeeps.next

theorem execApertureStore_keeps {s0 : State} (site : Nat) (s : State) (h : s0.Keeps s) :
    s0.OutKeeps (execApertureStore site s) := by
  unfold execApertureStore
  with_reducible repeat' first
    | assumption | apply State.runBase_keeps | apply State.OutKeeps.next

theorem execFence_keeps {s0 : State} (site : Nat) (s : State) (h : s0.Keeps s) :
    s0.OutKeeps (execFence site s) := by
  unfold execFence
  with_reducible repeat' first
    | assumption | apply State.fenceEff_keeps | refine State.runIf_keeps _ _ _ _ ?_ (fun t w n ht => ?_)
    | apply State.OutKeeps.next

theorem execFenceI_keeps {s0 : State} (site : Nat) (s : State) (h : s0.Keeps s) :
    s0.OutKeeps (execFenceI site s) := by
  unfold execFenceI
  with_reducible repeat' first
    | assumption | apply State.fenceIEff_keeps | refine State.runIf_keeps _ _ _ _ ?_ (fun t w n ht => ?_)
    | apply State.OutKeeps.next

theorem execCsrWrite_keeps {s0 : State} (site : Nat) (s : State) (h : s0.Keeps s) :
    s0.OutKeeps (execCsrWrite site s) := by
  unfold execCsrWrite
  with_reducible repeat' first
    | assumption | apply State.csrEff_keeps | refine State.runIf_keeps _ _ _ _ ?_ (fun t w n ht => ?_)
    | apply State.OutKeeps.next

theorem execRillInterrupt_keeps {s0 : State} (site : Nat) (s : State) (h : s0.Keeps s) :
    s0.OutKeeps (execRillInterrupt site s) := by
  unfold execRillInterrupt
  with_reducible repeat' first
    | assumption | apply State.modCore_keeps | apply State.OutKeeps.next | apply State.OutKeeps.ite

theorem execKernelExit_keeps {s0 : State} (site : Nat) (s : State) (h : s0.Keeps s) :
    s0.OutKeeps (execKernelExit site s) := by
  unfold execKernelExit
  with_reducible repeat' first
    | assumption | apply State.endByTrap_keeps | apply State.endKernel_keeps | apply State.OutKeeps.next
    | ((try lift_lets); intro x; first | (refine State.Keeps.step (s0 := s0) (x := x) ?_ ?_ <;> first | (intro hx; clear_value x) | subst x) | skip)
    | split

theorem execKernelEndByTrap_keeps {s0 : State} (site : Nat) (s : State) (h : s0.Keeps s) :
    s0.OutKeeps (execKernelEndByTrap site s) := by
  unfold execKernelEndByTrap
  with_reducible repeat' first
    | assumption | apply State.endByTrap_keeps | apply State.OutKeeps.next
    | ((try lift_lets); intro x; first | (refine State.Keeps.step (s0 := s0) (x := x) ?_ ?_ <;> first | (intro hx; clear_value x) | subst x) | skip)
    | split

theorem State.lagExtend_keeps {s0 : State} (s : State) (site saggar job d : Nat) (h : s0.Keeps s) :
    s0.Keeps (State.lagExtend s site saggar job d) := by
  unfold State.lagExtend
  with_reducible repeat' first
    | assumption | apply State.setCore_keeps
    | ((try lift_lets); intro x; first | (refine State.Keeps.step (s0 := s0) (x := x) ?_ ?_ <;> first | (intro hx; clear_value x) | subst x) | skip)
    | split

theorem execLagNoticeArrival_keeps {s0 : State} (k : Nat) (s : State) (h : s0.Keeps s) :
    s0.OutKeeps (execLagNoticeArrival k s) := by
  unfold execLagNoticeArrival
  with_reducible repeat' first
    | apply State.lagExtend_keeps | apply State.OutKeeps.next
    | exact State.Keeps.mk' (by assumption) rfl rfl rfl rfl rfl | split

/-! ### Regs -/

theorem State.rwtPut_keeps {s0 : State} (s : State) (r : RwtReg) (v : Nat) (h : s0.Keeps s) :
    s0.Keeps (State.rwtPut s r v) := by
  unfold State.rwtPut
  with_reducible repeat' first
    | assumption | apply State.modRing_keeps | apply State.modNb_keeps | apply State.modSluice_keeps
    | apply State.modSite_keeps | split

/-! ### Mesh -/

theorem State.answerCore.post_keeps {s0 : State} (i tag st : Nat) (s : State) (h : s0.Keeps s) :
    s0.Keeps (State.answerCore.post i tag st s) := by
  unfold State.answerCore.post
  dsimp only
  split
  · have h1 : s0.Keeps (s.setCore i { s.core i with posted := (s.core i).posted.erase tag }) := State.setCore_keeps _ _ _ h
    have h2 : s0.Keeps (if st ≠ 0 then (s.setCore i { s.core i with posted := (s.core i).posted.erase tag }).remoteStatus i st else
        s.setCore i { s.core i with posted := (s.core i).posted.erase tag }) := .ite (State.remoteStatus_keeps _ _ _ h1) h1
    split
    · exact .ite (State.fenceDone_keeps _ _ _ h2) h2
    · exact h2
  · split
    · exact State.exportAnswer_keeps _ _ _ _ _ h
    · exact h

theorem State.answerCore_keeps {s0 : State} (s : State) (i tag st : Nat) (data : List Byte) (h : s0.Keeps s) :
    s0.Keeps (State.answerCore s i tag st data) := by
  have hp := State.answerCore.post_keeps i tag st s h
  unfold State.answerCore
  lift_lets
  intro k
  split
  · exact State.stopDone_keeps _ _ hp
  · dsimp only
    split
    · exact State.resumeLoad_keeps _ _ (State.setCore_keeps _ _ _ h)
    · exact hp
  · exact hp

theorem State.respond_keeps {s0 : State} (s : State) (p : Packet) (st : Nat) (data : List Byte) (h : s0.Keeps s) :
    s0.Keeps (State.respond s p st data) := by
  unfold State.respond
  with_reducible repeat' first
    | exact State.Keeps.mk' (by assumption) rfl rfl rfl rfl rfl

theorem State.answerLocal_keeps {s0 : State} (s : State) (p : Packet) (st : Nat) (h : s0.Keeps s) :
    s0.Keeps (State.answerLocal s p st) := by
  unfold State.answerLocal
  with_reducible repeat' first
    | assumption | apply State.answerCore_keeps | apply State.Keeps.ite

theorem State.siteGate_keeps {s0 : State} (s : State) (p : Packet) (h : s0.Keeps s) :
    s0.Keeps (State.siteGate s p).1 := by
  unfold State.siteGate
  with_reducible repeat' first
    | assumption | apply State.record_keeps | apply State.modSite_keeps
    | ((try lift_lets); intro x; first | (refine State.Keeps.step (s0 := s0) (x := x) ?_ ?_ <;> first | (intro hx; clear_value x) | subst x) | skip)
    | split

theorem State.serveAccess_keeps {s0 : State} (s : State) (p : Packet) (au : Auth) (path : Nat) (h : s0.Keeps s) :
    s0.Keeps (State.serveAccess s p au path) := by
  unfold State.serveAccess
  with_reducible repeat' first
    | assumption | apply State.respond_keeps | apply State.store_keeps | apply State.load_keeps
    | ((try lift_lets); intro x; first | (refine State.Keeps.step (s0 := s0) (x := x.1) ?_ ?_ <;> first | (intro hx; clear_value x) | subst x) | skip)
    | split

theorem State.siteRequest_keeps {s0 : State} (s : State) (k : Nat) (want : Kind → Bool) (h : s0.Keeps s) :
    s0.OptKeeps1 (State.siteRequest s k want) := by
  unfold State.siteRequest
  with_reducible repeat' first
    | apply State.OptKeeps1.none | apply State.OptKeeps1.some
    | exact State.Keeps.mk' (by assumption) rfl rfl rfl rfl rfl | split

theorem State.takeNode_keeps {s0 : State} (s : State) (p : Packet) (h : s0.Keeps s) :
    s0.Keeps (State.takeNode s p).1 := by
  unfold State.takeNode
  with_reducible repeat' first
    | assumption | apply State.insertNode_keeps | apply State.failReduction_keeps
    | ((try lift_lets); intro x; first | (refine State.Keeps.step (s0 := s0) (x := x.1) ?_ ?_ <;> first | (intro hx; clear_value x) | subst x) | skip)
    | split

theorem State.takeWord_keeps {s0 : State} (s : State) (p : Packet) (h : s0.Keeps s) :
    s0.Keeps (State.takeWord s p).1 := by
  unfold State.takeWord
  with_reducible repeat' first
    | assumption | apply State.aorAdvance_keeps | apply State.aorDown_keeps | apply State.modCore_keeps
    | ((try lift_lets); intro x; first | (refine State.Keeps.step (s0 := s0) (x := x) ?_ ?_ <;> first | (intro hx; clear_value x) | subst x) | skip)
    | split

theorem execPacketInject_keeps {s0 : State} (k : Nat) (s : State) (h : s0.Keeps s) :
    s0.OutKeeps (execPacketInject k s) := by
  unfold execPacketInject
  with_reducible repeat' first
    | apply State.answerLocal_keeps | apply State.modSite_keeps | apply State.OutKeeps.next
    | exact State.Keeps.mk' (by assumption) rfl rfl rfl rfl rfl
    | (refine State.Keeps.mk' ?_ rfl rfl rfl rfl rfl; first | apply State.answerLocal_keeps | apply State.modSite_keeps)
    | ((try lift_lets); intro x; first | (refine State.Keeps.step (s0 := s0) (x := x) ?_ ?_ <;> first | (intro hx; clear_value x) | subst x) | skip)
    | split

theorem execMeshRequestArrival_keeps {s0 : State} (k : Nat) (strikes : Strikes) (s : State) (h : s0.Keeps s) :
    s0.OutKeeps (execMeshRequestArrival k strikes s) := by
  unfold execMeshRequestArrival
  with_reducible repeat' first
    | assumption | apply State.siteRequest_keeps | apply State.serveAccess_keeps | apply State.siteGate_keeps
    | apply State.respond_keeps | apply State.strike_keeps | apply State.OutKeeps.next
    | ((try lift_lets); intro x; first | (refine State.Keeps.step (s0 := s0) (x := x.1) ?_ ?_ <;> first | (intro hx; clear_value x) | subst x) | skip)
    | split | (refine State.OptKeeps1.get ‹_ = some _› ?_)

theorem execMeshResponseArrival_keeps {s0 : State} (k : Nat) (s : State) (h : s0.Keeps s) :
    s0.OutKeeps (execMeshResponseArrival k s) := by
  unfold execMeshResponseArrival
  with_reducible repeat' first
    | apply State.answerCore_keeps | apply State.modSite_keeps | apply State.OutKeeps.next
    | exact State.Keeps.mk' (by assumption) rfl rfl rfl rfl rfl
    | ((try lift_lets); intro x; first | (refine State.Keeps.step (s0 := s0) (x := x) ?_ ?_ <;> first | (intro hx; clear_value x) | subst x) | skip)
    | split

theorem execPriorityFlitAged_keeps {s0 : State} (site : Nat) (s : State) (h : s0.Keeps s) :
    s0.OutKeeps (execPriorityFlitAged site s) := by
  unfold execPriorityFlitAged
  with_reducible repeat' first
    | assumption | apply State.record_keeps | apply State.OutKeeps.next | apply State.OutKeeps.ite

theorem execCascadeNodeArrival_keeps {s0 : State} (k : Nat) (s : State) (h : s0.Keeps s) :
    s0.OutKeeps (execCascadeNodeArrival k s) := by
  unfold execCascadeNodeArrival
  with_reducible repeat' first
    | assumption | apply State.takeNode_keeps | apply State.siteRequest_keeps | apply State.siteGate_keeps
    | apply State.respond_keeps | apply State.OutKeeps.next
    | ((try lift_lets); intro x; first | (refine State.Keeps.step (s0 := s0) (x := x.1) ?_ ?_ <;> first | (intro hx; clear_value x) | subst x) | skip)
    | split | (refine State.OptKeeps1.get ‹_ = some _› ?_)

theorem execAllorWordArrival_keeps {s0 : State} (k : Nat) (s : State) (h : s0.Keeps s) :
    s0.OutKeeps (execAllorWordArrival k s) := by
  unfold execAllorWordArrival
  with_reducible repeat' first
    | assumption | apply State.takeWord_keeps | apply State.siteRequest_keeps | apply State.siteGate_keeps
    | apply State.respond_keeps | apply State.OutKeeps.next
    | ((try lift_lets); intro x; first | (refine State.Keeps.step (s0 := s0) (x := x.1) ?_ ?_ <;> first | (intro hx; clear_value x) | subst x) | skip)
    | split | (refine State.OptKeeps1.get ‹_ = some _› ?_)

theorem execEpochUpdate_keeps {s0 : State} (k : Nat) (s : State) (h : s0.Keeps s) :
    s0.OutKeeps (execEpochUpdate k s) := by
  unfold execEpochUpdate
  with_reducible repeat' first
    | apply State.OutKeeps.next | exact State.Keeps.mk' (by assumption) rfl rfl rfl rfl rfl | split

theorem State.moveSites_keeps {s0 : State} (s : State) (r : Remap) (h : s0.Keeps s) :
    s0.Keeps (State.moveSites s r) := by
  unfold State.moveSites
  with_reducible repeat' first
    | assumption | apply State.cycleSite_keeps | apply State.modSite_keeps
    | refine State.Keeps.foldl ?_ (fun t a ht => ?_)

theorem execRemapApply_keeps {s0 : State} (k : Nat) (s : State) (h : s0.Keeps s) :
    s0.OutKeeps (execRemapApply k s) := by
  unfold execRemapApply
  with_reducible repeat' first
    | apply State.moveSites_keeps | apply State.releaseSaggars_keeps | apply State.recordFw_keeps
    | apply State.OutKeeps.next | exact State.Keeps.mk' (by assumption) rfl rfl rfl rfl rfl
    | ((try lift_lets); intro x; first | (refine State.Keeps.step (s0 := s0) (x := x) ?_ ?_ <;> first | (intro hx; clear_value x) | subst x) | skip)
    | split

theorem execRemapQuiescenceTimeout_keeps {s0 : State} (k : Nat) (s : State) (h : s0.Keeps s) :
    s0.OutKeeps (execRemapQuiescenceTimeout k s) := by
  unfold execRemapQuiescenceTimeout
  with_reducible repeat' first
    | apply State.recordFw_keeps | apply State.OutKeeps.next
    | exact State.Keeps.mk' (by assumption) rfl rfl rfl rfl rfl | split

/-! ### Memory -/

theorem State.attachServe_keeps {s0 : State} (s : State) (n : Nat) (p : Packet) (strikes : Strikes) (h : s0.Keeps s) :
    s0.Keeps (State.attachServe s n p strikes) := by
  unfold State.attachServe
  with_reducible repeat' first
    | assumption | apply State.serveAccess_keeps | apply State.strike_keeps | apply State.record_keeps
    | apply State.Keeps.ite

theorem State.serveGap_keeps {s0 : State} (s : State) (n : Nat) (h : s0.Keeps s) :
    s0.Keeps (State.serveGap s n) := by
  unfold State.serveGap
  with_reducible repeat' first
    | assumption | apply State.attachServe_keeps | apply State.record_keeps | apply State.setNb_keeps
    | refine State.Keeps.foldl ?_ (fun t a ht => ?_) | apply State.Keeps.ite

theorem execAttachPortRequest_keeps {s0 : State} (k : Nat) (strikes : Strikes) (s : State) (h : s0.Keeps s) :
    s0.OutKeeps (execAttachPortRequest k strikes s) := by
  unfold execAttachPortRequest
  with_reducible repeat' first
    | apply State.attachServe_keeps | apply State.strike_keeps | apply State.modNb_keeps
    | apply State.OutKeeps.next | exact State.Keeps.mk' (by assumption) rfl rfl rfl rfl rfl
    | ((try lift_lets); intro x; first | (refine State.Keeps.step (s0 := s0) (x := x) ?_ ?_ <;> first | (intro hx; clear_value x) | subst x) | skip)
    | split

theorem execCxlMemRequest_keeps {s0 : State} (module : Nat) (write : Bool) (offset : Nat) (data : List Byte) (strikes : Strikes) (s : State) (h : s0.Keeps s) :
    s0.OutKeeps (execCxlMemRequest module write offset data strikes s) := by
  unfold execCxlMemRequest
  repeat' first
    | with_reducible assumption | with_reducible apply Nbx.put_keeps | with_reducible apply Move.put_keeps
    | with_reducible apply State.store_keeps | with_reducible apply State.load_keeps
    | with_reducible apply State.strike_keeps | with_reducible apply State.record_keeps
    | with_reducible apply State.OutKeeps.next
    | with_reducible exact State.Keeps.mk' (by assumption) rfl rfl rfl rfl rfl
    | (with_reducible refine State.Keeps.mk' ?_ rfl rfl rfl rfl rfl; first | with_reducible apply Nbx.put_keeps | with_reducible apply Move.put_keeps | with_reducible apply State.store_keeps | with_reducible apply State.load_keeps | with_reducible apply State.strike_keeps | with_reducible apply State.record_keeps)
    | ((try lift_lets); intro x; first | (refine State.Keeps.step (s0 := s0) (x := x) ?_ ?_ <;> first | (intro hx; clear_value x) | subst x) | (refine State.Keeps.step (s0 := s0) (x := x.1) ?_ ?_ <;> first | (intro hx; clear_value x) | subst x) | (refine State.Keeps.step (s0 := s0) (x := x.s) ?_ ?_ <;> first | (intro hx; clear_value x) | subst x) | (refine State.Keeps.step (s0 := s0) (x := x.1.s) ?_ ?_ <;> first | (intro hx; clear_value x) | subst x) | (refine State.Keeps.step (s0 := s0) (x := x.x.s) ?_ ?_ <;> first | (intro hx; clear_value x) | subst x) | (refine State.OptKeeps.step (s0 := s0) (x := x) ?_ ?_ <;> first | (intro hx; clear_value x) | subst x) | (refine State.OptKeeps1.step (s0 := s0) (x := x) ?_ ?_ <;> first | (intro hx; clear_value x) | subst x) | (refine State.EffKeeps.step (s0 := s0) (x := x) ?_ ?_ <;> first | (intro hx; clear_value x) | subst x) | (have hf : _ → _ := x; clear hf; subst x) | (have hf : Fw := x; clear hf; subst x) | (have hf : Sec := x; clear hf; subst x) | clear_value x | skip)
    | with_reducible apply State.OutKeeps.ite | split
    | (refine State.Keeps.mk' ?_ rfl rfl rfl rfl rfl; with_reducible assumption)
    | (refine State.Keeps.of_fst ‹_ = (_, _)› ?_) | (refine State.OptKeeps.getD ?_ ?_) | dsimp only

theorem execColumnRefresh_keeps {s0 : State} (block : Nat) (s : State) (h : s0.Keeps s) :
    s0.OutKeeps (execColumnRefresh block s) := by
  unfold execColumnRefresh
  with_reducible repeat' first
    | assumption | apply State.setBlock_keeps | apply State.OutKeeps.next | apply State.OutKeeps.ite

theorem State.doubleRate_keeps {s0 : State} (s : State) (block layer temp : Nat) (h : s0.Keeps s) :
    s0.Keeps (State.doubleRate s block layer temp) := by
  unfold State.doubleRate
  with_reducible repeat' first
    | assumption | apply State.recordFw_keeps | apply State.setBlock_keeps
    | ((try lift_lets); intro x; first | (refine State.Keeps.step (s0 := s0) (x := x) ?_ ?_ <;> first | (intro hx; clear_value x) | subst x) | skip)
    | apply State.Keeps.ite

theorem execRefreshRateChange_keeps {s0 : State} (block layer temp : Nat) (s : State) (h : s0.Keeps s) :
    s0.OutKeeps (execRefreshRateChange block layer temp s) := by
  unfold execRefreshRateChange
  with_reducible repeat' first
    | assumption | apply State.doubleRate_keeps | apply State.OutKeeps.next | apply State.OutKeeps.ite

theorem execRefreshNormalReturn_keeps {s0 : State} (block layer : Nat) (s : State) (h : s0.Keeps s) :
    s0.OutKeeps (execRefreshNormalReturn block layer s) := by
  unfold execRefreshNormalReturn
  with_reducible repeat' first
    | assumption | apply State.recordFw_keeps | apply State.setBlock_keeps | apply State.OutKeeps.next
    | ((try lift_lets); intro x; first | (refine State.Keeps.step (s0 := s0) (x := x) ?_ ?_ <;> first | (intro hx; clear_value x) | subst x) | skip)
    | apply State.OutKeeps.ite

theorem execHbmRefresh_keeps {s0 : State} (_channel _bank : Nat) (s : State) (h : s0.Keeps s) :
    s0.OutKeeps (execHbmRefresh _channel _bank s) := by
  unfold execHbmRefresh
  with_reducible repeat' first
    | assumption | apply State.OutKeeps.next

end Sys2Proof.Machine
end

