-- ==== Sys2Proof/Laws/KeepsHost.lean ====
section
/-! SUPPORT. What measurements, sluices, settings and the host rings keep: one lemma for each operation, `f_keeps`, says that `f` leaves the queue of waiting commands, the
canonical form of memory and the glazed record as they were. -/
namespace Sys2Proof.Machine
set_option linter.all false
open Sys2Proof State

/-! ### Measure -/

theorem State.extendDev_keeps {s0 : State} (s : State) (r type data : Nat) (digest : List Byte) (h : s0.Keeps s) :
    s0.Keeps (State.extendDev s r type data digest) := by
  unfold State.extendDev
  with_reducible repeat' first
    | assumption | apply Nbx.put_keeps | apply Move.put_keeps | apply State.recordFw_keeps
    | exact State.Keeps.mk' (by assumption) rfl rfl rfl rfl rfl
    | ((try lift_lets); intro x; first | (refine State.Keeps.step (s0 := s0) (x := x) ?_ ?_ <;> first | (intro hx; clear_value x) | subst x) | (have hf : Sec := x; clear hf; subst x) | skip)
    | apply State.Keeps.ite

theorem State.extendSag_keeps {s0 : State} (s : State) (sag type data : Nat) (digest : List Byte) (h : s0.Keeps s) :
    s0.Keeps (State.extendSag s sag type data digest) := by
  unfold State.extendSag
  with_reducible repeat' first
    | assumption | apply State.recordFw_keeps | apply State.modSaggar_keeps | apply State.setSaggar_keeps
    | ((try lift_lets); intro x; first | (refine State.Keeps.step (s0 := s0) (x := x) ?_ ?_ <;> first | (intro hx; clear_value x) | subst x) | skip)
    | apply State.Keeps.ite

/-! ### Closing -/

theorem State.closeResources_keeps {s0 : State} (s : State) (sag : Nat) (h : s0.Keeps s) :
    s0.Keeps (State.closeResources s sag) := by
  unfold State.closeResources
  with_reducible repeat' first
    | assumption | apply State.zeroGranule_keeps | apply State.modSaggar_keeps | apply State.modRing_keeps
    | apply State.modNb_keeps | apply State.modSluice_keeps | apply State.setOwner_keeps
    | apply State.modCluster_keeps | refine State.Keeps.foldl ?_ (fun t a ht => ?_)

theorem State.erasePair_keeps {s0 : State} (s : State) (k : Nat) (h : s0.Keeps s) :
    s0.Keeps (State.erasePair s k) := by
  unfold State.erasePair
  with_reducible repeat' first
    | apply State.recordFw_keeps | exact State.Keeps.mk' (by assumption) rfl rfl rfl rfl rfl

theorem State.closeKeys_keeps {s0 : State} (s : State) (sag : Nat) (h : s0.Keeps s) :
    s0.Keeps (State.closeKeys s sag) := by
  unfold State.closeKeys
  with_reducible repeat' first
    | assumption | apply State.erasePair_keeps | apply State.finish_keeps | apply State.modSaggar_keeps
    | refine State.Keeps.foldl ?_ (fun t a ht => ?_)
    | (refine State.Keeps.mk' ?_ rfl rfl rfl rfl rfl; first | apply State.erasePair_keeps | apply State.finish_keeps | apply State.modSaggar_keeps | refine State.Keeps.foldl ?_ (fun t a ht => ?_))
    | split

theorem State.closeSaggar_keeps {s0 : State} (s : State) (sag : Nat) (cmd : Option Nat) (h : s0.Keeps s) :
    s0.Keeps (State.closeSaggar s sag cmd) := by
  unfold State.closeSaggar
  with_reducible repeat' first
    | assumption | apply State.closeKeys_keeps | apply State.closeResources_keeps | apply State.finish_keeps
    | apply State.recordFw_keeps | apply State.modSaggar_keeps
    | ((try lift_lets); intro x; first | (refine State.Keeps.step (s0 := s0) (x := x) ?_ ?_ <;> first | (intro hx; clear_value x) | subst x) | skip)
    | split

theorem State.endReset_keeps {s0 : State} (s : State) (r : ResetRun) (h : s0.Keeps s) :
    s0.Keeps (State.endReset s r) := by
  unfold State.endReset
  with_reducible repeat' first
    | assumption | apply State.closeSaggar_keeps | apply State.finish_keeps | split

theorem State.settleResets_keeps {s0 : State} (s : State) (h : s0.Keeps s) :
    s0.Keeps (State.settleResets s) := by
  unfold State.settleResets
  with_reducible repeat' first
    | apply State.endReset_keeps | refine State.Keeps.foldl ?_ (fun t a ht => ?_)
    | exact State.Keeps.mk' (by assumption) rfl rfl rfl rfl rfl

theorem State.unitSettle_keeps {s0 : State} (s : State) (n : Nat) (h : s0.Keeps s) :
    s0.Keeps (State.unitSettle s n) := by
  unfold State.unitSettle
  with_reducible repeat' first
    | assumption | apply State.settleResets_keeps | apply State.unitReturned_keeps | apply State.Keeps.ite

/-! ### Sluice -/

theorem State.countRefused_keeps {s0 : State} (s : State) (a st sag : Nat) (h : s0.Keeps s) :
    s0.Keeps (State.countRefused s a st sag) := by
  unfold State.countRefused
  with_reducible repeat' first
    | assumption | apply State.record_keeps | apply State.modSite_keeps | apply State.Keeps.ite

theorem State.sluRead_keeps {s0 : State} (s : State) (n sag a len : Nat) (h : s0.Keeps s) :
    s0.Keeps (State.sluRead s n sag a len).1 := by
  unfold State.sluRead
  with_reducible repeat' first
    | assumption | apply State.countRefused_keeps | apply State.load_keeps
    | ((try lift_lets); intro x; first | (refine State.Keeps.step (s0 := s0) (x := x.1) ?_ ?_ <;> first | (intro hx; clear_value x) | subst x) | skip)
    | split

theorem State.sluWrite_keeps {s0 : State} (s : State) (n sag : Nat) (view : List (Nat × BitVec 32)) (a : Nat) (bs : List Byte) (h : s0.Keeps s) :
    s0.Keeps (State.sluWrite s n sag view a bs).1 := by
  unfold State.sluWrite
  with_reducible repeat' first
    | assumption | apply State.countRefused_keeps | apply State.store_keeps
    | ((try lift_lets); intro x; first | (refine State.Keeps.step (s0 := s0) (x := x.1) ?_ ?_ <;> first | (intro hx; clear_value x) | subst x) | skip)
    | split

theorem Move.flush_keeps {s0 : State} (m : Move) (k : Option Sink) (h : s0.Keeps m.s) :
    s0.Keeps (Move.flush m k).s := by
  unfold Move.flush
  with_reducible repeat' first
    | assumption | apply State.sluWrite_keeps | refine State.Keeps.foldlMove ?_ (fun t a ht => ?_)
    | ((try lift_lets); intro x; first | (refine State.Keeps.step (s0 := s0) (x := x.1) ?_ ?_ <;> first | (intro hx; clear_value x) | subst x) | skip)
    | split

theorem Move.flushData_keeps {s0 : State} (m : Move) (h : s0.Keeps m.s) :
    s0.Keeps (Move.flushData m).s := by
  unfold Move.flushData
  with_reducible repeat' first
    | assumption | apply Move.flush_keeps
    | ((try lift_lets); intro x; first | (refine State.Keeps.step (s0 := s0) (x := x) ?_ ?_ <;> first | (intro hx; clear_value x) | subst x) | skip)
    | split

theorem Move.flushScales_keeps {s0 : State} (m : Move) (h : s0.Keeps m.s) :
    s0.Keeps (Move.flushScales m).s := by
  unfold Move.flushScales
  with_reducible repeat' first
    | assumption | apply Move.flush_keeps
    | ((try lift_lets); intro x; first | (refine State.Keeps.step (s0 := s0) (x := x) ?_ ?_ <;> first | (intro hx; clear_value x) | subst x) | skip)
    | split

theorem Move.flushAll_keeps {s0 : State} (m : Move) (h : s0.Keeps m.s) :
    s0.Keeps (Move.flushAll m).s := by
  unfold Move.flushAll
  with_reducible repeat' first
    | assumption | apply Move.flushScales_keeps | apply Move.flushData_keeps
    | ((try lift_lets); intro x; first | (refine State.Keeps.step (s0 := s0) (x := x) ?_ ?_ <;> first | (intro hx; clear_value x) | subst x) | skip)
    | split

theorem Move.put_keeps {s0 : State} (m : Move) (isData : Bool) (a : Nat) (b : Byte) (e : Nat) (h : s0.Keeps m.s) :
    s0.Keeps (Move.put m isData a b e).s := by
  unfold Move.put
  with_reducible repeat' first
    | assumption | apply Move.flushScales_keeps | apply Move.flushData_keeps
    | ((try lift_lets); intro x; first | (refine State.Keeps.step (s0 := s0) (x := x.1) ?_ ?_ <;> first | (intro hx; clear_value x) | subst x) | clear_value x | skip)
    | split

theorem Move.putBits_keeps {s0 : State} (m : Move) (bit w n v e : Nat) (h : s0.Keeps m.s) :
    s0.Keeps (Move.putBits m bit w n v e).s := by
  unfold Move.putBits
  with_reducible repeat' first
    | assumption | apply Move.put_keeps | refine State.Keeps.foldlMove ?_ (fun t a ht => ?_)

theorem Move.read_keeps {s0 : State} (m : Move) (a len e : Nat) (h : s0.Keeps m.s) :
    s0.Keeps (Move.read m a len e).1.s := by
  unfold Move.read
  with_reducible repeat' first
    | assumption | apply State.sluRead_keeps
    | ((try lift_lets); intro x; first | (refine State.Keeps.step (s0 := s0) (x := x.1) ?_ ?_ <;> first | (intro hx; clear_value x) | subst x) | skip)
    | split

theorem Move.readRun_keeps {s0 : State} (m : Move) (fmt : Nat) (e : Nat) (r : Run) (h : s0.Keeps m.s) :
    s0.Keeps (Move.readRun m fmt e r).1.s := by
  unfold Move.readRun
  with_reducible repeat' first
    | assumption | apply Move.read_keeps
    | ((try lift_lets); intro x; first | (refine State.Keeps.step (s0 := s0) (x := x.1.s) ?_ ?_ <;> first | (intro hx; clear_value x) | subst x) | skip)
    | split

theorem Move.piece_keeps {s0 : State} (m : Move) (d : Desc) (seed : Nat) (p : Piece) (h : s0.Keeps m.s) :
    s0.Keeps (Move.piece m d seed p).s := by
  unfold Move.piece
  with_reducible repeat' first
    | assumption | apply Move.readRun_keeps | apply Move.putBits_keeps | apply Move.put_keeps
    | refine State.Keeps.foldlMove ?_ (fun t a ht => ?_) | refine State.Keeps.foldlMove1 ?_ (fun t a ht => ?_)
    | ((try lift_lets); intro x; first | (refine State.Keeps.step (s0 := s0) (x := x.1.s) ?_ ?_ <;> first | (intro hx; clear_value x) | subst x) | skip)
    | split

theorem State.reshardLoad_keeps {s0 : State} (s : State) (n sag : Nat) (d : Desc) (h : s0.Keeps s) :
    s0.Keeps (State.reshardLoad s n sag d).1 := by
  unfold State.reshardLoad
  with_reducible repeat' first
    | assumption | apply State.sluRead_keeps
    | ((try lift_lets); intro x; first | (refine State.Keeps.step (s0 := s0) (x := x) ?_ ?_ <;> first | (intro hx; clear_value x) | subst x) | (refine State.Keeps.step (s0 := s0) (x := x.1) ?_ ?_ <;> first | (intro hx; clear_value x) | subst x) | skip)
    | split

theorem State.indexedRow_keeps {s0 : State} (m : Move) (d : Desc) (seed q i0 : Nat) (h : s0.Keeps m.s) :
    s0.Keeps (State.indexedRow m d seed q i0).s := by
  unfold State.indexedRow
  with_reducible repeat' first
    | assumption | apply Move.piece_keeps | apply Move.read_keeps | apply Move.flushAll_keeps
    | refine State.Keeps.foldlMove ?_ (fun t a ht => ?_)
    | ((try lift_lets); intro x; first | (refine State.Keeps.step (s0 := s0) (x := x.1.s) ?_ ?_ <;> first | (intro hx; clear_value x) | subst x) | skip)
    | split

theorem State.runDesc_keeps {s0 : State} (s : State) (n : Nat) (h : s0.Keeps s) :
    s0.Keeps (State.runDesc s n).s := by
  unfold State.runDesc
  with_reducible repeat' first
    | assumption | apply State.indexedRow_keeps | apply Move.piece_keeps | apply Move.flushAll_keeps
    | apply State.sluWrite_keeps | refine State.Keeps.foldlMove ?_ (fun t a ht => ?_)
    | ((try lift_lets); intro x; first | (refine State.Keeps.step (s0 := s0) (x := x.1) ?_ ?_ <;> first | (intro hx; clear_value x) | subst x) | skip)
    | split

theorem State.descDone_keeps {s0 : State} (s : State) (n tag status progress flags left : Nat) (irq : Bool) (h : s0.Keeps s) :
    s0.Keeps (State.descDone s n tag status progress flags left irq) := by
  unfold State.descDone
  with_reducible repeat' first
    | assumption | apply State.setSluice_keeps
    | (refine State.Keeps.mk' ?_ rfl rfl rfl rfl rfl; first | apply State.setSluice_keeps)

theorem State.haltSluice_keeps {s0 : State} (s : State) (n status addr progress : Nat) (h : s0.Keeps s) :
    s0.Keeps (State.haltSluice s n status addr progress) := by
  unfold State.haltSluice
  with_reducible repeat' first
    | assumption | apply State.recordFw_keeps | apply State.raiseVector_keeps | apply State.modRing_keeps
    | apply State.setSluice_keeps | apply State.Keeps.ite

theorem State.endHalted_keeps {s0 : State} (s : State) (n : Nat) (h : s0.Keeps s) :
    s0.Keeps (State.endHalted s n) := by
  unfold State.endHalted
  with_reducible repeat' first
    | assumption | apply State.descDone_keeps | apply State.modRing_keeps
    | ((try lift_lets); intro x; first | (refine State.Keeps.step (s0 := s0) (x := x) ?_ ?_ <;> first | (intro hx; clear_value x) | subst x) | skip)
    | apply State.Keeps.ite

theorem State.beginReshard_keeps {s0 : State} (s : State) (n : Nat) (h : s0.Keeps s) :
    s0.Keeps (State.beginReshard s n) := by
  unfold State.beginReshard
  with_reducible repeat' first
    | assumption | apply State.haltSluice_keeps | apply State.descDone_keeps | apply State.reshardLoad_keeps
    | apply State.modSluice_keeps
    | ((try lift_lets); intro x; first | (refine State.Keeps.step (s0 := s0) (x := x.1) ?_ ?_ <;> first | (intro hx; clear_value x) | subst x) | skip)
    | split

theorem execSluiceDescriptorStart_keeps {s0 : State} (sluice : Nat) (strikes : Strikes) (s : State) (h : s0.Keeps s) :
    s0.OutKeeps (execSluiceDescriptorStart sluice strikes s) := by
  unfold execSluiceDescriptorStart
  with_reducible repeat' first
    | assumption | apply State.beginReshard_keeps | apply State.haltSluice_keeps | apply State.descDone_keeps
    | apply State.load_keeps | apply State.strike_keeps | apply State.modRing_keeps | apply State.modSluice_keeps
    | apply State.OutKeeps.next
    | ((try lift_lets); intro x; first | (refine State.Keeps.step (s0 := s0) (x := x) ?_ ?_ <;> first | (intro hx; clear_value x) | subst x) | (refine State.Keeps.step (s0 := s0) (x := x.1) ?_ ?_ <;> first | (intro hx; clear_value x) | subst x) | skip)
    | split

theorem execSluiceDescriptorComplete_keeps {s0 : State} (sluice : Nat) (s : State) (h : s0.Keeps s) :
    s0.OutKeeps (execSluiceDescriptorComplete sluice s) := by
  unfold execSluiceDescriptorComplete
  with_reducible repeat' first
    | assumption | apply State.descDone_keeps | apply State.runDesc_keeps | apply State.modSluice_keeps
    | apply State.OutKeeps.next
    | ((try lift_lets); intro x; first | (refine State.Keeps.step (s0 := s0) (x := x) ?_ ?_ <;> first | (intro hx; clear_value x) | subst x) | skip)
    | apply State.OutKeeps.ite

theorem execSluiceHalt_keeps {s0 : State} (sluice : Nat) (strikes : Strikes) (s : State) (h : s0.Keeps s) :
    s0.OutKeeps (execSluiceHalt sluice strikes s) := by
  unfold execSluiceHalt
  with_reducible repeat' first
    | assumption | apply State.haltSluice_keeps | apply State.runDesc_keeps | apply State.strike_keeps
    | apply State.modSluice_keeps | apply State.OutKeeps.next
    | ((try lift_lets); intro x; first | (refine State.Keeps.step (s0 := s0) (x := x) ?_ ?_ <;> first | (intro hx; clear_value x) | subst x) | skip)
    | split

theorem execSluiceResume_keeps {s0 : State} (id : Nat) (s : State) (h : s0.Keeps s) :
    s0.OutKeeps (execSluiceResume id s) := by
  unfold execSluiceResume
  with_reducible repeat' first
    | assumption | apply refuse_keeps | apply State.beginReshard_keeps | apply State.endHalted_keeps
    | apply State.finish_keeps | apply State.recordFw_keeps | apply State.modRing_keeps
    | apply State.modSluice_keeps | apply State.OutKeeps.next
    | ((try lift_lets); intro x; first | (refine State.Keeps.step (s0 := s0) (x := x) ?_ ?_ <;> first | (intro hx; clear_value x) | subst x) | skip)
    | split

theorem execSluiceRewetDone_keeps {s0 : State} (sluice : Nat) (s : State) (h : s0.Keeps s) :
    s0.OutKeeps (execSluiceRewetDone sluice s) := by
  unfold execSluiceRewetDone
  with_reducible repeat' first
    | assumption | apply State.settleResets_keeps | apply State.sluiceReturned_keeps
    | apply State.returnSluice_keeps | apply State.OutKeeps.next | apply State.OutKeeps.ite

/-! ### Settings -/

theorem State.putSetting_keeps {s0 : State} (s : State) (k i v : Nat) (h : s0.Keeps s) :
    s0.Keeps (State.putSetting s k i v) := by
  unfold State.putSetting
  with_reducible repeat' first
    | apply State.setWeir_keeps | apply State.modSaggar_keeps | apply State.setOwner_keeps
    | apply State.modCluster_keeps | exact State.Keeps.mk' (by assumption) rfl rfl rfl rfl rfl
    | ((try lift_lets); intro x; first | (have hf : Fw := x; clear hf; subst x) | skip) | apply State.Keeps.ite

theorem State.dropTxn_keeps {s0 : State} (s : State) (id : Nat) (h : s0.Keeps s) :
    s0.Keeps (State.dropTxn s id) := by
  unfold State.dropTxn
  with_reducible repeat' first
    | exact State.Keeps.mk' (by assumption) rfl rfl rfl rfl rfl

theorem State.setEntries_keeps {s0 : State} (s : State) (c : Cmd) (h : s0.Keeps s) :
    s0.Keeps (State.setEntries s c).1 := by
  unfold State.setEntries
  with_reducible repeat' first
    | assumption | apply State.load_keeps
    | ((try lift_lets); intro x; first | (refine State.Keeps.step (s0 := s0) (x := x.1) ?_ ?_ <;> first | (intro hx; clear_value x) | subst x) | skip)
    | split

theorem State.putEntry_keeps {s0 : State} (s : State) (e : CfgEntry) (h : s0.Keeps s) :
    s0.Keeps (State.putEntry s e) := by
  unfold State.putEntry
  with_reducible repeat' first
    | assumption | apply State.putSetting_keeps | apply State.rwtPut_keeps
    | refine State.Keeps.foldl ?_ (fun t a ht => ?_) | split

theorem State.putEntries_keeps {s0 : State} (s : State) (l : List CfgEntry) (h : s0.Keeps s) :
    s0.Keeps (State.putEntries s l) := by
  unfold State.putEntries
  with_reducible repeat' first
    | assumption | apply State.putEntry_keeps | refine State.Keeps.foldl ?_ (fun t a ht => ?_)

theorem State.wakeMoved_keeps {s0 : State} (s : State) (l : List Nat) (h : s0.Keeps s) :
    s0.Keeps (State.wakeMoved s l) := by
  unfold State.wakeMoved
  with_reducible repeat' first
    | assumption | apply State.modCluster_keeps | refine State.Keeps.foldl ?_ (fun t a ht => ?_)

theorem State.endMovedSluices_keeps {s0 : State} (s t : State) (l : List CfgEntry) (h : s0.Keeps s) :
    s0.Keeps (State.endMovedSluices s t l) := by
  unfold State.endMovedSluices
  with_reducible repeat' first
    | assumption | apply State.endHalted_keeps | refine State.Keeps.foldl ?_ (fun t a ht => ?_) | split

theorem State.tellShares_keeps {s0 : State} (s t : State) (l : List CfgEntry) (h : s0.Keeps t) : s0.Keeps (State.tellShares s t l) := by
  unfold State.tellShares
  refine State.Keeps.foldl h (fun u r hu => ?_)
  split
  · exact .ite hu (hu.set rfl rfl rfl)
  · exact hu

theorem State.retireFreed_keeps {s0 : State} (s : State) (h : s0.Keeps s) :
    s0.Keeps (State.retireFreed s) := by
  unfold State.retireFreed
  with_reducible repeat' first
    | assumption | apply State.recordFw_keeps | apply State.setGranState_keeps
    | refine State.Keeps.foldl ?_ (fun t a ht => ?_)

theorem State.measureCommit_keeps {s0 : State} (s : State) (txn : Nat) (fresh held : List Nat) (h : s0.Keeps s) :
    s0.Keeps (State.measureCommit s txn fresh held) := by
  unfold State.measureCommit
  with_reducible repeat' first
    | assumption | apply State.extendSag_keeps | apply State.modSaggar_keeps
    | refine State.Keeps.foldl ?_ (fun t a ht => ?_)

theorem State.noteChanged_keeps {s0 : State} (s : State) (l : List CfgEntry) (h : s0.Keeps s) :
    s0.Keeps (State.noteChanged s l) := by
  unfold State.noteChanged
  with_reducible repeat' first
    | exact State.Keeps.mk' (by assumption) rfl rfl rfl rfl rfl
    | ((try lift_lets); intro x; first | (refine State.Keeps.step (s0 := s0) (x := x) ?_ ?_ <;> first | (intro hx; clear_value x) | subst x) | skip)

theorem State.applyEntries_keeps {s0 : State} (s : State) (txn : Nat) (held : List Nat) (l : List CfgEntry) (h : s0.Keeps s) :
    s0.Keeps (State.applyEntries s txn held l) := by
  unfold State.applyEntries
  refine State.measureCommit_keeps _ _ _ _ (State.Keeps.mk' ?_ rfl rfl rfl rfl rfl)
  with_reducible repeat' first
    | assumption | apply State.tellShares_keeps | apply State.endMovedSluices_keeps | apply State.wakeMoved_keeps
    | apply State.putEntries_keeps | apply State.enterSite_keeps
    | apply State.zeroGranule_keeps | refine State.Keeps.foldl ?_ (fun t a ht => ?_)

theorem State.endFills_keeps {s0 : State} (s : State) (bad : List Nat) (h : s0.Keeps s) :
    s0.Keeps (State.endFills s bad) := by
  unfold State.endFills
  refine State.retireFreed_keeps _ (State.Keeps.mk' ?_ rfl rfl rfl rfl rfl)
  exact State.Keeps.foldl h (fun t a ht => State.retirePending_keeps _ _ ht)

theorem State.endCommit_keeps {s0 : State} (s : State) (c : Commit) (status : Nat) (r : Result) (h : s0.Keeps s) :
    s0.Keeps (State.endCommit s c status r) := by
  unfold State.endCommit
  with_reducible repeat' first
    | apply State.dropTxn_keeps | apply State.releaseSaggars_keeps | apply State.finish_keeps
    | exact State.Keeps.mk' (by assumption) rfl rfl rfl rfl rfl

theorem State.beginCommits_keeps {s0 : State} (n : Nat) (s : State) (h : s0.Keeps s) :
    s0.Keeps (State.beginCommits n s) := by
  induction n generalizing s with
  | zero => exact h
  | succ f ih =>
    unfold State.beginCommits
    split
    · exact h
    · split
      · exact ih _ (State.endCommit_keeps _ _ _ _ h)
      · lift_lets
        intro st wait
        split
        · exact ih _ (State.endCommit_keeps _ _ _ _ h)
        · exact State.holdSaggars_keeps _ _ (h.set rfl rfl rfl)

theorem execCfgBegin_keeps {s0 : State} (id : Nat) (s : State) (h : s0.Keeps s) :
    s0.OutKeeps (execCfgBegin id s) := by
  unfold execCfgBegin
  with_reducible repeat' first
    | assumption | apply refuse_keeps | apply State.finish_keeps | apply State.OutKeeps.next
    | exact State.Keeps.mk' (by assumption) rfl rfl rfl rfl rfl
    | ((try lift_lets); intro x; first | (refine State.Keeps.step (s0 := s0) (x := x) ?_ ?_ <;> first | (intro hx; clear_value x) | subst x) | skip)
    | split

theorem execCfgSet_keeps {s0 : State} (id : Nat) (s : State) (h : s0.Keeps s) :
    s0.OutKeeps (execCfgSet id s) := by
  unfold execCfgSet
  with_reducible repeat' first
    | assumption | apply refuse_keeps | apply State.setEntries_keeps | apply State.finish_keeps
    | apply State.OutKeeps.next | exact State.Keeps.mk' (by assumption) rfl rfl rfl rfl rfl
    | ((try lift_lets); intro x; first | (refine State.Keeps.step (s0 := s0) (x := x) ?_ ?_ <;> first | (intro hx; clear_value x) | subst x) | (refine State.Keeps.step (s0 := s0) (x := x.1) ?_ ?_ <;> first | (intro hx; clear_value x) | subst x) | skip)
    | split

theorem execCfgCommit_keeps {s0 : State} (id : Nat) (s : State) (h : s0.Keeps s) :
    s0.OutKeeps (execCfgCommit id s) := by
  unfold execCfgCommit
  with_reducible repeat' first
    | assumption | apply refuse_keeps | apply State.beginCommits_keeps | apply State.setPhase_keeps
    | apply State.OutKeeps.next | exact State.Keeps.mk' (by assumption) rfl rfl rfl rfl rfl
    | ((try lift_lets); intro x; first | (refine State.Keeps.step (s0 := s0) (x := x) ?_ ?_ <;> first | (intro hx; clear_value x) | subst x) | skip)
    | split

theorem execCommitApply_keeps {s0 : State} (id : Nat) (badFills : List Nat) (s : State) (h : s0.Keeps s) :
    s0.OutKeeps (execCommitApply id badFills s) := by
  unfold execCommitApply
  with_reducible repeat' first
    | assumption | apply State.beginCommits_keeps | apply State.endCommit_keeps | apply State.endFills_keeps
    | apply State.applyEntries_keeps | apply State.noteChanged_keeps | apply State.OutKeeps.next
    | exact State.Keeps.mk' (by assumption) rfl rfl rfl rfl rfl
    | ((try lift_lets); intro x; first | (refine State.Keeps.step (s0 := s0) (x := x) ?_ ?_ <;> first | (intro hx; clear_value x) | subst x) | skip)
    | split

theorem execQuiescenceTimeout_keeps {s0 : State} (id : Nat) (s : State) (h : s0.Keeps s) :
    s0.OutKeeps (execQuiescenceTimeout id s) := by
  unfold execQuiescenceTimeout
  with_reducible repeat' first
    | assumption | apply State.beginCommits_keeps | apply State.endCommit_keeps | apply State.recordFw_keeps
    | apply State.OutKeeps.next
    | ((try lift_lets); intro x; first | (refine State.Keeps.step (s0 := s0) (x := x) ?_ ?_ <;> first | (intro hx; clear_value x) | subst x) | skip)
    | split

theorem execCfgAbort_keeps {s0 : State} (id : Nat) (s : State) (h : s0.Keeps s) :
    s0.OutKeeps (execCfgAbort id s) := by
  unfold execCfgAbort
  with_reducible repeat' first
    | assumption | apply refuse_keeps | apply State.dropTxn_keeps | apply State.finish_keeps
    | apply State.OutKeeps.next | split

theorem execTransactionTimeout_keeps {s0 : State} (txn : Nat) (s : State) (h : s0.Keeps s) :
    s0.OutKeeps (execTransactionTimeout txn s) := by
  unfold execTransactionTimeout
  with_reducible repeat' first
    | assumption | apply State.dropTxn_keeps | apply State.recordFw_keeps | apply State.OutKeeps.next | split

theorem execCfgGet_keeps {s0 : State} (id : Nat) (s : State) (h : s0.Keeps s) :
    s0.OutKeeps (execCfgGet id s) := by
  unfold execCfgGet
  with_reducible repeat' first
    | assumption | apply refuse_keeps | apply State.finish_keeps | apply State.OutKeeps.next
    | ((try lift_lets); intro x; first | (refine State.Keeps.step (s0 := s0) (x := x) ?_ ?_ <;> first | (intro hx; clear_value x) | subst x) | skip)
    | split

/-! ### HostRings -/

theorem State.ringTheBell_keeps {s0 : State} (s : State) (dom idx n value : Nat) (h : s0.Keeps s) :
    s0.Keeps (State.ringTheBell s dom idx n value) := by
  unfold State.ringTheBell
  with_reducible repeat' first
    | assumption | apply State.record_keeps | apply State.setRing_keeps
    | exact State.Keeps.mk' (by assumption) rfl rfl rfl rfl rfl
    | ((try lift_lets); intro x; first | (refine State.Keeps.step (s0 := s0) (x := x) ?_ ?_ <;> first | (intro hx; clear_value x) | subst x) | skip)
    | apply State.Keeps.ite

theorem State.regPut_keeps {s0 : State} (s : State) (module o v : Nat) (h : s0.Keeps s) :
    s0.Keeps (State.regPut s module o v) := by
  unfold State.regPut
  with_reducible repeat' first
    | assumption | apply Nbx.put_keeps | apply State.ringTheBell_keeps | apply Move.put_keeps
    | apply State.modRegion_keeps | apply State.modSaggar_keeps | apply State.modRing_keeps
    | apply State.modSluice_keeps | refine State.Keeps.foldlMove ?_ (fun t a ht => ?_)
    | refine State.Keeps.foldlMove1 ?_ (fun t a ht => ?_) | refine State.Keeps.foldlNbx ?_ (fun t a ht => ?_)
    | refine State.Keeps.foldlNbx1 ?_ (fun t a ht => ?_) | refine State.Keeps.foldlSlx ?_ (fun t a ht => ?_)
    | refine State.Keeps.foldlSlx1 ?_ (fun t a ht => ?_) | refine State.Keeps.foldl ?_ (fun t a ht => ?_)
    | refine State.Keeps.foldl1 ?_ (fun t a ht => ?_) | exact State.Keeps.mk' (by assumption) rfl rfl rfl rfl rfl
    | apply State.Keeps.ite

theorem State.raiseUnmasked_keeps {s0 : State} (s : State) (h : s0.Keeps s) :
    s0.Keeps (State.raiseUnmasked s) := by
  unfold State.raiseUnmasked
  with_reducible repeat' first
    | apply State.raiseVector_keeps | refine State.Keeps.foldl ?_ (fun t a ht => ?_)
    | exact State.Keeps.mk' (by assumption) rfl rfl rfl rfl rfl

theorem execRegisterWrite_keeps {s0 : State} (module offset size value : Nat) (s : State) (h : s0.Keeps s) :
    s0.OutKeeps (execRegisterWrite module offset size value s) := by
  unfold execRegisterWrite
  with_reducible repeat' first
    | apply State.raiseUnmasked_keeps | apply State.regPut_keeps | apply State.OutKeeps.next
    | exact State.Keeps.mk' (by assumption) rfl rfl rfl rfl rfl
    | ((try lift_lets); intro x; first | (refine State.Keeps.step (s0 := s0) (x := x) ?_ ?_ <;> first | (intro hx; clear_value x) | subst x) | skip)
    | split

theorem execDoorbell_keeps {s0 : State} (module ring value : Nat) (s : State) (h : s0.Keeps s) :
    s0.OutKeeps (execDoorbell module ring value s) := by
  unfold execDoorbell
  with_reducible repeat' first
    | assumption | apply State.ringTheBell_keeps | apply State.OutKeeps.next | apply State.OutKeeps.ite

theorem execCoreDoorbell_keeps {s0 : State} (site port : Nat) (priority : Bool) (ring value : Nat) (s : State) (h : s0.Keeps s) :
    s0.OutKeeps (execCoreDoorbell site port priority ring value s) := by
  unfold execCoreDoorbell
  with_reducible repeat' first
    | assumption | apply State.ringTheBell_keeps | apply State.remoteStatus_keeps | apply State.modSite_keeps
    | apply State.OutKeeps.next
    | ((try lift_lets); intro x; first | (refine State.Keeps.step (s0 := s0) (x := x) ?_ ?_ <;> first | (intro hx; clear_value x) | subst x) | skip)
    | split

theorem State.admitCmd_keeps {s0 : State} (s : State) (c : Cmd) (want : Nat) (h : s0.Keeps s) :
    s0.Keeps (State.admitCmd s c want) := by
  unfold State.admitCmd
  with_reducible repeat' first
    | assumption | apply refuse_keeps | apply State.refuse_keeps
    | exact State.Keeps.mk' (by assumption) rfl rfl rfl rfl rfl
    | ((try lift_lets); intro x; first | (refine State.Keeps.step (s0 := s0) (x := x) ?_ ?_ <;> first | (intro hx; clear_value x) | subst x) | skip)
    | apply State.Keeps.ite

theorem State.noteTurn_keeps {s0 : State} (s : State) (g n : Nat) (h : s0.Keeps s) : s0.Keeps (s.noteTurn g n) :=
  h.mk' rfl rfl rfl rfl rfl

theorem execCommandFetch_keeps {s0 : State} (ring : Nat) (strikes : Strikes) (s : State) (h : s0.Keeps s) :
    s0.OutKeeps (execCommandFetch ring strikes s) := by
  unfold execCommandFetch
  with_reducible repeat' first
    | apply State.admitCmd_keeps | apply State.load_keeps | apply State.strike_keeps | apply State.setRing_keeps
    | apply State.noteTurn_keeps | apply State.OutKeeps.next | exact State.Keeps.mk' (by assumption) rfl rfl rfl rfl rfl
    | ((try lift_lets); intro x; first | (refine State.Keeps.step (s0 := s0) (x := x) ?_ ?_ <;> first | (intro hx; clear_value x) | subst x) | (refine State.Keeps.step (s0 := s0) (x := x.1) ?_ ?_ <;> first | (intro hx; clear_value x) | subst x) | skip)
    | split

theorem State.complGone_keeps {s0 : State} (s : State) (k : Nat) (c : Compl) (h : s0.Keeps s) :
    s0.Keeps (State.complGone s k c) := by
  unfold State.complGone
  with_reducible repeat' first
    | exact State.Keeps.mk' (by assumption) rfl rfl rfl rfl rfl
    | ((try lift_lets); intro x; first | (refine State.Keeps.step (s0 := s0) (x := x) ?_ ?_ <;> first | (intro hx; clear_value x) | subst x) | skip)
    | split

theorem State.complLost_keeps {s0 : State} (s : State) (n : Nat) (c : Compl) (h : s0.Keeps s) :
    s0.Keeps (State.complLost s n c) := by
  unfold State.complLost
  with_reducible repeat' first
    | assumption | apply State.recordFw_keeps | apply State.modRing_keeps

theorem State.countIrq_keeps {s0 : State} (s : State) (n : Nat) (h : s0.Keeps s) :
    s0.Keeps (State.countIrq s n) := by
  unfold State.countIrq
  with_reducible repeat' first
    | assumption | apply State.raiseVector_keeps | apply State.setRing_keeps | apply State.Keeps.ite

theorem State.stallRing_keeps {s0 : State} (s : State) (n : Nat) (poisoned : Bool) (h : s0.Keeps s) :
    s0.Keeps (State.stallRing s n poisoned) := by
  unfold State.stallRing
  with_reducible repeat' first
    | assumption | apply State.modRing_keeps

theorem State.writeCompl_keeps {s0 : State} (s : State) (n k : Nat) (c : Compl) (h : s0.Keeps s) :
    s0.Keeps (State.writeCompl s n k c) := by
  unfold State.writeCompl
  with_reducible repeat' first
    | assumption | apply State.stallRing_keeps | apply State.countIrq_keeps | apply State.complLost_keeps
    | apply State.complGone_keeps | apply State.store_keeps | apply State.modRing_keeps
    | ((try lift_lets); intro x; first | (refine State.Keeps.step (s0 := s0) (x := x) ?_ ?_ <;> first | (intro hx; clear_value x) | subst x) | (refine State.Keeps.step (s0 := s0) (x := x.1) ?_ ?_ <;> first | (intro hx; clear_value x) | subst x) | skip)
    | apply State.Keeps.ite

theorem State.mgmtCompl_keeps {s0 : State} (s : State) (id k : Nat) (c : Compl) (h : s0.Keeps s) :
    s0.Keeps (State.mgmtCompl s id k c) := by
  unfold State.mgmtCompl
  with_reducible repeat' first
    | apply State.complGone_keeps | exact State.Keeps.mk' (by assumption) rfl rfl rfl rfl rfl

theorem execCompletionWrite_keeps {s0 : State} (k : Nat) (s : State) (h : s0.Keeps s) :
    s0.OutKeeps (execCompletionWrite k s) := by
  unfold execCompletionWrite
  with_reducible repeat' first
    | assumption | apply State.mgmtCompl_keeps | apply State.writeCompl_keeps | apply State.OutKeeps.next | split

theorem execCompletionStallTimeout_keeps {s0 : State} (ring : Nat) (s : State) (h : s0.Keeps s) :
    s0.OutKeeps (execCompletionStallTimeout ring s) := by
  unfold execCompletionStallTimeout
  with_reducible repeat' first
    | assumption | apply State.recordFw_keeps | apply State.setRing_keeps | apply State.OutKeeps.next
    | apply State.OutKeeps.ite

theorem execCompletionSlotRetry_keeps {s0 : State} (ring : Nat) (s : State) (h : s0.Keeps s) :
    s0.OutKeeps (execCompletionSlotRetry ring s) := by
  unfold execCompletionSlotRetry
  with_reducible repeat' first
    | assumption | apply State.writeCompl_keeps | apply State.OutKeeps.next | split

theorem execInterruptCoalesceTimeout_keeps {s0 : State} (ring : Nat) (s : State) (h : s0.Keeps s) :
    s0.OutKeeps (execInterruptCoalesceTimeout ring s) := by
  unfold execInterruptCoalesceTimeout
  with_reducible repeat' first
    | assumption | apply State.raiseVector_keeps | apply State.setRing_keeps | apply State.OutKeeps.next
    | ((try lift_lets); intro x; first | (refine State.Keeps.step (s0 := s0) (x := x) ?_ ?_ <;> first | (intro hx; clear_value x) | subst x) | skip)
    | split

theorem execNop_keeps {s0 : State} (id : Nat) (s : State) (h : s0.Keeps s) :
    s0.OutKeeps (execNop id s) := by
  unfold execNop
  with_reducible repeat' first
    | assumption | apply State.finish_keeps | apply State.OutKeeps.next | split

theorem execRingReset_keeps {s0 : State} (id : Nat) (s : State) (h : s0.Keeps s) :
    s0.OutKeeps (execRingReset id s) := by
  unfold execRingReset
  with_reducible repeat' first
    | assumption | refine Nbx.descriptor_keeps _ _ _ _ ?_ (fun t l ht => ?_) | apply refuse_keeps
    | apply State.enterRing_keeps | apply State.setPhase_keeps | apply State.OutKeeps.next
    | exact State.Keeps.mk' (by assumption) rfl rfl rfl rfl rfl
    | ((try lift_lets); intro x; first | (refine State.Keeps.step (s0 := s0) (x := x) ?_ ?_ <;> first | (intro hx; clear_value x) | subst x) | (have hf : Fw := x; clear hf; subst x) | skip)
    | split

theorem execRingRewetDone_keeps {s0 : State} (ring : Nat) (s : State) (h : s0.Keeps s) :
    s0.OutKeeps (execRingRewetDone ring s) := by
  unfold execRingRewetDone
  with_reducible repeat' first
    | assumption | apply State.settleResets_keeps | apply State.ringReturned_keeps | apply State.returnRing_keeps
    | apply State.OutKeeps.next | apply State.OutKeeps.ite

theorem execUcieModuleLoss_keeps {s0 : State} (module : Nat) (s : State) (h : s0.Keeps s) :
    s0.OutKeeps (execUcieModuleLoss module s) := by
  unfold execUcieModuleLoss
  with_reducible repeat' first
    | assumption | apply State.record_keeps | apply State.OutKeeps.next
    | exact State.Keeps.mk' (by assumption) rfl rfl rfl rfl rfl | apply State.OutKeeps.ite

theorem execJobOpen_keeps {s0 : State} (id : Nat) (s : State) (h : s0.Keeps s) :
    s0.OutKeeps (execJobOpen id s) := by
  unfold execJobOpen
  with_reducible repeat' first
    | assumption | apply refuse_keeps | apply State.refuse_keeps | apply State.finish_keeps
    | apply State.OutKeeps.next | exact State.Keeps.mk' (by assumption) rfl rfl rfl rfl rfl
    | ((try lift_lets); intro x; first | (refine State.Keeps.step (s0 := s0) (x := x) ?_ ?_ <;> first | (intro hx; clear_value x) | subst x) | skip)
    | split

theorem execJobClose_keeps {s0 : State} (id : Nat) (s : State) (h : s0.Keeps s) :
    s0.OutKeeps (execJobClose id s) := by
  unfold execJobClose
  with_reducible repeat' first
    | assumption | apply refuse_keeps | apply State.setPhase_keeps | apply State.OutKeeps.next
    | exact State.Keeps.mk' (by assumption) rfl rfl rfl rfl rfl
    | ((try lift_lets); intro x; first | (refine State.Keeps.step (s0 := s0) (x := x) ?_ ?_ <;> first | (intro hx; clear_value x) | subst x) | skip)
    | split

theorem execJobCloseComplete_keeps {s0 : State} (id : Nat) (s : State) (h : s0.Keeps s) :
    s0.OutKeeps (execJobCloseComplete id s) := by
  unfold execJobCloseComplete
  with_reducible repeat' first
    | apply State.finish_keeps | apply State.OutKeeps.next
    | exact State.Keeps.mk' (by assumption) rfl rfl rfl rfl rfl | split

end Sys2Proof.Machine
end

