-- ==== Sys2Proof/Laws/KeepsFabric.lean ====
section
/-! SUPPORT. What frames, pours, links and management keep: one lemma for each operation, `f_keeps`, says that `f` leaves the queue of waiting commands, the
canonical form of memory and the glazed record as they were. -/
namespace Sys2Proof.Machine
set_option linter.all false
open Sys2Proof State

/-! ### Frames -/

theorem State.portCount_keeps {s0 : State} (s : State) (port k n : Nat) (h : s0.Keeps s) :
    s0.Keeps (State.portCount s port k n) := by
  unfold State.portCount
  with_reducible repeat' first
    | assumption | apply State.modPort_keeps

theorem State.portEvent_keeps {s0 : State} (s : State) (port code : Nat) (sag : Option Nat) (job : Nat) (payload : List Byte) (h : s0.Keeps s) :
    s0.Keeps (State.portEvent s port code sag job payload) := by
  unfold State.portEvent
  with_reducible repeat' first
    | assumption | apply State.record_keeps

theorem State.replayNote_keeps {s0 : State} (s : State) (k counter : Nat) (h : s0.Keeps s) :
    s0.Keeps (State.replayNote s k counter) := by
  unfold State.replayNote
  with_reducible repeat' first
    | exact State.Keeps.mk' (by assumption) rfl rfl rfl rfl rfl

theorem State.authFail_keeps {s0 : State} (s : State) (port : Nat) (h : s0.Keeps s) :
    s0.Keeps (State.authFail s port) := by
  unfold State.authFail
  with_reducible repeat' first
    | assumption | apply State.portEvent_keeps | apply State.portCount_keeps | apply State.modPort_keeps
    | ((try lift_lets); intro x; first | (refine State.Keeps.step (s0 := s0) (x := x) ?_ ?_ <;> first | (intro hx; clear_value x) | subst x) | skip)
    | apply State.Keeps.ite

theorem State.authenticate_keeps {s0 : State} (s : State) (port : Nat) (keys : List (Nat × Nat)) (srcPort counter : Nat) (ok : Nat → Bool) (h : s0.Keeps s) :
    s0.Keeps (State.authenticate s port keys srcPort counter ok).1 := by
  unfold State.authenticate
  with_reducible repeat' first
    | assumption | apply State.authFail_keeps | apply State.replayNote_keeps | apply State.portCount_keeps
    | ((try lift_lets); intro x; first | (refine State.Keeps.step (s0 := s0) (x := x) ?_ ?_ <;> first | (intro hx; clear_value x) | subst x) | skip)
    | split

theorem State.hear_keeps {s0 : State} (s : State) (port type : Nat) (f : CtlFrame) (h : s0.Keeps s) :
    s0.Keeps (State.hear s port type f).1 := by
  unfold State.hear
  with_reducible repeat' first
    | assumption | apply State.authenticate_keeps | apply State.authFail_keeps | apply State.portCount_keeps
    | ((try lift_lets); intro x; first | (refine State.Keeps.step (s0 := s0) (x := x) ?_ ?_ <;> first | (intro hx; clear_value x) | subst x) | skip)
    | split

theorem State.forwards_keeps {s0 : State} (s : State) (port : Nat) (f : CtlFrame) (h : s0.Keeps s) :
    s0.OptKeeps (State.forwards s port f) := by
  unfold State.forwards
  with_reducible repeat' first
    | assumption | apply State.queueFrame_keeps | apply State.OptKeeps.none | apply State.OptKeeps.some
    | apply State.OptKeeps.ite

theorem State.finalFrame_keeps {s0 : State} (s : State) (port : Nat) (f : CtlFrame) (h : s0.Keeps s) :
    s0.OptKeeps1 (State.finalFrame s port f) := by
  unfold State.finalFrame
  with_reducible repeat' first
    | apply State.OptKeeps1.none | apply State.OptKeeps1.some
    | exact State.Keeps.mk' (by assumption) rfl rfl rfl rfl rfl
    | ((try lift_lets); intro x; first | (have hf : Sec := x; clear hf; subst x) | skip) | split

/-! ### PourEnd -/

theorem State.answerPackets_keeps {s0 : State} (s : State) (l : List (Packet × Nat)) (h : s0.Keeps s) :
    s0.Keeps (State.answerPackets s l) := by
  unfold State.answerPackets
  with_reducible repeat' first
    | assumption | apply State.respond_keeps | refine State.Keeps.foldl ?_ (fun t a ht => ?_)
    | apply State.Keeps.ite

theorem State.relayEnd_keeps {s0 : State} (s : State) (x : Pour) (st : Nat) (r : Report) (h : s0.Keeps s) :
    s0.Keeps (State.relayEnd s x st r) := by
  unfold State.relayEnd
  with_reducible repeat' first
    | apply State.queueFrame_keeps | exact State.Keeps.mk' (by assumption) rfl rfl rfl rfl rfl | split | dsimp only

theorem State.endPour_keeps {s0 : State} (s : State) (port : Nat) (x : Pour) (st : Nat) (here : Bool) (r : Report) (h : s0.Keeps s) :
    s0.Keeps (State.endPour s port x st here r) := by
  unfold State.endPour
  with_reducible repeat' first
    | assumption | apply State.relayEnd_keeps | apply State.answerPackets_keeps | apply State.portEvent_keeps
    | apply State.portCount_keeps | apply State.finishWord_keeps
    | ((try lift_lets); intro x; first | (refine State.Keeps.step (s0 := s0) (x := x) ?_ ?_ <;> first | (intro hx; clear_value x) | subst x) | skip)
    | split

theorem State.endCurrent_keeps {s0 : State} (s : State) (port st : Nat) (here : Bool) (r : Report) (h : s0.Keeps s) :
    s0.Keeps (State.endCurrent s port st here r) := by
  unfold State.endCurrent
  with_reducible repeat' first
    | assumption | apply State.endPour_keeps | apply State.modPort_keeps | split

theorem State.modPour_keeps {s0 : State} (s : State) (port : Nat) (f : Pour → Pour) (h : s0.Keeps s) :
    s0.Keeps (State.modPour s port f) := by
  unfold State.modPour
  with_reducible repeat' first
    | assumption | apply State.modPort_keeps

theorem State.enqueuePour_keeps {s0 : State} (s : State) (port : Nat) (x : Pour) (h : s0.Keeps s) :
    s0.Keeps (State.enqueuePour s port x) := by
  unfold State.enqueuePour
  with_reducible repeat' first
    | assumption | apply State.modPort_keeps

theorem State.requeue_keeps {s0 : State} (s : State) (port : Nat) (x : Pour) (h : s0.Keeps s) :
    s0.Keeps (State.requeue s port x) := by
  unfold State.requeue
  with_reducible repeat' first
    | assumption | apply State.enqueuePour_keeps | apply State.endPour_keeps | split

theorem State.arrivalRecord_keeps {s0 : State} (s : State) (r : Recv) (st : Nat) (h : s0.Keeps s) :
    s0.Keeps (State.arrivalRecord s r st) := by
  unfold State.arrivalRecord
  with_reducible repeat' first
    | assumption | apply State.draw_keeps | exact State.Keeps.mk' (by assumption) rfl rfl rfl rfl rfl
    | ((try lift_lets); intro x; first | (refine State.Keeps.step (s0 := s0) (x := x) ?_ ?_ <;> first | (intro hx; clear_value x) | subst x) | skip)
    | apply State.Keeps.ite

theorem State.dropRecv_keeps {s0 : State} (s : State) (port : Nat) (h : s0.Keeps s) :
    s0.Keeps (State.dropRecv s port) := by
  unfold State.dropRecv
  with_reducible repeat' first
    | apply State.modPort_keeps | exact State.Keeps.mk' (by assumption) rfl rfl rfl rfl rfl
    | ((try lift_lets); intro x; first | (refine State.Keeps.step (s0 := s0) (x := x) ?_ ?_ <;> first | (intro hx; clear_value x) | subst x) | skip)
    | split

theorem State.failRecv_keeps {s0 : State} (s : State) (port : Nat) (r : Recv) (st : Nat) (h : s0.Keeps s) :
    s0.Keeps (State.failRecv s port r st) := by
  unfold State.failRecv
  with_reducible repeat' first
    | assumption | apply State.arrivalRecord_keeps | apply State.portEvent_keeps | apply State.portCount_keeps

theorem State.abortRecv_keeps {s0 : State} (s : State) (port st : Nat) (h : s0.Keeps s) :
    s0.Keeps (State.abortRecv s port st) := by
  unfold State.abortRecv
  with_reducible repeat' first
    | assumption | apply State.failRecv_keeps | apply State.dropRecv_keeps | apply State.queueFrame_keeps | split

theorem State.takeRemote_keeps {s0 : State} (s : State) (port srcPos dstSag : Nat) (p : Packet) (h : s0.Keeps s) :
    s0.Keeps (State.takeRemote s port srcPos dstSag p).1 := by
  unfold State.takeRemote
  with_reducible repeat' first
    | assumption | exact State.Keeps.mk' (by assumption) rfl rfl rfl rfl rfl
    | ((try lift_lets); intro x; first | (refine State.Keeps.step (s0 := s0) (x := x) ?_ ?_ <;> first | (intro hx; clear_value x) | subst x) | skip)
    | split

theorem State.meshFrame_keeps {s0 : State} (s : State) (pos port sag peer : Nat) (p : Packet) (h : s0.Keeps s) :
    s0.Keeps (State.meshFrame s pos port sag peer p) := by
  unfold State.meshFrame
  with_reducible repeat' first
    | assumption | apply State.modPort_keeps

theorem State.answerRemote_keeps {s0 : State} (s : State) (port pos sag : Nat) (p : Packet) (h : s0.Keeps s) :
    s0.Keeps (State.answerRemote s port pos sag p) := by
  unfold State.answerRemote
  with_reducible repeat' first
    | assumption | apply State.meshFrame_keeps | split

theorem State.queueDone_keeps {s0 : State} (s : State) (port : Nat) (r : Resv) (failed nodes : List Nat) (keep : Bool) (h : s0.Keeps s) :
    s0.Keeps (State.queueDone s port r failed nodes keep) := by
  unfold State.queueDone
  with_reducible repeat' first
    | assumption | apply State.queueFrame_keeps | apply State.modPort_keeps
    | ((try lift_lets); intro x; first | (refine State.Keeps.step (s0 := s0) (x := x) ?_ ?_ <;> first | (intro hx; clear_value x) | subst x) | skip)
    | apply State.Keeps.ite

theorem State.settleCascade_keeps {s0 : State} (s : State) (port : Nat) (h : s0.Keeps s) :
    s0.Keeps (State.settleCascade s port) := by
  unfold State.settleCascade
  with_reducible repeat' first
    | assumption | apply State.queueDone_keeps | apply State.dropRecv_keeps | split

theorem State.openCascade_keeps {s0 : State} (s : State) (port : Nat) (r : Recv) (h : s0.Keeps s) :
    s0.Keeps (State.openCascade s port r) := by
  unfold State.openCascade
  with_reducible repeat' first
    | assumption | apply State.settleCascade_keeps | apply State.takeRemote_keeps | apply State.modPort_keeps
    | refine State.Keeps.foldl1 ?_ (fun t a ht => ?_)

theorem State.forwardPour_keeps {s0 : State} (s : State) (port q : Nat) (r : Recv) (h : s0.Keeps s) :
    s0.Keeps (State.forwardPour s port q r) := by
  unfold State.forwardPour
  with_reducible repeat' first
    | assumption | apply State.enqueuePour_keeps | apply State.endPour_keeps | apply State.Keeps.ite

theorem State.sendDone_keeps {s0 : State} (s : State) (port : Nat) (h : s0.Keeps s) :
    s0.Keeps (State.sendDone s port) := by
  unfold State.sendDone
  with_reducible repeat' first
    | assumption | apply State.forwardPour_keeps | apply State.openCascade_keeps | apply State.queueDone_keeps
    | apply State.failRecv_keeps | apply State.dropRecv_keeps | apply State.arrivalRecord_keeps
    | apply State.modPort_keeps
    | ((try lift_lets); intro x; first | (refine State.Keeps.step (s0 := s0) (x := x) ?_ ?_ <;> first | (intro hx; clear_value x) | subst x) | skip)
    | split

theorem State.startLease_keeps {s0 : State} (s : State) (seq : Nat) (h : s0.Keeps s) :
    s0.Keeps (State.startLease s seq) := by
  unfold State.startLease
  with_reducible repeat' first
    | exact State.Keeps.mk' (by assumption) rfl rfl rfl rfl rfl

theorem State.clearTxq_keeps {s0 : State} (s : State) (port : Nat) (h : s0.Keeps s) :
    s0.Keeps (State.clearTxq s port) := by
  unfold State.clearTxq
  with_reducible repeat' first
    | assumption | apply State.startLease_keeps | apply State.answerPackets_keeps | apply State.modPort_keeps
    | refine State.Keeps.foldl ?_ (fun t a ht => ?_)

theorem State.portDown_keeps {s0 : State} (s : State) (port : Nat) (st : PortSt) (cause : Nat) (h : s0.Keeps s) :
    s0.Keeps (State.portDown s port st cause) := by
  unfold State.portDown
  with_reducible repeat' first
    | assumption | apply State.clearTxq_keeps | apply State.dropRecv_keeps | apply State.requeue_keeps
    | apply State.endPour_keeps | apply State.portEvent_keeps | apply State.portCount_keeps
    | apply State.modPort_keeps | refine State.Keeps.foldl ?_ (fun t a ht => ?_) | split

theorem State.rangePort_keeps {s0 : State} (s : State) (port echoNs : Nat) (h : s0.Keeps s) :
    s0.Keeps (State.rangePort s port echoNs) := by
  unfold State.rangePort
  with_reducible repeat' first
    | assumption | apply State.portEvent_keeps | apply State.modPort_keeps
    | ((try lift_lets); intro x; first | (refine State.Keeps.step (s0 := s0) (x := x) ?_ ?_ <;> first | (intro hx; clear_value x) | subst x) | skip)
    | apply State.Keeps.ite

/-! ### Links -/

theorem State.rangeOrWait_keeps {s0 : State} (s : State) (port echoNs : Nat) (h : s0.Keeps s) :
    s0.Keeps (State.rangeOrWait s port echoNs) := by
  unfold State.rangeOrWait
  with_reducible repeat' first
    | assumption | apply State.rangePort_keeps | apply State.modPort_keeps | apply State.Keeps.ite

theorem State.modRecv_keeps {s0 : State} (s : State) (port : Nat) (g : Recv → Recv) (h : s0.Keeps s) :
    s0.Keeps (State.modRecv s port g) := by
  unfold State.modRecv
  with_reducible repeat' first
    | assumption | apply State.modPort_keeps

theorem State.frameSent_keeps {s0 : State} (s : State) (port : Nat) (f : CtlFrame) (h : s0.Keeps s) :
    s0.Keeps (State.frameSent s port f) := by
  unfold State.frameSent
  with_reducible repeat' first
    | assumption | apply State.modRecv_keeps | apply State.modPour_keeps | apply State.Keeps.ite

theorem State.frameLost_keeps {s0 : State} (s : State) (port st : Nat) (x : TxFrame) (h : s0.Keeps s) :
    s0.Keeps (State.frameLost s port st x) := by
  unfold State.frameLost
  with_reducible repeat' first
    | assumption | apply State.modRecv_keeps | apply State.dropRecv_keeps | apply State.endCurrent_keeps
    | apply State.answerPackets_keeps
    | ((try lift_lets); intro x; first | (refine State.Keeps.step (s0 := s0) (x := x) ?_ ?_ <;> first | (intro hx; clear_value x) | subst x) | skip)
    | split

theorem State.abandon_keeps {s0 : State} (s : State) (port : Nat) (x : TxFrame) (h : s0.Keeps s) :
    s0.Keeps (State.abandon s port x) := by
  unfold State.abandon
  with_reducible repeat' first
    | assumption | apply State.frameLost_keeps | apply State.portEvent_keeps | apply State.portCount_keeps
    | apply State.modPort_keeps

theorem State.tryFrame_keeps {s0 : State} (s : State) (port : Nat) (x : TxFrame) (echo : Echo) (backoff : Nat) (h : s0.Keeps s) :
    s0.Keeps (State.tryFrame s port x echo backoff) := by
  unfold State.tryFrame
  with_reducible repeat' first
    | assumption | apply State.abandon_keeps | apply State.frameLost_keeps | apply State.frameSent_keeps
    | apply State.startLease_keeps | apply State.modPour_keeps | apply State.finalFrame_keeps
    | apply State.portCount_keeps | apply State.modPort_keeps
    | ((try lift_lets); intro x; first | (refine State.Keeps.step (s0 := s0) (x := x) ?_ ?_ <;> first | (intro hx; clear_value x) | subst x) | skip)
    | split | (refine State.OptKeeps1.get ‹_ = some _› ?_)

theorem execControlFrameSend_keeps {s0 : State} (port : Nat) (echo : Echo) (backoff : Nat) (s : State) (h : s0.Keeps s) :
    s0.OutKeeps (execControlFrameSend port echo backoff s) := by
  unfold execControlFrameSend
  with_reducible repeat' first
    | assumption | apply State.tryFrame_keeps | apply State.OutKeeps.next | split

theorem execControlBackoffExpiry_keeps {s0 : State} (port : Nat) (echo : Echo) (backoff : Nat) (s : State) (h : s0.Keeps s) :
    s0.OutKeeps (execControlBackoffExpiry port echo backoff s) := by
  unfold execControlBackoffExpiry
  with_reducible repeat' first
    | assumption | apply State.tryFrame_keeps | apply State.OutKeeps.next | split

theorem execLendAbandon_keeps {s0 : State} (port : Nat) (s : State) (h : s0.Keeps s) :
    s0.OutKeeps (execLendAbandon port s) := by
  unfold execLendAbandon
  with_reducible repeat' first
    | assumption | apply State.abandon_keeps | apply State.OutKeeps.next | split

theorem execLaserInputLoss_keeps {s0 : State} (port : Nat) (s : State) (h : s0.Keeps s) :
    s0.OutKeeps (execLaserInputLoss port s) := by
  unfold execLaserInputLoss
  with_reducible repeat' first
    | assumption | apply State.portDown_keeps | apply State.portEvent_keeps | apply State.OutKeeps.next
    | ((try lift_lets); intro x; first | (refine State.Keeps.step (s0 := s0) (x := x) ?_ ?_ <;> first | (intro hx; clear_value x) | subst x) | skip)
    | split

theorem execLaserInputRestored_keeps {s0 : State} (port echoNs : Nat) (s : State) (h : s0.Keeps s) :
    s0.OutKeeps (execLaserInputRestored port echoNs s) := by
  unfold execLaserInputRestored
  with_reducible repeat' first
    | assumption | apply State.rangeOrWait_keeps | apply State.OutKeeps.next | apply State.OutKeeps.ite

theorem execPortRanging_keeps {s0 : State} (port echoNs : Nat) (s : State) (h : s0.Keeps s) :
    s0.OutKeeps (execPortRanging port echoNs s) := by
  unfold execPortRanging
  with_reducible repeat' first
    | assumption | apply State.rangePort_keeps | apply State.OutKeeps.next | apply State.OutKeeps.ite

theorem execFabPortReset_keeps {s0 : State} (id : Nat) (s : State) (h : s0.Keeps s) :
    s0.OutKeeps (execFabPortReset id s) := by
  unfold execFabPortReset
  with_reducible repeat' first
    | assumption | apply State.portDown_keeps | apply State.finish_keeps | apply State.OutKeeps.next | split

theorem execHelloSend_keeps {s0 : State} (port : Nat) (s : State) (h : s0.Keeps s) :
    s0.OutKeeps (execHelloSend port s) := by
  unfold execHelloSend
  with_reducible repeat' first
    | assumption | apply State.queueFrame_keeps | apply State.modPort_keeps | apply State.OutKeeps.next
    | apply State.OutKeeps.ite

theorem execHello_keeps {s0 : State} (port : Nat) (f : CtlFrame) (s : State) (h : s0.Keeps s) :
    s0.OutKeeps (execHello port f s) := by
  unfold execHello
  with_reducible repeat' first
    | assumption | apply State.portDown_keeps | apply State.hear_keeps | apply State.portEvent_keeps
    | apply State.modPort_keeps | apply State.OutKeeps.next
    | ((try lift_lets); intro x; first | (refine State.Keeps.step (s0 := s0) (x := x) ?_ ?_ <;> first | (intro hx; clear_value x) | subst x) | (refine State.Keeps.step (s0 := s0) (x := x.1) ?_ ?_ <;> first | (intro hx; clear_value x) | subst x) | skip)
    | apply State.OutKeeps.ite

theorem execMemberExpiry_keeps {s0 : State} (port comb : Nat) (s : State) (h : s0.Keeps s) :
    s0.OutKeeps (execMemberExpiry port comb s) := by
  unfold execMemberExpiry
  with_reducible repeat' first
    | assumption | apply State.modPort_keeps | apply State.OutKeeps.next

theorem execBeaconSend_keeps {s0 : State} (port : Nat) (s : State) (h : s0.Keeps s) :
    s0.OutKeeps (execBeaconSend port s) := by
  unfold execBeaconSend
  with_reducible repeat' first
    | assumption | apply State.finalFrame_keeps | apply State.portCount_keeps | apply State.modPort_keeps
    | apply State.OutKeeps.next
    | ((try lift_lets); intro x; first | (refine State.Keeps.step (s0 := s0) (x := x) ?_ ?_ <;> first | (intro hx; clear_value x) | subst x) | skip)
    | split | (refine State.OptKeeps1.get ‹_ = some _› ?_)

theorem execBeacon_keeps {s0 : State} (port : Nat) (f : CtlFrame) (s : State) (h : s0.Keeps s) :
    s0.OutKeeps (execBeacon port f s) := by
  unfold execBeacon
  with_reducible repeat' first
    | assumption | apply State.hear_keeps | apply State.modPort_keeps | apply State.OutKeeps.next
    | ((try lift_lets); intro x; first | (refine State.Keeps.step (s0 := s0) (x := x.1) ?_ ?_ <;> first | (intro hx; clear_value x) | subst x) | skip)
    | apply State.OutKeeps.ite

theorem execLeaderTimeout_keeps {s0 : State} (port : Nat) (s : State) (h : s0.Keeps s) :
    s0.OutKeeps (execLeaderTimeout port s) := by
  unfold execLeaderTimeout
  with_reducible repeat' first
    | assumption | apply State.portEvent_keeps | apply State.modPort_keeps | apply State.OutKeeps.next
    | ((try lift_lets); intro x; first | (refine State.Keeps.step (s0 := s0) (x := x) ?_ ?_ <;> first | (intro hx; clear_value x) | subst x) | skip)
    | apply State.OutKeeps.ite

/-! ### Pours -/

theorem State.sendReserve_keeps {s0 : State} (s : State) (port : Nat) (x : Pour) (h : s0.Keeps s) :
    s0.Keeps (State.sendReserve s port x) := by
  unfold State.sendReserve
  with_reducible repeat' first
    | assumption | apply State.queueFrame_keeps | apply State.modPort_keeps

theorem State.refuseResv_keeps {s0 : State} (s : State) (port : Nat) (r : Resv) (st : Nat) (h : s0.Keeps s) :
    s0.Keeps (State.refuseResv s port r st) := by
  unfold State.refuseResv
  with_reducible repeat' first
    | assumption | apply State.queueFrame_keeps

theorem State.takeResv_keeps {s0 : State} (s : State) (port : Nat) (r : Resv) (h : s0.Keeps s) :
    s0.Keeps (State.takeResv s port r) := by
  unfold State.takeResv
  with_reducible repeat' first
    | assumption | apply State.portCount_keeps | apply State.queueFrame_keeps | apply State.modPort_keeps
    | exact State.Keeps.mk' (by assumption) rfl rfl rfl rfl rfl | apply State.Keeps.ite

theorem State.sealFrame_keeps {s0 : State} (s : State) (port : Nat) (x : Pour) (seg frame : Nat) (bs : List Byte) (h : s0.Keeps s) :
    s0.Keeps (State.sealFrame s port x seg frame bs).1 := by
  unfold State.sealFrame
  with_reducible repeat' first
    | exact State.Keeps.mk' (by assumption) rfl rfl rfl rfl rfl

theorem State.sealSegment_keeps {s0 : State} (s : State) (port : Nat) (x : Pour) (seg : Nat) (h : s0.Keeps s) :
    s0.Keeps (State.sealSegment s port x seg).1 := by
  unfold State.sealSegment
  with_reducible repeat' first
    | assumption | apply State.sealFrame_keeps | apply State.load_keeps
    | refine State.Keeps.foldl1 ?_ (fun t a ht => ?_)
    | ((try lift_lets); intro x; first | (refine State.Keeps.step (s0 := s0) (x := x.1) ?_ ?_ <;> first | (intro hx; clear_value x) | subst x) | skip)
    | split | dsimp only

theorem State.sendSegments_keeps {s0 : State} (s : State) (port : Nat) (x : Pour) (segs : List Nat) (h : s0.Keeps s) :
    s0.Keeps (State.sendSegments s port x segs) := by
  unfold State.sendSegments
  with_reducible repeat' first
    | apply State.sealSegment_keeps | apply State.endCurrent_keeps | apply State.portCount_keeps
    | apply State.modPort_keeps | refine State.Keeps.foldl1 ?_ (fun t a ht => ?_)
    | exact State.Keeps.mk' (by assumption) rfl rfl rfl rfl rfl
    | ((try lift_lets); intro x; first | (refine State.Keeps.step (s0 := s0) (x := x) ?_ ?_ <;> first | (intro hx; clear_value x) | subst x) | (refine State.Keeps.step (s0 := s0) (x := x.1) ?_ ?_ <;> first | (intro hx; clear_value x) | subst x) | skip)
    | split

theorem State.writeSegment_keeps {s0 : State} (s : State) (port : Nat) (r : Recv) (seg : Nat) (h : s0.Keeps s) :
    s0.Keeps (State.writeSegment s port r seg) := by
  unfold State.writeSegment
  with_reducible repeat' first
    | assumption | apply State.abortRecv_keeps | apply State.store_keeps | apply State.modPort_keeps
    | apply State.Keeps.ite

theorem State.keepFrame_keeps {s0 : State} (s : State) (port : Nat) (r : Recv) (f : DataFrame) (seg j : Nat) (bs : List Byte) (h : s0.Keeps s) :
    s0.Keeps (State.keepFrame s port r f seg j bs) := by
  unfold State.keepFrame
  with_reducible repeat' first
    | assumption | apply State.writeSegment_keeps | apply State.store_keeps | apply State.modPort_keeps
    | ((try lift_lets); intro x; first | (refine State.Keeps.step (s0 := s0) (x := x) ?_ ?_ <;> first | (intro hx; clear_value x) | subst x) | skip)
    | split

theorem State.checkFrame_keeps {s0 : State} (s : State) (port : Nat) (r : Recv) (f : DataFrame) (h : s0.Keeps s) :
    s0.Keeps (State.checkFrame s port r f) := by
  unfold State.checkFrame
  with_reducible repeat' first
    | assumption | apply State.keepFrame_keeps | apply State.authenticate_keeps | apply State.portCount_keeps
    | ((try lift_lets); intro x; first | (refine State.Keeps.step (s0 := s0) (x := x) ?_ ?_ <;> first | (intro hx; clear_value x) | subst x) | (refine State.Keeps.step (s0 := s0) (x := x.1) ?_ ?_ <;> first | (intro hx; clear_value x) | subst x) | skip)
    | apply State.Keeps.ite

theorem State.takeDone_keeps {s0 : State} (s : State) (port : Nat) (x : Pour) (r : Report) (h : s0.Keeps s) :
    s0.Keeps (State.takeDone s port x r) := by
  unfold State.takeDone
  with_reducible repeat' first
    | assumption | apply State.sendSegments_keeps | apply State.endCurrent_keeps | apply State.portCount_keeps
    | apply State.statusWord_keeps | apply State.modPort_keeps
    | ((try lift_lets); intro x; first | (refine State.Keeps.step (s0 := s0) (x := x) ?_ ?_ <;> first | (intro hx; clear_value x) | subst x) | skip)
    | split

theorem State.restartPour_keeps {s0 : State} (s : State) (port : Nat) (x : Pour) (h : s0.Keeps s) :
    s0.Keeps (State.restartPour s port x) := by
  unfold State.restartPour
  with_reducible repeat' first
    | assumption | apply State.sendReserve_keeps | apply State.modPort_keeps

theorem State.takeRefuse_keeps {s0 : State} (s : State) (port : Nat) (x : Pour) (st : Nat) (h : s0.Keeps s) :
    s0.Keeps (State.takeRefuse s port x st) := by
  unfold State.takeRefuse
  with_reducible repeat' first
    | assumption | apply State.restartPour_keeps | apply State.endCurrent_keeps | apply State.modPort_keeps
    | apply State.Keeps.ite

theorem State.gatherPour_keeps {s0 : State} (s : State) (g : Gather) (h : s0.Keeps s) :
    s0.Keeps (State.gatherPour s g) := by
  unfold State.gatherPour
  with_reducible repeat' first
    | assumption | apply State.enqueuePour_keeps | apply State.answerPackets_keeps | split

theorem State.gather_keeps {s0 : State} (s : State) (attach pos : Nat) (p : Packet) (h : s0.Keeps s) :
    s0.Keeps (State.gather s attach pos p) := by
  unfold State.gather
  with_reducible repeat' first
    | assumption | apply State.gatherPour_keeps | exact State.Keeps.mk' (by assumption) rfl rfl rfl rfl rfl
    | ((try lift_lets); intro x; first | (refine State.Keeps.step (s0 := s0) (x := x) ?_ ?_ <;> first | (intro hx; clear_value x) | subst x) | skip)
    | split

theorem State.attachRequest_keeps {s0 : State} (s : State) (a : Nat) (p : Packet) (h : s0.Keeps s) :
    s0.Keeps (State.attachRequest s a p) := by
  unfold State.attachRequest
  with_reducible repeat' first
    | assumption | apply Nbx.get_keeps | apply State.gather_keeps | apply State.meshFrame_keeps
    | apply State.respond_keeps | exact State.Keeps.mk' (by assumption) rfl rfl rfl rfl rfl | apply State.Keeps.ite

theorem State.attachResponse_keeps {s0 : State} (s : State) (a : Nat) (p : Packet) (h : s0.Keeps s) :
    s0.Keeps (State.attachResponse s a p) := by
  unfold State.attachResponse
  with_reducible repeat' first
    | assumption | apply State.modRecv_keeps | apply State.settleCascade_keeps | apply State.answerRemote_keeps
    | ((try lift_lets); intro x; first | (refine State.Keeps.step (s0 := s0) (x := x) ?_ ?_ <;> first | (intro hx; clear_value x) | subst x) | skip)
    | split

theorem execFabPour_keeps {s0 : State} (id : Nat) (s : State) (h : s0.Keeps s) :
    s0.OutKeeps (execFabPour id s) := by
  unfold execFabPour
  with_reducible repeat' first
    | assumption | apply refuse_keeps | apply State.enqueuePour_keeps | apply State.setPhase_keeps
    | apply State.statusWord_keeps | apply State.OutKeeps.next
    | ((try lift_lets); intro x; first | (refine State.Keeps.step (s0 := s0) (x := x) ?_ ?_ <;> first | (intro hx; clear_value x) | subst x) | skip)
    | split

theorem execFabWindow_keeps {s0 : State} (id : Nat) (s : State) (h : s0.Keeps s) :
    s0.OutKeeps (execFabWindow id s) := by
  unfold execFabWindow
  with_reducible repeat' first
    | assumption | apply refuse_keeps | apply State.finish_keeps | apply State.setWindow_keeps
    | apply State.OutKeeps.next
    | ((try lift_lets); intro x; first | (refine State.Keeps.step (s0 := s0) (x := x) ?_ ?_ <;> first | (intro hx; clear_value x) | subst x) | skip)
    | split

theorem execPourStart_keeps {s0 : State} (port : Nat) (s : State) (h : s0.Keeps s) :
    s0.OutKeeps (execPourStart port s) := by
  unfold execPourStart
  with_reducible repeat' first
    | assumption | apply State.sendReserve_keeps | apply State.setPhase_keeps | apply State.statusWord_keeps
    | apply State.modPort_keeps | apply State.OutKeeps.next
    | ((try lift_lets); intro x; first | (refine State.Keeps.step (s0 := s0) (x := x) ?_ ?_ <;> first | (intro hx; clear_value x) | subst x) | skip)
    | split

theorem execReserve_keeps {s0 : State} (port : Nat) (f : CtlFrame) (s : State) (h : s0.Keeps s) :
    s0.OutKeeps (execReserve port f s) := by
  unfold execReserve
  with_reducible repeat' first
    | assumption | apply State.refuseResv_keeps | apply State.hear_keeps | apply State.modPort_keeps
    | apply State.OutKeeps.next
    | ((try lift_lets); intro x; first | (refine State.Keeps.step (s0 := s0) (x := x) ?_ ?_ <;> first | (intro hx; clear_value x) | subst x) | (refine State.Keeps.step (s0 := s0) (x := x.1) ?_ ?_ <;> first | (intro hx; clear_value x) | subst x) | skip)
    | apply State.OutKeeps.ite

theorem execReservationTake_keeps {s0 : State} (port : Nat) (s : State) (h : s0.Keeps s) :
    s0.OutKeeps (execReservationTake port s) := by
  unfold execReservationTake
  with_reducible repeat' first
    | assumption | apply State.takeResv_keeps | apply State.refuseResv_keeps | apply State.modPort_keeps
    | apply State.OutKeeps.next
    | ((try lift_lets); intro x; first | (refine State.Keeps.step (s0 := s0) (x := x) ?_ ?_ <;> first | (intro hx; clear_value x) | subst x) | skip)
    | split

theorem execAccept_keeps {s0 : State} (port : Nat) (f : CtlFrame) (s : State) (h : s0.Keeps s) :
    s0.OutKeeps (execAccept port f s) := by
  unfold execAccept
  with_reducible repeat' first
    | assumption | apply State.modPour_keeps | apply State.hear_keeps | apply State.OutKeeps.next
    | ((try lift_lets); intro x; first | (refine State.Keeps.step (s0 := s0) (x := x.1) ?_ ?_ <;> first | (intro hx; clear_value x) | subst x) | skip)
    | split

theorem execRefuse_keeps {s0 : State} (port : Nat) (f : CtlFrame) (s : State) (h : s0.Keeps s) :
    s0.OutKeeps (execRefuse port f s) := by
  unfold execRefuse
  with_reducible repeat' first
    | assumption | apply State.takeRefuse_keeps | apply State.hear_keeps | apply State.OutKeeps.next
    | ((try lift_lets); intro x; first | (refine State.Keeps.step (s0 := s0) (x := x.1) ?_ ?_ <;> first | (intro hx; clear_value x) | subst x) | skip)
    | split

theorem execPourSegmentsStart_keeps {s0 : State} (port : Nat) (s : State) (h : s0.Keeps s) :
    s0.OutKeeps (execPourSegmentsStart port s) := by
  unfold execPourSegmentsStart
  with_reducible repeat' first
    | assumption | apply State.sendSegments_keeps | apply State.OutKeeps.next | split

theorem execDataFrameReceive_keeps {s0 : State} (port : Nat) (f : DataFrame) (s : State) (h : s0.Keeps s) :
    s0.OutKeeps (execDataFrameReceive port f s) := by
  unfold execDataFrameReceive
  with_reducible repeat' first
    | assumption | apply State.checkFrame_keeps | apply State.sendDone_keeps | apply State.modPort_keeps
    | apply State.OutKeeps.next
    | ((try lift_lets); intro x; first | (refine State.Keeps.step (s0 := s0) (x := x) ?_ ?_ <;> first | (intro hx; clear_value x) | subst x) | skip)
    | split

theorem execDone_keeps {s0 : State} (port : Nat) (f : CtlFrame) (s : State) (h : s0.Keeps s) :
    s0.OutKeeps (execDone port f s) := by
  unfold execDone
  with_reducible repeat' first
    | assumption | apply State.takeDone_keeps | apply State.hear_keeps | apply State.OutKeeps.next
    | ((try lift_lets); intro x; first | (refine State.Keeps.step (s0 := s0) (x := x.1) ?_ ?_ <;> first | (intro hx; clear_value x) | subst x) | skip)
    | split

theorem execQuery.again_keeps {s0 : State} (port : Nat) (f : CtlFrame) (s : State) (k : Option (Nat × CtlFrame)) (h : s0.Keeps s) :
    s0.Keeps (execQuery.again port f s k) := by
  unfold execQuery.again
  split
  · exact State.queueFrame_keeps _ _ _ h
  · exact State.queueFrame_keeps _ _ _ h

theorem execQuery_keeps {s0 : State} (port : Nat) (f : CtlFrame) (s : State) (h : s0.Keeps s) :
    s0.OutKeeps (execQuery port f s) := by
  have h1 := State.hear_keeps s port 6 f h
  unfold execQuery
  dsimp only
  split
  · exact .next h1
  · split
    · split
      · split
        · exact .next h1
        · split
          · exact .next (State.queueDone_keeps _ _ _ _ _ _ (State.modRecv_keeps _ _ _ h1))
          · exact .next (State.sendDone_keeps _ _ h1)
      · exact .next (execQuery.again_keeps _ _ _ _ h1)
    · exact .next (execQuery.again_keeps _ _ _ _ h1)

theorem execRelayed_keeps {s0 : State} (port : Nat) (f : CtlFrame) (s : State) (h : s0.Keeps s) :
    s0.OutKeeps (execRelayed port f s) := by
  unfold execRelayed
  with_reducible repeat' first
    | assumption | apply State.endPour_keeps | apply State.hear_keeps | apply State.modPort_keeps
    | apply State.OutKeeps.next
    | ((try lift_lets); intro x; first | (refine State.Keeps.step (s0 := s0) (x := x.1) ?_ ?_ <;> first | (intro hx; clear_value x) | subst x) | skip)
    | split

theorem execAbort_keeps {s0 : State} (port : Nat) (f : CtlFrame) (s : State) (h : s0.Keeps s) :
    s0.OutKeeps (execAbort port f s) := by
  unfold execAbort
  with_reducible repeat' first
    | assumption | apply State.endCurrent_keeps | apply State.hear_keeps | apply State.OutKeeps.next
    | ((try lift_lets); intro x; first | (refine State.Keeps.step (s0 := s0) (x := x.1) ?_ ?_ <;> first | (intro hx; clear_value x) | subst x) | skip)
    | split

theorem execReserveTimeout_keeps {s0 : State} (port : Nat) (s : State) (h : s0.Keeps s) :
    s0.OutKeeps (execReserveTimeout port s) := by
  unfold execReserveTimeout
  with_reducible repeat' first
    | assumption | apply State.sendReserve_keeps | apply State.endCurrent_keeps | apply State.OutKeeps.next | split

theorem execReserveRetry_keeps {s0 : State} (port : Nat) (s : State) (h : s0.Keeps s) :
    s0.OutKeeps (execReserveRetry port s) := by
  unfold execReserveRetry
  with_reducible repeat' first
    | assumption | apply State.sendReserve_keeps | apply State.OutKeeps.next | split

theorem execFirstSegmentTimeout_keeps {s0 : State} (port : Nat) (s : State) (h : s0.Keeps s) :
    s0.OutKeeps (execFirstSegmentTimeout port s) := by
  unfold execFirstSegmentTimeout
  with_reducible repeat' first
    | assumption | apply State.dropRecv_keeps | apply State.OutKeeps.next | split

theorem execDoneTimeout_keeps {s0 : State} (port : Nat) (s : State) (h : s0.Keeps s) :
    s0.OutKeeps (execDoneTimeout port s) := by
  unfold execDoneTimeout
  with_reducible repeat' first
    | assumption | apply State.modPour_keeps | apply State.endCurrent_keeps | apply State.queueFrame_keeps
    | apply State.OutKeeps.next | split

theorem execDoneRetentionExpiry_keeps {s0 : State} (port srcPos pourId : Nat) (s : State) (h : s0.Keeps s) :
    s0.OutKeeps (execDoneRetentionExpiry port srcPos pourId s) := by
  unfold execDoneRetentionExpiry
  with_reducible repeat' first
    | assumption | apply State.modPort_keeps | apply State.OutKeeps.next

theorem execRelayedTimeout_keeps {s0 : State} (port pourId : Nat) (s : State) (h : s0.Keeps s) :
    s0.OutKeeps (execRelayedTimeout port pourId s) := by
  unfold execRelayedTimeout
  with_reducible repeat' first
    | assumption | apply State.endPour_keeps | apply State.modPort_keeps | apply State.OutKeeps.next
    | ((try lift_lets); intro x; first | (refine State.Keeps.step (s0 := s0) (x := x) ?_ ?_ <;> first | (intro hx; clear_value x) | subst x) | skip)
    | split

theorem execOpticalAttachPacket_keeps {s0 : State} (k : Nat) (s : State) (h : s0.Keeps s) :
    s0.OutKeeps (execOpticalAttachPacket k s) := by
  unfold execOpticalAttachPacket
  with_reducible repeat' first
    | apply State.attachResponse_keeps | apply State.attachRequest_keeps | apply State.OutKeeps.next
    | exact State.Keeps.mk' (by assumption) rfl rfl rfl rfl rfl
    | ((try lift_lets); intro x; first | (refine State.Keeps.step (s0 := s0) (x := x) ?_ ?_ <;> first | (intro hx; clear_value x) | subst x) | skip)
    | split

theorem execCascadeGatherTimeout_keeps {s0 : State} (attach destPos : Nat) (s : State) (h : s0.Keeps s) :
    s0.OutKeeps (execCascadeGatherTimeout attach destPos s) := by
  unfold execCascadeGatherTimeout
  with_reducible repeat' first
    | assumption | apply State.gatherPour_keeps | apply State.OutKeeps.next
    | exact State.Keeps.mk' (by assumption) rfl rfl rfl rfl rfl
    | ((try lift_lets); intro x; first | (refine State.Keeps.step (s0 := s0) (x := x) ?_ ?_ <;> first | (intro hx; clear_value x) | subst x) | skip)
    | split

theorem execMesh_keeps {s0 : State} (port : Nat) (f : CtlFrame) (s : State) (h : s0.Keeps s) :
    s0.OutKeeps (execMesh port f s) := by
  unfold execMesh
  with_reducible repeat' first
    | assumption | apply State.answerRemote_keeps | apply State.takeRemote_keeps | apply State.forwards_keeps
    | apply State.hear_keeps | apply State.OutKeeps.next
    | exact State.Keeps.mk' (by assumption) rfl rfl rfl rfl rfl
    | ((try lift_lets); intro x; first | (refine State.Keeps.step (s0 := s0) (x := x) ?_ ?_ <;> first | (intro hx; clear_value x) | subst x) | (refine State.Keeps.step (s0 := s0) (x := x.1) ?_ ?_ <;> first | (intro hx; clear_value x) | subst x) | skip)
    | split | (refine State.OptKeeps.get ‹_ = some _› ?_)

theorem execSession_keeps {s0 : State} (port : Nat) (f : CtlFrame) (s : State) (h : s0.Keeps s) :
    s0.OutKeeps (execSession port f s) := by
  unfold execSession
  with_reducible repeat' first
    | assumption | apply Nbx.put_keeps | apply State.forwards_keeps | apply State.hear_keeps | apply Move.put_keeps
    | apply State.OutKeeps.next | exact State.Keeps.mk' (by assumption) rfl rfl rfl rfl rfl
    | ((try lift_lets); intro x; first | (refine State.Keeps.step (s0 := s0) (x := x) ?_ ?_ <;> first | (intro hx; clear_value x) | subst x) | (refine State.Keeps.step (s0 := s0) (x := x.1) ?_ ?_ <;> first | (intro hx; clear_value x) | subst x) | skip)
    | split | (refine State.OptKeeps.get ‹_ = some _› ?_)

/-! ### Mgmt -/

theorem State.mgmtDrop_keeps {s0 : State} (s : State) (h : s0.Keeps s) :
    s0.Keeps (State.mgmtDrop s) := by
  unfold State.mgmtDrop
  with_reducible repeat' first
    | exact State.Keeps.mk' (by assumption) rfl rfl rfl rfl rfl

theorem State.setSession_keeps {s0 : State} (s : State) (x : MgmtSession) (h : s0.Keeps s) :
    s0.Keeps (State.setSession s x) := by
  unfold State.setSession
  with_reducible repeat' first
    | exact State.Keeps.mk' (by assumption) rfl rfl rfl rfl rfl

theorem State.closeSession_keeps {s0 : State} (s : State) (x : MgmtSession) (h : s0.Keeps s) :
    s0.Keeps (State.closeSession s x) := by
  unfold State.closeSession
  with_reducible repeat' first
    | apply State.recordFw_keeps | exact State.Keeps.mk' (by assumption) rfl rfl rfl rfl rfl

theorem State.exchange_keeps {s0 : State} (s : State) (d : Datagram) (h : s0.Keeps s) :
    s0.Keeps (State.exchange s d) := by
  unfold State.exchange
  with_reducible repeat' first
    | assumption | apply State.mgmtDrop_keeps | apply State.recordFw_keeps | apply State.record_keeps
    | exact State.Keeps.mk' (by assumption) rfl rfl rfl rfl rfl | apply State.Keeps.ite

theorem State.mgmtPacket_keeps {s0 : State} (s : State) (id : Nat) (b : List Byte) (h : s0.Keeps s) :
    s0.Keeps (State.mgmtPacket s id b) := by
  unfold State.mgmtPacket
  with_reducible repeat' first
    | assumption | apply refuse_keeps | apply State.setSession_keeps
    | exact State.Keeps.mk' (by assumption) rfl rfl rfl rfl rfl
    | ((try lift_lets); intro x; first | (refine State.Keeps.step (s0 := s0) (x := x) ?_ ?_ <;> first | (intro hx; clear_value x) | subst x) | skip)
    | split

theorem execMgmtDatagram_keeps {s0 : State} (d : Datagram) (s : State) (h : s0.Keeps s) :
    s0.OutKeeps (execMgmtDatagram d s) := by
  unfold execMgmtDatagram
  with_reducible repeat' first
    | assumption | apply State.mgmtPacket_keeps | apply State.exchange_keeps | apply State.setSession_keeps
    | apply State.mgmtDrop_keeps | apply State.OutKeeps.next | refine State.Keeps.foldl ?_ (fun t a ht => ?_)
    | ((try lift_lets); intro x; first | (refine State.Keeps.step (s0 := s0) (x := x) ?_ ?_ <;> first | (intro hx; clear_value x) | subst x) | skip)
    | split

theorem execMgmtSessionTimeout_keeps {s0 : State} (session : Nat) (s : State) (h : s0.Keeps s) :
    s0.OutKeeps (execMgmtSessionTimeout session s) := by
  unfold execMgmtSessionTimeout
  with_reducible repeat' first
    | assumption | apply State.closeSession_keeps | apply State.OutKeeps.next | split

theorem execMgmtLinkUpChange_keeps {s0 : State} (up : Bool) (s : State) (h : s0.Keeps s) :
    s0.OutKeeps (execMgmtLinkUpChange up s) := by
  unfold execMgmtLinkUpChange
  with_reducible repeat' first
    | apply State.OutKeeps.next | exact State.Keeps.mk' (by assumption) rfl rfl rfl rfl rfl

end Sys2Proof.Machine
end

