-- ==== Sys2Proof/Laws/KeepsPower.lean ====
section
/-! SUPPORT. What power, rails, repair and bring-up keep: one lemma for each operation, `f_keeps`, says that `f` leaves the queue of waiting commands, the
canonical form of memory and the glazed record as they were. -/
namespace Sys2Proof.Machine
set_option linter.all false
open Sys2Proof State

/-! ### Power -/

theorem State.attribute__keeps {s0 : State} (s : State) (e : EnergyShare) (h : s0.Keeps s) :
    s0.Keeps (State.attribute_ s e) := by
  unfold State.attribute_
  with_reducible repeat' first
    | apply State.modSaggar_keeps | exact State.Keeps.mk' (by assumption) rfl rfl rfl rfl rfl
    | ((try lift_lets); intro x; first | (refine State.Keeps.step (s0 := s0) (x := x) ?_ ?_ <;> first | (intro hx; clear_value x) | subst x) | skip)
    | split

theorem State.closeBank_keeps {s0 : State} (s : State) (c np : Nat) (h : s0.Keeps s) :
    s0.Keeps (State.closeBank s c np) := by
  unfold State.closeBank
  with_reducible repeat' first
    | assumption | apply State.setCluster_keeps | apply State.modSite_keeps
    | refine State.Keeps.foldl ?_ (fun t a ht => ?_)
    | ((try lift_lets); intro x; first | (refine State.Keeps.step (s0 := s0) (x := x) ?_ ?_ <;> first | (intro hx; clear_value x) | subst x) | skip)
    | apply State.Keeps.ite

theorem State.sleepCluster_keeps {s0 : State} (s : State) (c : Nat) (h : s0.Keeps s) :
    s0.Keeps (State.sleepCluster s c) := by
  unfold State.sleepCluster
  with_reducible repeat' first
    | assumption | apply State.enterSite_keeps | apply State.modCluster_keeps | apply State.modSite_keeps
    | refine State.Keeps.foldl ?_ (fun t a ht => ?_)
    | ((try lift_lets); intro x; first | (refine State.Keeps.step (s0 := s0) (x := x) ?_ ?_ <;> first | (intro hx; clear_value x) | subst x) | skip)
    | apply State.Keeps.ite

theorem State.setCap_keeps {s0 : State} (s : State) (h : s0.Keeps s) :
    s0.Keeps (State.setCap s) := by
  unfold State.setCap
  with_reducible repeat' first
    | exact State.Keeps.mk' (by assumption) rfl rfl rfl rfl rfl

theorem State.breakFixed_keeps {s0 : State} (s : State) (g cause : Nat) (h : s0.Keeps s) :
    s0.Keeps (State.breakFixed s g cause) := by
  unfold State.breakFixed
  with_reducible repeat' first
    | assumption | apply State.recordFw_keeps | apply State.modSaggar_keeps | apply State.Keeps.ite

theorem State.rillLag_keeps {s0 : State} (s : State) (sag job d : Nat) (h : s0.Keeps s) :
    s0.Keeps (State.rillLag s sag job d) := by
  unfold State.rillLag
  with_reducible repeat' first
    | exact State.Keeps.mk' (by assumption) rfl rfl rfl rfl rfl

theorem State.lagNotice_keeps {s0 : State} (s : State) (m : KilnIn) (c old : Nat) (h : s0.Keeps s) :
    s0.Keeps (State.lagNotice s m c old) := by
  unfold State.lagNotice
  with_reducible repeat' first
    | assumption | apply State.rillLag_keeps | apply State.queueFrame_keeps | apply State.recordFw_keeps
    | refine State.Keeps.foldl ?_ (fun t a ht => ?_)
    | ((try lift_lets); intro x; first | (refine State.Keeps.step (s0 := s0) (x := x) ?_ ?_ <;> first | (intro hx; clear_value x) | subst x) | skip)
    | split

theorem State.lendAll_keeps {s0 : State} (s : State) (m : Nat) (l : List (Nat × Nat)) (h : s0.Keeps s) :
    s0.Keeps (State.lendAll s m l) := by
  induction l generalizing s m with
  | nil => exact h
  | cons g r ih =>
    obtain ⟨pos, want⟩ := g
    unfold State.lendAll
    split
    · exact ih _ _ h
    · exact ih _ _ (State.recordFw_keeps _ _ _ _ _ _ (State.queueFrame_keeps _ _ _ (h.set rfl rfl rfl)))

theorem State.lend__keeps {s0 : State} (s : State) (packageMw : Nat) (h : s0.Keeps s) :
    s0.Keeps (State.lend_ s packageMw) := by
  unfold State.lend_
  with_reducible repeat' first
    | assumption | apply State.lendAll_keeps | apply State.setCap_keeps
    | exact State.Keeps.mk' (by assumption) rfl rfl rfl rfl rfl
    | ((try lift_lets); intro x; first | (refine State.Keeps.step (s0 := s0) (x := x) ?_ ?_ <;> first | (intro hx; clear_value x) | subst x) | skip)
    | apply State.Keeps.ite

theorem State.setCone_keeps {s0 : State} (s : State) (above : Bool) (g : Nat) (x : Load) (h : s0.Keeps s) :
    s0.Keeps (State.setCone s above g x) := by
  unfold State.setCone
  with_reducible repeat' first
    | assumption | apply State.breakFixed_keeps | apply State.modCluster_keeps
    | ((try lift_lets); intro x; first | (refine State.Keeps.step (s0 := s0) (x := x) ?_ ?_ <;> first | (intro hx; clear_value x) | subst x) | skip)
    | apply State.Keeps.ite

theorem State.recompute_keeps {s0 : State} (s : State) (m : KilnIn) (h : s0.Keeps s) :
    s0.Keeps (State.recompute s m) := by
  unfold State.recompute
  with_reducible repeat' first
    | assumption | apply State.setCone_keeps | apply State.lend__keeps | apply State.lagNotice_keeps
    | apply State.breakFixed_keeps | apply State.setCap_keeps | apply State.recordFw_keeps
    | apply State.modSaggar_keeps | apply State.modCluster_keeps | refine State.Keeps.foldl ?_ (fun t a ht => ?_)
    | (refine State.Keeps.mk' ?_ rfl rfl rfl rfl rfl; first | apply State.setCone_keeps | apply State.lend__keeps | apply State.lagNotice_keeps | apply State.breakFixed_keeps | apply State.setCap_keeps | apply State.recordFw_keeps | apply State.modSaggar_keeps | apply State.modCluster_keeps | refine State.Keeps.foldl ?_ (fun t a ht => ?_))
    | split

theorem execPwrMeterRead_keeps {s0 : State} (id : Nat) (s : State) (h : s0.Keeps s) :
    s0.OutKeeps (execPwrMeterRead id s) := by
  unfold execPwrMeterRead
  with_reducible repeat' first
    | assumption | apply refuse_keeps | apply State.finish_keeps | apply State.OutKeeps.next
    | ((try lift_lets); intro x; first | (refine State.Keeps.step (s0 := s0) (x := x) ?_ ?_ <;> first | (intro hx; clear_value x) | subst x) | skip)
    | split

theorem execPwrSleep_keeps {s0 : State} (id : Nat) (s : State) (h : s0.Keeps s) :
    s0.OutKeeps (execPwrSleep id s) := by
  unfold execPwrSleep
  with_reducible repeat' first
    | assumption | apply refuse_keeps | apply State.sleepCluster_keeps | apply State.finish_keeps
    | apply State.OutKeeps.next | refine State.Keeps.foldl ?_ (fun t a ht => ?_)
    | ((try lift_lets); intro x; first | (refine State.Keeps.step (s0 := s0) (x := x) ?_ ?_ <;> first | (intro hx; clear_value x) | subst x) | skip)
    | split

theorem execPwrWake_keeps {s0 : State} (id : Nat) (s : State) (h : s0.Keeps s) : s0.OutKeeps (execPwrWake id s) := by
  unfold execPwrWake
  split
  · exact .next h
  · lift_lets
    intro l st asleep wait s' r
    have h1 : s0.Keeps s' := State.Keeps.foldl h (fun t k ht => State.modCluster_keeps _ _ _ ht)
    split
    · exact .next (State.refuse_keeps _ _ _ h)
    · split
      · exact .next (State.finish_keeps _ _ _ _ h1)
      · have h2 := State.setPhase_keeps s' id .running h1
        exact .next (h1.mix h2 rfl rfl rfl rfl rfl rfl rfl)

theorem execClusterSwitchStage_keeps {s0 : State} (cluster npPermille : Nat) (s : State) (h : s0.Keeps s) :
    s0.OutKeeps (execClusterSwitchStage cluster npPermille s) := by
  unfold execClusterSwitchStage
  with_reducible repeat' first
    | assumption | apply State.closeBank_keeps | apply State.setCluster_keeps | apply State.OutKeeps.next
    | apply State.OutKeeps.ite

theorem execClusterStartDeferralEnd_keeps {s0 : State} (cluster npPermille waitNs : Nat) (s : State) (h : s0.Keeps s) :
    s0.OutKeeps (execClusterStartDeferralEnd cluster npPermille waitNs s) := by
  unfold execClusterStartDeferralEnd
  with_reducible repeat' first
    | assumption | apply State.recordFw_keeps | apply State.setCluster_keeps | apply State.OutKeeps.next
    | apply State.OutKeeps.ite

theorem execRegulatorPhaseFault_keeps {s0 : State} (phase : Nat) (s : State) (h : s0.Keeps s) :
    s0.OutKeeps (execRegulatorPhaseFault phase s) := by
  unfold execRegulatorPhaseFault
  with_reducible repeat' first
    | assumption | apply State.settleResets_keeps | apply State.retireSite_keeps | apply State.siteReturned_keeps
    | apply State.enterSite_keeps | apply State.recordFw_keeps | apply State.modCluster_keeps
    | apply State.setCluster_keeps | apply State.modSite_keeps | apply State.OutKeeps.next
    | refine State.Keeps.foldl ?_ (fun t a ht => ?_)
    | ((try lift_lets); intro x; first | (refine State.Keeps.step (s0 := s0) (x := x) ?_ ?_ <;> first | (intro hx; clear_value x) | subst x) | skip)
    | apply State.OutKeeps.ite

theorem execKilnRecompute_keeps {s0 : State} (m : KilnIn) (s : State) (h : s0.Keeps s) :
    s0.OutKeeps (execKilnRecompute m s) := by
  unfold execKilnRecompute
  with_reducible repeat' first
    | assumption | apply State.recompute_keeps | apply State.OutKeeps.next | apply State.OutKeeps.ite

theorem execLag_keeps {s0 : State} (port : Nat) (f : CtlFrame) (s : State) (h : s0.Keeps s) :
    s0.OutKeeps (execLag port f s) := by
  unfold execLag
  with_reducible repeat' first
    | assumption | apply Nbx.put_keeps | apply Nbx.get_keeps | apply State.rillLag_keeps
    | apply State.forwards_keeps | apply State.hear_keeps | apply Move.put_keeps | apply State.OutKeeps.next
    | exact State.Keeps.mk' (by assumption) rfl rfl rfl rfl rfl
    | ((try lift_lets); intro x; first | (refine State.Keeps.step (s0 := s0) (x := x) ?_ ?_ <;> first | (intro hx; clear_value x) | subst x) | (refine State.Keeps.step (s0 := s0) (x := x.1) ?_ ?_ <;> first | (intro hx; clear_value x) | subst x) | skip)
    | split | (refine State.OptKeeps.get ‹_ = some _› ?_)

theorem execLend_keeps {s0 : State} (port : Nat) (f : CtlFrame) (s : State) (h : s0.Keeps s) :
    s0.OutKeeps (execLend port f s) := by
  unfold execLend
  with_reducible repeat' first
    | assumption | apply State.setCap_keeps | apply State.hear_keeps | apply State.recordFw_keeps
    | apply State.OutKeeps.next | exact State.Keeps.mk' (by assumption) rfl rfl rfl rfl rfl
    | ((try lift_lets); intro x; first | (refine State.Keeps.step (s0 := s0) (x := x) ?_ ?_ <;> first | (intro hx; clear_value x) | subst x) | (refine State.Keeps.step (s0 := s0) (x := x.1) ?_ ?_ <;> first | (intro hx; clear_value x) | subst x) | skip)
    | apply State.OutKeeps.ite

theorem execLendLeaseExpiry_keeps {s0 : State} (k : Nat) (s : State) (h : s0.Keeps s) :
    s0.OutKeeps (execLendLeaseExpiry k s) := by
  unfold execLendLeaseExpiry
  with_reducible repeat' first
    | apply State.setCap_keeps | apply State.OutKeeps.next
    | exact State.Keeps.mk' (by assumption) rfl rfl rfl rfl rfl | split

theorem execLendReductionExpiry_keeps {s0 : State} (k : Nat) (s : State) (h : s0.Keeps s) :
    s0.OutKeeps (execLendReductionExpiry k s) := by
  unfold execLendReductionExpiry
  with_reducible repeat' first
    | apply State.setCap_keeps | apply State.OutKeeps.next
    | exact State.Keeps.mk' (by assumption) rfl rfl rfl rfl rfl | split

theorem execTelemetryWindowClose_keeps {s0 : State} (w : WindowIn) (s : State) (h : s0.Keeps s) :
    s0.OutKeeps (execTelemetryWindowClose w s) := by
  unfold execTelemetryWindowClose
  with_reducible repeat' first
    | apply State.setDomain_keeps | apply State.OutKeeps.next
    | exact State.Keeps.mk' (by assumption) rfl rfl rfl rfl rfl
    | ((try lift_lets); intro x; first | (refine State.Keeps.step (s0 := s0) (x := x) ?_ ?_ <;> first | (intro hx; clear_value x) | subst x) | skip)
    | split

theorem execEnergyAttribution_keeps {s0 : State} (input : Nat) (shares : List EnergyShare) (s : State) (h : s0.Keeps s) :
    s0.OutKeeps (execEnergyAttribution input shares s) := by
  unfold execEnergyAttribution
  with_reducible repeat' first
    | assumption | apply State.attribute__keeps | apply State.OutKeeps.next
    | refine State.Keeps.foldl ?_ (fun t a ht => ?_) | refine State.Keeps.foldl1 ?_ (fun t a ht => ?_)
    | exact State.Keeps.mk' (by assumption) rfl rfl rfl rfl rfl
    | ((try lift_lets); intro x; first | (refine State.Keeps.step (s0 := s0) (x := x) ?_ ?_ <;> first | (intro hx; clear_value x) | subst x) | skip)
    | apply State.OutKeeps.ite

/-! ### Rails -/

theorem State.setRail_keeps {s0 : State} (s : State) (r : Rail) (v : Bool) (h : s0.Keeps s) :
    s0.Keeps (State.setRail s r v) := by
  unfold State.setRail
  with_reducible repeat' first
    | exact State.Keeps.mk' (by assumption) rfl rfl rfl rfl rfl

theorem State.flushCompls_keeps {s0 : State} (s : State) (h : s0.Keeps s) :
    s0.Keeps (State.flushCompls s) := by
  unfold State.flushCompls
  with_reducible repeat' first
    | apply State.mgmtCompl_keeps | apply State.writeCompl_keeps | refine State.Keeps.foldl ?_ (fun t a ht => ?_)
    | exact State.Keeps.mk' (by assumption) rfl rfl rfl rfl rfl
    | ((try lift_lets); intro x; first | (refine State.Keeps.step (s0 := s0) (x := x) ?_ ?_ <;> first | (intro hx; clear_value x) | subst x) | skip)
    | split

theorem State.quietUnits_keeps {s0 : State} (s : State) (h : s0.Keeps s) :
    s0.Keeps (State.quietUnits s) := by
  unfold State.quietUnits
  with_reducible repeat' first
    | assumption | apply State.portDown_keeps | refine State.Keeps.foldl ?_ (fun t a ht => ?_)
    | (refine State.Keeps.mk' ?_ rfl rfl rfl rfl rfl; first | apply State.portDown_keeps | refine State.Keeps.foldl ?_ (fun t a ht => ?_))

theorem State.stopCommands_keeps {s0 : State} (s : State) (st : Nat) (h : s0.Keeps s) :
    s0.Keeps (State.stopCommands s st) := by
  unfold State.stopCommands
  with_reducible repeat' first
    | assumption | apply State.flushCompls_keeps | apply State.endAll_keeps

theorem State.persistWear_keeps {s0 : State} (s : State) (h : s0.Keeps s) :
    s0.Keeps (State.persistWear s) := by
  unfold State.persistWear
  with_reducible repeat' first
    | exact State.Keeps.mk' (by assumption) rfl rfl rfl rfl rfl

theorem State.powerDown_keeps {s0 : State} (s : State) (h : s0.Keeps s) :
    s0.Keeps (State.powerDown s) := by
  unfold State.powerDown
  with_reducible repeat' first
    | assumption | apply State.persistWear_keeps | apply State.quietUnits_keeps | apply State.mirrorAll_keeps
    | (refine State.Keeps.mk' ?_ rfl rfl rfl rfl rfl; first | apply State.persistWear_keeps | apply State.quietUnits_keeps | apply State.mirrorAll_keeps)

theorem State.enterStack_keeps {s0 : State} (s : State) (h : s0.Keeps s) :
    s0.Keeps (State.enterStack s) := by
  unfold State.enterStack
  with_reducible repeat' first
    | assumption | apply State.enterSluice_keeps | apply State.enterSite_keeps
    | refine State.Keeps.foldl ?_ (fun t a ht => ?_)

theorem execStandbyPowerUp_keeps {s0 : State} (s : State) (h : s0.Keeps s) :
    s0.OutKeeps (execStandbyPowerUp s) := by
  unfold execStandbyPowerUp
  with_reducible repeat' first
    | assumption | apply State.OutKeeps.next | exact State.Keeps.mk' (by assumption) rfl rfl rfl rfl rfl
    | apply State.OutKeeps.ite

theorem execRailGood_keeps {s0 : State} (rail : Rail) (s : State) (h : s0.Keeps s) :
    s0.OutKeeps (execRailGood rail s) := by
  unfold execRailGood
  with_reducible repeat' first
    | assumption | apply State.setRail_keeps | apply State.OutKeeps.next
    | exact State.Keeps.mk' (by assumption) rfl rfl rfl rfl rfl
    | ((try lift_lets); intro x; first | (refine State.Keeps.step (s0 := s0) (x := x) ?_ ?_ <;> first | (intro hx; clear_value x) | subst x) | skip)
    | apply State.OutKeeps.ite

theorem execRailWindowExpiry_keeps {s0 : State} (rail : Rail) (s : State) (h : s0.Keeps s) :
    s0.OutKeeps (execRailWindowExpiry rail s) := by
  unfold execRailWindowExpiry
  with_reducible repeat' first
    | assumption | apply State.recordFw_keeps | apply State.OutKeeps.next
    | exact State.Keeps.mk' (by assumption) rfl rfl rfl rfl rfl
    | ((try lift_lets); intro x; first | (refine State.Keeps.step (s0 := s0) (x := x) ?_ ?_ <;> first | (intro hx; clear_value x) | subst x) | (have hf : Fw := x; clear hf; subst x) | skip)
    | apply State.OutKeeps.ite

theorem execVmeshOutOfRange_keeps {s0 : State} (s : State) (h : s0.Keeps s) :
    s0.OutKeeps (execVmeshOutOfRange s) := by
  unfold execVmeshOutOfRange
  with_reducible repeat' first
    | assumption | apply State.enterStack_keeps | apply State.setRail_keeps | apply State.endAll_keeps
    | apply State.mirrorAll_keeps | apply State.recordFw_keeps | apply State.OutKeeps.next
    | exact State.Keeps.mk' (by assumption) rfl rfl rfl rfl rfl
    | ((try lift_lets); intro x; first | (refine State.Keeps.step (s0 := s0) (x := x) ?_ ?_ <;> first | (intro hx; clear_value x) | subst x) | skip)
    | apply State.OutKeeps.ite

theorem execRefLoss_keeps {s0 : State} (s : State) (h : s0.Keeps s) :
    s0.OutKeeps (execRefLoss s) := by
  unfold execRefLoss
  with_reducible repeat' first
    | assumption | apply State.recordFw_keeps | apply State.OutKeeps.next
    | exact State.Keeps.mk' (by assumption) rfl rfl rfl rfl rfl
    | ((try lift_lets); intro x; first | (refine State.Keeps.step (s0 := s0) (x := x) ?_ ?_ <;> first | (intro hx; clear_value x) | subst x) | skip)
    | apply State.OutKeeps.ite

theorem execRefRecovery_keeps {s0 : State} (s : State) (h : s0.Keeps s) :
    s0.OutKeeps (execRefRecovery s) := by
  unfold execRefRecovery
  with_reducible repeat' first
    | assumption | apply State.recordFw_keeps | apply State.OutKeeps.next
    | exact State.Keeps.mk' (by assumption) rfl rfl rfl rfl rfl
    | ((try lift_lets); intro x; first | (refine State.Keeps.step (s0 := s0) (x := x) ?_ ?_ <;> first | (intro hx; clear_value x) | subst x) | skip)
    | apply State.OutKeeps.ite

theorem execHoldoverExpiry_keeps {s0 : State} (s : State) (h : s0.Keeps s) :
    s0.OutKeeps (execHoldoverExpiry s) := by
  unfold execHoldoverExpiry
  with_reducible repeat' first
    | assumption | apply State.stopCommands_keeps | apply State.quietUnits_keeps | apply State.mirrorAll_keeps
    | apply State.recordFw_keeps | apply State.OutKeeps.next
    | exact State.Keeps.mk' (by assumption) rfl rfl rfl rfl rfl
    | ((try lift_lets); intro x; first | (refine State.Keeps.step (s0 := s0) (x := x) ?_ ?_ <;> first | (intro hx; clear_value x) | subst x) | skip)
    | apply State.OutKeeps.ite

theorem execInputUndervolt_keeps {s0 : State} (mv : Nat) (s : State) (h : s0.Keeps s) :
    s0.OutKeeps (execInputUndervolt mv s) := by
  unfold execInputUndervolt
  with_reducible repeat' first
    | assumption | apply State.setCap_keeps | apply State.recordFw_keeps | apply State.OutKeeps.next
    | exact State.Keeps.mk' (by assumption) rfl rfl rfl rfl rfl
    | ((try lift_lets); intro x; first | (refine State.Keeps.step (s0 := s0) (x := x) ?_ ?_ <;> first | (intro hx; clear_value x) | subst x) | skip)
    | apply State.OutKeeps.ite

theorem execInputRecovery_keeps {s0 : State} (mv : Nat) (s : State) (h : s0.Keeps s) :
    s0.OutKeeps (execInputRecovery mv s) := by
  unfold execInputRecovery
  with_reducible repeat' first
    | assumption | apply State.setCap_keeps | apply State.recordFw_keeps | apply State.OutKeeps.next
    | exact State.Keeps.mk' (by assumption) rfl rfl rfl rfl rfl
    | ((try lift_lets); intro x; first | (refine State.Keeps.step (s0 := s0) (x := x) ?_ ?_ <;> first | (intro hx; clear_value x) | subst x) | skip)
    | apply State.OutKeeps.ite

theorem execInputPowerLost_keeps {s0 : State} (mv : Nat) (s : State) (h : s0.Keeps s) :
    s0.OutKeeps (execInputPowerLost mv s) := by
  unfold execInputPowerLost
  with_reducible repeat' first
    | apply State.powerDown_keeps | apply State.stopCommands_keeps | apply State.recordFw_keeps
    | apply State.OutKeeps.next | exact State.Keeps.mk' (by assumption) rfl rfl rfl rfl rfl
    | (refine State.Keeps.mk' ?_ rfl rfl rfl rfl rfl; first | apply State.powerDown_keeps | apply State.stopCommands_keeps | apply State.recordFw_keeps)
    | ((try lift_lets); intro x; first | (refine State.Keeps.step (s0 := s0) (x := x) ?_ ?_ <;> first | (intro hx; clear_value x) | subst x) | (have hf : _ → _ := x; clear hf; subst x) | skip)
    | split

theorem execInputOvervoltage_keeps {s0 : State} (mv : Nat) (s : State) (h : s0.Keeps s) :
    s0.OutKeeps (execInputOvervoltage mv s) := by
  unfold execInputOvervoltage
  with_reducible repeat' first
    | assumption | apply State.powerDown_keeps | apply State.stopCommands_keeps | apply State.recordFw_keeps
    | apply State.OutKeeps.next | exact State.Keeps.mk' (by assumption) rfl rfl rfl rfl rfl
    | ((try lift_lets); intro x; first | (refine State.Keeps.step (s0 := s0) (x := x) ?_ ?_ <;> first | (intro hx; clear_value x) | subst x) | skip)
    | apply State.OutKeeps.ite

/-! ### Repair -/

theorem State.retestSites_keeps {s0 : State} (s : State) (fails : Nat → Bool) (h : s0.Keeps s) :
    s0.Keeps (State.retestSites s fails) := by
  unfold State.retestSites
  with_reducible repeat' first
    | assumption | apply State.modSite_keeps | refine State.Keeps.foldl ?_ (fun t a ht => ?_)

theorem State.regate_keeps {s0 : State} (s : State) (h : s0.Keeps s) :
    s0.Keeps (State.regate s) := by
  unfold State.regate
  with_reducible repeat' first
    | assumption | apply State.gateCheck_keeps | apply State.modSite_keeps
    | refine State.Keeps.foldl ?_ (fun t a ht => ?_) | apply State.Keeps.ite

theorem State.stopBringup_keeps {s0 : State} (s : State) (step cause : Nat) (h : s0.Keeps s) :
    s0.Keeps (State.stopBringup s step cause) := by
  unfold State.stopBringup
  with_reducible repeat' first
    | apply State.recordFw_keeps | exact State.Keeps.mk' (by assumption) rfl rfl rfl rfl rfl

theorem State.laneLost_keeps {s0 : State} (s : State) (cls group outcome : Nat) (h : s0.Keeps s) :
    s0.Keeps (State.laneLost s cls group outcome) := by
  unfold State.laneLost
  with_reducible repeat' first
    | assumption | apply State.recordFw_keeps

theorem State.moveWire_keeps {s0 : State} (s : State) (m : Nat × Nat × Nat) (h : s0.Keeps s) :
    s0.Keeps (State.moveWire s m) := by
  unfold State.moveWire
  with_reducible repeat' first
    | assumption | apply State.recordFw_keeps | exact State.Keeps.mk' (by assumption) rfl rfl rfl rfl rfl
    | apply State.Keeps.ite

theorem State.bondRepairs_keeps {s0 : State} (s : State) (env : BringupEnv) (h : s0.Keeps s) :
    s0.Keeps (State.bondRepairs s env) := by
  unfold State.bondRepairs
  with_reducible repeat' first
    | apply State.moveWire_keeps | apply State.recordFw_keeps | refine State.Keeps.foldl ?_ (fun t a ht => ?_)
    | exact State.Keeps.mk' (by assumption) rfl rfl rfl rfl rfl
    | (refine State.Keeps.mk' ?_ rfl rfl rfl rfl rfl; first | apply State.moveWire_keeps | apply State.recordFw_keeps | refine State.Keeps.foldl ?_ (fun t a ht => ?_))

theorem State.stackLinks_keeps {s0 : State} (s : State) (env : BringupEnv) (h : s0.Keeps s) :
    s0.Keeps (State.stackLinks s env) := by
  unfold State.stackLinks
  with_reducible repeat' first
    | assumption | apply State.laneLost_keeps | refine State.Keeps.foldl ?_ (fun t a ht => ?_)

theorem State.testSites_keeps {s0 : State} (s : State) (env : BringupEnv) (h : s0.Keeps s) :
    s0.Keeps (State.testSites s env) := by
  unfold State.testSites
  with_reducible repeat' first
    | assumption | apply State.regate_keeps | apply State.retestSites_keeps | apply State.recordFw_keeps
    | refine State.Keeps.foldl ?_ (fun t a ht => ?_)

theorem State.recalibrate_keeps {s0 : State} (s : State) (env : BringupEnv) (h : s0.Keeps s) :
    s0.Keeps (State.recalibrate s env) := by
  unfold State.recalibrate
  with_reducible repeat' first
    | assumption | apply State.recordFw_keeps | apply State.setSensor_keeps
    | refine State.Keeps.foldl ?_ (fun t a ht => ?_) | apply State.Keeps.ite

theorem State.testPhases_keeps {s0 : State} (s : State) (env : BringupEnv) (h : s0.Keeps s) :
    s0.Keeps (State.testPhases s env) := by
  unfold State.testPhases
  with_reducible repeat' first
    | assumption | apply State.recordFw_keeps | apply State.modCluster_keeps
    | refine State.Keeps.foldl ?_ (fun t a ht => ?_) | apply State.Keeps.ite

theorem State.setSlot_keeps {s0 : State} (s : State) (kind n : Nat) (v : ImageSlot) (h : s0.Keeps s) :
    s0.Keeps (State.setSlot s kind n v) := by
  unfold State.setSlot
  with_reducible repeat' first
    | exact State.Keeps.mk' (by assumption) rfl rfl rfl rfl rfl
    | ((try lift_lets); intro x; first | (have hf : Fw := x; clear hf; subst x) | skip) | split

theorem State.setActiveSlot_keeps {s0 : State} (s : State) (kind n : Nat) (h : s0.Keeps s) :
    s0.Keeps (State.setActiveSlot s kind n) := by
  unfold State.setActiveSlot
  with_reducible repeat' first
    | exact State.Keeps.mk' (by assumption) rfl rfl rfl rfl rfl
    | ((try lift_lets); intro x; first | (have hf : Fw := x; clear hf; subst x) | skip) | split

theorem State.bootSlot_keeps {s0 : State} (s : State) (kind : Nat) (h : s0.Keeps s) :
    s0.OptKeeps (State.bootSlot s kind) := by
  unfold State.bootSlot
  with_reducible repeat' first
    | assumption | apply State.setActiveSlot_keeps | apply State.recordFw_keeps | apply State.OptKeeps.none
    | apply State.OptKeeps.some | apply State.OptKeeps.ite

theorem State.measureSlot_keeps {s0 : State} (s : State) (kind n : Nat) (h : s0.Keeps s) :
    s0.Keeps (State.measureSlot s kind n) := by
  unfold State.measureSlot
  with_reducible repeat' first
    | assumption | apply State.extendDev_keeps

theorem State.measureGlazed_keeps {s0 : State} (s : State) (h : s0.Keeps s) :
    s0.Keeps (State.measureGlazed s) := by
  unfold State.measureGlazed
  with_reducible repeat' first
    | assumption | apply State.extendDev_keeps

theorem State.startControllers_keeps {s0 : State} (s : State) (h : s0.Keeps s) :
    s0.Keeps (State.startControllers s) := by
  unfold State.startControllers
  with_reducible repeat' first
    | assumption | apply State.recordFw_keeps | apply State.setRoleMc_keeps | apply State.setMc_keeps
    | refine State.Keeps.foldl ?_ (fun t a ht => ?_) | refine State.Keeps.foldl1 ?_ (fun t a ht => ?_)
    | exact State.Keeps.mk' (by assumption) rfl rfl rfl rfl rfl
    | ((try lift_lets); intro x; first | (refine State.Keeps.step (s0 := s0) (x := x) ?_ ?_ <;> first | (intro hx; clear_value x) | subst x) | (have hf : Fw := x; clear hf; subst x) | skip)
    | apply State.Keeps.ite

/-! ### Bringup -/

theorem State.coldStart_keeps {s0 : State} (s : State) (env : BringupEnv) (h : s0.Keeps s) : s0.Keeps (State.coldStart s env) :=
  ⟨h.pending, fun _ => rfl, h.glazed⟩

theorem State.deriveIdentity_keeps {s0 : State} (s : State) (env : BringupEnv) (h : s0.Keeps s) :
    s0.Keeps (State.deriveIdentity s env) := by
  unfold State.deriveIdentity
  with_reducible repeat' first
    | assumption | apply State.recordFw_keeps | apply State.Keeps.ite

theorem State.bootStep_keeps {s0 : State} (s : State) (env : BringupEnv) (bad : List Nat) (h : s0.Keeps s) :
    s0.OptKeeps (State.bootStep s env bad) := by
  unfold State.bootStep
  with_reducible repeat' first
    | assumption | apply State.deriveIdentity_keeps | apply State.startControllers_keeps
    | apply State.measureSlot_keeps | apply State.bootSlot_keeps | apply State.setMc_keeps
    | refine State.Keeps.foldl ?_ (fun t a ht => ?_)
    | ((try lift_lets); intro x; first | (refine State.Keeps.step (s0 := s0) (x := x) ?_ ?_ <;> first | (intro hx; clear_value x) | subst x) | skip)
    | (refine State.OptKeeps.mapS ?_ (fun t ht => ?_))

theorem State.readStraps_keeps {s0 : State} (s : State) (env : BringupEnv) (h : s0.Keeps s) :
    s0.Keeps (State.readStraps s env) := by
  unfold State.readStraps
  with_reducible repeat' first
    | assumption | apply State.recordFw_keeps | apply State.draw_keeps
    | exact State.Keeps.mk' (by assumption) rfl rfl rfl rfl rfl
    | ((try lift_lets); intro x; first | (refine State.Keeps.step (s0 := s0) (x := x) ?_ ?_ <;> first | (intro hx; clear_value x) | subst x) | skip)
    | apply State.Keeps.ite

theorem State.retireChannel_keeps {s0 : State} (s : State) (n : Nat) (h : s0.Keeps s) :
    s0.OptKeeps (State.retireChannel s n) := by
  unfold State.retireChannel
  with_reducible repeat' first
    | apply State.laneLost_keeps | apply State.OptKeeps.none | apply State.OptKeeps.some
    | exact State.Keeps.mk' (by assumption) rfl rfl rfl rfl rfl | split

theorem State.memoryLinks_keeps {s0 : State} (s : State) (env : BringupEnv) (h : s0.Keeps s) :
    s0.OptKeeps (State.memoryLinks s env) := by
  unfold State.memoryLinks
  with_reducible repeat' first
    | assumption | apply State.retireChannel_keeps | apply State.laneLost_keeps | apply State.record_keeps
    | apply State.OptKeeps.some | refine State.Keeps.foldl ?_ (fun t a ht => ?_)
    | ((try lift_lets); intro x; first | (refine State.OptKeeps.step (s0 := s0) (x := x) ?_ ?_ <;> first | (intro hx; clear_value x) | subst x) | skip)
    | (refine State.OptKeeps.mapS ?_ (fun t ht => ?_)) | (refine State.OptKeeps.bind ?_ (fun t ht => ?_))
    | (refine State.OptKeeps.foldl ?_ (fun t a ht => ?_))

theorem State.applyRetirements_keeps {s0 : State} (s : State) (env : BringupEnv) (old : Nat) (h : s0.Keeps s) :
    s0.Keeps (State.applyRetirements s env old) := by
  unfold State.applyRetirements
  with_reducible repeat' first
    | assumption | apply State.recordFw_keeps | apply State.setGranState_keeps
    | refine State.Keeps.foldl ?_ (fun t a ht => ?_) | refine State.Keeps.foldl1 ?_ (fun t a ht => ?_)
    | exact State.Keeps.mk' (by assumption) rfl rfl rfl rfl rfl
    | (refine State.Keeps.mk' ?_ rfl rfl rfl rfl rfl; first | apply State.recordFw_keeps | apply State.setGranState_keeps | refine State.Keeps.foldl ?_ (fun t a ht => ?_) | refine State.Keeps.foldl1 ?_ (fun t a ht => ?_))

theorem State.startPort_keeps {s0 : State} (s : State) (env : BringupEnv) (p : Nat) (off : Bool) (h : s0.Keeps s) :
    s0.Keeps (State.startPort s env p off) := by
  unfold State.startPort
  with_reducible repeat' first
    | assumption | apply State.rangeOrWait_keeps | apply State.portEvent_keeps | apply State.modPort_keeps
    | apply State.setPort_keeps
    | ((try lift_lets); intro x; first | (refine State.Keeps.step (s0 := s0) (x := x) ?_ ?_ <;> first | (intro hx; clear_value x) | subst x) | skip)
    | apply State.Keeps.ite

theorem State.portLinks_keeps {s0 : State} (s : State) (env : BringupEnv) (h : s0.Keeps s) :
    s0.Keeps (State.portLinks s env) := by
  unfold State.portLinks
  with_reducible repeat' first
    | assumption | apply State.laneLost_keeps | refine State.Keeps.foldl ?_ (fun t a ht => ?_)

theorem State.startFailure_keeps {s0 : State} (s : State) (env : BringupEnv) (i : Nat) (h : s0.Keeps s) :
    s0.OptKeeps (State.startFailure s env i) := by
  unfold State.startFailure
  have h1 := State.modSite_keeps s i (fun x => { x with role := .failed, lcol := 63 }) h
  split
  · exact .some (State.recordFw_keeps _ _ _ _ _ _ h1)
  · split
    · have h2 : ∀ l, s0.Keeps (s.record 0x8011 1 i (s.siteOwner i) 0 l) := fun l => State.record_keeps _ _ _ _ _ _ _ h
      exact .some (.ite (State.autoRetire_keeps _ _ _ _ (h2 _)) (State.modSite_keeps _ _ _ (h2 _)))
    · exact .none

theorem State.startSite_keeps {s0 : State} (s : State) (env : BringupEnv) (i : Nat) (h : s0.Keeps s) :
    s0.Keeps (State.startSite s env i) := by
  unfold State.startSite
  have hf := State.startFailure_keeps s env i h
  split
  · exact h
  · cases he : s.startFailure env i with
    | none => rw [Option.getD_none]; exact State.modSite_keeps _ _ _ h
    | some t => rw [Option.getD_some]; exact State.OptKeeps.get he hf

theorem State.bisqueEnd_keeps {s0 : State} (s : State) (env : BringupEnv) (h : s0.Keeps s) :
    s0.Keeps (State.bisqueEnd s env) := by
  unfold State.bisqueEnd
  with_reducible repeat' first
    | assumption | apply State.startSite_keeps | apply State.portLinks_keeps | apply State.startPort_keeps
    | apply State.measureGlazed_keeps | apply State.measureSlot_keeps | apply State.bootSlot_keeps
    | apply State.testSites_keeps | apply State.stackLinks_keeps | apply State.bondRepairs_keeps
    | apply State.stopBringup_keeps | apply State.recordFw_keeps | refine State.Keeps.foldl ?_ (fun t a ht => ?_)
    | (refine State.Keeps.mk' ?_ rfl rfl rfl rfl rfl; first | apply State.startSite_keeps | apply State.portLinks_keeps | apply State.startPort_keeps | apply State.measureGlazed_keeps | apply State.measureSlot_keeps | apply State.bootSlot_keeps | apply State.testSites_keeps | apply State.stackLinks_keeps | apply State.bondRepairs_keeps | apply State.stopBringup_keeps | apply State.recordFw_keeps | refine State.Keeps.foldl ?_ (fun t a ht => ?_))
    | ((try lift_lets); intro x; first | (refine State.Keeps.step (s0 := s0) (x := x) ?_ ?_ <;> first | (intro hx; clear_value x) | subst x) | skip)
    | split | (refine State.OptKeeps.get ‹_ = some _› ?_)

theorem State.bisque_keeps {s0 : State} (s : State) (env : BringupEnv) (h : s0.Keeps s) :
    s0.Keeps (State.bisque s env) := by
  unfold State.bisque
  with_reducible repeat' first
    | assumption | apply State.bisqueEnd_keeps | apply State.applyRetirements_keeps | apply State.memoryLinks_keeps
    | apply State.readStraps_keeps | apply State.bootStep_keeps | apply State.coldStart_keeps
    | apply State.testPhases_keeps | apply State.recalibrate_keeps | apply State.stopBringup_keeps
    | ((try lift_lets); intro x; first | (refine State.Keeps.step (s0 := s0) (x := x) ?_ ?_ <;> first | (intro hx; clear_value x) | subst x) | skip)
    | split | (refine State.OptKeeps.get ‹_ = some _› ?_)

theorem State.refireSite_keeps {s0 : State} (s : State) (env : BringupEnv) (was : List Nat) (i : Nat) (h : s0.Keeps s) :
    s0.Keeps (State.refireSite s env was i) := by
  unfold State.refireSite
  have hf := State.startFailure_keeps s env i h
  have hs : ∀ t : State, s0.Keeps t → s0.Keeps (if was.contains i then t.modSite i (fun x => { x with epoch := x.epoch + 2 }) else t) :=
    fun t ht => .ite (State.modSite_keeps _ _ _ ht) ht
  dsimp only
  split
  · split
    · exact hs _ (State.OptKeeps.get ‹_› hf)
    · exact State.returnSite_keeps _ _ h
  · exact hs _ h

theorem State.refireSluice_keeps {s0 : State} (s : State) (n : Nat) (h : s0.Keeps s) :
    s0.Keeps (State.refireSluice s n) := by
  unfold State.refireSluice
  with_reducible repeat' first
    | assumption | apply State.tellEpoch_keeps | apply State.setSluice_keeps

theorem State.refireNb_keeps {s0 : State} (s : State) (n : Nat) (h : s0.Keeps s) :
    s0.Keeps (State.refireNb s n) := by
  unfold State.refireNb
  with_reducible repeat' first
    | assumption | apply State.tellEpoch_keeps | apply State.setNb_keeps

theorem State.refireRing_keeps {s0 : State} (s : State) (n : Nat) (h : s0.Keeps s) :
    s0.Keeps (State.refireRing s n) := by
  unfold State.refireRing
  with_reducible repeat' first
    | assumption | apply State.tellEpoch_keeps | apply State.setRing_keeps

theorem State.refireSaggar_keeps {s0 : State} (s : State) (g : Nat) (h : s0.Keeps s) :
    s0.Keeps (State.refireSaggar s g) := by
  unfold State.refireSaggar
  with_reducible repeat' first
    | assumption | apply State.modSaggar_keeps

theorem State.refireCluster_keeps {s0 : State} (s : State) (c : Nat) (h : s0.Keeps s) :
    s0.Keeps (State.refireCluster s c) := by
  unfold State.refireCluster
  with_reducible repeat' first
    | assumption | apply State.modCluster_keeps

theorem State.refireStop_keeps {s0 : State} (s : State) (h : s0.Keeps s) :
    s0.Keeps (State.refireStop s) := by
  unfold State.refireStop
  with_reducible repeat' first
    | assumption | apply State.stopCommands_keeps | apply State.portDown_keeps
    | refine State.Keeps.foldl ?_ (fun t a ht => ?_) | refine State.Keeps.foldl1 ?_ (fun t a ht => ?_)
    | exact State.Keeps.mk' (by assumption) rfl rfl rfl rfl rfl
    | (refine State.Keeps.mk' ?_ rfl rfl rfl rfl rfl; first | apply State.stopCommands_keeps | apply State.portDown_keeps | refine State.Keeps.foldl ?_ (fun t a ht => ?_) | refine State.Keeps.foldl1 ?_ (fun t a ht => ?_))
    | apply State.Keeps.ite

theorem State.refireUnits_keeps {s0 : State} (s : State) (h : s0.Keeps s) :
    s0.Keeps (State.refireUnits s) := by
  unfold State.refireUnits
  with_reducible repeat' first
    | assumption | apply State.refireCluster_keeps | apply State.refireSaggar_keeps | apply State.refireRing_keeps
    | apply State.refireNb_keeps | apply State.refireSluice_keeps | apply State.enterSite_keeps
    | refine State.Keeps.foldl ?_ (fun t a ht => ?_)

theorem State.refireRegs_keeps {s0 : State} (s : State) (env : BringupEnv) (h : s0.Keeps s) :
    s0.Keeps (State.refireRegs s env) := by
  unfold State.refireRegs
  with_reducible repeat' first
    | exact State.Keeps.mk' (by assumption) rfl rfl rfl rfl rfl

theorem State.rereadStraps_keeps {s0 : State} (s : State) (env : BringupEnv) (h : s0.Keeps s) :
    s0.Keeps (State.rereadStraps s env) := by
  unfold State.rereadStraps
  with_reducible repeat' first
    | assumption | apply State.recordFw_keeps | exact State.Keeps.mk' (by assumption) rfl rfl rfl rfl rfl
    | ((try lift_lets); intro x; first | (refine State.Keeps.step (s0 := s0) (x := x) ?_ ?_ <;> first | (intro hx; clear_value x) | subst x) | skip)
    | apply State.Keeps.ite

theorem State.refireSmeas_keeps {s0 : State} (s : State) (g : Nat) (h : s0.Keeps s) :
    s0.Keeps (State.refireSmeas s g) := by
  unfold State.refireSmeas
  with_reducible repeat' first
    | assumption | apply State.extendSag_keeps

set_option maxRecDepth 20000 in
theorem State.refireAll_keeps {s0 : State} (s : State) (env : BringupEnv) (h : s0.Keeps s) :
    s0.Keeps (State.refireAll s env) := by
  unfold State.refireAll
  with_reducible repeat' first
    | apply State.refireSmeas_keeps | apply State.rereadStraps_keeps | apply State.refireRegs_keeps
    | apply State.refireUnits_keeps | apply State.refireStop_keeps | apply State.startPort_keeps
    | apply State.bootStep_keeps | apply State.measureGlazed_keeps | apply State.measureSlot_keeps
    | apply State.bootSlot_keeps | apply State.recalibrate_keeps | apply State.stopBringup_keeps
    | apply State.refireSite_keeps | apply State.recordFw_keeps | apply State.modSite_keeps
    | refine State.Keeps.foldl ?_ (fun t a ht => ?_) | exact State.Keeps.mk' (by assumption) rfl rfl rfl rfl rfl
    | (refine State.Keeps.mk' ?_ rfl rfl rfl rfl rfl; first | apply State.refireSmeas_keeps | apply State.rereadStraps_keeps | apply State.refireRegs_keeps | apply State.refireUnits_keeps | apply State.refireStop_keeps | apply State.startPort_keeps | apply State.bootStep_keeps | apply State.measureGlazed_keeps | apply State.measureSlot_keeps | apply State.bootSlot_keeps | apply State.recalibrate_keeps | apply State.stopBringup_keeps | apply State.refireSite_keeps | apply State.recordFw_keeps | apply State.modSite_keeps | refine State.Keeps.foldl ?_ (fun t a ht => ?_))
    | ((try lift_lets); intro x; first | (refine State.Keeps.step (s0 := s0) (x := x) ?_ ?_ <;> first | (intro hx; clear_value x) | subst x) | (have hf : Fw := x; clear hf; subst x) | skip)
    | split | (refine State.Keeps.mk' ?_ rfl rfl rfl rfl rfl; refine State.OptKeeps.get ‹_ = some _› ?_)

theorem execBisqueStart_keeps {s0 : State} (env : BringupEnv) (s : State) (h : s0.Keeps s) :
    s0.OutKeeps (execBisqueStart env s) := by
  unfold execBisqueStart
  with_reducible repeat' first
    | assumption | apply State.bisque_keeps | apply State.OutKeeps.next | apply State.OutKeeps.ite

theorem execRefire_keeps {s0 : State} (env : BringupEnv) (s : State) (h : s0.Keeps s) :
    s0.OutKeeps (execRefire env s) := by
  unfold execRefire
  with_reducible repeat' first
    | assumption | apply State.refireAll_keeps | apply State.OutKeeps.next | apply State.OutKeeps.ite

end Sys2Proof.Machine
end

