-- ==== Sys2Proof/Laws/KeepsFirmware.lean ====
section
/-! SUPPORT. What launches, firmware and the near-bank work keep: one lemma for each operation, `f_keeps`, says that `f` leaves the queue of waiting commands, the
canonical form of memory and the glazed record as they were. -/
namespace Sys2Proof.Machine
set_option linter.all false
open Sys2Proof State

/-! ### Launch -/

theorem State.launchRead_keeps {s0 : State} (s : State) (c : Cmd) (h : s0.Keeps s) :
    s0.Keeps (State.launchRead s c).1 := by
  unfold State.launchRead
  with_reducible repeat' first
    | assumption | apply State.load_keeps
    | ((try lift_lets); intro x; first | (refine State.Keeps.step (s0 := s0) (x := x.1) ?_ ?_ <;> first | (intro hx; clear_value x) | subst x) | skip)
    | split

theorem State.reserve_keeps {s0 : State} (s : State) (l : Launch) (h : s0.Keeps s) :
    s0.Keeps (State.reserve s l) := by
  unfold State.reserve
  with_reducible repeat' first
    | assumption | apply State.endRank_keeps | apply State.setLaunch_keeps | apply State.modCore_keeps
    | refine State.Keeps.foldl ?_ (fun t a ht => ?_)
    | ((try lift_lets); intro x; first | (refine State.Keeps.step (s0 := s0) (x := x) ?_ ?_ <;> first | (intro hx; clear_value x) | subst x) | skip)
    | split

theorem State.launchFails_keeps {s0 : State} (s : State) (l : Launch) (h : s0.Keeps s) :
    s0.Keeps (State.launchFails s l) := by
  unfold State.launchFails
  with_reducible repeat' first
    | assumption | apply State.finishWord_keeps | apply State.finish_keeps | apply State.writeMem_keeps
    | apply State.modCore_keeps | refine State.Keeps.foldl ?_ (fun t a ht => ?_)
    | (refine State.Keeps.mk' ?_ rfl rfl rfl rfl rfl; first | apply State.finishWord_keeps | apply State.finish_keeps | apply State.writeMem_keeps | apply State.modCore_keeps | refine State.Keeps.foldl ?_ (fun t a ht => ?_))
    | apply State.Keeps.ite

theorem State.startRank_keeps {s0 : State} (s : State) (l : Launch) (d : LDesc) (args : List Byte) (k : Nat) (r : Rank) (h : s0.Keeps s) :
    s0.Keeps (State.startRank s l d args k r) := by
  unfold State.startRank
  repeat' first
    | with_reducible assumption | with_reducible apply State.store_keeps | with_reducible apply State.load_keeps
    | with_reducible apply State.endRank_keeps | with_reducible apply State.modCore_keeps
    | with_reducible exact State.Keeps.mk' (by assumption) rfl rfl rfl rfl rfl
    | (with_reducible refine State.Keeps.mk' ?_ rfl rfl rfl rfl rfl; first | with_reducible apply State.store_keeps | with_reducible apply State.load_keeps | with_reducible apply State.endRank_keeps | with_reducible apply State.modCore_keeps)
    | ((try lift_lets); intro x; first | (refine State.Keeps.step (s0 := s0) (x := x) ?_ ?_ <;> first | (intro hx; clear_value x) | subst x) | (refine State.Keeps.step (s0 := s0) (x := x.1) ?_ ?_ <;> first | (intro hx; clear_value x) | subst x) | (refine State.OptKeeps.step (s0 := s0) (x := x) ?_ ?_ <;> first | (intro hx; clear_value x) | subst x) | (refine State.OptKeeps1.step (s0 := s0) (x := x) ?_ ?_ <;> first | (intro hx; clear_value x) | subst x) | (refine State.EffKeeps.step (s0 := s0) (x := x) ?_ ?_ <;> first | (intro hx; clear_value x) | subst x) | (have hf : _ → _ := x; clear hf; subst x) | (have hf : Fw := x; clear hf; subst x) | (have hf : Sec := x; clear hf; subst x) | clear_value x | skip)
    | with_reducible apply State.Keeps.ite | split
    | (refine State.Keeps.mk' ?_ rfl rfl rfl rfl rfl; with_reducible assumption)
    | (refine State.Keeps.of_fst ‹_ = (_, _)› ?_) | dsimp only

theorem execKlaunch_keeps {s0 : State} (id : Nat) (s : State) (h : s0.Keeps s) :
    s0.OutKeeps (execKlaunch id s) := by
  unfold execKlaunch
  with_reducible repeat' first
    | assumption | apply refuse_keeps | apply State.launchRead_keeps | apply State.setPhase_keeps
    | apply State.statusWord_keeps | apply State.OutKeeps.next
    | exact State.Keeps.mk' (by assumption) rfl rfl rfl rfl rfl
    | ((try lift_lets); intro x; first | (refine State.Keeps.step (s0 := s0) (x := x) ?_ ?_ <;> first | (intro hx; clear_value x) | subst x) | (refine State.Keeps.step (s0 := s0) (x := x.1) ?_ ?_ <;> first | (intro hx; clear_value x) | subst x) | skip)
    | split

theorem execImageBroadcast_keeps {s0 : State} (k : Nat) (good : List Nat) (s : State) (h : s0.Keeps s) :
    s0.OutKeeps (execImageBroadcast k good s) := by
  unfold execImageBroadcast
  with_reducible repeat' first
    | apply State.launchFails_keeps | apply State.reserve_keeps | apply State.store_keeps | apply State.load_keeps
    | apply State.endRank_keeps | apply State.setLaunch_keeps | apply State.OutKeeps.next
    | refine State.Keeps.foldl ?_ (fun t a ht => ?_) | exact State.Keeps.mk' (by assumption) rfl rfl rfl rfl rfl
    | ((try lift_lets); intro x; first | (refine State.Keeps.step (s0 := s0) (x := x) ?_ ?_ <;> first | (intro hx; clear_value x) | subst x) | (refine State.Keeps.step (s0 := s0) (x := x.1) ?_ ?_ <;> first | (intro hx; clear_value x) | subst x) | skip)
    | split

theorem execLaunchStart_keeps {s0 : State} (id : Nat) (s : State) (h : s0.Keeps s) :
    s0.OutKeeps (execLaunchStart id s) := by
  unfold execLaunchStart
  with_reducible repeat' first
    | assumption | apply State.startRank_keeps | apply State.launchFails_keeps | apply State.reserve_keeps
    | apply State.load_keeps | apply State.setLaunch_keeps | apply State.setPhase_keeps
    | apply State.statusWord_keeps | apply State.OutKeeps.next | refine State.Keeps.foldl ?_ (fun t a ht => ?_)
    | ((try lift_lets); intro x; first | (refine State.Keeps.step (s0 := s0) (x := x) ?_ ?_ <;> first | (intro hx; clear_value x) | subst x) | (refine State.Keeps.step (s0 := s0) (x := x.1) ?_ ?_ <;> first | (intro hx; clear_value x) | subst x) | skip)
    | split

theorem State.stopRank_keeps {s0 : State} (s : State) (l : Launch) (k : Nat) (r : Rank) (h : s0.Keeps s) :
    s0.Keeps (State.stopRank s l k r) := by
  unfold State.stopRank
  with_reducible repeat' first
    | assumption | apply State.stopDone_keeps | apply State.endRank_keeps | apply State.modCore_keeps | split

theorem execKabort_keeps {s0 : State} (id : Nat) (s : State) (h : s0.Keeps s) :
    s0.OutKeeps (execKabort id s) := by
  unfold execKabort
  with_reducible repeat' first
    | assumption | apply refuse_keeps | apply State.stopRank_keeps | apply State.endRank_keeps
    | apply State.setLaunch_keeps | apply State.setPhase_keeps | apply State.OutKeeps.next
    | refine State.Keeps.foldl ?_ (fun t a ht => ?_)
    | (refine State.Keeps.mk' ?_ rfl rfl rfl rfl rfl; first | apply refuse_keeps | apply State.stopRank_keeps | apply State.endRank_keeps | apply State.setLaunch_keeps | apply State.setPhase_keeps | refine State.Keeps.foldl ?_ (fun t a ht => ?_))
    | ((try lift_lets); intro x; first | (refine State.Keeps.step (s0 := s0) (x := x) ?_ ?_ <;> first | (intro hx; clear_value x) | subst x) | skip)
    | split

/-! ### Firmware -/

theorem State.raiseFloor_keeps {s0 : State} (s : State) (kind v : Nat) (h : s0.Keeps s) :
    s0.Keeps (State.raiseFloor s kind v) := by
  unfold State.raiseFloor
  with_reducible repeat' first
    | exact State.Keeps.mk' (by assumption) rfl rfl rfl rfl rfl
    | ((try lift_lets); intro x; first | (have hf : Fw := x; clear hf; subst x) | skip) | split

theorem State.imageEvent_keeps {s0 : State} (s : State) (kind n : Nat) (h : s0.Keeps s) :
    s0.Keeps (State.imageEvent s kind n) := by
  unfold State.imageEvent
  with_reducible repeat' first
    | assumption | apply State.recordFw_keeps

theorem State.endRuntime_keeps {s0 : State} (s : State) (r : RtActivation) (h : s0.Keeps s) :
    s0.Keeps (State.endRuntime s r) := by
  unfold State.endRuntime
  with_reducible repeat' first
    | assumption | apply State.imageEvent_keeps | apply State.raiseFloor_keeps | apply State.measureSlot_keeps
    | apply State.setActiveSlot_keeps | apply State.finish_keeps
    | exact State.Keeps.mk' (by assumption) rfl rfl rfl rfl rfl
    | ((try lift_lets); intro x; first | (have hf : Fw := x; clear hf; subst x) | skip) | apply State.Keeps.ite

theorem State.broadcastRuntime_keeps {s0 : State} (s : State) (r : RtActivation) (g : Nat) (bad : List Nat) (h : s0.Keeps s) :
    s0.Keeps (State.broadcastRuntime s r g bad) := by
  unfold State.broadcastRuntime
  with_reducible repeat' first
    | assumption | apply State.endRuntime_keeps | apply State.extendSag_keeps | apply State.siteReturned_keeps
    | apply State.releaseSaggars_keeps | apply State.enterSite_keeps | apply State.recordFw_keeps
    | apply State.modSaggar_keeps | apply State.modSite_keeps | refine State.Keeps.foldl ?_ (fun t a ht => ?_)
    | refine State.Keeps.foldl1 ?_ (fun t a ht => ?_) | exact State.Keeps.mk' (by assumption) rfl rfl rfl rfl rfl
    | ((try lift_lets); intro x; first | (refine State.Keeps.step (s0 := s0) (x := x) ?_ ?_ <;> first | (intro hx; clear_value x) | subst x) | (have hf : Fw := x; clear hf; subst x) | skip)
    | apply State.Keeps.ite

theorem State.takeOver_keeps {s0 : State} (s : State) (old role : Nat) (h : s0.Keeps s) :
    s0.Keeps (State.takeOver s old role) := by
  unfold State.takeOver
  with_reducible repeat' first
    | assumption | apply State.record_keeps | apply State.setRoleMc_keeps

theorem State.rollBack_keeps {s0 : State} (s : State) (a : Activation) (h : s0.Keeps s) :
    s0.Keeps (State.rollBack s a) := by
  unfold State.rollBack
  with_reducible repeat' first
    | assumption | apply State.finish_keeps | apply State.recordFw_keeps | apply State.setMc_keeps
    | refine State.Keeps.foldl ?_ (fun t a ht => ?_)
    | (refine State.Keeps.mk' ?_ rfl rfl rfl rfl rfl; first | apply State.finish_keeps | apply State.recordFw_keeps | apply State.setMc_keeps | refine State.Keeps.foldl ?_ (fun t a ht => ?_))

theorem execFwStage_keeps {s0 : State} (id : Nat) (s : State) (h : s0.Keeps s) :
    s0.OutKeeps (execFwStage id s) := by
  unfold execFwStage
  with_reducible repeat' first
    | assumption | apply refuse_keeps | apply State.imageEvent_keeps | apply State.setSlot_keeps
    | apply State.load_keeps | apply State.finish_keeps | apply State.OutKeeps.next
    | ((try lift_lets); intro x; first | (refine State.Keeps.step (s0 := s0) (x := x.1) ?_ ?_ <;> first | (intro hx; clear_value x) | subst x) | skip)
    | split

theorem execFwActivate_keeps {s0 : State} (id : Nat) (s : State) (h : s0.Keeps s) : s0.OutKeeps (execFwActivate id s) := by
  have h1 := State.setPhase_keeps s id .running h
  unfold execFwActivate
  split
  · exact .next h
  · dsimp only
    split
    · exact .next (State.refuse_keeps _ _ _ h)
    · split
      · refine .next ?_
        split
        · exact State.endRuntime_keeps _ _ h1
        · exact h1.set rfl rfl rfl
      · split
        · exact .next (State.finish_keeps _ _ _ _ (h.set rfl rfl rfl))
        · exact .next (h.mix h1 rfl rfl rfl rfl rfl rfl rfl)

theorem execFwRoleHandover_keeps {s0 : State} (role controller : Nat) (s : State) (h : s0.Keeps s) :
    s0.OutKeeps (execFwRoleHandover role controller s) := by
  unfold execFwRoleHandover
  with_reducible repeat' first
    | apply State.setRoleMc_keeps | apply State.setMc_keeps | apply State.OutKeeps.next
    | exact State.Keeps.mk' (by assumption) rfl rfl rfl rfl rfl
    | ((try lift_lets); intro x; first | (refine State.Keeps.step (s0 := s0) (x := x) ?_ ?_ <;> first | (intro hx; clear_value x) | subst x) | (have hf : Fw := x; clear hf; subst x) | skip)
    | split

theorem execFwActivationConfirm_keeps {s0 : State} (s : State) (h : s0.Keeps s) :
    s0.OutKeeps (execFwActivationConfirm s) := by
  unfold execFwActivationConfirm
  with_reducible repeat' first
    | apply State.imageEvent_keeps | apply State.raiseFloor_keeps | apply State.measureSlot_keeps
    | apply State.finish_keeps | apply State.setMc_keeps | apply State.OutKeeps.next
    | refine State.Keeps.foldl ?_ (fun t a ht => ?_) | exact State.Keeps.mk' (by assumption) rfl rfl rfl rfl rfl
    | ((try lift_lets); intro x; first | (refine State.Keeps.step (s0 := s0) (x := x) ?_ ?_ <;> first | (intro hx; clear_value x) | subst x) | (have hf : Fw := x; clear hf; subst x) | skip)
    | split

theorem execRuntimeActivationStart_keeps {s0 : State} (id : Nat) (bad : List Nat) (s : State) (h : s0.Keeps s) :
    s0.OutKeeps (execRuntimeActivationStart id bad s) := by
  unfold execRuntimeActivationStart
  with_reducible repeat' first
    | apply State.broadcastRuntime_keeps | apply State.holdSaggars_keeps | apply State.OutKeeps.next
    | exact State.Keeps.mk' (by assumption) rfl rfl rfl rfl rfl
    | ((try lift_lets); intro x; first | (refine State.Keeps.step (s0 := s0) (x := x) ?_ ?_ <;> first | (intro hx; clear_value x) | subst x) | (have hf : Fw := x; clear hf; subst x) | skip)
    | split

theorem execRuntimeActivationTimeout_keeps {s0 : State} (id : Nat) (s : State) (h : s0.Keeps s) :
    s0.OutKeeps (execRuntimeActivationTimeout id s) := by
  unfold execRuntimeActivationTimeout
  with_reducible repeat' first
    | apply State.releaseSaggars_keeps | apply State.finish_keeps | apply State.recordFw_keeps
    | apply State.OutKeeps.next | exact State.Keeps.mk' (by assumption) rfl rfl rfl rfl rfl
    | ((try lift_lets); intro x; first | (have hf : Fw := x; clear hf; subst x) | skip) | split | dsimp only

theorem State.mgmtLost_keeps {s0 : State} (v : State) (h : s0.Keeps v) :
    s0.OutKeeps (if 3 ≤ v.workingMcs.length ∨ v.fw.mgmtLost then .next v else
      let s := { v.endAll 0x05F0 with fw := { v.fw with mgmtLost := true, activation := none, rtActivation := none } }
      .next (s.recordFw 4 0x9008 none 0 [])) := by
  have h4 := State.endAll_keeps v 0x05F0 h
  exact .ite (.next h) (.next (State.recordFw_keeps _ _ _ _ _ _ (h.mix h4 rfl rfl rfl rfl rfl rfl rfl)))

theorem execControllerHeartbeatMiss_keeps {s0 : State} (role : Nat) (s : State) (h : s0.Keeps s) :
    s0.OutKeeps (execControllerHeartbeatMiss role s) := by
  unfold execControllerHeartbeatMiss
  lift_lets
  intro c
  refine State.OutKeeps.ite (.next h) ?_
  have h1 : s0.Keeps (s.setMc c { s.mc c with working := false }) := State.setMc_keeps _ _ _ h
  generalize s.setMc c { s.mc c with working := false } = s1 at h1 ⊢
  have h2 : s0.Keeps (if s1.workingMcs.isEmpty then s1 else (s1.rolesOf c).foldl (fun s r => s.takeOver c r) s1) :=
    .ite h1 (State.Keeps.foldl h1 (fun t a ht => State.takeOver_keeps _ _ _ ht))
  generalize (if s1.workingMcs.isEmpty then s1 else (s1.rolesOf c).foldl (fun s r => s.takeOver c r) s1) = s2 at h2 ⊢
  generalize s.stops c = hit
  cases hit with
  | none => exact State.mgmtLost_keeps s2 h2
  | some a =>
    dsimp only
    exact State.mgmtLost_keeps (s2.rollBack a) (State.rollBack_keeps _ a h2)

theorem execTwinDrain_keeps {s0 : State} (id : Nat) (s : State) (h : s0.Keeps s) : s0.OutKeeps (execTwinDrain id s) := by
  have h1 := State.setPhase_keeps s id .running h
  unfold execTwinDrain
  split
  · exact .next h
  · split
    · exact .next (State.refuse_keeps _ _ _ h)
    · exact .next (h.mix h1 rfl rfl rfl rfl rfl rfl rfl)

theorem execDrainComplete_keeps {s0 : State} (id : Nat) (s : State) (h : s0.Keeps s) :
    s0.OutKeeps (execDrainComplete id s) := by
  unfold execDrainComplete
  with_reducible repeat' first
    | apply State.finish_keeps | apply State.recordFw_keeps | apply State.OutKeeps.next
    | exact State.Keeps.mk' (by assumption) rfl rfl rfl rfl rfl
    | ((try lift_lets); intro x; first | (refine State.Keeps.step (s0 := s0) (x := x) ?_ ?_ <;> first | (intro hx; clear_value x) | subst x) | (have hf : Fw := x; clear hf; subst x) | skip)
    | split

theorem execTwinRejoin_keeps {s0 : State} (id : Nat) (s : State) (h : s0.Keeps s) :
    s0.OutKeeps (execTwinRejoin id s) := by
  unfold execTwinRejoin
  with_reducible repeat' first
    | apply State.finish_keeps | apply State.recordFw_keeps | apply State.OutKeeps.next
    | exact State.Keeps.mk' (by assumption) rfl rfl rfl rfl rfl
    | ((try lift_lets); intro x; first | (have hf : Fw := x; clear hf; subst x) | skip) | split

/-! ### NbUnit -/

theorem Nbx.badWords_keeps {s0 : State} (x : Nbx) (l : List Nat) (h : s0.Keeps x.s) : s0.Keeps (Nbx.badWords x l) := by
  unfold Nbx.badWords
  with_reducible repeat' first
    | assumption | apply State.countUe_keeps | refine State.Keeps.foldl ?_ (fun t a ht => ?_)

theorem Nbx.get_keeps {s0 : State} (x : Nbx) (a n : Nat) (h : s0.Keeps x.s) :
    s0.Keeps (Nbx.get x a n).1.s := by
  unfold Nbx.get
  with_reducible repeat' first
    | assumption | apply State.correctSeg_keeps | apply State.uncorrectable_keeps | apply Nbx.badWords_keeps
    | refine State.Keeps.foldl ?_ (fun t a ht => ?_)
    | ((try lift_lets); intro x; first | (refine State.Keeps.step (s0 := s0) (x := x) ?_ ?_ <;> first | (intro hx; clear_value x) | subst x) | clear_value x | skip)
    | split

theorem Nbx.noteLine_keeps {s0 : State} (s : State) (n line : Nat) (h : s0.Keeps s) :
    s0.Keeps (Nbx.noteLine s n line) := by
  unfold Nbx.noteLine
  with_reducible repeat' first
    | assumption | apply State.modNb_keeps

theorem Nbx.putUnit_keeps {s0 : State} (x : Nbx) (lin : Nat) (bs : List Byte) (bad : Bool) (h : s0.Keeps x.s) :
    s0.Keeps (Nbx.putUnit x lin bs bad).s := by
  unfold Nbx.putUnit
  with_reducible repeat' first
    | apply Nbx.noteLine_keeps | apply State.correctSeg_keeps | apply State.uncorrectable_keeps
    | apply State.putBytes_keeps | exact State.Keeps.mk' (by assumption) rfl rfl rfl rfl rfl
    | ((try lift_lets); intro x; first | (refine State.Keeps.step (s0 := s0) (x := x) ?_ ?_ <;> first | (intro hx; clear_value x) | subst x) | skip)
    | split

theorem Nbx.put_keeps {s0 : State} (x : Nbx) (a : Nat) (bs : List Byte) (bads : List Bool) (h : s0.Keeps x.s) :
    s0.Keeps (Nbx.put x a bs bads).s := by
  unfold Nbx.put
  with_reducible repeat' first
    | assumption | apply Nbx.putUnit_keeps | apply State.setNb_keeps | apply Nbx.badWords_keeps
    | refine State.Keeps.foldlNbx ?_ (fun t a ht => ?_)
    | ((try lift_lets); intro x; first | (refine State.Keeps.step (s0 := s0) (x := x.s) ?_ ?_ <;> first | (intro hx; clear_value x) | subst x) | clear_value x | skip)
    | split

theorem Nbx.taint_keeps {s0 : State} (x : Nbx) (a n : Nat) (h : s0.Keeps x.s) : s0.Keeps (Nbx.taint x a n).s := by
  unfold Nbx.taint
  with_reducible repeat' first
    | assumption | apply State.modNb_keeps
    | ((try lift_lets); intro x; clear_value x)

theorem Nbx.orFlags_keeps {s0 : State} (x : Nbx) (f : Flags) (h : s0.Keeps x.s) :
    s0.Keeps (Nbx.orFlags x f).s := by
  unfold Nbx.orFlags
  with_reducible repeat' first
    | assumption

theorem Nbx.elems_keeps {s0 : State} (x : Nbx) (c a n : Nat) (h : s0.Keeps x.s) :
    s0.Keeps (Nbx.elems x c a n).1.s := by
  unfold Nbx.elems
  with_reducible repeat' first
    | assumption | apply Nbx.get_keeps

theorem Nbx.putElems_keeps {s0 : State} (x : Nbx) (c a : Nat) (l : List Nat) (bads : List Bool) (h : s0.Keeps x.s) :
    s0.Keeps (Nbx.putElems x c a l bads).s := by
  unfold Nbx.putElems
  with_reducible repeat' first
    | assumption | apply Nbx.put_keeps

theorem Nbx.loadRow_keeps {s0 : State} (x : Nbx) (u : Uop) (sl : Slice) (h : s0.Keeps x.s) :
    s0.Keeps (Nbx.loadRow x u sl).s := by
  unfold Nbx.loadRow
  with_reducible repeat' first
    | assumption | apply Nbx.taint_keeps | apply Nbx.put_keeps | apply Nbx.get_keeps
    | ((try lift_lets); intro x; first | (refine State.Keeps.step (s0 := s0) (x := x.1.s) ?_ ?_ <;> first | (intro hx; clear_value x) | subst x) | skip)
    | split

theorem Nbx.dotRow_keeps {s0 : State} (x : Nbx) (env : NbEnv) (u : Uop) (sl : Slice) (carry : List (List Nat)) (h : s0.Keeps x.s) :
    s0.Keeps (Nbx.dotRow x env u sl carry).1.s := by
  unfold Nbx.dotRow
  with_reducible repeat' first
    | assumption | apply Nbx.putElems_keeps | apply Nbx.elems_keeps | apply Nbx.orFlags_keeps
    | refine State.Keeps.foldlNbx ?_ (fun t a ht => ?_) | refine State.Keeps.foldlNbx1 ?_ (fun t a ht => ?_)
    | ((try lift_lets); intro x; first | (refine State.Keeps.step (s0 := s0) (x := x.1) ?_ ?_ <;> first | (intro hx; clear_value x) | subst x) | (refine State.Keeps.step (s0 := s0) (x := x.1.s) ?_ ?_ <;> first | (intro hx; clear_value x) | subst x) | skip)
    | split

theorem Nbx.maxRow_keeps {s0 : State} (x : Nbx) (u : Uop) (sl : Slice) (carry : List (List Nat)) (h : s0.Keeps x.s) :
    s0.Keeps (Nbx.maxRow x u sl carry).1.s := by
  unfold Nbx.maxRow
  with_reducible repeat' first
    | assumption | apply Nbx.putElems_keeps | apply Nbx.elems_keeps
    | ((try lift_lets); intro x; first | (refine State.Keeps.step (s0 := s0) (x := x.1) ?_ ?_ <;> first | (intro hx; clear_value x) | subst x) | (refine State.Keeps.step (s0 := s0) (x := x.1.s) ?_ ?_ <;> first | (intro hx; clear_value x) | subst x) | skip)
    | split

theorem Nbx.scaleRow_keeps {s0 : State} (x : Nbx) (env : NbEnv) (u : Uop) (sl : Slice) (h : s0.Keeps x.s) :
    s0.Keeps (Nbx.scaleRow x env u sl).s := by
  unfold Nbx.scaleRow
  with_reducible repeat' first
    | assumption | apply Nbx.putElems_keeps | apply Nbx.elems_keeps | apply Nbx.orFlags_keeps | split

theorem Nbx.axpy_keeps {s0 : State} (x : Nbx) (env : NbEnv) (u : Uop) (sl : Slice) (h : s0.Keeps x.s) :
    s0.Keeps (Nbx.axpy x env u sl).s := by
  unfold Nbx.axpy
  with_reducible repeat' first
    | assumption | apply Nbx.putElems_keeps | apply Nbx.elems_keeps | apply Nbx.orFlags_keeps

theorem Nbx.convert_keeps {s0 : State} (x : Nbx) (env : NbEnv) (u : Uop) (sl : Slice) (h : s0.Keeps x.s) :
    s0.Keeps (Nbx.convert x env u sl).s := by
  unfold Nbx.convert
  with_reducible repeat' first
    | assumption | apply Nbx.putElems_keeps | apply Nbx.elems_keeps | apply Nbx.orFlags_keeps | apply Nbx.put_keeps
    | apply Nbx.get_keeps
    | ((try lift_lets); intro x; first | (refine State.Keeps.step (s0 := s0) (x := x.1.s) ?_ ?_ <;> first | (intro hx; clear_value x) | subst x) | skip)
    | split

theorem Nbx.uopSlice_keeps {s0 : State} (x : Nbx) (env : NbEnv) (u : Uop) (sl : Slice) (carry : List (List Nat)) (h : s0.Keeps x.s) :
    s0.Keeps (Nbx.uopSlice x env u sl carry).1.s := by
  unfold Nbx.uopSlice
  with_reducible repeat' first
    | assumption | apply Nbx.convert_keeps | apply Nbx.axpy_keeps | apply Nbx.scaleRow_keeps
    | apply Nbx.maxRow_keeps | apply Nbx.dotRow_keeps | apply Nbx.loadRow_keeps | apply Nbx.put_keeps
    | apply Nbx.get_keeps
    | ((try lift_lets); intro x; first | (refine State.Keeps.step (s0 := s0) (x := x.1) ?_ ?_ <;> first | (intro hx; clear_value x) | subst x) | (refine State.Keeps.step (s0 := s0) (x := x.1.s) ?_ ?_ <;> first | (intro hx; clear_value x) | subst x) | skip)
    | split

section reading
variable {σ : Type} (rd : σ → Nat → Nat → σ × List Byte) (P : σ → Prop) (H : ∀ x a n, P x → P (rd x a n).1)
include H
theorem readTable_keeps (x : σ) (a w n : Nat) (h : P x) : P (readTable rd x a w n).1 := H _ _ _ h
theorem readPage_keeps (x : σ) (a : Nat) (h : P x) : P (readPage rd x a).1 := H _ _ _ h
theorem readRow_keeps (x : σ) (p : Page) (k : Bool) (n : Nat) (h : P x) : P (readRow rd x p k n).1 := by
  unfold readRow
  dsimp only
  repeat' split
  all_goals first | exact H _ _ _ h | exact H _ _ _ (H _ _ _ h)
theorem readScales_keeps (x : σ) (p : Page) (h : P x) : P (readScales rd x p).1 := by
  unfold readScales
  have one : ∀ (st : σ × Bool) (c a : Nat), P st.1 → P (if kvScaleBytes c p.d = 0 then st else
      ((rd st.1 a (kvScaleBytes c p.d)).1, st.2 && scaleOk c (rd st.1 a (kvScaleBytes c p.d)).2)).1 := by
    intro st c a hs
    split
    · exact hs
    · exact H _ _ _ hs
  suffices ∀ (l : List Nat) (st : σ × Bool), P st.1 → P (l.foldl (fun (st : σ × Bool) s =>
    let one := fun (st : σ × Bool) (c a : Nat) =>
      let k := kvScaleBytes c p.d
      if k = 0 then st else
      let r := rd st.1 a k
      (r.1, st.2 && scaleOk c r.2)
    one (one st p.fk (p.keyScale s)) p.fv (p.valueScale s)) st).1 from this _ _ h
  intro l
  induction l with
  | nil => intro st hs; exact hs
  | cons a r ih => intro st hs; exact ih _ (one _ _ _ (one _ _ _ hs))
theorem readBlock_keeps (x : σ) (p : Page) (k : Bool) (b : Nat) (h : P x) : P (readBlock rd x p k b).1 := by
  unfold readBlock
  suffices ∀ (l : List Nat) (st : σ × List (Option KvRow)), P st.1 → P (l.foldl (fun (st : σ × List (Option KvRow)) s =>
    if p.isOcc s then
      let r := readRow rd st.1 p k s
      (r.1, st.2 ++ [some r.2])
    else (st.1, st.2 ++ [none])) st).1 from this _ _ h
  intro l
  induction l with
  | nil => intro st hs; exact hs
  | cons a r ih =>
    intro st hs
    refine ih _ ?_
    dsimp only
    split
    · exact readRow_keeps rd P H _ _ _ _ hs
    · exact hs
end reading

/-! ### Kv -/

theorem Slx.rd_keeps {s0 : State} (x : Slx) (a n : Nat) (h : s0.Keeps x.s) : s0.Keeps (Slx.rd x a n).1.s := by
  unfold Slx.rd
  split
  · exact h
  · have h1 := State.sluRead_keeps x.s x.n x.sag a n h
    dsimp only
    split
    · exact h1
    · exact h1
theorem Slx.readTable_keeps {s0 : State} (x : Slx) (a w n : Nat) (h : s0.Keeps x.s) : s0.Keeps (readTable Slx.rd x a w n).1.s :=
  Machine.readTable_keeps Slx.rd (fun x => s0.Keeps x.s) (fun x a n h => Slx.rd_keeps x a n h) x a w n h
theorem Slx.readPage_keeps {s0 : State} (x : Slx) (a : Nat) (h : s0.Keeps x.s) : s0.Keeps (readPage Slx.rd x a).1.s :=
  Machine.readPage_keeps Slx.rd (fun x => s0.Keeps x.s) (fun x a n h => Slx.rd_keeps x a n h) x a h
theorem Slx.readScales_keeps {s0 : State} (x : Slx) (p : Page) (h : s0.Keeps x.s) : s0.Keeps (readScales Slx.rd x p).1.s :=
  Machine.readScales_keeps Slx.rd (fun x => s0.Keeps x.s) (fun x a n h => Slx.rd_keeps x a n h) x p h
theorem Slx.readBlock_keeps {s0 : State} (x : Slx) (p : Page) (k : Bool) (b : Nat) (h : s0.Keeps x.s) : s0.Keeps (readBlock Slx.rd x p k b).1.s :=
  Machine.readBlock_keeps Slx.rd (fun x => s0.Keeps x.s) (fun x a n h => Slx.rd_keeps x a n h) x p k b h
theorem Slx.readRow_keeps {s0 : State} (x : Slx) (p : Page) (k : Bool) (b : Nat) (h : s0.Keeps x.s) : s0.Keeps (readRow Slx.rd x p k b).1.s :=
  Machine.readRow_keeps Slx.rd (fun x => s0.Keeps x.s) (fun x a n h => Slx.rd_keeps x a n h) x p k b h

theorem Slx.wr_keeps {s0 : State} (x : Slx) (l : List (Nat × List Byte)) (h : s0.Keeps x.s) :
    s0.Keeps (Slx.wr x l).s := by
  unfold Slx.wr
  with_reducible repeat' first
    | assumption | apply State.store_keeps | refine State.Keeps.foldl ?_ (fun t a ht => ?_)
    | ((try lift_lets); intro x; first | (refine State.Keeps.step (s0 := s0) (x := x) ?_ ?_ <;> first | (intro hx; clear_value x) | subst x) | skip)
    | split

theorem refuse_keeps {s0 : State} (x : Slx) (st : Nat) (h : s0.Keeps x.s) : s0.Keeps (refuse x st).x.s := h

theorem Slx.orElse_keeps {s0 : State} (x : Slx) (k : Slx → Served) (h : s0.Keeps x.s) (hk : ∀ t, s0.Keeps t.s → s0.Keeps (k t).x.s) :
    s0.Keeps (Slx.orElse x k).x.s := by
  unfold Slx.orElse
  split
  · exact h
  · exact hk _ h

theorem Slx.require_keeps {s0 : State} (x : Slx) (l : List Nat) (k : Slx → Served) (h : s0.Keeps x.s)
    (hk : ∀ t, s0.Keeps t.s → s0.Keeps (k t).x.s) : s0.Keeps (Slx.require x l k).x.s := by
  unfold Slx.require
  split
  · exact h
  · split
    · exact h
    · exact hk _ h

theorem kvAppend_keeps {s0 : State} (x : Slx) (desc : Nat) (h : s0.Keeps x.s) :
    s0.Keeps (kvAppend x desc).x.s := by
  unfold kvAppend
  with_reducible repeat' first
    | assumption | refine Slx.require_keeps _ _ _ ?_ (fun t ht => ?_)
    | refine Slx.orElse_keeps _ _ ?_ (fun t ht => ?_) | apply Slx.wr_keeps | apply Slx.rd_keeps
    | apply Slx.readTable_keeps | apply Slx.readPage_keeps | split | dsimp only

theorem servicePages_keeps {s0 : State} (x : Slx) (table count seq layer head : Nat) (k : Slx → List (Page × List Byte) → Served)
    (h : s0.Keeps x.s) (hk : ∀ t l, s0.Keeps t.s → s0.Keeps (k t l).x.s) : s0.Keeps (servicePages x table count seq layer head k).x.s := by
  unfold servicePages
  refine Slx.require_keeps _ _ _ h (fun t ht => ?_)
  refine Slx.require_keeps _ _ _ (Slx.readTable_keeps _ _ _ _ ht) (fun t ht => ?_)
  refine Slx.require_keeps _ _ _ (State.Keeps.foldlSlx1 ht (fun t a ht => Slx.readPage_keeps _ _ ht)) (fun t ht => ?_)
  exact hk _ _ ht

theorem kvEvict_keeps {s0 : State} (x : Slx) (desc : Nat) (h : s0.Keeps x.s) :
    s0.Keeps (kvEvict x desc).x.s := by
  unfold kvEvict
  with_reducible repeat' first
    | assumption | refine servicePages_keeps _ _ _ _ _ _ _ ?_ (fun t l ht => ?_)
    | refine Slx.require_keeps _ _ _ ?_ (fun t ht => ?_) | refine Slx.orElse_keeps _ _ ?_ (fun t ht => ?_)
    | apply Slx.wr_keeps | apply Slx.rd_keeps | apply State.recordFw_keeps
    | ((try lift_lets); intro x; first | (refine State.Keeps.step (s0 := s0) (x := x.1) ?_ ?_ <;> first | (intro hx; clear_value x) | subst x) | skip)
    | split

theorem kvScore_keeps {s0 : State} (x : Slx) (desc : Nat) (h : s0.Keeps x.s) :
    s0.Keeps (kvScore x desc).x.s := by
  unfold kvScore
  with_reducible repeat' first
    | assumption | refine servicePages_keeps _ _ _ _ _ _ _ ?_ (fun t l ht => ?_)
    | refine Slx.require_keeps _ _ _ ?_ (fun t ht => ?_) | refine Slx.orElse_keeps _ _ ?_ (fun t ht => ?_)
    | apply Slx.wr_keeps | apply Slx.rd_keeps | refine State.Keeps.foldlSlx1 ?_ (fun t a ht => ?_)

theorem kvAccept_keeps {s0 : State} (x : Slx) (desc : Nat) (h : s0.Keeps x.s) :
    s0.Keeps (kvAccept x desc).x.s := by
  unfold kvAccept
  with_reducible repeat' first
    | assumption | refine servicePages_keeps _ _ _ _ _ _ _ ?_ (fun t l ht => ?_)
    | refine Slx.require_keeps _ _ _ ?_ (fun t ht => ?_) | refine Slx.orElse_keeps _ _ ?_ (fun t ht => ?_)
    | apply Slx.wr_keeps | apply Slx.rd_keeps

theorem stagePages_keeps {s0 : State} (x : Slx) (a : Attn) (k : Slx → Tree → List QRow → List Page → Served)
    (h : s0.Keeps x.s) (hk : ∀ t a b c, s0.Keeps t.s → s0.Keeps (k t a b c).x.s) : s0.Keeps (stagePages x a k).x.s := by
  unfold stagePages
  refine Slx.require_keeps _ _ _ h (fun t ht => ?_)
  refine Slx.require_keeps _ _ _ ?_ (fun t ht => hk _ _ _ _ ht)
  repeat' first
    | with_reducible assumption
    | with_reducible apply Slx.readTable_keeps
    | with_reducible apply Slx.readPage_keeps
    | with_reducible apply Slx.readScales_keeps
    | with_reducible apply Slx.rd_keeps
    | with_reducible apply State.recordFw_keeps
    | with_reducible apply Nbx.rd_keeps
    | with_reducible refine Slx.orElse_keeps _ _ ?_ (fun t ht => ?_)
    | with_reducible apply refuse_keeps
    | with_reducible apply Slx.wr_keeps
    | with_reducible apply Slx.rd_keeps
    | with_reducible apply State.refuse_keeps
    | with_reducible apply State.recordFw_keeps
    | with_reducible apply Nbx.readBlock_keeps
    | with_reducible apply Slx.readBlock_keeps
    | with_reducible refine State.Keeps.foldlMove ?_ (fun t a ht => ?_)
    | with_reducible refine State.Keeps.foldlMove1 ?_ (fun t a ht => ?_)
    | with_reducible refine State.Keeps.foldlNbx ?_ (fun t a ht => ?_)
    | with_reducible refine State.Keeps.foldlNbx1 ?_ (fun t a ht => ?_)
    | with_reducible refine State.Keeps.foldlSlx ?_ (fun t a ht => ?_)
    | with_reducible refine State.Keeps.foldlSlx1 ?_ (fun t a ht => ?_)
    | with_reducible refine State.Keeps.foldl ?_ (fun t a ht => ?_)
    | with_reducible refine State.Keeps.foldl1 ?_ (fun t a ht => ?_)
    | with_reducible exact State.Keeps.mk' (by assumption) rfl rfl rfl rfl rfl
    | (with_reducible refine State.Keeps.mk' ?_ rfl rfl rfl rfl rfl; first | with_reducible apply Nbx.rd_keeps | with_reducible apply refuse_keeps | with_reducible apply Slx.wr_keeps | with_reducible apply Slx.rd_keeps | with_reducible apply State.refuse_keeps | with_reducible apply State.recordFw_keeps | with_reducible apply Nbx.readBlock_keeps | with_reducible apply Slx.readBlock_keeps | with_reducible refine State.Keeps.foldlMove ?_ (fun t a ht => ?_) | with_reducible refine State.Keeps.foldlMove1 ?_ (fun t a ht => ?_) | with_reducible refine State.Keeps.foldlNbx ?_ (fun t a ht => ?_) | with_reducible refine State.Keeps.foldlNbx1 ?_ (fun t a ht => ?_) | with_reducible refine State.Keeps.foldlSlx ?_ (fun t a ht => ?_) | with_reducible refine State.Keeps.foldlSlx1 ?_ (fun t a ht => ?_) | with_reducible refine State.Keeps.foldl ?_ (fun t a ht => ?_) | with_reducible refine State.Keeps.foldl1 ?_ (fun t a ht => ?_))
    | ((try lift_lets); intro x; first | (refine State.Keeps.step (s0 := s0) (x := x) ?_ ?_ <;> first | (intro hx; clear_value x) | subst x) | (refine State.Keeps.step (s0 := s0) (x := x.1) ?_ ?_ <;> first | (intro hx; clear_value x) | subst x) | (refine State.Keeps.step (s0 := s0) (x := x.s) ?_ ?_ <;> first | (intro hx; clear_value x) | subst x) | (refine State.Keeps.step (s0 := s0) (x := x.1.s) ?_ ?_ <;> first | (intro hx; clear_value x) | subst x) | (refine State.Keeps.step (s0 := s0) (x := x.x.s) ?_ ?_ <;> first | (intro hx; clear_value x) | subst x) | (refine State.OptKeeps.step (s0 := s0) (x := x) ?_ ?_ <;> first | (intro hx; clear_value x) | subst x) | (refine State.OptKeeps1.step (s0 := s0) (x := x) ?_ ?_ <;> first | (intro hx; clear_value x) | subst x) | (refine State.EffKeeps.step (s0 := s0) (x := x) ?_ ?_ <;> first | (intro hx; clear_value x) | subst x) | (have hf : _ → _ := x; clear hf; subst x) | (have hf : Fw := x; clear hf; subst x) | (have hf : Sec := x; clear hf; subst x) | clear_value x | skip)
    | with_reducible apply State.Keeps.ite
    | split
    | (refine State.Keeps.mk' ?_ rfl rfl rfl rfl rfl; with_reducible assumption)
    | dsimp only

theorem kvStage_keeps {s0 : State} (x : Slx) (desc : Nat) (h : s0.Keeps x.s) :
    s0.Keeps (kvStage x desc).x.s := by
  unfold kvStage
  with_reducible repeat' first
    | assumption | refine stagePages_keeps _ _ _ ?_ (fun t a b c ht => ?_)
    | refine Slx.orElse_keeps _ _ ?_ (fun t ht => ?_) | apply refuse_keeps | apply Slx.wr_keeps
    | apply Slx.rd_keeps | apply State.recordFw_keeps | apply Slx.readBlock_keeps
    | refine State.Keeps.foldlSlx ?_ (fun t a ht => ?_) | refine State.Keeps.foldlSlx1 ?_ (fun t a ht => ?_)
    | ((try lift_lets); intro x; first | (refine State.Keeps.step (s0 := s0) (x := x.1.s) ?_ ?_ <;> first | (intro hx; clear_value x) | subst x) | skip)
    | split

theorem State.kvQueue_keeps {s0 : State} (s : State) (id opcode : Nat) (writer : Bool) (h : s0.Keeps s) :
    s0.Keeps (State.kvQueue s id opcode writer) := by
  unfold State.kvQueue
  with_reducible repeat' first
    | assumption | apply refuse_keeps | apply State.setPhase_keeps | apply State.refuse_keeps
    | exact State.Keeps.mk' (by assumption) rfl rfl rfl rfl rfl
    | ((try lift_lets); intro x; first | (refine State.Keeps.step (s0 := s0) (x := x) ?_ ?_ <;> first | (intro hx; clear_value x) | subst x) | skip)
    | split

theorem execKvAppend_keeps {s0 : State} (id : Nat) (s : State) (h : s0.Keeps s) :
    s0.OutKeeps (execKvAppend id s) := by
  unfold execKvAppend
  with_reducible repeat' first
    | assumption | apply State.kvQueue_keeps | apply State.OutKeeps.next

theorem execKvEvict_keeps {s0 : State} (id : Nat) (s : State) (h : s0.Keeps s) :
    s0.OutKeeps (execKvEvict id s) := by
  unfold execKvEvict
  with_reducible repeat' first
    | assumption | apply State.kvQueue_keeps | apply State.OutKeeps.next

theorem execKvStage_keeps {s0 : State} (id : Nat) (s : State) (h : s0.Keeps s) :
    s0.OutKeeps (execKvStage id s) := by
  unfold execKvStage
  with_reducible repeat' first
    | assumption | apply State.kvQueue_keeps | apply State.OutKeeps.next

theorem execKvScore_keeps {s0 : State} (id : Nat) (s : State) (h : s0.Keeps s) :
    s0.OutKeeps (execKvScore id s) := by
  unfold execKvScore
  with_reducible repeat' first
    | assumption | apply State.kvQueue_keeps | apply State.OutKeeps.next

theorem execKvAccept_keeps {s0 : State} (id : Nat) (s : State) (h : s0.Keeps s) :
    s0.OutKeeps (execKvAccept id s) := by
  unfold execKvAccept
  with_reducible repeat' first
    | assumption | apply State.kvQueue_keeps | apply State.OutKeeps.next

theorem execKvServiceStart_keeps {s0 : State} (id : Nat) (s : State) (h : s0.Keeps s) :
    s0.OutKeeps (execKvServiceStart id s) := by
  unfold execKvServiceStart
  with_reducible repeat' first
    | assumption | apply kvStage_keeps | apply kvAccept_keeps | apply kvScore_keeps | apply kvEvict_keeps
    | apply kvAppend_keeps | apply State.finish_keeps | apply State.OutKeeps.next
    | exact State.Keeps.mk' (by assumption) rfl rfl rfl rfl rfl
    | ((try lift_lets); intro x; first | (refine State.Keeps.step (s0 := s0) (x := x.1.s) ?_ ?_ <;> first | (intro hx; clear_value x) | subst x) | (have hf : _ → _ := x; clear hf; subst x) | skip)
    | split

/-! ### NbWork -/

theorem Nbx.rd_keeps {s0 : State} (x : Nbx) (a n : Nat) (h : s0.Keeps x.s) : s0.Keeps (Nbx.rd x a n).1.s :=
  Nbx.get_keeps x a n h
theorem Nbx.readTable_keeps {s0 : State} (x : Nbx) (a w n : Nat) (h : s0.Keeps x.s) : s0.Keeps (readTable Nbx.rd x a w n).1.s :=
  Machine.readTable_keeps Nbx.rd (fun x => s0.Keeps x.s) (fun x a n h => Nbx.rd_keeps x a n h) x a w n h
theorem Nbx.readPage_keeps {s0 : State} (x : Nbx) (a : Nat) (h : s0.Keeps x.s) : s0.Keeps (readPage Nbx.rd x a).1.s :=
  Machine.readPage_keeps Nbx.rd (fun x => s0.Keeps x.s) (fun x a n h => Nbx.rd_keeps x a n h) x a h
theorem Nbx.readScales_keeps {s0 : State} (x : Nbx) (p : Page) (h : s0.Keeps x.s) : s0.Keeps (readScales Nbx.rd x p).1.s :=
  Machine.readScales_keeps Nbx.rd (fun x => s0.Keeps x.s) (fun x a n h => Nbx.rd_keeps x a n h) x p h
theorem Nbx.readBlock_keeps {s0 : State} (x : Nbx) (p : Page) (k : Bool) (b : Nat) (h : s0.Keeps x.s) : s0.Keeps (readBlock Nbx.rd x p k b).1.s :=
  Machine.readBlock_keeps Nbx.rd (fun x => s0.Keeps x.s) (fun x a n h => Nbx.rd_keeps x a n h) x p k b h
theorem Nbx.readRow_keeps {s0 : State} (x : Nbx) (p : Page) (k : Bool) (b : Nat) (h : s0.Keeps x.s) : s0.Keeps (readRow Nbx.rd x p k b).1.s :=
  Machine.readRow_keeps Nbx.rd (fun x => s0.Keeps x.s) (fun x a n h => Nbx.rd_keeps x a n h) x p k b h

theorem NbPlan.refused_keeps {s0 : State} (x : Nbx) (st : Nat) (fr : Option Nat) (h : s0.Keeps x.s) : s0.Keeps (NbPlan.refused x st fr).x.s := h

theorem Nbx.plan_keeps {s0 : State} (x : Nbx) (l : List (Slice × Nat)) (h : s0.Keeps x.s) :
    s0.Keeps (Nbx.plan x l).x.s := by
  unfold Nbx.plan
  with_reducible repeat' first
    | assumption | apply NbPlan.refused_keeps
    | ((try lift_lets); intro x; first | (refine State.Keeps.step (s0 := s0) (x := x) ?_ ?_ <;> first | (intro hx; clear_value x) | subst x) | skip)
    | split

theorem Nbx.descriptor_keeps {s0 : State} (x : Nbx) (a n : Nat) (k : Nbx → List Byte → NbPlan) (h : s0.Keeps x.s)
    (hk : ∀ t l, s0.Keeps t.s → s0.Keeps (k t l).x.s) : s0.Keeps (Nbx.descriptor x a n k).x.s := by
  have h1 := Nbx.get_keeps x a n h
  unfold Nbx.descriptor
  dsimp only
  split
  · exact h
  · split
    · exact h1
    · exact hk _ _ h1

theorem Nbx.stage_keeps {s0 : State} (x : Nbx) (l : List Nat) (rs : List (Nat × Nat)) (k : NbPlan) (h : s0.Keeps x.s)
    (hk : s0.Keeps k.x.s) : s0.Keeps (Nbx.stage x l rs k).x.s := by
  unfold Nbx.stage
  dsimp only
  split
  · exact h
  · split
    · exact h
    · exact hk

theorem attnHeads_keeps {s0 : State} (x : Nbx) (a : Attn) (addrs : List Nat) (h : s0.Keeps x.s) :
    s0.Keeps (attnHeads x a addrs).1.s := by
  unfold attnHeads
  with_reducible repeat' first
    | assumption | apply Nbx.rd_keeps | apply Nbx.readTable_keeps | apply Nbx.readPage_keeps
    | refine State.Keeps.foldlNbx1 ?_ (fun t a ht => ?_)
    | ((try lift_lets); intro x; first | (refine State.Keeps.step (s0 := s0) (x := x.1.s) ?_ ?_ <;> first | (intro hx; clear_value x) | subst x) | skip)
    | split

theorem attnPlan_keeps {s0 : State} (x : Nbx) (addr : Nat) (h : s0.Keeps x.s) :
    s0.Keeps (attnPlan x addr).x.s := by
  unfold attnPlan
  with_reducible repeat' first
    | assumption | apply attnHeads_keeps | refine Nbx.stage_keeps _ _ _ _ ?_ ?_
    | refine Nbx.descriptor_keeps _ _ _ _ ?_ (fun t l ht => ?_) | apply Nbx.plan_keeps | apply State.record_keeps
    | apply Nbx.readTable_keeps | apply Nbx.readScales_keeps | refine State.Keeps.foldlNbx1 ?_ (fun t a ht => ?_)
    | split

theorem Nbx.queryRows_keeps {s0 : State} (x : Nbx) (a : Attn) (h : s0.Keeps x.s) :
    s0.Keeps (Nbx.queryRows x a).1.s := by
  unfold Nbx.queryRows
  with_reducible repeat' first
    | assumption | apply Nbx.rd_keeps | refine State.Keeps.foldlNbx1 ?_ (fun t a ht => ?_)

theorem Nbx.attnBlock_keeps {s0 : State} (x : Nbx) (lim : Nat × Nat) (a : Attn) (t : Tree) (qs : List QRow) (q : List (List Nat)) (k : Nat) (p : Page) (b : Nat) (h : s0.Keeps x.s) :
    s0.Keeps (Nbx.attnBlock x lim a t qs q k p b).1.s := by
  unfold Nbx.attnBlock
  with_reducible repeat' first
    | assumption | apply Nbx.orFlags_keeps | apply State.record_keeps | apply Nbx.readBlock_keeps
    | refine State.Keeps.foldlNbx ?_ (fun t a ht => ?_)

theorem Nbx.attnMass_keeps {s0 : State} (x : Nbx) (lim : Nat × Nat) (a : Attn) (t : Tree) (qs : List QRow) (q : List (List Nat)) (p : Page) (old : List Byte) (h : s0.Keeps x.s) :
    s0.Keeps (Nbx.attnMass x lim a t qs q p old).s := by
  unfold Nbx.attnMass
  with_reducible repeat' first
    | assumption | apply Nbx.rd_keeps | apply Nbx.orFlags_keeps | apply Nbx.put_keeps | apply Nbx.readBlock_keeps
    | refine State.Keeps.foldlNbx1 ?_ (fun t a ht => ?_)
    | ((try lift_lets); intro x; first | (refine State.Keeps.step (s0 := s0) (x := x.1.s) ?_ ?_ <;> first | (intro hx; clear_value x) | subst x) | skip)
    | split

theorem Nbx.attnPage_keeps {s0 : State} (x : Nbx) (env : NbEnv) (a : Attn) (k : Nat) (carry : List (List Nat)) (h : s0.Keeps x.s) :
    s0.Keeps (Nbx.attnPage x env a k carry).1.s := by
  unfold Nbx.attnPage
  with_reducible repeat' first
    | assumption | apply Nbx.attnMass_keeps | apply Nbx.attnBlock_keeps | apply Nbx.queryRows_keeps
    | apply attnHeads_keeps | apply Nbx.rd_keeps | apply Nbx.orFlags_keeps | apply Nbx.put_keeps
    | apply Nbx.readTable_keeps | apply Nbx.readPage_keeps | refine State.Keeps.foldlNbx1 ?_ (fun t a ht => ?_)
    | ((try lift_lets); intro x; first | (refine State.Keeps.step (s0 := s0) (x := x.1) ?_ ?_ <;> first | (intro hx; clear_value x) | subst x) | (refine State.Keeps.step (s0 := s0) (x := x.1.s) ?_ ?_ <;> first | (intro hx; clear_value x) | subst x) | skip)
    | split

theorem updPlan_keeps {s0 : State} (x : Nbx) (addr : Nat) (h : s0.Keeps x.s) :
    s0.Keeps (updPlan x addr).x.s := by
  unfold updPlan
  with_reducible repeat' first
    | assumption | refine Nbx.stage_keeps _ _ _ _ ?_ ?_ | refine Nbx.descriptor_keeps _ _ _ _ ?_ (fun t l ht => ?_)
    | apply Nbx.plan_keeps

theorem Nbx.updSlice_keeps {s0 : State} (x : Nbx) (u : Upd) (sl : Slice) (carry : List (List Nat)) (h : s0.Keeps x.s) :
    s0.Keeps (Nbx.updSlice x u sl carry).1.s := by
  unfold Nbx.updSlice
  with_reducible repeat' first
    | assumption | apply Nbx.putElems_keeps | apply Nbx.elems_keeps | apply Nbx.orFlags_keeps
    | apply State.record_keeps
    | ((try lift_lets); intro x; first | (refine State.Keeps.step (s0 := s0) (x := x.1) ?_ ?_ <;> first | (intro hx; clear_value x) | subst x) | (refine State.Keeps.step (s0 := s0) (x := x.1.s) ?_ ?_ <;> first | (intro hx; clear_value x) | subst x) | skip)
    | split

theorem auditPlan_keeps {s0 : State} (x : Nbx) (addr : Nat) (h : s0.Keeps x.s) :
    s0.Keeps (auditPlan x addr).x.s := by
  unfold auditPlan
  with_reducible repeat' first
    | assumption | refine Nbx.stage_keeps _ _ _ _ ?_ ?_ | refine Nbx.descriptor_keeps _ _ _ _ ?_ (fun t l ht => ?_)
    | apply Nbx.plan_keeps

theorem Nbx.auditSlice_keeps {s0 : State} (x : Nbx) (a : Audit) (sl : Slice) (carry : List (List Nat)) (h : s0.Keeps x.s) :
    s0.Keeps (Nbx.auditSlice x a sl carry).1.s := by
  unfold Nbx.auditSlice
  with_reducible repeat' first
    | assumption | apply Nbx.elems_keeps | apply Nbx.orFlags_keeps | apply Nbx.put_keeps | apply Nbx.get_keeps
    | ((try lift_lets); intro x; first | (refine State.Keeps.step (s0 := s0) (x := x.1) ?_ ?_ <;> first | (intro hx; clear_value x) | subst x) | (refine State.Keeps.step (s0 := s0) (x := x.1.s) ?_ ?_ <;> first | (intro hx; clear_value x) | subst x) | skip)
    | split

theorem digestPlan_keeps {s0 : State} (x : Nbx) (addr step : Nat) (h : s0.Keeps x.s) :
    s0.Keeps (digestPlan x addr step).x.s := by
  unfold digestPlan
  with_reducible repeat' first
    | assumption | refine Nbx.stage_keeps _ _ _ _ ?_ ?_ | refine Nbx.descriptor_keeps _ _ _ _ ?_ (fun t l ht => ?_)
    | apply Nbx.plan_keeps
    | ((try lift_lets); intro x; first | (refine State.Keeps.step (s0 := s0) (x := x) ?_ ?_ <;> first | (intro hx; clear_value x) | subst x) | skip)
    | split

theorem Nbx.digestSlice_keeps {s0 : State} (x : Nbx) (d : Dig) (sl : Slice) (carry : List (List Nat)) (h : s0.Keeps x.s) :
    s0.Keeps (Nbx.digestSlice x d sl carry).1.s := by
  unfold Nbx.digestSlice
  with_reducible repeat' first
    | assumption | apply Nbx.put_keeps | apply Nbx.get_keeps | refine State.Keeps.foldlNbx ?_ (fun t a ht => ?_)
    | ((try lift_lets); intro x; first | (refine State.Keeps.step (s0 := s0) (x := x.1) ?_ ?_ <;> first | (intro hx; clear_value x) | subst x) | (refine State.Keeps.step (s0 := s0) (x := x.1.s) ?_ ?_ <;> first | (intro hx; clear_value x) | subst x) | skip)
    | split

theorem Comp.walk_keeps {s0 : State} (c : Comp) (n i : Nat) (w : Walk) (h : s0.Keeps w.1.s) : s0.Keeps (Comp.walk c n i w).1.s := by
  induction n generalizing i w with
  | zero => exact Nbx.rd_keeps _ _ _ (Nbx.rd_keeps _ _ _ h)
  | succ l ih =>
    have h1 : s0.Keeps (Nbx.rd (Nbx.rd w.1 (nodeAddr c.loc c.leaves (l + 1) i) 32).1 (nodeAddr c.peer c.leaves (l + 1) i) 32).1.s :=
      Nbx.rd_keeps _ _ _ (Nbx.rd_keeps _ _ _ h)
    unfold Comp.walk
    dsimp only
    split
    · exact h1
    · split
      · exact ih _ _ (ih _ _ h1)
      · exact ih _ _ h1

theorem comparePlan_keeps {s0 : State} (x : Nbx) (addr : Nat) (h : s0.Keeps x.s) :
    s0.Keeps (comparePlan x addr).x.s := by
  unfold comparePlan
  with_reducible repeat' first
    | assumption | refine Nbx.stage_keeps _ _ _ _ ?_ ?_ | refine Nbx.descriptor_keeps _ _ _ _ ?_ (fun t l ht => ?_)
    | apply Nbx.plan_keeps

theorem Nbx.compareSlice_keeps {s0 : State} (x : Nbx) (c : Comp) (sl : Slice) (carry : List (List Nat)) (h : s0.Keeps x.s) :
    s0.Keeps (Nbx.compareSlice x c sl carry).1.s := by
  unfold Nbx.compareSlice
  with_reducible repeat' first
    | assumption | apply Comp.walk_keeps | apply Nbx.put_keeps | apply State.record_keeps
    | refine State.Keeps.foldlNbx ?_ (fun t a ht => ?_)
    | ((try lift_lets); intro x; first | (refine State.Keeps.step (s0 := s0) (x := x.1.s) ?_ ?_ <;> first | (intro hx; clear_value x) | subst x) | skip)
    | split

theorem workPlan_keeps {s0 : State} (x : Nbx) (q : NbSeq) (h : s0.Keeps x.s) :
    s0.Keeps (workPlan x q).x.s := by
  unfold workPlan
  with_reducible repeat' first
    | assumption | apply comparePlan_keeps | apply digestPlan_keeps | apply auditPlan_keeps | apply updPlan_keeps
    | apply attnPlan_keeps | refine Nbx.descriptor_keeps _ _ _ _ ?_ (fun t l ht => ?_) | apply NbPlan.refused_keeps
    | ((try lift_lets); intro x; first | (refine State.Keeps.step (s0 := s0) (x := x) ?_ ?_ <;> first | (intro hx; clear_value x) | subst x) | skip)
    | split

theorem Nbx.workSlice_keeps {s0 : State} (x : Nbx) (env : NbEnv) (r : NbRunning) (sl : Slice) (carry : List (List Nat)) (h : s0.Keeps x.s) :
    s0.Keeps (Nbx.workSlice x env r sl carry).1.s := by
  unfold Nbx.workSlice
  with_reducible repeat' first
    | assumption | apply Nbx.compareSlice_keeps | apply Nbx.digestSlice_keeps | apply Nbx.auditSlice_keeps
    | apply Nbx.updSlice_keeps | apply Nbx.attnPage_keeps | apply Nbx.uopSlice_keeps | split

end Sys2Proof.Machine
end

