-- ==== Sys2Proof/Laws/KeepsRest.lean ====
section
/-! SUPPORT. What near-bank commands, scrubs, resets, security, thermal and training state keep: one lemma for each operation, `f_keeps`, says that `f` leaves the queue of waiting commands, the
canonical form of memory and the glazed record as they were. -/
namespace Sys2Proof.Machine
set_option linter.all false
open Sys2Proof State

/-! ### NearBank -/

theorem Nbx.start_keeps {s0 : State} (s : State) (n sag : Nat) (flags : Flags) (h : s0.Keeps s) :
    s0.Keeps (Nbx.start s n sag flags).s := h

theorem State.nbWord_keeps {s0 : State} (s : State) (q : NbSeq) (st status : Nat) (r : Result) (h : s0.Keeps s) :
    s0.Keeps (State.nbWord s q st status r) := by
  unfold State.nbWord
  with_reducible repeat' first
    | assumption | apply State.statusWord_keeps | apply State.putStatusWord_keeps | apply State.draw_keeps | split

theorem State.nbFinish_keeps {s0 : State} (s : State) (q : NbSeq) (status : Nat) (r : Result) (h : s0.Keeps s) :
    s0.Keeps (State.nbFinish s q status r) := by
  unfold State.nbFinish
  with_reducible repeat' first
    | apply State.nbWord_keeps | apply State.finish_keeps
    | exact State.Keeps.mk' (by assumption) rfl rfl rfl rfl rfl
    | ((try lift_lets); intro x; first | (refine State.Keeps.step (s0 := s0) (x := x) ?_ ?_ <;> first | (intro hx; clear_value x) | subst x) | skip)
    | split

theorem State.nbQueue_keeps {s0 : State} (s : State) (n : Nat) (q : NbSeq) (h : s0.Keeps s) :
    s0.Keeps (State.nbQueue s n q) := by
  unfold State.nbQueue
  with_reducible repeat' first
    | assumption | apply State.nbWord_keeps | apply State.setPhase_keeps | apply State.modNb_keeps
    | ((try lift_lets); intro x; first | (refine State.Keeps.step (s0 := s0) (x := x) ?_ ?_ <;> first | (intro hx; clear_value x) | subst x) | skip)
    | split

theorem State.drainGap_keeps {s0 : State} (s : State) (n : Nat) (h : s0.Keeps s) :
    s0.Keeps (State.drainGap s n) := by
  unfold State.drainGap
  with_reducible repeat' first
    | assumption | apply State.attachServe_keeps | apply State.modNb_keeps
    | refine State.Keeps.foldl ?_ (fun t a ht => ?_)

theorem State.nbEnd_keeps {s0 : State} (s : State) (n : Nat) (r : NbRunning) (status : Nat) (h : s0.Keeps s) :
    s0.Keeps (State.nbEnd s n r status) := by
  unfold State.nbEnd
  with_reducible repeat' first
    | assumption | apply State.drainGap_keeps | apply State.nbFinish_keeps | apply State.draw_keeps
    | apply State.modNb_keeps

theorem State.nbBadEvent_keeps {s0 : State} (s : State) (n : Nat) (q : NbSeq) (off steps : Nat) (h : s0.Keeps s) :
    s0.Keeps (State.nbBadEvent s n q off steps) := by
  unfold State.nbBadEvent
  with_reducible repeat' first
    | assumption | apply State.record_keeps

theorem State.nbFrameEvent_keeps {s0 : State} (s : State) (n : Nat) (q : NbSeq) (frame : Nat) (h : s0.Keeps s) :
    s0.Keeps (State.nbFrameEvent s n q frame) := by
  unfold State.nbFrameEvent
  with_reducible repeat' first
    | assumption | apply State.record_keeps

theorem State.nbStart_keeps {s0 : State} (s : State) (n : Nat) (q : NbSeq) (h : s0.Keeps s) :
    s0.Keeps (State.nbStart s n q) := by
  unfold State.nbStart
  with_reducible repeat' first
    | assumption | apply State.nbFrameEvent_keeps | apply State.nbBadEvent_keeps | apply State.drainGap_keeps
    | apply State.nbFinish_keeps | apply State.nbWord_keeps | apply Nbx.start_keeps | apply workPlan_keeps
    | apply State.setPhase_keeps | apply State.modNb_keeps
    | ((try lift_lets); intro x; first | (refine State.Keeps.step (s0 := s0) (x := x) ?_ ?_ <;> first | (intro hx; clear_value x) | subst x) | skip)
    | split

theorem State.strikeScratch_keeps {s0 : State} (s : State) (n : Nat) (x : Strikes) (h : s0.Keeps s) :
    s0.Keeps (State.strikeScratch s n x) := by
  unfold State.strikeScratch
  with_reducible repeat' first
    | assumption | apply State.strike_keeps | apply State.countCe_keeps | apply State.modNb_keeps
    | refine State.Keeps.foldl ?_ (fun t a ht => ?_)

theorem State.runStep_keeps {s0 : State} (x : Nbx) (env : NbEnv) (r : NbRunning) (sl : List Slice) (h : s0.Keeps x.s) :
    s0.Keeps (State.runStep x env r sl).1.s := by
  unfold State.runStep
  with_reducible repeat' first
    | assumption | apply Nbx.workSlice_keeps | refine State.Keeps.foldlNbx1 ?_ (fun t a ht => ?_)

theorem State.nbGap_keeps {s0 : State} (s : State) (n : Nat) (r : NbRunning) (h : s0.Keeps s) :
    s0.Keeps (State.nbGap s n r) := by
  unfold State.nbGap
  with_reducible repeat' first
    | assumption | apply State.drainGap_keeps | apply State.modNb_keeps | apply State.Keeps.ite

theorem State.nbStepEnd_keeps {s0 : State} (s : State) (n : Nat) (r : NbRunning) (strikes : Strikes) (residue : Nat) (h : s0.Keeps s) :
    s0.Keeps (State.nbStepEnd s n r strikes residue) := by
  unfold State.nbStepEnd
  with_reducible repeat' first
    | assumption | apply State.nbGap_keeps | apply State.runStep_keeps | apply State.strikeScratch_keeps
    | apply State.nbBadEvent_keeps | apply State.nbEnd_keeps | apply State.nbWord_keeps | apply Nbx.start_keeps
    | apply State.countCe_keeps | apply State.record_keeps | apply State.draw_keeps | apply State.modRegion_keeps
    | apply State.modNb_keeps | apply State.setNb_keeps
    | ((try lift_lets); intro x; first | (refine State.Keeps.step (s0 := s0) (x := x) ?_ ?_ <;> first | (intro hx; clear_value x) | subst x) | (refine State.Keeps.step (s0 := s0) (x := x.1.s) ?_ ?_ <;> first | (intro hx; clear_value x) | subst x) | skip)
    | split

theorem State.nbResume_keeps {s0 : State} (s : State) (n : Nat) (r : NbRunning) (wasSuspended : Bool) (h : s0.Keeps s) :
    s0.Keeps (State.nbResume s n r wasSuspended) := by
  unfold State.nbResume
  with_reducible repeat' first
    | assumption | apply State.nbFrameEvent_keeps | apply State.nbEnd_keeps | apply State.drainGap_keeps
    | apply Nbx.start_keeps | apply State.modNb_keeps | ((try lift_lets); intro x; first | clear_value x | skip)
    | split

theorem State.nbCancel.queued_keeps {s0 : State} (s : State) (n sag tag : Nat) (u : Nb) (h : s0.Keeps s) :
    s0.OptKeeps (State.nbCancel.queued s n sag tag u) :=
  .map (fun _ => State.nbFinish_keeps _ _ _ _ (State.setNb_keeps _ _ _ h))

theorem State.nbCancel_keeps {s0 : State} (s : State) (n sag tag : Nat) (h : s0.Keeps s) :
    s0.OptKeeps (State.nbCancel s n sag tag) := by
  have hq := State.nbCancel.queued_keeps s n sag tag (s.nb n) h
  unfold State.nbCancel
  dsimp only
  split
  · exact .ite (.some (State.modNb_keeps _ _ _ h)) hq
  · exact hq

theorem State.nbFence_keeps {s0 : State} (s : State) (n : Nat) (h : s0.Keeps s) :
    s0.Keeps (State.nbFence s n) := by
  unfold State.nbFence
  with_reducible repeat' first
    | assumption | apply State.modNb_keeps

theorem execNbRun_keeps {s0 : State} (id : Nat) (s : State) (h : s0.Keeps s) :
    s0.OutKeeps (execNbRun id s) := by
  unfold execNbRun
  with_reducible repeat' first
    | assumption | apply State.nbQueue_keeps | apply State.refuse_keeps | apply State.OutKeeps.next
    | ((try lift_lets); intro x; first | (refine State.Keeps.step (s0 := s0) (x := x) ?_ ?_ <;> first | (intro hx; clear_value x) | subst x) | skip)
    | split

theorem execFenceNb_keeps {s0 : State} (id : Nat) (s : State) (h : s0.Keeps s) :
    s0.OutKeeps (execFenceNb id s) := by
  unfold execFenceNb
  with_reducible repeat' first
    | assumption | apply State.nbFence_keeps | apply State.refuse_keeps | apply State.finish_keeps
    | apply State.OutKeeps.next
    | ((try lift_lets); intro x; first | (refine State.Keeps.step (s0 := s0) (x := x) ?_ ?_ <;> first | (intro hx; clear_value x) | subst x) | skip)
    | split

theorem execNbCancel_keeps {s0 : State} (id : Nat) (s : State) (h : s0.Keeps s) :
    s0.OutKeeps (execNbCancel id s) := by
  unfold execNbCancel
  with_reducible repeat' first
    | assumption | apply State.nbCancel_keeps | apply State.refuse_keeps | apply State.finish_keeps
    | apply State.OutKeeps.next
    | ((try lift_lets); intro x; first | (refine State.OptKeeps.step (s0 := s0) (x := x) ?_ ?_ <;> first | (intro hx; clear_value x) | subst x) | skip)
    | split | (refine State.OptKeeps.getD ?_ ?_)

theorem execNbReset_keeps {s0 : State} (id : Nat) (s : State) (h : s0.Keeps s) :
    s0.OutKeeps (execNbReset id s) := by
  unfold execNbReset
  with_reducible repeat' first
    | assumption | apply State.setPhase_keeps | apply State.refuse_keeps | apply State.modNb_keeps
    | apply State.OutKeeps.next
    | ((try lift_lets); intro x; first | (refine State.Keeps.step (s0 := s0) (x := x) ?_ ?_ <;> first | (intro hx; clear_value x) | subst x) | skip)
    | split

theorem execNbCoreCommand_keeps {s0 : State} (site unit : Nat) (checkEpoch : Bool) (packet : List Byte) (s : State) (h : s0.Keeps s) :
    s0.OutKeeps (execNbCoreCommand site unit checkEpoch packet s) := by
  unfold execNbCoreCommand
  with_reducible repeat' first
    | assumption | apply State.nbFence_keeps | apply State.nbCancel_keeps | apply State.nbQueue_keeps
    | apply State.remoteStatus_keeps | apply State.modNb_keeps | apply State.OutKeeps.next
    | ((try lift_lets); intro x; first | (refine State.Keeps.step (s0 := s0) (x := x) ?_ ?_ <;> first | (intro hx; clear_value x) | subst x) | skip)
    | split | (refine State.OptKeeps.getD ?_ ?_)

theorem execAttnDecode_keeps {s0 : State} (id : Nat) (s : State) (h : s0.Keeps s) :
    s0.OutKeeps (execAttnDecode id s) := by
  unfold execAttnDecode
  with_reducible repeat' first
    | assumption | apply State.nbQueue_keeps | apply refuse_keeps | apply State.refuse_keeps
    | apply State.OutKeeps.next | exact State.Keeps.mk' (by assumption) rfl rfl rfl rfl rfl
    | ((try lift_lets); intro x; first | (refine State.Keeps.step (s0 := s0) (x := x) ?_ ?_ <;> first | (intro hx; clear_value x) | subst x) | skip)
    | split

theorem execNbSequenceStart_keeps {s0 : State} (unit : Nat) (s : State) (h : s0.Keeps s) :
    s0.OutKeeps (execNbSequenceStart unit s) := by
  unfold execNbSequenceStart
  with_reducible repeat' first
    | assumption | apply State.nbStart_keeps | apply State.setNb_keeps | apply State.OutKeeps.next
    | ((try lift_lets); intro x; first | (refine State.Keeps.step (s0 := s0) (x := x) ?_ ?_ <;> first | (intro hx; clear_value x) | subst x) | skip)
    | split

theorem execNbStepEnd_keeps {s0 : State} (unit : Nat) (strikes : Strikes) (residue : Nat) (s : State) (h : s0.Keeps s) :
    s0.OutKeeps (execNbStepEnd unit strikes residue s) := by
  unfold execNbStepEnd
  with_reducible repeat' first
    | assumption | apply State.nbStepEnd_keeps | apply State.unitSettle_keeps | apply State.OutKeeps.next
    | ((try lift_lets); intro x; first | (refine State.Keeps.step (s0 := s0) (x := x) ?_ ?_ <;> first | (intro hx; clear_value x) | subst x) | skip)
    | split

theorem execNbGapEnd_keeps {s0 : State} (unit : Nat) (s : State) (h : s0.Keeps s) :
    s0.OutKeeps (execNbGapEnd unit s) := by
  unfold execNbGapEnd
  with_reducible repeat' first
    | assumption | apply State.nbResume_keeps | apply State.serveGap_keeps | apply State.OutKeeps.next
    | ((try lift_lets); intro x; first | (refine State.Keeps.step (s0 := s0) (x := x) ?_ ?_ <;> first | (intro hx; clear_value x) | subst x) | skip)
    | split

theorem execNbResetEntry_keeps {s0 : State} (unit : Nat) (s : State) (h : s0.Keeps s) :
    s0.OutKeeps (execNbResetEntry unit s) := by
  unfold execNbResetEntry
  with_reducible repeat' first
    | assumption | apply State.drainGap_keeps | apply State.nbFinish_keeps | apply State.unitSettle_keeps
    | apply State.bumpSessions_keeps | apply State.tellEpoch_keeps | apply State.draw_keeps
    | apply State.setNb_keeps | apply State.OutKeeps.next | refine State.Keeps.foldl ?_ (fun t a ht => ?_)
    | ((try lift_lets); intro x; first | (refine State.Keeps.step (s0 := s0) (x := x) ?_ ?_ <;> first | (intro hx; clear_value x) | subst x) | skip)
    | split

theorem execNbUnitRewetDone_keeps {s0 : State} (unit : Nat) (s : State) (h : s0.Keeps s) :
    s0.OutKeeps (execNbUnitRewetDone unit s) := by
  unfold execNbUnitRewetDone
  with_reducible repeat' first
    | assumption | apply State.tellEpoch_keeps | apply State.finish_keeps | apply State.record_keeps
    | apply State.setNb_keeps | apply State.OutKeeps.next | refine State.Keeps.foldl ?_ (fun t a ht => ?_)
    | ((try lift_lets); intro x; first | (refine State.Keeps.step (s0 := s0) (x := x) ?_ ?_ <;> first | (intro hx; clear_value x) | subst x) | skip)
    | apply State.OutKeeps.ite

/-! ### Reliability -/

theorem State.scrubOne_keeps {s0 : State} (s : State) (c : Cmd) (x : Scrub) (a : Nat) (h : s0.Keeps s) :
    s0.Keeps (State.scrubOne s c x a).1 := by
  unfold State.scrubOne
  with_reducible repeat' first
    | assumption | apply State.load_keeps
    | ((try lift_lets); intro x; first | (refine State.Keeps.step (s0 := s0) (x := x.1) ?_ ?_ <;> first | (intro hx; clear_value x) | subst x) | skip)
    | split

theorem State.scrubUnits_keeps {s0 : State} (c : Cmd) (n a : Nat) (p : State × Scrub) (h : s0.Keeps p.1) :
    s0.Keeps (State.scrubUnits c n a p).1 := by
  induction n generalizing a p with
  | zero => exact h
  | succ f ih =>
    obtain ⟨s, x⟩ := p
    unfold State.scrubUnits
    split
    · exact h
    · exact ih _ _ (State.scrubOne_keeps _ _ _ _ h)

theorem State.setScrub_keeps {s0 : State} (s : State) (x : Scrub) (h : s0.Keeps s) :
    s0.Keeps (State.setScrub s x) := by
  unfold State.setScrub
  with_reducible repeat' first
    | exact State.Keeps.mk' (by assumption) rfl rfl rfl rfl rfl

theorem execCeBucketLeak_keeps {s0 : State} (s : State) (h : s0.Keeps s) :
    s0.OutKeeps (execCeBucketLeak s) := by
  unfold execCeBucketLeak
  with_reducible repeat' first
    | assumption | apply State.modRegion_keeps | apply State.OutKeeps.next
    | refine State.Keeps.foldl ?_ (fun t a ht => ?_) | refine State.Keeps.foldl1 ?_ (fun t a ht => ?_)
    | exact State.Keeps.mk' (by assumption) rfl rfl rfl rfl rfl
    | ((try lift_lets); intro x; first | (refine State.Keeps.step (s0 := s0) (x := x) ?_ ?_ <;> first | (intro hx; clear_value x) | subst x) | skip)
    | apply State.OutKeeps.ite

theorem execRelScrub_keeps {s0 : State} (id : Nat) (s : State) (h : s0.Keeps s) :
    s0.OutKeeps (execRelScrub id s) := by
  unfold execRelScrub
  with_reducible repeat' first
    | apply State.setPhase_keeps | apply State.refuse_keeps | apply State.statusWord_keeps
    | apply State.OutKeeps.next | exact State.Keeps.mk' (by assumption) rfl rfl rfl rfl rfl
    | ((try lift_lets); intro x; first | (refine State.Keeps.step (s0 := s0) (x := x) ?_ ?_ <;> first | (intro hx; clear_value x) | subst x) | skip)
    | split

theorem execScrubStart_keeps {s0 : State} (id : Nat) (strikes : Strikes) (s : State) (h : s0.Keeps s) :
    s0.OutKeeps (execScrubStart id strikes s) := by
  unfold execScrubStart
  with_reducible repeat' first
    | assumption | apply State.setScrub_keeps | apply State.scrubUnits_keeps | apply State.setPhase_keeps
    | apply State.statusWord_keeps | apply State.strike_keeps | apply State.OutKeeps.next
    | ((try lift_lets); intro x; first | (refine State.Keeps.step (s0 := s0) (x := x) ?_ ?_ <;> first | (intro hx; clear_value x) | subst x) | (refine State.Keeps.step (s0 := s0) (x := x.1) ?_ ?_ <;> first | (intro hx; clear_value x) | subst x) | skip)
    | split

theorem execScrubComplete_keeps {s0 : State} (id : Nat) (s : State) (h : s0.Keeps s) :
    s0.OutKeeps (execScrubComplete id s) := by
  unfold execScrubComplete
  with_reducible repeat' first
    | apply State.finishWord_keeps | apply State.recordFw_keeps | apply State.OutKeeps.next
    | exact State.Keeps.mk' (by assumption) rfl rfl rfl rfl rfl
    | ((try lift_lets); intro x; first | (refine State.Keeps.step (s0 := s0) (x := x) ?_ ?_ <;> first | (intro hx; clear_value x) | subst x) | skip)
    | split

theorem execRelRetireGranule_keeps {s0 : State} (id : Nat) (s : State) (h : s0.Keeps s) :
    s0.OutKeeps (execRelRetireGranule id s) := by
  unfold execRelRetireGranule
  with_reducible repeat' first
    | assumption | apply State.refuse_keeps | apply State.finish_keeps | apply State.retirePending_keeps
    | apply State.OutKeeps.next | split

theorem execRelRetireSite_keeps {s0 : State} (id : Nat) (s : State) (h : s0.Keeps s) :
    s0.OutKeeps (execRelRetireSite id s) := by
  unfold execRelRetireSite
  with_reducible repeat' first
    | assumption | apply State.settleResets_keeps | apply State.retireSite_keeps | apply State.refuse_keeps
    | apply State.finish_keeps | apply State.OutKeeps.next
    | ((try lift_lets); intro x; first | (refine State.Keeps.step (s0 := s0) (x := x) ?_ ?_ <;> first | (intro hx; clear_value x) | subst x) | skip)
    | split

theorem execSiteRewetDone_keeps {s0 : State} (site : Nat) (bad : Option Nat) (s : State) (h : s0.Keeps s) :
    s0.OutKeeps (execSiteRewetDone site bad s) := by
  unfold execSiteRewetDone
  with_reducible repeat' first
    | assumption | apply State.settleResets_keeps | apply State.autoRetire_keeps | apply State.siteReturned_keeps
    | apply State.returnSite_keeps | apply State.record_keeps | apply State.modSite_keeps
    | apply State.OutKeeps.next | split

theorem execMirrorWrite_keeps {s0 : State} (seq : Nat) (s : State) (h : s0.Keeps s) :
    s0.OutKeeps (execMirrorWrite seq s) := by
  unfold execMirrorWrite
  with_reducible repeat' first
    | assumption | apply State.mirrorOne_keeps | apply State.OutKeeps.next | split

theorem execCisRead_keeps {s0 : State} (id : Nat) (s : State) (h : s0.Keeps s) :
    s0.OutKeeps (execCisRead id s) := by
  unfold execCisRead
  with_reducible repeat' first
    | assumption | apply State.store_keeps | apply State.refuse_keeps | apply State.finish_keeps
    | apply State.OutKeeps.next
    | ((try lift_lets); intro x; first | (refine State.Keeps.step (s0 := s0) (x := x.1) ?_ ?_ <;> first | (intro hx; clear_value x) | subst x) | skip)
    | split

theorem execCisClear_keeps {s0 : State} (id : Nat) (s : State) (h : s0.Keeps s) :
    s0.OutKeeps (execCisClear id s) := by
  unfold execCisClear
  with_reducible repeat' first
    | apply State.finish_keeps | apply State.recordFw_keeps | apply State.OutKeeps.next
    | exact State.Keeps.mk' (by assumption) rfl rfl rfl rfl rfl | split

/-! ### Resets -/

theorem State.enterScope_keeps {s0 : State} (s : State) (x : Scope) (h : s0.Keeps s) :
    s0.Keeps (State.enterScope s x) := by
  unfold State.enterScope
  with_reducible repeat' first
    | assumption | apply State.enterRing_keeps | apply State.enterSluice_keeps | apply State.enterSite_keeps
    | refine State.Keeps.foldl ?_ (fun t a ht => ?_)

theorem State.addReset_keeps {s0 : State} (s : State) (r : ResetRun) (h : s0.Keeps s) :
    s0.Keeps { s with fw := { s.fw with resets := s.fw.resets ++ [r] } } := h.set rfl rfl rfl

theorem State.beginReset_keeps {s0 : State} (s : State) (c : Cmd) (x : Scope) (units : List Nat) (closing : Option Nat) (h : s0.Keeps s) :
    s0.Keeps (State.beginReset s c x units closing) :=
  State.settleResets_keeps _ (State.addReset_keeps _ _ (State.setPhase_keeps _ c.id .running
    (State.recordFw_keeps _ 5 0x900C x.owner 0 (p4 x.code ++ p4 x.index ++ p4 c.ringNo) (State.enterScope_keeps s x h))))

theorem State.killUnit_keeps {s0 : State} (s : State) (g n : Nat) (h : s0.Keeps s) :
    s0.Keeps (State.killUnit s g n) := by
  unfold State.killUnit
  with_reducible repeat' first
    | assumption | apply State.nbEnd_keeps | apply State.nbFinish_keeps | apply State.modNb_keeps
    | apply State.setNb_keeps | refine State.Keeps.foldl ?_ (fun t a ht => ?_)
    | ((try lift_lets); intro x; first | (refine State.Keeps.step (s0 := s0) (x := x) ?_ ?_ <;> first | (intro hx; clear_value x) | subst x) | skip)
    | split

theorem State.killPours_keeps {s0 : State} (s : State) (g port : Nat) (h : s0.Keeps s) :
    s0.Keeps (State.killPours s g port) := by
  unfold State.killPours
  with_reducible repeat' first
    | assumption | apply State.abortRecv_keeps | apply State.endPour_keeps | apply State.modPort_keeps
    | refine State.Keeps.foldl ?_ (fun t a ht => ?_)
    | ((try lift_lets); intro x; first | (refine State.Keeps.step (s0 := s0) (x := x) ?_ ?_ <;> first | (intro hx; clear_value x) | subst x) | skip)
    | split

theorem State.resetSaggar_keeps {s0 : State} (s : State) (c : Cmd) (g : Nat) (closing : Option Nat) (h : s0.Keeps s) :
    s0.Keeps (State.resetSaggar s c g closing) := by
  unfold State.resetSaggar
  with_reducible repeat' first
    | assumption | apply State.killPours_keeps | apply State.killUnit_keeps | apply State.beginReset_keeps
    | apply State.bumpSession_keeps | refine State.Keeps.foldl ?_ (fun t a ht => ?_)

theorem State.applyRemaps_keeps {s0 : State} (s : State) (h : s0.Keeps s) :
    s0.Keeps (State.applyRemaps s) := by
  unfold State.applyRemaps
  with_reducible repeat' first
    | apply State.releaseSaggars_keeps | apply State.recordFw_keeps | apply State.modSite_keeps
    | refine State.Keeps.foldl ?_ (fun t a ht => ?_) | exact State.Keeps.mk' (by assumption) rfl rfl rfl rfl rfl

theorem State.testStack_keeps {s0 : State} (s : State) (env : BringupEnv) (h : s0.Keeps s) :
    s0.Keeps (State.testStack s env) := by
  unfold State.testStack
  with_reducible repeat' first
    | assumption | apply State.applyRemaps_keeps | apply State.testSites_keeps | apply State.stackLinks_keeps
    | apply State.bondRepairs_keeps | apply State.stopBringup_keeps
    | exact State.Keeps.mk' (by assumption) rfl rfl rfl rfl rfl
    | ((try lift_lets); intro x; first | (refine State.Keeps.step (s0 := s0) (x := x) ?_ ?_ <;> first | (intro hx; clear_value x) | subst x) | skip)
    | apply State.Keeps.ite

theorem execRstCluster_keeps {s0 : State} (id : Nat) (s : State) (h : s0.Keeps s) :
    s0.OutKeeps (execRstCluster id s) := by
  unfold execRstCluster
  with_reducible repeat' first
    | assumption | apply State.beginReset_keeps | apply State.refuse_keeps | apply State.OutKeeps.next
    | ((try lift_lets); intro x; first | (refine State.Keeps.step (s0 := s0) (x := x) ?_ ?_ <;> first | (intro hx; clear_value x) | subst x) | skip)
    | split

theorem execRstSaggar_keeps {s0 : State} (id : Nat) (s : State) (h : s0.Keeps s) :
    s0.OutKeeps (execRstSaggar id s) := by
  unfold execRstSaggar
  with_reducible repeat' first
    | assumption | apply State.resetSaggar_keeps | apply State.refuse_keeps | apply State.OutKeeps.next
    | ((try lift_lets); intro x; first | (refine State.Keeps.step (s0 := s0) (x := x) ?_ ?_ <;> first | (intro hx; clear_value x) | subst x) | skip)
    | split

theorem execRstDie_keeps {s0 : State} (id : Nat) (s : State) (h : s0.Keeps s) :
    s0.OutKeeps (execRstDie id s) := by
  unfold execRstDie
  with_reducible repeat' first
    | assumption | apply State.beginReset_keeps | apply State.refuse_keeps | apply State.OutKeeps.next
    | ((try lift_lets); intro x; first | (refine State.Keeps.step (s0 := s0) (x := x) ?_ ?_ <;> first | (intro hx; clear_value x) | subst x) | skip)
    | split

theorem execRstStack_keeps {s0 : State} (id : Nat) (env : BringupEnv) (s : State) (h : s0.Keeps s) :
    s0.OutKeeps (execRstStack id env s) := by
  unfold execRstStack
  with_reducible repeat' first
    | assumption | apply State.testStack_keeps | apply State.beginReset_keeps | apply State.enterScope_keeps
    | apply State.recalibrate_keeps | apply State.refuse_keeps | apply State.OutKeeps.next
    | ((try lift_lets); intro x; first | (refine State.Keeps.step (s0 := s0) (x := x) ?_ ?_ <;> first | (intro hx; clear_value x) | subst x) | skip)
    | split

theorem State.setBringup_keeps {s0 : State} (s : State) (b : Option Bool) (h : s0.Keeps s) :
    s0.Keeps { s with fw := { s.fw with bringup := b } } := h.set rfl rfl rfl

theorem execRstPackage_keeps {s0 : State} (id : Nat) (s : State) (h : s0.Keeps s) : s0.OutKeeps (execRstPackage id s) := by
  unfold execRstPackage
  split
  · exact .next h
  next c hc =>
    exact .ite (.next h) (.ite (.next (State.refuse_keeps _ _ _ h)) (.next (State.finish_keeps _ _ _ _
      (State.setBringup_keeps _ _ (State.recordFw_keeps s 5 0x900C none 0 (p4 4 ++ p4 0 ++ p4 c.ringNo) h)))))

theorem execSaggarClose_keeps {s0 : State} (id : Nat) (s : State) (h : s0.Keeps s) :
    s0.OutKeeps (execSaggarClose id s) := by
  unfold execSaggarClose
  with_reducible repeat' first
    | assumption | apply State.resetSaggar_keeps | apply State.flushCompls_keeps | apply State.lostEntry_keeps
    | apply State.holdSaggars_keeps | apply State.refuse_keeps | apply State.setRing_keeps
    | apply State.OutKeeps.next | refine State.Keeps.foldl ?_ (fun t a ht => ?_)
    | ((try lift_lets); intro x; first | (refine State.Keeps.step (s0 := s0) (x := x) ?_ ?_ <;> first | (intro hx; clear_value x) | subst x) | skip)
    | split

/-! ### Security -/

theorem State.deliver_keeps {s0 : State} (s : State) (id a : Nat) (bs : List Byte) (r : Result) (h : s0.Keeps s) :
    s0.Keeps (State.deliver s id a bs r) := by
  unfold State.deliver
  with_reducible repeat' first
    | assumption | apply State.store_keeps | apply State.finish_keeps
    | ((try lift_lets); intro x; first | (refine State.Keeps.step (s0 := s0) (x := x.1) ?_ ?_ <;> first | (intro hx; clear_value x) | subst x) | skip)
    | apply State.Keeps.ite

theorem State.forgetKey_keeps {s0 : State} (s : State) (key : Nat) (h : s0.Keeps s) :
    s0.Keeps (State.forgetKey s key) := by
  unfold State.forgetKey
  with_reducible repeat' first
    | exact State.Keeps.mk' (by assumption) rfl rfl rfl rfl rfl

theorem State.erasePond_keeps {s0 : State} (s : State) (port : Nat) (h : s0.Keeps s) :
    s0.Keeps (State.erasePond s port) := by
  unfold State.erasePond
  with_reducible repeat' first
    | assumption | apply State.forgetKey_keeps | apply State.portDown_keeps | apply State.extendDev_keeps
    | apply State.recordFw_keeps | exact State.Keeps.mk' (by assumption) rfl rfl rfl rfl rfl
    | ((try lift_lets); intro x; first | (have hf : Sec := x; clear hf; subst x) | skip) | apply State.Keeps.ite

theorem State.installPond_keeps {s0 : State} (s : State) (port key : Nat) (h : s0.Keeps s) :
    s0.Keeps (State.installPond s port key) := by
  unfold State.installPond
  with_reducible repeat' first
    | assumption | apply State.forgetKey_keeps | apply State.extendDev_keeps | apply State.recordFw_keeps
    | apply State.modPort_keeps | exact State.Keeps.mk' (by assumption) rfl rfl rfl rfl rfl
    | ((try lift_lets); intro x; first | (have hf : Sec := x; clear hf; subst x) | skip) | apply State.Keeps.ite

theorem State.measurePair_keeps {s0 : State} (s : State) (k : Nat) (erase : Bool) (h : s0.Keeps s) :
    s0.Keeps (State.measurePair s k erase) := by
  unfold State.measurePair
  with_reducible repeat' first
    | assumption | apply State.extendSag_keeps | apply State.Keeps.ite

theorem State.installPair_keeps {s0 : State} (s : State) (k key : Nat) (h : s0.Keeps s) :
    s0.Keeps (State.installPair s k key) := by
  unfold State.installPair
  with_reducible repeat' first
    | apply State.measurePair_keeps | apply State.bumpSession_keeps | apply State.recordFw_keeps
    | exact State.Keeps.mk' (by assumption) rfl rfl rfl rfl rfl

theorem State.removePair_keeps {s0 : State} (s : State) (k : Nat) (h : s0.Keeps s) :
    s0.Keeps (State.removePair s k) := by
  unfold State.removePair
  with_reducible repeat' first
    | assumption | apply State.measurePair_keeps | apply State.forgetKey_keeps | apply State.erasePair_keeps
    | apply State.bumpSession_keeps | apply State.Keeps.ite

/-- What the change of one setting comes to: the counter of the setting falls, IDENTITY counts a re-key, and the history stands. -/
structure State.Glazes (s0 t : State) (setting : Nat) : Prop where
  pending : t.pending = s0.pending
  mem : Memory.wf s0.mem → Memory.wf t.mem
  glazed : t.glazed = (s0.fw.history, if setting = 0 then s0.fw.leftVariant - 1 else s0.fw.leftVariant,
    if setting = 1 then s0.fw.leftIdentity - 1 else s0.fw.leftIdentity,
    if setting = 0 ∨ setting = 1 then s0.fw.leftOwner else s0.fw.leftOwner - 1, if setting = 1 then s0.sec.rekeys + 1 else s0.sec.rekeys)

theorem State.Glazes.keeps {s0 s t : State} {n : Nat} (h : s0.Glazes s n) (k : s.Keeps t) : s0.Glazes t n :=
  ⟨k.pending.trans h.pending, fun w => k.mem (h.mem w), k.glazed.trans h.glazed⟩

theorem State.glazeVariant_glazes (s : State) (value : Nat) : s.Glazes (s.glazeVariant value) 0 := by
  unfold State.glazeVariant
  have h : s.Glazes { s with fw := { s.fw with pendingVariant := some value, leftVariant := s.fw.leftVariant - 1 } } 0 := ⟨rfl, id, rfl⟩
  exact h.keeps (State.measureGlazed_keeps _ (State.Keeps.refl _))

theorem State.glazeIdentity_glazes (s : State) (cert : List Byte) : s.Glazes (s.glazeIdentity cert) 1 := by
  unfold State.glazeIdentity
  have h : s.Glazes { s with
    fw := { s.fw with leftIdentity := s.fw.leftIdentity - 1 }
    sec := { s.sec with rekeys := s.sec.rekeys + 1, certificate := some cert, candidate := false } } 1 := ⟨rfl, id, rfl⟩
  exact h.keeps (State.recordFw_keeps _ _ _ _ _ _ (State.extendDev_keeps _ _ _ _ _ (State.measureGlazed_keeps _ (State.Keeps.refl _))))

theorem State.glazeOwner_glazes (s : State) (key : List Byte) : s.Glazes (s.glazeOwner key) 2 := by
  unfold State.glazeOwner
  have h : s.Glazes { s with
    fw := { s.fw with leftOwner := s.fw.leftOwner - 1 }
    sec := { s.sec with ownerHash := sm3 key, owned := true } } 2 := ⟨rfl, id, rfl⟩
  refine h.keeps (State.recordFw_keeps _ _ _ _ _ _ (State.extendDev_keeps _ _ _ _ _ ?_))
  refine State.Keeps.foldl ?_ (fun t a ht => State.erasePond_keeps _ _ ht)
  exact State.Keeps.foldl (State.measureGlazed_keeps _ (State.Keeps.refl _)) (fun t a ht => State.closeSession_keeps _ _ ht)

theorem State.glazeApply_glazes (s : State) (setting value : Nat) (auth : List Byte) :
    s.Glazes (s.glazeApply setting value auth) (min setting 2) := by
  unfold State.glazeApply
  split
  next h => subst h; exact State.glazeVariant_glazes _ _
  · split
    next h => subst h; exact State.glazeIdentity_glazes _ _
    next h0 h1 => rw [show min setting 2 = 2 by omega]; exact State.glazeOwner_glazes _ _

/-- The history after a passed change, and its counters. -/
theorem State.glazeChange_spec (s : State) (id setting value : Nat) (auth : List Byte) :
    ∃ (r : List Byte) (t : State), s.Glazes t (min setting 2) ∧ (State.glazeChange s id setting value auth).pending = s.pending ∧
      (Memory.wf s.mem → Memory.wf (State.glazeChange s id setting value auth).mem) ∧
      (State.glazeChange s id setting value auth).glazed = (t.glazed.1 ++ [r], t.glazed.2) := by
  have h := State.glazeApply_glazes s setting value auth
  unfold State.glazeChange
  generalize s.glazeApply setting value auth = t at h
  have k := State.finish_keeps _ id 0 (Result.w01 (t.glazeLeft setting) s.fw.history.length) (State.recordFw_keeps
    { t with fw := { t.fw with history := t.fw.history ++ [leBytes 1 setting ++ leBytes 4 (if setting = 0 then value else t.glazeValue setting) ++
      leBytes 1 (t.glazeLeft setting)] } } 5 0x900B none 0 (p4 setting ++ p4 (if setting = 0 then value else t.glazeValue setting) ++
      p4 (t.glazeLeft setting)) (State.Keeps.refl _))
  exact ⟨leBytes 1 setting ++ leBytes 4 (if setting = 0 then value else t.glazeValue setting) ++ leBytes 1 (t.glazeLeft setting), t, h,
    k.pending.trans h.pending, fun w => k.mem (h.mem w), k.glazed⟩

/-- Every next state meets a predicate. -/
structure OutAll (Q : State → Prop) (o : Out) : Prop where
  all : ∀ t, o = .next t → Q t
theorem OutAll.next {Q : State → Prop} {s : State} (h : Q s) : OutAll Q (.next s) := by
  refine ⟨fun t ht => ?_⟩; injection ht with ht; exact ht ▸ h
theorem OutAll.ite {Q : State → Prop} {c : Prop} [Decidable c] {a b : Out} (ha : OutAll Q a) (hb : ¬ c → OutAll Q b) :
    OutAll Q (if c then a else b) := by
  split
  · exact ha
  · exact hb ‹_›

/-- What GLAZE_SET does to the queue, the form of memory and the glazed record. -/
abbrev State.Balances (s t : State) : Prop :=
  t.pending = s.pending ∧ (Memory.wf s.mem → Memory.wf t.mem) ∧ (s.glazedOk → t.glazedOk)

theorem State.Keeps.balances {s t : State} (k : s.Keeps t) : s.Balances t := by
  refine ⟨k.pending, k.mem, fun g => ?_⟩
  have e := k.glazed
  simp only [State.glazed, Prod.mk.injEq] at e
  simp only [State.glazedOk] at g ⊢
  rw [e.1, e.2.1, e.2.2.1, e.2.2.2.1, e.2.2.2.2]
  exact g

theorem State.glazeChange_balances {s u : State} (k : s.Keeps u) (id n value : Nat) (auth : List Byte) (left : u.glazeLeft n ≠ 0) :
    s.Balances (u.glazeChange id n value auth) := by
  obtain ⟨b, v, hu, hp, hm, hg⟩ := State.glazeChange_spec u id n value auth
  refine ⟨hp.trans k.pending, fun w => hm (k.mem w), fun g => ?_⟩
  have e := k.glazed
  rw [hu.glazed] at hg
  generalize u.glazeChange id n value auth = t at hg
  simp only [State.glazed, Prod.mk.injEq] at e hg
  simp only [State.glazeLeft] at left
  simp only [State.glazedOk] at g ⊢
  obtain ⟨e1, e2, e3, e4, e5⟩ := e
  obtain ⟨f1, f2, f3, f4, f5⟩ := hg
  rw [f1, f2, f3, f4, f5, List.length_append, List.length_singleton]
  rw [← e1, ← e2, ← e3, ← e4, ← e5] at g
  rcases (show n = 0 ∨ n = 1 ∨ 2 ≤ n by omega) with rfl | rfl | hn
  · simp at left ⊢
    omega
  · simp at left ⊢
    omega
  · rw [show min n 2 = 2 by omega]
    simp [show n ≠ 0 by omega, show n ≠ 1 by omega] at left ⊢
    omega

theorem State.glazeCheck_left {s : State} {n value : Nat} {auth : List Byte} (h : s.glazeCheck n value auth = 0) : s.glazeLeft n ≠ 0 := by
  intro h0
  rw [State.glazeCheck, h0] at h
  revert h
  generalize (!s.authPasses n value auth) = a
  generalize (n == 0 && !(decide (value ≤ 2) && bitAt s.fw.qualified value)) = b
  generalize (n == 2 && s.saggars.any (fun p => p.2.active)) = d
  revert a b d
  decide

/-- GLAZE_SET ends with the glazed record as it was, or with one change of the named setting, whose counter was not 0. -/
theorem execGlazeSet_balances (id : Nat) (s : State) : OutAll s.Balances (execGlazeSet id s) := by
  have k0 := State.Keeps.refl s
  unfold execGlazeSet
  split
  · exact .next k0.balances
  next c hc =>
    refine .ite (.next (State.refuse_keeps _ _ _ k0).balances) (fun _ => ?_)
    have kr : s.Keeps (if c.p 16 4 = 0 then (s, none, []) else s.load 7 0xFFFF (c.addr 8) (c.p 16 4)).1 := by
      split
      · exact k0
      · exact State.load_keeps _ _ _ _ _ k0
    dsimp only
    generalize (if c.p 16 4 = 0 then (s, none, []) else s.load 7 0xFFFF (c.addr 8) (c.p 16 4)) = r at kr
    refine .ite (.next (State.finish_keeps _ _ _ _ kr).balances) (fun _ => ?_)
    refine .ite (.next (State.refuse_keeps _ _ _ kr).balances) (fun hbad => ?_)
    exact .next (State.glazeChange_balances kr _ _ _ _ (State.glazeCheck_left (Decidable.of_not_not hbad)))

theorem execGlazeRead_keeps {s0 : State} (id : Nat) (s : State) (h : s0.Keeps s) :
    s0.OutKeeps (execGlazeRead id s) := by
  unfold execGlazeRead
  with_reducible repeat' first
    | assumption | apply State.refuse_keeps | apply State.finish_keeps | apply State.OutKeeps.next
    | ((try lift_lets); intro x; first | (refine State.Keeps.step (s0 := s0) (x := x) ?_ ?_ <;> first | (intro hx; clear_value x) | subst x) | skip)
    | split

theorem execSecQuote_keeps {s0 : State} (id : Nat) (s : State) (h : s0.Keeps s) :
    s0.OutKeeps (execSecQuote id s) := by
  unfold execSecQuote
  with_reducible repeat' first
    | assumption | apply State.deliver_keeps | apply State.refuse_keeps | apply State.draw_keeps
    | apply State.OutKeeps.next
    | ((try lift_lets); intro x; first | (refine State.Keeps.step (s0 := s0) (x := x) ?_ ?_ <;> first | (intro hx; clear_value x) | subst x) | skip)
    | split

theorem execSecCertRead_keeps {s0 : State} (id : Nat) (s : State) (h : s0.Keeps s) :
    s0.OutKeeps (execSecCertRead id s) := by
  unfold execSecCertRead
  with_reducible repeat' first
    | assumption | apply State.deliver_keeps | apply State.refuse_keeps | apply State.OutKeeps.next
    | ((try lift_lets); intro x; first | (refine State.Keeps.step (s0 := s0) (x := x) ?_ ?_ <;> first | (intro hx; clear_value x) | subst x) | skip)
    | split

theorem execSecExtend_keeps {s0 : State} (id : Nat) (s : State) (h : s0.Keeps s) :
    s0.OutKeeps (execSecExtend id s) := by
  unfold execSecExtend
  with_reducible repeat' first
    | assumption | apply State.extendSag_keeps | apply State.refuse_keeps | apply State.finish_keeps
    | apply State.OutKeeps.next
    | ((try lift_lets); intro x; first | (refine State.Keeps.step (s0 := s0) (x := x) ?_ ?_ <;> first | (intro hx; clear_value x) | subst x) | skip)
    | split

theorem execSecWrapOpen_keeps {s0 : State} (id : Nat) (s : State) (h : s0.Keeps s) :
    s0.OutKeeps (execSecWrapOpen id s) := by
  unfold execSecWrapOpen
  with_reducible repeat' first
    | apply State.deliver_keeps | apply State.extendSag_keeps | apply State.load_keeps | apply State.refuse_keeps
    | apply State.finish_keeps | apply State.draw_keeps | apply State.OutKeeps.next
    | exact State.Keeps.mk' (by assumption) rfl rfl rfl rfl rfl
    | ((try lift_lets); intro x; first | (refine State.Keeps.step (s0 := s0) (x := x) ?_ ?_ <;> first | (intro hx; clear_value x) | subst x) | (refine State.Keeps.step (s0 := s0) (x := x.1) ?_ ?_ <;> first | (intro hx; clear_value x) | subst x) | (have hf : Sec := x; clear hf; subst x) | skip)
    | split

theorem execSecKeySet_keeps {s0 : State} (id : Nat) (s : State) (h : s0.Keeps s) :
    s0.OutKeeps (execSecKeySet id s) := by
  unfold execSecKeySet
  with_reducible repeat' first
    | assumption | apply State.removePair_keeps | apply State.installPair_keeps | apply State.installPond_keeps
    | apply State.load_keeps | apply State.refuse_keeps | apply State.finish_keeps | apply State.OutKeeps.next
    | ((try lift_lets); intro x; first | (refine State.Keeps.step (s0 := s0) (x := x.1) ?_ ?_ <;> first | (intro hx; clear_value x) | subst x) | skip)
    | split

theorem execSecRekeyPrepare_keeps {s0 : State} (id : Nat) (s : State) (h : s0.Keeps s) :
    s0.OutKeeps (execSecRekeyPrepare id s) := by
  unfold execSecRekeyPrepare
  with_reducible repeat' first
    | apply State.deliver_keeps | apply State.refuse_keeps | apply State.draw_keeps | apply State.OutKeeps.next
    | exact State.Keeps.mk' (by assumption) rfl rfl rfl rfl rfl
    | ((try lift_lets); intro x; first | (refine State.Keeps.step (s0 := s0) (x := x) ?_ ?_ <;> first | (intro hx; clear_value x) | subst x) | (have hf : Sec := x; clear hf; subst x) | skip)
    | split

theorem execKeyGraceExpiry_keeps {s0 : State} (saggar pos : Nat) (s : State) (h : s0.Keeps s) :
    s0.OutKeeps (execKeyGraceExpiry saggar pos s) := by
  unfold execKeyGraceExpiry
  with_reducible repeat' first
    | apply State.OutKeeps.next | exact State.Keeps.mk' (by assumption) rfl rfl rfl rfl rfl
    | ((try lift_lets); intro x; first | (have hf : Sec := x; clear hf; subst x) | skip) | split

/-! ### Thermal -/

theorem State.readSensors_keeps {s0 : State} (s : State) (p : PointIn) (h : s0.Keeps s) :
    s0.Keeps (State.readSensors s p) := by
  unfold State.readSensors
  with_reducible repeat' first
    | assumption | apply State.setSensor_keeps | refine State.Keeps.foldl ?_ (fun t a ht => ?_)

theorem State.moveBias_keeps {s0 : State} (s : State) (p : PointIn) (h : s0.Keeps s) :
    s0.Keeps (State.moveBias s p) := by
  unfold State.moveBias
  with_reducible repeat' first
    | assumption | apply State.setPoint_keeps
    | ((try lift_lets); intro x; first | (refine State.Keeps.step (s0 := s0) (x := x) ?_ ?_ <;> first | (intro hx; clear_value x) | subst x) | skip)
    | split

theorem State.markSuspect_keeps {s0 : State} (s : State) (k : Nat) (sag : Option Nat) (m : Int) (h : s0.Keeps s) :
    s0.Keeps (State.markSuspect s k sag m) := by
  unfold State.markSuspect
  with_reducible repeat' first
    | assumption | apply State.recordFw_keeps | apply State.setSensor_keeps

theorem State.countDepart_keeps {s0 : State} (s : State) (k n : Nat) (sag : Option Nat) (m : Int) (yes : Bool) (h : s0.Keeps s) :
    s0.Keeps (State.countDepart s k n sag m yes) := by
  unfold State.countDepart
  with_reducible repeat' first
    | assumption | apply State.markSuspect_keeps | apply State.setSensor_keeps | apply State.Keeps.ite

theorem State.pairRules_keeps {s0 : State} (s : State) (i : Nat) (m : Int) (h : s0.Keeps s) :
    s0.Keeps (State.pairRules s i m) := by
  unfold State.pairRules
  with_reducible repeat' first
    | assumption | apply State.countDepart_keeps | apply State.recordFw_keeps | apply State.Keeps.ite

theorem State.singleRule_keeps {s0 : State} (s : State) (pts : List PointIn) (l b k : Nat) (m : Int) (h : s0.Keeps s) :
    s0.Keeps (State.singleRule s pts l b k m) := by
  unfold State.singleRule
  with_reducible repeat' first
    | assumption | apply State.countDepart_keeps

theorem State.blockHidden_keeps {s0 : State} (s : State) (pts : List PointIn) (b : Nat) (h : s0.Keeps s) :
    s0.Keeps (State.blockHidden s pts b) := by
  unfold State.blockHidden
  with_reducible repeat' first
    | assumption | apply State.recordFw_keeps | apply State.setBlock_keeps
    | ((try lift_lets); intro x; first | (have hf : _ → _ := x; clear hf; subst x) | skip) | split | dsimp only

theorem State.control_keeps {s0 : State} (s : State) (p : PointIn) (h : s0.Keeps s) :
    s0.Keeps (State.control s p) := by
  unfold State.control
  with_reducible repeat' first
    | assumption | apply State.setPoint_keeps

theorem State.updateCones_keeps {s0 : State} (s : State) (h : s0.Keeps s) :
    s0.Keeps (State.updateCones s) := by
  unfold State.updateCones
  with_reducible repeat' first
    | assumption | apply State.setBlock_keeps | apply State.modCluster_keeps
    | refine State.Keeps.foldl ?_ (fun t a ht => ?_)

theorem State.stackFlags_keeps {s0 : State} (s : State) (m : Nat) (h : s0.Keeps s) :
    s0.Keeps (State.stackFlags s m) := by
  unfold State.stackFlags
  with_reducible repeat' first
    | assumption | apply State.recordFw_keeps | exact State.Keeps.mk' (by assumption) rfl rfl rfl rfl rfl
    | ((try lift_lets); intro x; first | (refine State.Keeps.step (s0 := s0) (x := x) ?_ ?_ <;> first | (intro hx; clear_value x) | subst x) | skip)
    | apply State.Keeps.ite

theorem State.coolantSet_keeps {s0 : State} (s : State) (q v : Nat) (h : s0.Keeps s) :
    s0.Keeps (State.coolantSet s q v) := by
  unfold State.coolantSet
  with_reducible repeat' first
    | exact State.Keeps.mk' (by assumption) rfl rfl rfl rfl rfl

theorem State.sendFlow_keeps {s0 : State} (s : State) (h : s0.Keeps s) :
    s0.Keeps (State.sendFlow s) := by
  unfold State.sendFlow
  with_reducible repeat' first
    | assumption | apply State.recordFw_keeps | apply State.draw_keeps
    | exact State.Keeps.mk' (by assumption) rfl rfl rfl rfl rfl
    | (refine State.Keeps.mk' ?_ rfl rfl rfl rfl rfl; first | apply State.recordFw_keeps | apply State.draw_keeps)
    | apply State.Keeps.ite

theorem execKilnModelUpdate_keeps {s0 : State} (points : List PointIn) (s : State) (h : s0.Keeps s) :
    s0.OutKeeps (execKilnModelUpdate points s) := by
  unfold execKilnModelUpdate
  with_reducible repeat' first
    | assumption | apply State.stackFlags_keeps | apply State.updateCones_keeps | apply State.control_keeps
    | apply State.blockHidden_keeps | apply State.singleRule_keeps | apply State.pairRules_keeps
    | apply State.moveBias_keeps | apply State.readSensors_keeps | apply State.modSaggar_keeps
    | apply State.OutKeeps.next | refine State.Keeps.foldl ?_ (fun t a ht => ?_)
    | refine State.Keeps.foldl1 ?_ (fun t a ht => ?_) | exact State.Keeps.mk' (by assumption) rfl rfl rfl rfl rfl
    | (refine State.Keeps.mk' ?_ rfl rfl rfl rfl rfl; first | apply State.stackFlags_keeps | apply State.updateCones_keeps | apply State.control_keeps | apply State.blockHidden_keeps | apply State.singleRule_keeps | apply State.pairRules_keeps | apply State.moveBias_keeps | apply State.readSensors_keeps | apply State.modSaggar_keeps | refine State.Keeps.foldl ?_ (fun t a ht => ?_) | refine State.Keeps.foldl1 ?_ (fun t a ht => ?_))
    | split

theorem execKilnStaleTimeout_keeps {s0 : State} (s : State) (h : s0.Keeps s) :
    s0.OutKeeps (execKilnStaleTimeout s) := by
  unfold execKilnStaleTimeout
  with_reducible repeat' first
    | assumption | apply State.doubleRate_keeps | apply State.recordFw_keeps | apply State.OutKeeps.next
    | refine State.Keeps.foldl ?_ (fun t a ht => ?_) | refine State.Keeps.foldl1 ?_ (fun t a ht => ?_)
    | exact State.Keeps.mk' (by assumption) rfl rfl rfl rfl rfl | apply State.OutKeeps.ite

theorem execKilnStaleConeRaise_keeps {s0 : State} (s : State) (h : s0.Keeps s) :
    s0.OutKeeps (execKilnStaleConeRaise s) := by
  unfold execKilnStaleConeRaise
  with_reducible repeat' first
    | assumption | apply State.modCluster_keeps | apply State.OutKeeps.next
    | refine State.Keeps.foldl ?_ (fun t a ht => ?_) | refine State.Keeps.foldl1 ?_ (fun t a ht => ?_)
    | exact State.Keeps.mk' (by assumption) rfl rfl rfl rfl rfl | apply State.OutKeeps.ite

theorem execThermalClamp_keeps {s0 : State} (point reading : Nat) (s : State) (h : s0.Keeps s) :
    s0.OutKeeps (execThermalClamp point reading s) := by
  unfold execThermalClamp
  with_reducible repeat' first
    | assumption | apply State.recordFw_keeps | apply State.modCluster_keeps | apply State.OutKeeps.next
    | refine State.Keeps.foldl ?_ (fun t a ht => ?_) | apply State.OutKeeps.ite

theorem execThermalClampRelease_keeps {s0 : State} (point reading : Nat) (s : State) (h : s0.Keeps s) :
    s0.OutKeeps (execThermalClampRelease point reading s) := by
  unfold execThermalClampRelease
  with_reducible repeat' first
    | assumption | apply State.modCluster_keeps | apply State.OutKeeps.next
    | refine State.Keeps.foldl ?_ (fun t a ht => ?_) | apply State.OutKeeps.ite

theorem execThermalShutdown_keeps {s0 : State} (cause : Nat) (s : State) (h : s0.Keeps s) :
    s0.OutKeeps (execThermalShutdown cause s) := by
  unfold execThermalShutdown
  with_reducible repeat' first
    | assumption | apply State.powerDown_keeps | apply State.stopCommands_keeps | apply State.recordFw_keeps
    | apply State.OutKeeps.next | apply State.OutKeeps.ite

theorem execCoolantOutOfRange_keeps {s0 : State} (quantity value : Nat) (s : State) (h : s0.Keeps s) :
    s0.OutKeeps (execCoolantOutOfRange quantity value s) := by
  unfold execCoolantOutOfRange
  with_reducible repeat' first
    | assumption | apply State.coolantSet_keeps | apply State.recordFw_keeps | apply State.OutKeeps.next
    | exact State.Keeps.mk' (by assumption) rfl rfl rfl rfl rfl
    | (refine State.Keeps.mk' ?_ rfl rfl rfl rfl rfl; first | apply State.coolantSet_keeps | apply State.recordFw_keeps)
    | apply State.OutKeeps.ite

theorem execCoolantOorClear_keeps {s0 : State} (s : State) (h : s0.Keeps s) :
    s0.OutKeeps (execCoolantOorClear s) := by
  unfold execCoolantOorClear
  with_reducible repeat' first
    | assumption | apply State.draw_keeps | apply State.OutKeeps.next
    | exact State.Keeps.mk' (by assumption) rfl rfl rfl rfl rfl
    | (refine State.Keeps.mk' ?_ rfl rfl rfl rfl rfl; first | apply State.draw_keeps) | apply State.OutKeeps.ite

theorem execFlowLimited_keeps {s0 : State} (flow : Nat) (s : State) (h : s0.Keeps s) :
    s0.OutKeeps (execFlowLimited flow s) := by
  unfold execFlowLimited
  with_reducible repeat' first
    | assumption | apply State.setCap_keeps | apply State.recordFw_keeps | apply State.OutKeeps.next
    | exact State.Keeps.mk' (by assumption) rfl rfl rfl rfl rfl | apply State.OutKeeps.ite

theorem execFlowLimitLift_keeps {s0 : State} (flow : Nat) (s : State) (h : s0.Keeps s) :
    s0.OutKeeps (execFlowLimitLift flow s) := by
  unfold execFlowLimitLift
  with_reducible repeat' first
    | assumption | apply State.setCap_keeps | apply State.OutKeeps.next
    | exact State.Keeps.mk' (by assumption) rfl rfl rfl rfl rfl | apply State.OutKeeps.ite

theorem execHeatMismatch_keeps {s0 : State} (heatW : Nat) (s : State) (h : s0.Keeps s) :
    s0.OutKeeps (execHeatMismatch heatW s) := by
  unfold execHeatMismatch
  with_reducible repeat' first
    | assumption | apply State.recordFw_keeps | apply State.OutKeeps.next
    | exact State.Keeps.mk' (by assumption) rfl rfl rfl rfl rfl | apply State.OutKeeps.ite

theorem execHeatMismatchClear_keeps {s0 : State} (s : State) (h : s0.Keeps s) :
    s0.OutKeeps (execHeatMismatchClear s) := by
  unfold execHeatMismatchClear
  with_reducible repeat' first
    | assumption | apply State.OutKeeps.next | exact State.Keeps.mk' (by assumption) rfl rfl rfl rfl rfl

theorem execFlowRecord_keeps {s0 : State} (heatW : Nat) (s : State) (h : s0.Keeps s) :
    s0.OutKeeps (execFlowRecord heatW s) := by
  unfold execFlowRecord
  with_reducible repeat' first
    | assumption | apply State.sendFlow_keeps | apply State.OutKeeps.next
    | exact State.Keeps.mk' (by assumption) rfl rfl rfl rfl rfl | apply State.OutKeeps.ite

theorem execRotateDue_keeps {s0 : State} (saggar : Nat) (s : State) (h : s0.Keeps s) :
    s0.OutKeeps (execRotateDue saggar s) := by
  unfold execRotateDue
  with_reducible repeat' first
    | assumption | apply State.modSaggar_keeps | apply State.OutKeeps.next | apply State.OutKeeps.ite

theorem execThmRank_keeps {s0 : State} (id : Nat) (s : State) (h : s0.Keeps s) :
    s0.OutKeeps (execThmRank id s) := by
  unfold execThmRank
  with_reducible repeat' first
    | assumption | apply refuse_keeps | apply State.store_keeps | apply State.load_keeps | apply State.refuse_keeps
    | apply State.finish_keeps | apply State.modSaggar_keeps | apply State.OutKeeps.next
    | refine State.Keeps.foldlMove ?_ (fun t a ht => ?_) | refine State.Keeps.foldlMove1 ?_ (fun t a ht => ?_)
    | refine State.Keeps.foldlNbx ?_ (fun t a ht => ?_) | refine State.Keeps.foldlNbx1 ?_ (fun t a ht => ?_)
    | refine State.Keeps.foldlSlx ?_ (fun t a ht => ?_) | refine State.Keeps.foldlSlx1 ?_ (fun t a ht => ?_)
    | refine State.Keeps.foldl ?_ (fun t a ht => ?_) | refine State.Keeps.foldl1 ?_ (fun t a ht => ?_)
    | exact State.Keeps.mk' (by assumption) rfl rfl rfl rfl rfl
    | (refine State.Keeps.mk' ?_ rfl rfl rfl rfl rfl; first | apply refuse_keeps | apply State.store_keeps | apply State.load_keeps | apply State.refuse_keeps | apply State.finish_keeps | apply State.modSaggar_keeps | refine State.Keeps.foldlMove ?_ (fun t a ht => ?_) | refine State.Keeps.foldlMove1 ?_ (fun t a ht => ?_) | refine State.Keeps.foldlNbx ?_ (fun t a ht => ?_) | refine State.Keeps.foldlNbx1 ?_ (fun t a ht => ?_) | refine State.Keeps.foldlSlx ?_ (fun t a ht => ?_) | refine State.Keeps.foldlSlx1 ?_ (fun t a ht => ?_) | refine State.Keeps.foldl ?_ (fun t a ht => ?_) | refine State.Keeps.foldl1 ?_ (fun t a ht => ?_))
    | ((try lift_lets); intro x; first | (refine State.Keeps.step (s0 := s0) (x := x) ?_ ?_ <;> first | (intro hx; clear_value x) | subst x) | skip)
    | split

theorem execWearSample_keeps {s0 : State} (s : State) (h : s0.Keeps s) :
    s0.OutKeeps (execWearSample s) := by
  unfold execWearSample
  with_reducible repeat' first
    | assumption | apply State.control_keeps | apply Nbx.put_keeps | apply Nbx.get_keeps | apply Move.put_keeps
    | apply State.OutKeeps.next | exact State.Keeps.mk' (by assumption) rfl rfl rfl rfl rfl

theorem execWearPersist_keeps {s0 : State} (s : State) (h : s0.Keeps s) :
    s0.OutKeeps (execWearPersist s) := by
  unfold execWearPersist
  with_reducible repeat' first
    | assumption | apply State.persistWear_keeps | apply State.OutKeeps.next

/-! ### Training -/

theorem State.trainEnd_keeps {s0 : State} (s : State) (c : Cmd) (status : Nat) (r : Result) (h : s0.Keeps s) :
    s0.Keeps (State.trainEnd s c status r) := by
  unfold State.trainEnd
  with_reducible repeat' first
    | assumption | apply State.finishWord_keeps

theorem State.trainDispatch_keeps {s0 : State} (s : State) (c : Cmd) (h : s0.Keeps s) :
    s0.Keeps (State.trainDispatch s c) := by
  unfold State.trainDispatch
  with_reducible repeat' first
    | assumption | apply State.nbQueue_keeps | apply State.setPhase_keeps | split

theorem State.trainAccept_keeps {s0 : State} (s : State) (c : Cmd) (h : s0.Keeps s) :
    s0.Keeps (State.trainAccept s c) := by
  unfold State.trainAccept
  with_reducible repeat' first
    | assumption | apply State.trainDispatch_keeps | apply refuse_keeps | apply State.setPhase_keeps
    | apply State.statusWord_keeps
    | ((try lift_lets); intro x; first | (refine State.Keeps.step (s0 := s0) (x := x) ?_ ?_ <;> first | (intro hx; clear_value x) | subst x) | skip)
    | apply State.Keeps.ite

theorem State.readGate_keeps {s0 : State} (s : State) (c : Cmd) (h : s0.Keeps s) :
    s0.Keeps (State.readGate s c).1 := by
  unfold State.readGate
  with_reducible repeat' first
    | assumption | apply State.load_keeps
    | ((try lift_lets); intro x; first | (refine State.Keeps.step (s0 := s0) (x := x.1) ?_ ?_ <;> first | (intro hx; clear_value x) | subst x) | skip)
    | split

theorem State.noteSkip_keeps {s0 : State} (s : State) (c : Cmd) (step w : Nat) (h : s0.Keeps s) :
    s0.Keeps (State.noteSkip s c step w) := by
  unfold State.noteSkip
  with_reducible repeat' first
    | assumption | apply State.recordFw_keeps | exact State.Keeps.mk' (by assumption) rfl rfl rfl rfl rfl
    | apply State.Keeps.ite

theorem State.gateExpired_keeps {s0 : State} (s : State) (c : Cmd) (h : s0.Keeps s) :
    s0.Keeps (State.gateExpired s c) := by
  unfold State.gateExpired
  with_reducible repeat' first
    | assumption | apply State.trainEnd_keeps | apply State.recordFw_keeps

theorem State.gateRead_keeps {s0 : State} (s : State) (c : Cmd) (h : s0.Keeps s) :
    s0.Keeps (State.gateRead s c) := by
  unfold State.gateRead
  with_reducible repeat' first
    | assumption | apply State.gateExpired_keeps | apply State.noteSkip_keeps | apply State.readGate_keeps
    | apply State.trainDispatch_keeps | apply State.trainEnd_keeps
    | ((try lift_lets); intro x; first | (refine State.Keeps.step (s0 := s0) (x := x) ?_ ?_ <;> first | (intro hx; clear_value x) | subst x) | (refine State.Keeps.step (s0 := s0) (x := x.1) ?_ ?_ <;> first | (intro hx; clear_value x) | subst x) | skip)
    | apply State.Keeps.ite

theorem tsScale_keeps {s0 : State} (x : Slx) (c : Cmd) (job : Nat) (h : s0.Keeps x.s) :
    s0.Keeps (tsScale x c job).x.s := by
  unfold tsScale
  with_reducible repeat' first
    | assumption | apply State.readGate_keeps | refine Slx.require_keeps _ _ _ ?_ (fun t ht => ?_)
    | refine Slx.orElse_keeps _ _ ?_ (fun t ht => ?_) | apply Slx.wr_keeps | apply Slx.rd_keeps
    | apply State.recordFw_keeps
    | ((try lift_lets); intro x; first | (refine State.Keeps.step (s0 := s0) (x := x) ?_ ?_ <;> first | (intro hx; clear_value x) | subst x) | skip)
    | split

theorem castMap_keeps {s0 : State} (x : Slx) (a : Nat) (h : s0.Keeps x.s) :
    s0.Keeps (castMap x a).1.s := by
  unfold castMap
  with_reducible repeat' first
    | assumption | apply Slx.rd_keeps
    | ((try lift_lets); intro x; first | (refine State.Keeps.step (s0 := s0) (x := x.1.s) ?_ ?_ <;> first | (intro hx; clear_value x) | subst x) | skip)
    | split

theorem castPiece_keeps {s0 : State} (m : Move) (d : Desc) (seed : Nat) (lo : Option (LMap × List Byte)) (p : Piece) (h : s0.Keeps m.s) :
    s0.Keeps (castPiece m d seed lo p).s := by
  unfold castPiece
  with_reducible repeat' first
    | assumption | apply Move.readRun_keeps | apply Move.read_keeps | apply Move.putBits_keeps
    | apply Move.put_keeps | refine State.Keeps.foldlMove1 ?_ (fun t a ht => ?_)
    | ((try lift_lets); intro x; first | (refine State.Keeps.step (s0 := s0) (x := x.1.s) ?_ ?_ <;> first | (intro hx; clear_value x) | subst x) | skip)
    | split

theorem tsCastout_keeps {s0 : State} (x : Slx) (desc : Nat) (h : s0.Keeps x.s) :
    s0.Keeps (tsCastout x desc).x.s := by
  unfold tsCastout
  with_reducible repeat' first
    | assumption | apply castPiece_keeps | apply castMap_keeps | refine Slx.require_keeps _ _ _ ?_ (fun t ht => ?_)
    | refine Slx.orElse_keeps _ _ ?_ (fun t ht => ?_) | apply Slx.rd_keeps | apply Move.flushAll_keeps
    | refine State.Keeps.foldlMove ?_ (fun t a ht => ?_)
    | ((try lift_lets); intro x; first | (refine State.Keeps.step (s0 := s0) (x := x) ?_ ?_ <;> first | (intro hx; clear_value x) | subst x) | skip)
    | split

theorem State.trainServe_keeps {s0 : State} (s : State) (c : Cmd) (h : s0.Keeps s) :
    s0.Keeps (State.trainServe s c) := by
  unfold State.trainServe
  with_reducible repeat' first
    | assumption | apply tsCastout_keeps | apply tsScale_keeps | apply State.finish_keeps
    | ((try lift_lets); intro x; first | (refine State.Keeps.step (s0 := s0) (x := x.1.s) ?_ ?_ <;> first | (intro hx; clear_value x) | subst x) | skip)
    | split

theorem State.trainSluice_keeps {s0 : State} (s : State) (id opcode : Nat) (h : s0.Keeps s) :
    s0.Keeps (State.trainSluice s id opcode) := by
  unfold State.trainSluice
  with_reducible repeat' first
    | assumption | apply State.trainServe_keeps | apply State.trainAccept_keeps | split

theorem execTsUpdate_keeps {s0 : State} (id : Nat) (s : State) (h : s0.Keeps s) :
    s0.OutKeeps (execTsUpdate id s) := by
  unfold execTsUpdate
  with_reducible repeat' first
    | assumption | apply State.trainAccept_keeps | apply State.OutKeeps.next | split

theorem execTsCastout_keeps {s0 : State} (id : Nat) (s : State) (h : s0.Keeps s) :
    s0.OutKeeps (execTsCastout id s) := by
  unfold execTsCastout
  with_reducible repeat' first
    | assumption | apply State.trainSluice_keeps | apply State.OutKeeps.next

theorem execTsScale_keeps {s0 : State} (id : Nat) (s : State) (h : s0.Keeps s) :
    s0.OutKeeps (execTsScale id s) := by
  unfold execTsScale
  with_reducible repeat' first
    | assumption | apply State.trainSluice_keeps | apply State.OutKeeps.next

theorem execTsAudit_keeps {s0 : State} (id : Nat) (s : State) (h : s0.Keeps s) :
    s0.OutKeeps (execTsAudit id s) := by
  unfold execTsAudit
  with_reducible repeat' first
    | assumption | apply State.trainAccept_keeps | apply State.OutKeeps.next | split

theorem execTsDigest_keeps {s0 : State} (id : Nat) (s : State) (h : s0.Keeps s) :
    s0.OutKeeps (execTsDigest id s) := by
  unfold execTsDigest
  with_reducible repeat' first
    | assumption | apply State.trainAccept_keeps | apply State.OutKeeps.next | split

theorem execTsCompare_keeps {s0 : State} (id : Nat) (s : State) (h : s0.Keeps s) :
    s0.OutKeeps (execTsCompare id s) := by
  unfold execTsCompare
  with_reducible repeat' first
    | assumption | apply State.trainAccept_keeps | apply State.OutKeeps.next | split

theorem execStepGateReread_keeps {s0 : State} (id : Nat) (s : State) (h : s0.Keeps s) :
    s0.OutKeeps (execStepGateReread id s) := by
  unfold execStepGateReread
  with_reducible repeat' first
    | assumption | apply State.gateRead_keeps | apply State.OutKeeps.next | split

theorem execStepGateTimeout_keeps {s0 : State} (id : Nat) (s : State) (h : s0.Keeps s) :
    s0.OutKeeps (execStepGateTimeout id s) := by
  unfold execStepGateTimeout
  with_reducible repeat' first
    | assumption | apply State.gateExpired_keeps | apply State.OutKeeps.next | split

end Sys2Proof.Machine
end

