-- ==== Sys2Proof/Laws/Runs.lean ====
section
/-! SUPPORT. Every meaning answers a next state: one lemma for each, `execX_runs`. -/
namespace Sys2Proof.Machine
set_option linter.all false
open Sys2Proof State

/-- The outcome is a next state. -/
structure OutRuns (o : Out) : Prop where
  runs : ∃ t, o = .next t
theorem OutRuns.next (s : State) : OutRuns (.next s) := ⟨⟨s, rfl⟩⟩
theorem OutRuns.ite {c : Prop} [Decidable c] {a b : Out} (ha : OutRuns a) (hb : OutRuns b) : OutRuns (if c then a else b) := by
  split <;> assumption

theorem execStandbyPowerUp_runs (s : State) : OutRuns (execStandbyPowerUp s) := by
  unfold execStandbyPowerUp
  repeat' first
    | with_reducible exact OutRuns.next _ | with_reducible refine OutRuns.ite ?_ ?_
    | ((try lift_lets); intro x; (try clear_value x)) | split | dsimp only

theorem execRailGood_runs (rail : Rail) (s : State) : OutRuns (execRailGood rail s) := by
  unfold execRailGood
  repeat' first
    | with_reducible exact OutRuns.next _ | with_reducible refine OutRuns.ite ?_ ?_
    | ((try lift_lets); intro x; (try clear_value x)) | split | dsimp only

theorem execRailWindowExpiry_runs (rail : Rail) (s : State) : OutRuns (execRailWindowExpiry rail s) := by
  unfold execRailWindowExpiry
  repeat' first
    | with_reducible exact OutRuns.next _ | with_reducible refine OutRuns.ite ?_ ?_
    | ((try lift_lets); intro x; (try clear_value x)) | split | dsimp only

theorem execVmeshOutOfRange_runs (s : State) : OutRuns (execVmeshOutOfRange s) := by
  unfold execVmeshOutOfRange
  repeat' first
    | with_reducible exact OutRuns.next _ | with_reducible refine OutRuns.ite ?_ ?_
    | ((try lift_lets); intro x; (try clear_value x)) | split | dsimp only

theorem execRefLoss_runs (s : State) : OutRuns (execRefLoss s) := by
  unfold execRefLoss
  repeat' first
    | with_reducible exact OutRuns.next _ | with_reducible refine OutRuns.ite ?_ ?_
    | ((try lift_lets); intro x; (try clear_value x)) | split | dsimp only

theorem execRefRecovery_runs (s : State) : OutRuns (execRefRecovery s) := by
  unfold execRefRecovery
  repeat' first
    | with_reducible exact OutRuns.next _ | with_reducible refine OutRuns.ite ?_ ?_
    | ((try lift_lets); intro x; (try clear_value x)) | split | dsimp only

theorem execHoldoverExpiry_runs (s : State) : OutRuns (execHoldoverExpiry s) := by
  unfold execHoldoverExpiry
  repeat' first
    | with_reducible exact OutRuns.next _ | with_reducible refine OutRuns.ite ?_ ?_
    | ((try lift_lets); intro x; (try clear_value x)) | split | dsimp only

theorem execInputUndervolt_runs (mv : Nat) (s : State) : OutRuns (execInputUndervolt mv s) := by
  unfold execInputUndervolt
  repeat' first
    | with_reducible exact OutRuns.next _ | with_reducible refine OutRuns.ite ?_ ?_
    | ((try lift_lets); intro x; (try clear_value x)) | split | dsimp only

theorem execInputRecovery_runs (mv : Nat) (s : State) : OutRuns (execInputRecovery mv s) := by
  unfold execInputRecovery
  repeat' first
    | with_reducible exact OutRuns.next _ | with_reducible refine OutRuns.ite ?_ ?_
    | ((try lift_lets); intro x; (try clear_value x)) | split | dsimp only

theorem execInputPowerLost_runs (mv : Nat) (s : State) : OutRuns (execInputPowerLost mv s) := by
  unfold execInputPowerLost
  repeat' first
    | with_reducible exact OutRuns.next _ | with_reducible refine OutRuns.ite ?_ ?_
    | ((try lift_lets); intro x; (try clear_value x)) | split | dsimp only

theorem execInputOvervoltage_runs (mv : Nat) (s : State) : OutRuns (execInputOvervoltage mv s) := by
  unfold execInputOvervoltage
  repeat' first
    | with_reducible exact OutRuns.next _ | with_reducible refine OutRuns.ite ?_ ?_
    | ((try lift_lets); intro x; (try clear_value x)) | split | dsimp only

theorem execBisqueStart_runs (env : BringupEnv) (s : State) : OutRuns (execBisqueStart env s) := by
  unfold execBisqueStart
  repeat' first
    | with_reducible exact OutRuns.next _ | with_reducible refine OutRuns.ite ?_ ?_
    | ((try lift_lets); intro x; (try clear_value x)) | split | dsimp only

theorem execRefire_runs (env : BringupEnv) (s : State) : OutRuns (execRefire env s) := by
  unfold execRefire
  repeat' first
    | with_reducible exact OutRuns.next _ | with_reducible refine OutRuns.ite ?_ ?_
    | ((try lift_lets); intro x; (try clear_value x)) | split | dsimp only

theorem execPacketInject_runs (k : Nat) (s : State) : OutRuns (execPacketInject k s) := by
  unfold execPacketInject
  repeat' first
    | with_reducible exact OutRuns.next _ | with_reducible refine OutRuns.ite ?_ ?_
    | ((try lift_lets); intro x; (try clear_value x)) | split | dsimp only

theorem execMeshRequestArrival_runs (k : Nat) (strikes : Strikes) (s : State) : OutRuns (execMeshRequestArrival k strikes s) := by
  unfold execMeshRequestArrival
  repeat' first
    | with_reducible exact OutRuns.next _ | with_reducible refine OutRuns.ite ?_ ?_
    | ((try lift_lets); intro x; (try clear_value x)) | split | dsimp only

theorem execMeshResponseArrival_runs (k : Nat) (s : State) : OutRuns (execMeshResponseArrival k s) := by
  unfold execMeshResponseArrival
  repeat' first
    | with_reducible exact OutRuns.next _ | with_reducible refine OutRuns.ite ?_ ?_
    | ((try lift_lets); intro x; (try clear_value x)) | split | dsimp only

theorem execPriorityFlitAged_runs (site : Nat) (s : State) : OutRuns (execPriorityFlitAged site s) := by
  unfold execPriorityFlitAged
  repeat' first
    | with_reducible exact OutRuns.next _ | with_reducible refine OutRuns.ite ?_ ?_
    | ((try lift_lets); intro x; (try clear_value x)) | split | dsimp only

theorem execEpochUpdate_runs (k : Nat) (s : State) : OutRuns (execEpochUpdate k s) := by
  unfold execEpochUpdate
  repeat' first
    | with_reducible exact OutRuns.next _ | with_reducible refine OutRuns.ite ?_ ?_
    | ((try lift_lets); intro x; (try clear_value x)) | split | dsimp only

theorem execRemapApply_runs (k : Nat) (s : State) : OutRuns (execRemapApply k s) := by
  unfold execRemapApply
  repeat' first
    | with_reducible exact OutRuns.next _ | with_reducible refine OutRuns.ite ?_ ?_
    | ((try lift_lets); intro x; (try clear_value x)) | split | dsimp only

theorem execRemapQuiescenceTimeout_runs (k : Nat) (s : State) : OutRuns (execRemapQuiescenceTimeout k s) := by
  unfold execRemapQuiescenceTimeout
  repeat' first
    | with_reducible exact OutRuns.next _ | with_reducible refine OutRuns.ite ?_ ?_
    | ((try lift_lets); intro x; (try clear_value x)) | split | dsimp only

theorem execImageBroadcast_runs (k : Nat) (good : List Nat) (s : State) : OutRuns (execImageBroadcast k good s) := by
  unfold execImageBroadcast
  repeat' first
    | with_reducible exact OutRuns.next _ | with_reducible refine OutRuns.ite ?_ ?_
    | ((try lift_lets); intro x; (try clear_value x)) | split | dsimp only

theorem execRillInterrupt_runs (site : Nat) (s : State) : OutRuns (execRillInterrupt site s) := by
  unfold execRillInterrupt
  repeat' first
    | with_reducible exact OutRuns.next _ | with_reducible refine OutRuns.ite ?_ ?_
    | ((try lift_lets); intro x; (try clear_value x)) | split | dsimp only

theorem execScalarVectorInstruction_runs (site : Nat) (strikes : Strikes) (s : State) : OutRuns (execScalarVectorInstruction site strikes s) := by
  unfold execScalarVectorInstruction
  repeat' first
    | with_reducible exact OutRuns.next _ | with_reducible refine OutRuns.ite ?_ ?_
    | ((try lift_lets); intro x; (try clear_value x)) | split | dsimp only

theorem execApertureLoad_runs (site : Nat) (s : State) : OutRuns (execApertureLoad site s) := by
  unfold execApertureLoad
  repeat' first
    | with_reducible exact OutRuns.next _ | with_reducible refine OutRuns.ite ?_ ?_
    | ((try lift_lets); intro x; (try clear_value x)) | split | dsimp only

theorem execApertureStore_runs (site : Nat) (s : State) : OutRuns (execApertureStore site s) := by
  unfold execApertureStore
  repeat' first
    | with_reducible exact OutRuns.next _ | with_reducible refine OutRuns.ite ?_ ?_
    | ((try lift_lets); intro x; (try clear_value x)) | split | dsimp only

theorem execFence_runs (site : Nat) (s : State) : OutRuns (execFence site s) := by
  unfold execFence
  repeat' first
    | with_reducible exact OutRuns.next _ | with_reducible refine OutRuns.ite ?_ ?_
    | ((try lift_lets); intro x; (try clear_value x)) | split | dsimp only

theorem execFenceI_runs (site : Nat) (s : State) : OutRuns (execFenceI site s) := by
  unfold execFenceI
  repeat' first
    | with_reducible exact OutRuns.next _ | with_reducible refine OutRuns.ite ?_ ?_
    | ((try lift_lets); intro x; (try clear_value x)) | split | dsimp only

theorem execCsrWrite_runs (site : Nat) (s : State) : OutRuns (execCsrWrite site s) := by
  unfold execCsrWrite
  repeat' first
    | with_reducible exact OutRuns.next _ | with_reducible refine OutRuns.ite ?_ ?_
    | ((try lift_lets); intro x; (try clear_value x)) | split | dsimp only

theorem execTld_runs (site : Nat) (strikes : Strikes) (s : State) : OutRuns (execTld site strikes s) := by
  unfold execTld
  repeat' first
    | with_reducible exact OutRuns.next _ | with_reducible refine OutRuns.ite ?_ ?_
    | ((try lift_lets); intro x; (try clear_value x)) | split | dsimp only

theorem execTst_runs (site : Nat) (strikes : Strikes) (s : State) : OutRuns (execTst site strikes s) := by
  unfold execTst
  repeat' first
    | with_reducible exact OutRuns.next _ | with_reducible refine OutRuns.ite ?_ ?_
    | ((try lift_lets); intro x; (try clear_value x)) | split | dsimp only

theorem execTaclr_runs (site : Nat) (s : State) : OutRuns (execTaclr site s) := by
  unfold execTaclr
  repeat' first
    | with_reducible exact OutRuns.next _ | with_reducible refine OutRuns.ite ?_ ?_
    | ((try lift_lets); intro x; (try clear_value x)) | split | dsimp only

theorem execTmma_runs (site : Nat) (residue : Residue) (s : State) : OutRuns (execTmma site residue s) := by
  unfold execTmma
  repeat' first
    | with_reducible exact OutRuns.next _ | with_reducible refine OutRuns.ite ?_ ?_
    | ((try lift_lets); intro x; (try clear_value x)) | split | dsimp only

theorem execTepi_runs (site : Nat) (s : State) : OutRuns (execTepi site s) := by
  unfold execTepi
  repeat' first
    | with_reducible exact OutRuns.next _ | with_reducible refine OutRuns.ite ?_ ?_
    | ((try lift_lets); intro x; (try clear_value x)) | split | dsimp only

theorem execTcvt_runs (site : Nat) (s : State) : OutRuns (execTcvt site s) := by
  unfold execTcvt
  repeat' first
    | with_reducible exact OutRuns.next _ | with_reducible refine OutRuns.ite ?_ ?_
    | ((try lift_lets); intro x; (try clear_value x)) | split | dsimp only

theorem execOsm_runs (site : Nat) (s : State) : OutRuns (execOsm site s) := by
  unfold execOsm
  repeat' first
    | with_reducible exact OutRuns.next _ | with_reducible refine OutRuns.ite ?_ ?_
    | ((try lift_lets); intro x; (try clear_value x)) | split | dsimp only

theorem execTmv_runs (site : Nat) (s : State) : OutRuns (execTmv site s) := by
  unfold execTmv
  repeat' first
    | with_reducible exact OutRuns.next _ | with_reducible refine OutRuns.ite ?_ ?_
    | ((try lift_lets); intro x; (try clear_value x)) | split | dsimp only

theorem execTcasOpen_runs (site : Nat) (s : State) : OutRuns (execTcasOpen site s) := by
  unfold execTcasOpen
  repeat' first
    | with_reducible exact OutRuns.next _ | with_reducible refine OutRuns.ite ?_ ?_
    | ((try lift_lets); intro x; (try clear_value x)) | split | dsimp only

theorem execTcasClose_runs (site : Nat) (s : State) : OutRuns (execTcasClose site s) := by
  unfold execTcasClose
  repeat' first
    | with_reducible exact OutRuns.next _ | with_reducible refine OutRuns.ite ?_ ?_
    | ((try lift_lets); intro x; (try clear_value x)) | split | dsimp only

theorem execTcasExport_runs (site : Nat) (s : State) : OutRuns (execTcasExport site s) := by
  unfold execTcasExport
  repeat' first
    | with_reducible exact OutRuns.next _ | with_reducible refine OutRuns.ite ?_ ?_
    | ((try lift_lets); intro x; (try clear_value x)) | split | dsimp only

theorem execTcasFold_runs (site : Nat) (s : State) : OutRuns (execTcasFold site s) := by
  unfold execTcasFold
  repeat' first
    | with_reducible exact OutRuns.next _ | with_reducible refine OutRuns.ite ?_ ?_
    | ((try lift_lets); intro x; (try clear_value x)) | split | dsimp only

theorem execFoldComplete_runs (site : Nat) (s : State) : OutRuns (execFoldComplete site s) := by
  unfold execFoldComplete
  repeat' first
    | with_reducible exact OutRuns.next _ | with_reducible refine OutRuns.ite ?_ ?_
    | ((try lift_lets); intro x; (try clear_value x)) | split | dsimp only

theorem execFoldTimeout_runs (site : Nat) (s : State) : OutRuns (execFoldTimeout site s) := by
  unfold execFoldTimeout
  repeat' first
    | with_reducible exact OutRuns.next _ | with_reducible refine OutRuns.ite ?_ ?_
    | ((try lift_lets); intro x; (try clear_value x)) | split | dsimp only

theorem execTcasDiscard_runs (site : Nat) (s : State) : OutRuns (execTcasDiscard site s) := by
  unfold execTcasDiscard
  repeat' first
    | with_reducible exact OutRuns.next _ | with_reducible refine OutRuns.ite ?_ ?_
    | ((try lift_lets); intro x; (try clear_value x)) | split | dsimp only

theorem execCascadeNodeArrival_runs (k : Nat) (s : State) : OutRuns (execCascadeNodeArrival k s) := by
  unfold execCascadeNodeArrival
  repeat' first
    | with_reducible exact OutRuns.next _ | with_reducible refine OutRuns.ite ?_ ?_
    | ((try lift_lets); intro x; (try clear_value x)) | split | dsimp only

theorem execTaorC_runs (site : Nat) (s : State) : OutRuns (execTaorC site s) := by
  unfold execTaorC
  repeat' first
    | with_reducible exact OutRuns.next _ | with_reducible refine OutRuns.ite ?_ ?_
    | ((try lift_lets); intro x; (try clear_value x)) | split | dsimp only

theorem execAllorWordArrival_runs (k : Nat) (s : State) : OutRuns (execAllorWordArrival k s) := by
  unfold execAllorWordArrival
  repeat' first
    | with_reducible exact OutRuns.next _ | with_reducible refine OutRuns.ite ?_ ?_
    | ((try lift_lets); intro x; (try clear_value x)) | split | dsimp only

theorem execAllorTimeout_runs (site : Nat) (s : State) : OutRuns (execAllorTimeout site s) := by
  unfold execAllorTimeout
  repeat' first
    | with_reducible exact OutRuns.next _ | with_reducible refine OutRuns.ite ?_ ?_
    | ((try lift_lets); intro x; (try clear_value x)) | split | dsimp only

theorem execTaorW_runs (site : Nat) (s : State) : OutRuns (execTaorW site s) := by
  unfold execTaorW
  repeat' first
    | with_reducible exact OutRuns.next _ | with_reducible refine OutRuns.ite ?_ ?_
    | ((try lift_lets); intro x; (try clear_value x)) | split | dsimp only

theorem execTaorWComplete_runs (site : Nat) (s : State) : OutRuns (execTaorWComplete site s) := by
  unfold execTaorWComplete
  repeat' first
    | with_reducible exact OutRuns.next _ | with_reducible refine OutRuns.ite ?_ ?_
    | ((try lift_lets); intro x; (try clear_value x)) | split | dsimp only

theorem execTret_runs (site : Nat) (s : State) : OutRuns (execTret site s) := by
  unfold execTret
  repeat' first
    | with_reducible exact OutRuns.next _ | with_reducible refine OutRuns.ite ?_ ?_
    | ((try lift_lets); intro x; (try clear_value x)) | split | dsimp only

theorem execKernelExit_runs (site : Nat) (s : State) : OutRuns (execKernelExit site s) := by
  unfold execKernelExit
  repeat' first
    | with_reducible exact OutRuns.next _ | with_reducible refine OutRuns.ite ?_ ?_
    | ((try lift_lets); intro x; (try clear_value x)) | split | dsimp only

theorem execKernelEndByTrap_runs (site : Nat) (s : State) : OutRuns (execKernelEndByTrap site s) := by
  unfold execKernelEndByTrap
  repeat' first
    | with_reducible exact OutRuns.next _ | with_reducible refine OutRuns.ite ?_ ?_
    | ((try lift_lets); intro x; (try clear_value x)) | split | dsimp only

theorem execLagNoticeArrival_runs (k : Nat) (s : State) : OutRuns (execLagNoticeArrival k s) := by
  unfold execLagNoticeArrival
  repeat' first
    | with_reducible exact OutRuns.next _ | with_reducible refine OutRuns.ite ?_ ?_
    | ((try lift_lets); intro x; (try clear_value x)) | split | dsimp only

theorem execAttachPortRequest_runs (k : Nat) (strikes : Strikes) (s : State) : OutRuns (execAttachPortRequest k strikes s) := by
  unfold execAttachPortRequest
  repeat' first
    | with_reducible exact OutRuns.next _ | with_reducible refine OutRuns.ite ?_ ?_
    | ((try lift_lets); intro x; (try clear_value x)) | split | dsimp only

theorem execCxlMemRequest_runs (module : Nat) (write : Bool) (offset : Nat) (data : List Byte) (strikes : Strikes) (s : State) : OutRuns (execCxlMemRequest module write offset data strikes s) := by
  unfold execCxlMemRequest
  repeat' first
    | with_reducible exact OutRuns.next _ | with_reducible refine OutRuns.ite ?_ ?_
    | ((try lift_lets); intro x; (try clear_value x)) | split | dsimp only

theorem execColumnRefresh_runs (block : Nat) (s : State) : OutRuns (execColumnRefresh block s) := by
  unfold execColumnRefresh
  repeat' first
    | with_reducible exact OutRuns.next _ | with_reducible refine OutRuns.ite ?_ ?_
    | ((try lift_lets); intro x; (try clear_value x)) | split | dsimp only

theorem execRefreshRateChange_runs (block layer temp : Nat) (s : State) : OutRuns (execRefreshRateChange block layer temp s) := by
  unfold execRefreshRateChange
  repeat' first
    | with_reducible exact OutRuns.next _ | with_reducible refine OutRuns.ite ?_ ?_
    | ((try lift_lets); intro x; (try clear_value x)) | split | dsimp only

theorem execRefreshNormalReturn_runs (block layer : Nat) (s : State) : OutRuns (execRefreshNormalReturn block layer s) := by
  unfold execRefreshNormalReturn
  repeat' first
    | with_reducible exact OutRuns.next _ | with_reducible refine OutRuns.ite ?_ ?_
    | ((try lift_lets); intro x; (try clear_value x)) | split | dsimp only

theorem execHbmRefresh_runs (_channel _bank : Nat) (s : State) : OutRuns (execHbmRefresh _channel _bank s) := by
  unfold execHbmRefresh
  repeat' first
    | with_reducible exact OutRuns.next _ | with_reducible refine OutRuns.ite ?_ ?_
    | ((try lift_lets); intro x; (try clear_value x)) | split | dsimp only

theorem execSluiceDescriptorStart_runs (sluice : Nat) (strikes : Strikes) (s : State) : OutRuns (execSluiceDescriptorStart sluice strikes s) := by
  unfold execSluiceDescriptorStart
  repeat' first
    | with_reducible exact OutRuns.next _ | with_reducible refine OutRuns.ite ?_ ?_
    | ((try lift_lets); intro x; (try clear_value x)) | split | dsimp only

theorem execSluiceDescriptorComplete_runs (sluice : Nat) (s : State) : OutRuns (execSluiceDescriptorComplete sluice s) := by
  unfold execSluiceDescriptorComplete
  repeat' first
    | with_reducible exact OutRuns.next _ | with_reducible refine OutRuns.ite ?_ ?_
    | ((try lift_lets); intro x; (try clear_value x)) | split | dsimp only

theorem execSluiceHalt_runs (sluice : Nat) (strikes : Strikes) (s : State) : OutRuns (execSluiceHalt sluice strikes s) := by
  unfold execSluiceHalt
  repeat' first
    | with_reducible exact OutRuns.next _ | with_reducible refine OutRuns.ite ?_ ?_
    | ((try lift_lets); intro x; (try clear_value x)) | split | dsimp only

theorem execSluiceResume_runs (id : Nat) (s : State) : OutRuns (execSluiceResume id s) := by
  unfold execSluiceResume
  repeat' first
    | with_reducible exact OutRuns.next _ | with_reducible refine OutRuns.ite ?_ ?_
    | ((try lift_lets); intro x; (try clear_value x)) | split | dsimp only

theorem execSluiceRewetDone_runs (sluice : Nat) (s : State) : OutRuns (execSluiceRewetDone sluice s) := by
  unfold execSluiceRewetDone
  repeat' first
    | with_reducible exact OutRuns.next _ | with_reducible refine OutRuns.ite ?_ ?_
    | ((try lift_lets); intro x; (try clear_value x)) | split | dsimp only

theorem execNbRun_runs (id : Nat) (s : State) : OutRuns (execNbRun id s) := by
  unfold execNbRun
  repeat' first
    | with_reducible exact OutRuns.next _ | with_reducible refine OutRuns.ite ?_ ?_
    | ((try lift_lets); intro x; (try clear_value x)) | split | dsimp only

theorem execNbCoreCommand_runs (site unit : Nat) (checkEpoch : Bool) (packet : List Byte) (s : State) : OutRuns (execNbCoreCommand site unit checkEpoch packet s) := by
  unfold execNbCoreCommand
  repeat' first
    | with_reducible exact OutRuns.next _ | with_reducible refine OutRuns.ite ?_ ?_
    | ((try lift_lets); intro x; (try clear_value x)) | split | dsimp only

theorem execFenceNb_runs (id : Nat) (s : State) : OutRuns (execFenceNb id s) := by
  unfold execFenceNb
  repeat' first
    | with_reducible exact OutRuns.next _ | with_reducible refine OutRuns.ite ?_ ?_
    | ((try lift_lets); intro x; (try clear_value x)) | split | dsimp only

theorem execNbCancel_runs (id : Nat) (s : State) : OutRuns (execNbCancel id s) := by
  unfold execNbCancel
  repeat' first
    | with_reducible exact OutRuns.next _ | with_reducible refine OutRuns.ite ?_ ?_
    | ((try lift_lets); intro x; (try clear_value x)) | split | dsimp only

theorem execNbReset_runs (id : Nat) (s : State) : OutRuns (execNbReset id s) := by
  unfold execNbReset
  repeat' first
    | with_reducible exact OutRuns.next _ | with_reducible refine OutRuns.ite ?_ ?_
    | ((try lift_lets); intro x; (try clear_value x)) | split | dsimp only

theorem execNbSequenceStart_runs (unit : Nat) (s : State) : OutRuns (execNbSequenceStart unit s) := by
  unfold execNbSequenceStart
  repeat' first
    | with_reducible exact OutRuns.next _ | with_reducible refine OutRuns.ite ?_ ?_
    | ((try lift_lets); intro x; (try clear_value x)) | split | dsimp only

theorem execNbStepEnd_runs (unit : Nat) (strikes : Strikes) (residue : Nat) (s : State) : OutRuns (execNbStepEnd unit strikes residue s) := by
  unfold execNbStepEnd
  repeat' first
    | with_reducible exact OutRuns.next _ | with_reducible refine OutRuns.ite ?_ ?_
    | ((try lift_lets); intro x; (try clear_value x)) | split | dsimp only

theorem execNbGapEnd_runs (unit : Nat) (s : State) : OutRuns (execNbGapEnd unit s) := by
  unfold execNbGapEnd
  repeat' first
    | with_reducible exact OutRuns.next _ | with_reducible refine OutRuns.ite ?_ ?_
    | ((try lift_lets); intro x; (try clear_value x)) | split | dsimp only

theorem execNbResetEntry_runs (unit : Nat) (s : State) : OutRuns (execNbResetEntry unit s) := by
  unfold execNbResetEntry
  repeat' first
    | with_reducible exact OutRuns.next _ | with_reducible refine OutRuns.ite ?_ ?_
    | ((try lift_lets); intro x; (try clear_value x)) | split | dsimp only

theorem execNbUnitRewetDone_runs (unit : Nat) (s : State) : OutRuns (execNbUnitRewetDone unit s) := by
  unfold execNbUnitRewetDone
  repeat' first
    | with_reducible exact OutRuns.next _ | with_reducible refine OutRuns.ite ?_ ?_
    | ((try lift_lets); intro x; (try clear_value x)) | split | dsimp only

theorem execKvAppend_runs (id : Nat) (s : State) : OutRuns (execKvAppend id s) := by
  unfold execKvAppend
  repeat' first
    | with_reducible exact OutRuns.next _ | with_reducible refine OutRuns.ite ?_ ?_
    | ((try lift_lets); intro x; (try clear_value x)) | split | dsimp only

theorem execKvEvict_runs (id : Nat) (s : State) : OutRuns (execKvEvict id s) := by
  unfold execKvEvict
  repeat' first
    | with_reducible exact OutRuns.next _ | with_reducible refine OutRuns.ite ?_ ?_
    | ((try lift_lets); intro x; (try clear_value x)) | split | dsimp only

theorem execKvStage_runs (id : Nat) (s : State) : OutRuns (execKvStage id s) := by
  unfold execKvStage
  repeat' first
    | with_reducible exact OutRuns.next _ | with_reducible refine OutRuns.ite ?_ ?_
    | ((try lift_lets); intro x; (try clear_value x)) | split | dsimp only

theorem execAttnDecode_runs (id : Nat) (s : State) : OutRuns (execAttnDecode id s) := by
  unfold execAttnDecode
  repeat' first
    | with_reducible exact OutRuns.next _ | with_reducible refine OutRuns.ite ?_ ?_
    | ((try lift_lets); intro x; (try clear_value x)) | split | dsimp only

theorem execKvScore_runs (id : Nat) (s : State) : OutRuns (execKvScore id s) := by
  unfold execKvScore
  repeat' first
    | with_reducible exact OutRuns.next _ | with_reducible refine OutRuns.ite ?_ ?_
    | ((try lift_lets); intro x; (try clear_value x)) | split | dsimp only

theorem execKvAccept_runs (id : Nat) (s : State) : OutRuns (execKvAccept id s) := by
  unfold execKvAccept
  repeat' first
    | with_reducible exact OutRuns.next _ | with_reducible refine OutRuns.ite ?_ ?_
    | ((try lift_lets); intro x; (try clear_value x)) | split | dsimp only

theorem execKvServiceStart_runs (id : Nat) (s : State) : OutRuns (execKvServiceStart id s) := by
  unfold execKvServiceStart
  repeat' first
    | with_reducible exact OutRuns.next _ | with_reducible refine OutRuns.ite ?_ ?_
    | ((try lift_lets); intro x; (try clear_value x)) | split | dsimp only

theorem execTsUpdate_runs (id : Nat) (s : State) : OutRuns (execTsUpdate id s) := by
  unfold execTsUpdate
  repeat' first
    | with_reducible exact OutRuns.next _ | with_reducible refine OutRuns.ite ?_ ?_
    | ((try lift_lets); intro x; (try clear_value x)) | split | dsimp only

theorem execTsCastout_runs (id : Nat) (s : State) : OutRuns (execTsCastout id s) := by
  unfold execTsCastout
  repeat' first
    | with_reducible exact OutRuns.next _ | with_reducible refine OutRuns.ite ?_ ?_
    | ((try lift_lets); intro x; (try clear_value x)) | split | dsimp only

theorem execTsScale_runs (id : Nat) (s : State) : OutRuns (execTsScale id s) := by
  unfold execTsScale
  repeat' first
    | with_reducible exact OutRuns.next _ | with_reducible refine OutRuns.ite ?_ ?_
    | ((try lift_lets); intro x; (try clear_value x)) | split | dsimp only

theorem execTsAudit_runs (id : Nat) (s : State) : OutRuns (execTsAudit id s) := by
  unfold execTsAudit
  repeat' first
    | with_reducible exact OutRuns.next _ | with_reducible refine OutRuns.ite ?_ ?_
    | ((try lift_lets); intro x; (try clear_value x)) | split | dsimp only

theorem execTsDigest_runs (id : Nat) (s : State) : OutRuns (execTsDigest id s) := by
  unfold execTsDigest
  repeat' first
    | with_reducible exact OutRuns.next _ | with_reducible refine OutRuns.ite ?_ ?_
    | ((try lift_lets); intro x; (try clear_value x)) | split | dsimp only

theorem execTsCompare_runs (id : Nat) (s : State) : OutRuns (execTsCompare id s) := by
  unfold execTsCompare
  repeat' first
    | with_reducible exact OutRuns.next _ | with_reducible refine OutRuns.ite ?_ ?_
    | ((try lift_lets); intro x; (try clear_value x)) | split | dsimp only

theorem execStepGateReread_runs (id : Nat) (s : State) : OutRuns (execStepGateReread id s) := by
  unfold execStepGateReread
  repeat' first
    | with_reducible exact OutRuns.next _ | with_reducible refine OutRuns.ite ?_ ?_
    | ((try lift_lets); intro x; (try clear_value x)) | split | dsimp only

theorem execStepGateTimeout_runs (id : Nat) (s : State) : OutRuns (execStepGateTimeout id s) := by
  unfold execStepGateTimeout
  repeat' first
    | with_reducible exact OutRuns.next _ | with_reducible refine OutRuns.ite ?_ ?_
    | ((try lift_lets); intro x; (try clear_value x)) | split | dsimp only

theorem execUcieModuleLoss_runs (module : Nat) (s : State) : OutRuns (execUcieModuleLoss module s) := by
  unfold execUcieModuleLoss
  repeat' first
    | with_reducible exact OutRuns.next _ | with_reducible refine OutRuns.ite ?_ ?_
    | ((try lift_lets); intro x; (try clear_value x)) | split | dsimp only

theorem execRegisterWrite_runs (module offset size value : Nat) (s : State) : OutRuns (execRegisterWrite module offset size value s) := by
  unfold execRegisterWrite
  repeat' first
    | with_reducible exact OutRuns.next _ | with_reducible refine OutRuns.ite ?_ ?_
    | ((try lift_lets); intro x; (try clear_value x)) | split | dsimp only

theorem execDoorbell_runs (module ring value : Nat) (s : State) : OutRuns (execDoorbell module ring value s) := by
  unfold execDoorbell
  repeat' first
    | with_reducible exact OutRuns.next _ | with_reducible refine OutRuns.ite ?_ ?_
    | ((try lift_lets); intro x; (try clear_value x)) | split | dsimp only

theorem execCoreDoorbell_runs (site port : Nat) (priority : Bool) (ring value : Nat) (s : State) : OutRuns (execCoreDoorbell site port priority ring value s) := by
  unfold execCoreDoorbell
  repeat' first
    | with_reducible exact OutRuns.next _ | with_reducible refine OutRuns.ite ?_ ?_
    | ((try lift_lets); intro x; (try clear_value x)) | split | dsimp only

theorem execCommandFetch_runs (ring : Nat) (strikes : Strikes) (s : State) : OutRuns (execCommandFetch ring strikes s) := by
  unfold execCommandFetch
  repeat' first
    | with_reducible exact OutRuns.next _ | with_reducible refine OutRuns.ite ?_ ?_
    | ((try lift_lets); intro x; (try clear_value x)) | split | dsimp only

theorem execCompletionWrite_runs (k : Nat) (s : State) : OutRuns (execCompletionWrite k s) := by
  unfold execCompletionWrite
  repeat' first
    | with_reducible exact OutRuns.next _ | with_reducible refine OutRuns.ite ?_ ?_
    | ((try lift_lets); intro x; (try clear_value x)) | split | dsimp only

theorem execCompletionStallTimeout_runs (ring : Nat) (s : State) : OutRuns (execCompletionStallTimeout ring s) := by
  unfold execCompletionStallTimeout
  repeat' first
    | with_reducible exact OutRuns.next _ | with_reducible refine OutRuns.ite ?_ ?_
    | ((try lift_lets); intro x; (try clear_value x)) | split | dsimp only

theorem execCompletionSlotRetry_runs (ring : Nat) (s : State) : OutRuns (execCompletionSlotRetry ring s) := by
  unfold execCompletionSlotRetry
  repeat' first
    | with_reducible exact OutRuns.next _ | with_reducible refine OutRuns.ite ?_ ?_
    | ((try lift_lets); intro x; (try clear_value x)) | split | dsimp only

theorem execInterruptCoalesceTimeout_runs (ring : Nat) (s : State) : OutRuns (execInterruptCoalesceTimeout ring s) := by
  unfold execInterruptCoalesceTimeout
  repeat' first
    | with_reducible exact OutRuns.next _ | with_reducible refine OutRuns.ite ?_ ?_
    | ((try lift_lets); intro x; (try clear_value x)) | split | dsimp only

theorem execNop_runs (id : Nat) (s : State) : OutRuns (execNop id s) := by
  unfold execNop
  repeat' first
    | with_reducible exact OutRuns.next _ | with_reducible refine OutRuns.ite ?_ ?_
    | ((try lift_lets); intro x; (try clear_value x)) | split | dsimp only

theorem execCfgBegin_runs (id : Nat) (s : State) : OutRuns (execCfgBegin id s) := by
  unfold execCfgBegin
  repeat' first
    | with_reducible exact OutRuns.next _ | with_reducible refine OutRuns.ite ?_ ?_
    | ((try lift_lets); intro x; (try clear_value x)) | split | dsimp only

theorem execCfgSet_runs (id : Nat) (s : State) : OutRuns (execCfgSet id s) := by
  unfold execCfgSet
  repeat' first
    | with_reducible exact OutRuns.next _ | with_reducible refine OutRuns.ite ?_ ?_
    | ((try lift_lets); intro x; (try clear_value x)) | split | dsimp only

theorem execCfgCommit_runs (id : Nat) (s : State) : OutRuns (execCfgCommit id s) := by
  unfold execCfgCommit
  repeat' first
    | with_reducible exact OutRuns.next _ | with_reducible refine OutRuns.ite ?_ ?_
    | ((try lift_lets); intro x; (try clear_value x)) | split | dsimp only

theorem execCommitApply_runs (id : Nat) (badFills : List Nat) (s : State) : OutRuns (execCommitApply id badFills s) := by
  unfold execCommitApply
  repeat' first
    | with_reducible exact OutRuns.next _ | with_reducible refine OutRuns.ite ?_ ?_
    | ((try lift_lets); intro x; (try clear_value x)) | split | dsimp only

theorem execQuiescenceTimeout_runs (id : Nat) (s : State) : OutRuns (execQuiescenceTimeout id s) := by
  unfold execQuiescenceTimeout
  repeat' first
    | with_reducible exact OutRuns.next _ | with_reducible refine OutRuns.ite ?_ ?_
    | ((try lift_lets); intro x; (try clear_value x)) | split | dsimp only

theorem execCfgAbort_runs (id : Nat) (s : State) : OutRuns (execCfgAbort id s) := by
  unfold execCfgAbort
  repeat' first
    | with_reducible exact OutRuns.next _ | with_reducible refine OutRuns.ite ?_ ?_
    | ((try lift_lets); intro x; (try clear_value x)) | split | dsimp only

theorem execTransactionTimeout_runs (txn : Nat) (s : State) : OutRuns (execTransactionTimeout txn s) := by
  unfold execTransactionTimeout
  repeat' first
    | with_reducible exact OutRuns.next _ | with_reducible refine OutRuns.ite ?_ ?_
    | ((try lift_lets); intro x; (try clear_value x)) | split | dsimp only

theorem execCfgGet_runs (id : Nat) (s : State) : OutRuns (execCfgGet id s) := by
  unfold execCfgGet
  repeat' first
    | with_reducible exact OutRuns.next _ | with_reducible refine OutRuns.ite ?_ ?_
    | ((try lift_lets); intro x; (try clear_value x)) | split | dsimp only

theorem execSaggarClose_runs (id : Nat) (s : State) : OutRuns (execSaggarClose id s) := by
  unfold execSaggarClose
  repeat' first
    | with_reducible exact OutRuns.next _ | with_reducible refine OutRuns.ite ?_ ?_
    | ((try lift_lets); intro x; (try clear_value x)) | split | dsimp only

theorem execJobOpen_runs (id : Nat) (s : State) : OutRuns (execJobOpen id s) := by
  unfold execJobOpen
  repeat' first
    | with_reducible exact OutRuns.next _ | with_reducible refine OutRuns.ite ?_ ?_
    | ((try lift_lets); intro x; (try clear_value x)) | split | dsimp only

theorem execJobClose_runs (id : Nat) (s : State) : OutRuns (execJobClose id s) := by
  unfold execJobClose
  repeat' first
    | with_reducible exact OutRuns.next _ | with_reducible refine OutRuns.ite ?_ ?_
    | ((try lift_lets); intro x; (try clear_value x)) | split | dsimp only

theorem execJobCloseComplete_runs (id : Nat) (s : State) : OutRuns (execJobCloseComplete id s) := by
  unfold execJobCloseComplete
  repeat' first
    | with_reducible exact OutRuns.next _ | with_reducible refine OutRuns.ite ?_ ?_
    | ((try lift_lets); intro x; (try clear_value x)) | split | dsimp only

theorem execRingReset_runs (id : Nat) (s : State) : OutRuns (execRingReset id s) := by
  unfold execRingReset
  repeat' first
    | with_reducible exact OutRuns.next _ | with_reducible refine OutRuns.ite ?_ ?_
    | ((try lift_lets); intro x; (try clear_value x)) | split | dsimp only

theorem execRingRewetDone_runs (ring : Nat) (s : State) : OutRuns (execRingRewetDone ring s) := by
  unfold execRingRewetDone
  repeat' first
    | with_reducible exact OutRuns.next _ | with_reducible refine OutRuns.ite ?_ ?_
    | ((try lift_lets); intro x; (try clear_value x)) | split | dsimp only

theorem execKlaunch_runs (id : Nat) (s : State) : OutRuns (execKlaunch id s) := by
  unfold execKlaunch
  repeat' first
    | with_reducible exact OutRuns.next _ | with_reducible refine OutRuns.ite ?_ ?_
    | ((try lift_lets); intro x; (try clear_value x)) | split | dsimp only

theorem execLaunchStart_runs (id : Nat) (s : State) : OutRuns (execLaunchStart id s) := by
  unfold execLaunchStart
  repeat' first
    | with_reducible exact OutRuns.next _ | with_reducible refine OutRuns.ite ?_ ?_
    | ((try lift_lets); intro x; (try clear_value x)) | split | dsimp only

theorem execKabort_runs (id : Nat) (s : State) : OutRuns (execKabort id s) := by
  unfold execKabort
  repeat' first
    | with_reducible exact OutRuns.next _ | with_reducible refine OutRuns.ite ?_ ?_
    | ((try lift_lets); intro x; (try clear_value x)) | split | dsimp only

theorem execFabPour_runs (id : Nat) (s : State) : OutRuns (execFabPour id s) := by
  unfold execFabPour
  repeat' first
    | with_reducible exact OutRuns.next _ | with_reducible refine OutRuns.ite ?_ ?_
    | ((try lift_lets); intro x; (try clear_value x)) | split | dsimp only

theorem execFabWindow_runs (id : Nat) (s : State) : OutRuns (execFabWindow id s) := by
  unfold execFabWindow
  repeat' first
    | with_reducible exact OutRuns.next _ | with_reducible refine OutRuns.ite ?_ ?_
    | ((try lift_lets); intro x; (try clear_value x)) | split | dsimp only

theorem execFabPortReset_runs (id : Nat) (s : State) : OutRuns (execFabPortReset id s) := by
  unfold execFabPortReset
  repeat' first
    | with_reducible exact OutRuns.next _ | with_reducible refine OutRuns.ite ?_ ?_
    | ((try lift_lets); intro x; (try clear_value x)) | split | dsimp only

theorem execLaserInputLoss_runs (port : Nat) (s : State) : OutRuns (execLaserInputLoss port s) := by
  unfold execLaserInputLoss
  repeat' first
    | with_reducible exact OutRuns.next _ | with_reducible refine OutRuns.ite ?_ ?_
    | ((try lift_lets); intro x; (try clear_value x)) | split | dsimp only

theorem execPortRanging_runs (port echoNs : Nat) (s : State) : OutRuns (execPortRanging port echoNs s) := by
  unfold execPortRanging
  repeat' first
    | with_reducible exact OutRuns.next _ | with_reducible refine OutRuns.ite ?_ ?_
    | ((try lift_lets); intro x; (try clear_value x)) | split | dsimp only

theorem execHelloSend_runs (port : Nat) (s : State) : OutRuns (execHelloSend port s) := by
  unfold execHelloSend
  repeat' first
    | with_reducible exact OutRuns.next _ | with_reducible refine OutRuns.ite ?_ ?_
    | ((try lift_lets); intro x; (try clear_value x)) | split | dsimp only

theorem execMemberExpiry_runs (port comb : Nat) (s : State) : OutRuns (execMemberExpiry port comb s) := by
  unfold execMemberExpiry
  repeat' first
    | with_reducible exact OutRuns.next _ | with_reducible refine OutRuns.ite ?_ ?_
    | ((try lift_lets); intro x; (try clear_value x)) | split | dsimp only

theorem execBeaconSend_runs (port : Nat) (s : State) : OutRuns (execBeaconSend port s) := by
  unfold execBeaconSend
  repeat' first
    | with_reducible exact OutRuns.next _ | with_reducible refine OutRuns.ite ?_ ?_
    | ((try lift_lets); intro x; (try clear_value x)) | split | dsimp only

theorem execLeaderTimeout_runs (port : Nat) (s : State) : OutRuns (execLeaderTimeout port s) := by
  unfold execLeaderTimeout
  repeat' first
    | with_reducible exact OutRuns.next _ | with_reducible refine OutRuns.ite ?_ ?_
    | ((try lift_lets); intro x; (try clear_value x)) | split | dsimp only

theorem execControlFrameSend_runs (port : Nat) (echo : Echo) (backoff : Nat) (s : State) : OutRuns (execControlFrameSend port echo backoff s) := by
  unfold execControlFrameSend
  repeat' first
    | with_reducible exact OutRuns.next _ | with_reducible refine OutRuns.ite ?_ ?_
    | ((try lift_lets); intro x; (try clear_value x)) | split | dsimp only

theorem execControlBackoffExpiry_runs (port : Nat) (echo : Echo) (backoff : Nat) (s : State) : OutRuns (execControlBackoffExpiry port echo backoff s) := by
  unfold execControlBackoffExpiry
  repeat' first
    | with_reducible exact OutRuns.next _ | with_reducible refine OutRuns.ite ?_ ?_
    | ((try lift_lets); intro x; (try clear_value x)) | split | dsimp only

theorem execLendAbandon_runs (port : Nat) (s : State) : OutRuns (execLendAbandon port s) := by
  unfold execLendAbandon
  repeat' first
    | with_reducible exact OutRuns.next _ | with_reducible refine OutRuns.ite ?_ ?_
    | ((try lift_lets); intro x; (try clear_value x)) | split | dsimp only

theorem execBeacon_runs (port : Nat) (f : CtlFrame) (s : State) : OutRuns (execBeacon port f s) := by
  unfold execBeacon
  repeat' first
    | with_reducible exact OutRuns.next _ | with_reducible refine OutRuns.ite ?_ ?_
    | ((try lift_lets); intro x; (try clear_value x)) | split | dsimp only

theorem execHello_runs (port : Nat) (f : CtlFrame) (s : State) : OutRuns (execHello port f s) := by
  unfold execHello
  repeat' first
    | with_reducible exact OutRuns.next _ | with_reducible refine OutRuns.ite ?_ ?_
    | ((try lift_lets); intro x; (try clear_value x)) | split | dsimp only

theorem execReserve_runs (port : Nat) (f : CtlFrame) (s : State) : OutRuns (execReserve port f s) := by
  unfold execReserve
  repeat' first
    | with_reducible exact OutRuns.next _ | with_reducible refine OutRuns.ite ?_ ?_
    | ((try lift_lets); intro x; (try clear_value x)) | split | dsimp only

theorem execAccept_runs (port : Nat) (f : CtlFrame) (s : State) : OutRuns (execAccept port f s) := by
  unfold execAccept
  repeat' first
    | with_reducible exact OutRuns.next _ | with_reducible refine OutRuns.ite ?_ ?_
    | ((try lift_lets); intro x; (try clear_value x)) | split | dsimp only

theorem execRefuse_runs (port : Nat) (f : CtlFrame) (s : State) : OutRuns (execRefuse port f s) := by
  unfold execRefuse
  repeat' first
    | with_reducible exact OutRuns.next _ | with_reducible refine OutRuns.ite ?_ ?_
    | ((try lift_lets); intro x; (try clear_value x)) | split | dsimp only

theorem execDone_runs (port : Nat) (f : CtlFrame) (s : State) : OutRuns (execDone port f s) := by
  unfold execDone
  repeat' first
    | with_reducible exact OutRuns.next _ | with_reducible refine OutRuns.ite ?_ ?_
    | ((try lift_lets); intro x; (try clear_value x)) | split | dsimp only

theorem execQuery_runs (port : Nat) (f : CtlFrame) (s : State) : OutRuns (execQuery port f s) := by
  unfold execQuery
  repeat' first
    | with_reducible exact OutRuns.next _ | with_reducible refine OutRuns.ite ?_ ?_
    | ((try lift_lets); intro x; (try clear_value x)) | split | dsimp only

theorem execRelayed_runs (port : Nat) (f : CtlFrame) (s : State) : OutRuns (execRelayed port f s) := by
  unfold execRelayed
  repeat' first
    | with_reducible exact OutRuns.next _ | with_reducible refine OutRuns.ite ?_ ?_
    | ((try lift_lets); intro x; (try clear_value x)) | split | dsimp only

theorem execAbort_runs (port : Nat) (f : CtlFrame) (s : State) : OutRuns (execAbort port f s) := by
  unfold execAbort
  repeat' first
    | with_reducible exact OutRuns.next _ | with_reducible refine OutRuns.ite ?_ ?_
    | ((try lift_lets); intro x; (try clear_value x)) | split | dsimp only

theorem execMesh_runs (port : Nat) (f : CtlFrame) (s : State) : OutRuns (execMesh port f s) := by
  unfold execMesh
  repeat' first
    | with_reducible exact OutRuns.next _ | with_reducible refine OutRuns.ite ?_ ?_
    | ((try lift_lets); intro x; (try clear_value x)) | split | dsimp only

theorem execSession_runs (port : Nat) (f : CtlFrame) (s : State) : OutRuns (execSession port f s) := by
  unfold execSession
  repeat' first
    | with_reducible exact OutRuns.next _ | with_reducible refine OutRuns.ite ?_ ?_
    | ((try lift_lets); intro x; (try clear_value x)) | split | dsimp only

theorem execLag_runs (port : Nat) (f : CtlFrame) (s : State) : OutRuns (execLag port f s) := by
  unfold execLag
  repeat' first
    | with_reducible exact OutRuns.next _ | with_reducible refine OutRuns.ite ?_ ?_
    | ((try lift_lets); intro x; (try clear_value x)) | split | dsimp only

theorem execLend_runs (port : Nat) (f : CtlFrame) (s : State) : OutRuns (execLend port f s) := by
  unfold execLend
  repeat' first
    | with_reducible exact OutRuns.next _ | with_reducible refine OutRuns.ite ?_ ?_
    | ((try lift_lets); intro x; (try clear_value x)) | split | dsimp only

theorem execPourStart_runs (port : Nat) (s : State) : OutRuns (execPourStart port s) := by
  unfold execPourStart
  repeat' first
    | with_reducible exact OutRuns.next _ | with_reducible refine OutRuns.ite ?_ ?_
    | ((try lift_lets); intro x; (try clear_value x)) | split | dsimp only

theorem execReservationTake_runs (port : Nat) (s : State) : OutRuns (execReservationTake port s) := by
  unfold execReservationTake
  repeat' first
    | with_reducible exact OutRuns.next _ | with_reducible refine OutRuns.ite ?_ ?_
    | ((try lift_lets); intro x; (try clear_value x)) | split | dsimp only

theorem execPourSegmentsStart_runs (port : Nat) (s : State) : OutRuns (execPourSegmentsStart port s) := by
  unfold execPourSegmentsStart
  repeat' first
    | with_reducible exact OutRuns.next _ | with_reducible refine OutRuns.ite ?_ ?_
    | ((try lift_lets); intro x; (try clear_value x)) | split | dsimp only

theorem execDataFrameReceive_runs (port : Nat) (f : DataFrame) (s : State) : OutRuns (execDataFrameReceive port f s) := by
  unfold execDataFrameReceive
  repeat' first
    | with_reducible exact OutRuns.next _ | with_reducible refine OutRuns.ite ?_ ?_
    | ((try lift_lets); intro x; (try clear_value x)) | split | dsimp only

theorem execReserveTimeout_runs (port : Nat) (s : State) : OutRuns (execReserveTimeout port s) := by
  unfold execReserveTimeout
  repeat' first
    | with_reducible exact OutRuns.next _ | with_reducible refine OutRuns.ite ?_ ?_
    | ((try lift_lets); intro x; (try clear_value x)) | split | dsimp only

theorem execReserveRetry_runs (port : Nat) (s : State) : OutRuns (execReserveRetry port s) := by
  unfold execReserveRetry
  repeat' first
    | with_reducible exact OutRuns.next _ | with_reducible refine OutRuns.ite ?_ ?_
    | ((try lift_lets); intro x; (try clear_value x)) | split | dsimp only

theorem execFirstSegmentTimeout_runs (port : Nat) (s : State) : OutRuns (execFirstSegmentTimeout port s) := by
  unfold execFirstSegmentTimeout
  repeat' first
    | with_reducible exact OutRuns.next _ | with_reducible refine OutRuns.ite ?_ ?_
    | ((try lift_lets); intro x; (try clear_value x)) | split | dsimp only

theorem execDoneTimeout_runs (port : Nat) (s : State) : OutRuns (execDoneTimeout port s) := by
  unfold execDoneTimeout
  repeat' first
    | with_reducible exact OutRuns.next _ | with_reducible refine OutRuns.ite ?_ ?_
    | ((try lift_lets); intro x; (try clear_value x)) | split | dsimp only

theorem execDoneRetentionExpiry_runs (port srcPos pourId : Nat) (s : State) : OutRuns (execDoneRetentionExpiry port srcPos pourId s) := by
  unfold execDoneRetentionExpiry
  repeat' first
    | with_reducible exact OutRuns.next _ | with_reducible refine OutRuns.ite ?_ ?_
    | ((try lift_lets); intro x; (try clear_value x)) | split | dsimp only

theorem execRelayedTimeout_runs (port pourId : Nat) (s : State) : OutRuns (execRelayedTimeout port pourId s) := by
  unfold execRelayedTimeout
  repeat' first
    | with_reducible exact OutRuns.next _ | with_reducible refine OutRuns.ite ?_ ?_
    | ((try lift_lets); intro x; (try clear_value x)) | split | dsimp only

theorem execOpticalAttachPacket_runs (k : Nat) (s : State) : OutRuns (execOpticalAttachPacket k s) := by
  unfold execOpticalAttachPacket
  repeat' first
    | with_reducible exact OutRuns.next _ | with_reducible refine OutRuns.ite ?_ ?_
    | ((try lift_lets); intro x; (try clear_value x)) | split | dsimp only

theorem execCascadeGatherTimeout_runs (attach destPos : Nat) (s : State) : OutRuns (execCascadeGatherTimeout attach destPos s) := by
  unfold execCascadeGatherTimeout
  repeat' first
    | with_reducible exact OutRuns.next _ | with_reducible refine OutRuns.ite ?_ ?_
    | ((try lift_lets); intro x; (try clear_value x)) | split | dsimp only

theorem execMgmtDatagram_runs (d : Datagram) (s : State) : OutRuns (execMgmtDatagram d s) := by
  unfold execMgmtDatagram
  repeat' first
    | with_reducible exact OutRuns.next _ | with_reducible refine OutRuns.ite ?_ ?_
    | ((try lift_lets); intro x; (try clear_value x)) | split | dsimp only

theorem execMgmtSessionTimeout_runs (session : Nat) (s : State) : OutRuns (execMgmtSessionTimeout session s) := by
  unfold execMgmtSessionTimeout
  repeat' first
    | with_reducible exact OutRuns.next _ | with_reducible refine OutRuns.ite ?_ ?_
    | ((try lift_lets); intro x; (try clear_value x)) | split | dsimp only

theorem execPwrMeterRead_runs (id : Nat) (s : State) : OutRuns (execPwrMeterRead id s) := by
  unfold execPwrMeterRead
  repeat' first
    | with_reducible exact OutRuns.next _ | with_reducible refine OutRuns.ite ?_ ?_
    | ((try lift_lets); intro x; (try clear_value x)) | split | dsimp only

theorem execPwrSleep_runs (id : Nat) (s : State) : OutRuns (execPwrSleep id s) := by
  unfold execPwrSleep
  repeat' first
    | with_reducible exact OutRuns.next _ | with_reducible refine OutRuns.ite ?_ ?_
    | ((try lift_lets); intro x; (try clear_value x)) | split | dsimp only

theorem execPwrWake_runs (id : Nat) (s : State) : OutRuns (execPwrWake id s) := by
  unfold execPwrWake
  repeat' first
    | with_reducible exact OutRuns.next _ | with_reducible refine OutRuns.ite ?_ ?_
    | ((try lift_lets); intro x; (try clear_value x)) | split | dsimp only

theorem execClusterSwitchStage_runs (cluster npPermille : Nat) (s : State) : OutRuns (execClusterSwitchStage cluster npPermille s) := by
  unfold execClusterSwitchStage
  repeat' first
    | with_reducible exact OutRuns.next _ | with_reducible refine OutRuns.ite ?_ ?_
    | ((try lift_lets); intro x; (try clear_value x)) | split | dsimp only

theorem execClusterStartDeferralEnd_runs (cluster npPermille waitNs : Nat) (s : State) : OutRuns (execClusterStartDeferralEnd cluster npPermille waitNs s) := by
  unfold execClusterStartDeferralEnd
  repeat' first
    | with_reducible exact OutRuns.next _ | with_reducible refine OutRuns.ite ?_ ?_
    | ((try lift_lets); intro x; (try clear_value x)) | split | dsimp only

theorem execRegulatorPhaseFault_runs (phase : Nat) (s : State) : OutRuns (execRegulatorPhaseFault phase s) := by
  unfold execRegulatorPhaseFault
  repeat' first
    | with_reducible exact OutRuns.next _ | with_reducible refine OutRuns.ite ?_ ?_
    | ((try lift_lets); intro x; (try clear_value x)) | split | dsimp only

theorem execKilnRecompute_runs (m : KilnIn) (s : State) : OutRuns (execKilnRecompute m s) := by
  unfold execKilnRecompute
  repeat' first
    | with_reducible exact OutRuns.next _ | with_reducible refine OutRuns.ite ?_ ?_
    | ((try lift_lets); intro x; (try clear_value x)) | split | dsimp only

theorem execLendLeaseExpiry_runs (k : Nat) (s : State) : OutRuns (execLendLeaseExpiry k s) := by
  unfold execLendLeaseExpiry
  repeat' first
    | with_reducible exact OutRuns.next _ | with_reducible refine OutRuns.ite ?_ ?_
    | ((try lift_lets); intro x; (try clear_value x)) | split | dsimp only

theorem execLendReductionExpiry_runs (k : Nat) (s : State) : OutRuns (execLendReductionExpiry k s) := by
  unfold execLendReductionExpiry
  repeat' first
    | with_reducible exact OutRuns.next _ | with_reducible refine OutRuns.ite ?_ ?_
    | ((try lift_lets); intro x; (try clear_value x)) | split | dsimp only

theorem execTelemetryWindowClose_runs (w : WindowIn) (s : State) : OutRuns (execTelemetryWindowClose w s) := by
  unfold execTelemetryWindowClose
  repeat' first
    | with_reducible exact OutRuns.next _ | with_reducible refine OutRuns.ite ?_ ?_
    | ((try lift_lets); intro x; (try clear_value x)) | split | dsimp only

theorem execEnergyAttribution_runs (input : Nat) (shares : List EnergyShare) (s : State) : OutRuns (execEnergyAttribution input shares s) := by
  unfold execEnergyAttribution
  repeat' first
    | with_reducible exact OutRuns.next _ | with_reducible refine OutRuns.ite ?_ ?_
    | ((try lift_lets); intro x; (try clear_value x)) | split | dsimp only

theorem execKilnModelUpdate_runs (points : List PointIn) (s : State) : OutRuns (execKilnModelUpdate points s) := by
  unfold execKilnModelUpdate
  repeat' first
    | with_reducible exact OutRuns.next _ | with_reducible refine OutRuns.ite ?_ ?_
    | ((try lift_lets); intro x; (try clear_value x)) | split | dsimp only

theorem execKilnStaleTimeout_runs (s : State) : OutRuns (execKilnStaleTimeout s) := by
  unfold execKilnStaleTimeout
  repeat' first
    | with_reducible exact OutRuns.next _ | with_reducible refine OutRuns.ite ?_ ?_
    | ((try lift_lets); intro x; (try clear_value x)) | split | dsimp only

theorem execKilnStaleConeRaise_runs (s : State) : OutRuns (execKilnStaleConeRaise s) := by
  unfold execKilnStaleConeRaise
  repeat' first
    | with_reducible exact OutRuns.next _ | with_reducible refine OutRuns.ite ?_ ?_
    | ((try lift_lets); intro x; (try clear_value x)) | split | dsimp only

theorem execThermalClamp_runs (point reading : Nat) (s : State) : OutRuns (execThermalClamp point reading s) := by
  unfold execThermalClamp
  repeat' first
    | with_reducible exact OutRuns.next _ | with_reducible refine OutRuns.ite ?_ ?_
    | ((try lift_lets); intro x; (try clear_value x)) | split | dsimp only

theorem execThermalClampRelease_runs (point reading : Nat) (s : State) : OutRuns (execThermalClampRelease point reading s) := by
  unfold execThermalClampRelease
  repeat' first
    | with_reducible exact OutRuns.next _ | with_reducible refine OutRuns.ite ?_ ?_
    | ((try lift_lets); intro x; (try clear_value x)) | split | dsimp only

theorem execThermalShutdown_runs (cause : Nat) (s : State) : OutRuns (execThermalShutdown cause s) := by
  unfold execThermalShutdown
  repeat' first
    | with_reducible exact OutRuns.next _ | with_reducible refine OutRuns.ite ?_ ?_
    | ((try lift_lets); intro x; (try clear_value x)) | split | dsimp only

theorem execCoolantOutOfRange_runs (quantity value : Nat) (s : State) : OutRuns (execCoolantOutOfRange quantity value s) := by
  unfold execCoolantOutOfRange
  repeat' first
    | with_reducible exact OutRuns.next _ | with_reducible refine OutRuns.ite ?_ ?_
    | ((try lift_lets); intro x; (try clear_value x)) | split | dsimp only

theorem execFlowLimited_runs (flow : Nat) (s : State) : OutRuns (execFlowLimited flow s) := by
  unfold execFlowLimited
  repeat' first
    | with_reducible exact OutRuns.next _ | with_reducible refine OutRuns.ite ?_ ?_
    | ((try lift_lets); intro x; (try clear_value x)) | split | dsimp only

theorem execFlowLimitLift_runs (flow : Nat) (s : State) : OutRuns (execFlowLimitLift flow s) := by
  unfold execFlowLimitLift
  repeat' first
    | with_reducible exact OutRuns.next _ | with_reducible refine OutRuns.ite ?_ ?_
    | ((try lift_lets); intro x; (try clear_value x)) | split | dsimp only

theorem execHeatMismatch_runs (heatW : Nat) (s : State) : OutRuns (execHeatMismatch heatW s) := by
  unfold execHeatMismatch
  repeat' first
    | with_reducible exact OutRuns.next _ | with_reducible refine OutRuns.ite ?_ ?_
    | ((try lift_lets); intro x; (try clear_value x)) | split | dsimp only

theorem execFlowRecord_runs (heatW : Nat) (s : State) : OutRuns (execFlowRecord heatW s) := by
  unfold execFlowRecord
  repeat' first
    | with_reducible exact OutRuns.next _ | with_reducible refine OutRuns.ite ?_ ?_
    | ((try lift_lets); intro x; (try clear_value x)) | split | dsimp only

theorem execRotateDue_runs (saggar : Nat) (s : State) : OutRuns (execRotateDue saggar s) := by
  unfold execRotateDue
  repeat' first
    | with_reducible exact OutRuns.next _ | with_reducible refine OutRuns.ite ?_ ?_
    | ((try lift_lets); intro x; (try clear_value x)) | split | dsimp only

theorem execThmRank_runs (id : Nat) (s : State) : OutRuns (execThmRank id s) := by
  unfold execThmRank
  repeat' first
    | with_reducible exact OutRuns.next _ | with_reducible refine OutRuns.ite ?_ ?_
    | ((try lift_lets); intro x; (try clear_value x)) | split | dsimp only

theorem execWearSample_runs (s : State) : OutRuns (execWearSample s) := by
  unfold execWearSample
  repeat' first
    | with_reducible exact OutRuns.next _ | with_reducible refine OutRuns.ite ?_ ?_
    | ((try lift_lets); intro x; (try clear_value x)) | split | dsimp only

theorem execWearPersist_runs (s : State) : OutRuns (execWearPersist s) := by
  unfold execWearPersist
  repeat' first
    | with_reducible exact OutRuns.next _ | with_reducible refine OutRuns.ite ?_ ?_
    | ((try lift_lets); intro x; (try clear_value x)) | split | dsimp only

theorem execCeBucketLeak_runs (s : State) : OutRuns (execCeBucketLeak s) := by
  unfold execCeBucketLeak
  repeat' first
    | with_reducible exact OutRuns.next _ | with_reducible refine OutRuns.ite ?_ ?_
    | ((try lift_lets); intro x; (try clear_value x)) | split | dsimp only

theorem execRelScrub_runs (id : Nat) (s : State) : OutRuns (execRelScrub id s) := by
  unfold execRelScrub
  repeat' first
    | with_reducible exact OutRuns.next _ | with_reducible refine OutRuns.ite ?_ ?_
    | ((try lift_lets); intro x; (try clear_value x)) | split | dsimp only

theorem execScrubStart_runs (id : Nat) (strikes : Strikes) (s : State) : OutRuns (execScrubStart id strikes s) := by
  unfold execScrubStart
  repeat' first
    | with_reducible exact OutRuns.next _ | with_reducible refine OutRuns.ite ?_ ?_
    | ((try lift_lets); intro x; (try clear_value x)) | split | dsimp only

theorem execScrubComplete_runs (id : Nat) (s : State) : OutRuns (execScrubComplete id s) := by
  unfold execScrubComplete
  repeat' first
    | with_reducible exact OutRuns.next _ | with_reducible refine OutRuns.ite ?_ ?_
    | ((try lift_lets); intro x; (try clear_value x)) | split | dsimp only

theorem execRelRetireGranule_runs (id : Nat) (s : State) : OutRuns (execRelRetireGranule id s) := by
  unfold execRelRetireGranule
  repeat' first
    | with_reducible exact OutRuns.next _ | with_reducible refine OutRuns.ite ?_ ?_
    | ((try lift_lets); intro x; (try clear_value x)) | split | dsimp only

theorem execRelRetireSite_runs (id : Nat) (s : State) : OutRuns (execRelRetireSite id s) := by
  unfold execRelRetireSite
  repeat' first
    | with_reducible exact OutRuns.next _ | with_reducible refine OutRuns.ite ?_ ?_
    | ((try lift_lets); intro x; (try clear_value x)) | split | dsimp only

theorem execSiteRewetDone_runs (site : Nat) (bad : Option Nat) (s : State) : OutRuns (execSiteRewetDone site bad s) := by
  unfold execSiteRewetDone
  repeat' first
    | with_reducible exact OutRuns.next _ | with_reducible refine OutRuns.ite ?_ ?_
    | ((try lift_lets); intro x; (try clear_value x)) | split | dsimp only

theorem execMirrorWrite_runs (seq : Nat) (s : State) : OutRuns (execMirrorWrite seq s) := by
  unfold execMirrorWrite
  repeat' first
    | with_reducible exact OutRuns.next _ | with_reducible refine OutRuns.ite ?_ ?_
    | ((try lift_lets); intro x; (try clear_value x)) | split | dsimp only

theorem execCisRead_runs (id : Nat) (s : State) : OutRuns (execCisRead id s) := by
  unfold execCisRead
  repeat' first
    | with_reducible exact OutRuns.next _ | with_reducible refine OutRuns.ite ?_ ?_
    | ((try lift_lets); intro x; (try clear_value x)) | split | dsimp only

theorem execCisClear_runs (id : Nat) (s : State) : OutRuns (execCisClear id s) := by
  unfold execCisClear
  repeat' first
    | with_reducible exact OutRuns.next _ | with_reducible refine OutRuns.ite ?_ ?_
    | ((try lift_lets); intro x; (try clear_value x)) | split | dsimp only

theorem execRstCluster_runs (id : Nat) (s : State) : OutRuns (execRstCluster id s) := by
  unfold execRstCluster
  repeat' first
    | with_reducible exact OutRuns.next _ | with_reducible refine OutRuns.ite ?_ ?_
    | ((try lift_lets); intro x; (try clear_value x)) | split | dsimp only

theorem execRstSaggar_runs (id : Nat) (s : State) : OutRuns (execRstSaggar id s) := by
  unfold execRstSaggar
  repeat' first
    | with_reducible exact OutRuns.next _ | with_reducible refine OutRuns.ite ?_ ?_
    | ((try lift_lets); intro x; (try clear_value x)) | split | dsimp only

theorem execRstDie_runs (id : Nat) (s : State) : OutRuns (execRstDie id s) := by
  unfold execRstDie
  repeat' first
    | with_reducible exact OutRuns.next _ | with_reducible refine OutRuns.ite ?_ ?_
    | ((try lift_lets); intro x; (try clear_value x)) | split | dsimp only

theorem execRstStack_runs (id : Nat) (env : BringupEnv) (s : State) : OutRuns (execRstStack id env s) := by
  unfold execRstStack
  repeat' first
    | with_reducible exact OutRuns.next _ | with_reducible refine OutRuns.ite ?_ ?_
    | ((try lift_lets); intro x; (try clear_value x)) | split | dsimp only

theorem execRstPackage_runs (id : Nat) (s : State) : OutRuns (execRstPackage id s) := by
  unfold execRstPackage
  repeat' first
    | with_reducible exact OutRuns.next _ | with_reducible refine OutRuns.ite ?_ ?_
    | ((try lift_lets); intro x; (try clear_value x)) | split | dsimp only

theorem execFwStage_runs (id : Nat) (s : State) : OutRuns (execFwStage id s) := by
  unfold execFwStage
  repeat' first
    | with_reducible exact OutRuns.next _ | with_reducible refine OutRuns.ite ?_ ?_
    | ((try lift_lets); intro x; (try clear_value x)) | split | dsimp only

theorem execFwActivate_runs (id : Nat) (s : State) : OutRuns (execFwActivate id s) := by
  unfold execFwActivate
  repeat' first
    | with_reducible exact OutRuns.next _ | with_reducible refine OutRuns.ite ?_ ?_
    | ((try lift_lets); intro x; (try clear_value x)) | split | dsimp only

theorem execFwRoleHandover_runs (role controller : Nat) (s : State) : OutRuns (execFwRoleHandover role controller s) := by
  unfold execFwRoleHandover
  repeat' first
    | with_reducible exact OutRuns.next _ | with_reducible refine OutRuns.ite ?_ ?_
    | ((try lift_lets); intro x; (try clear_value x)) | split | dsimp only

theorem execFwActivationConfirm_runs (s : State) : OutRuns (execFwActivationConfirm s) := by
  unfold execFwActivationConfirm
  repeat' first
    | with_reducible exact OutRuns.next _ | with_reducible refine OutRuns.ite ?_ ?_
    | ((try lift_lets); intro x; (try clear_value x)) | split | dsimp only

theorem execRuntimeActivationStart_runs (id : Nat) (bad : List Nat) (s : State) : OutRuns (execRuntimeActivationStart id bad s) := by
  unfold execRuntimeActivationStart
  repeat' first
    | with_reducible exact OutRuns.next _ | with_reducible refine OutRuns.ite ?_ ?_
    | ((try lift_lets); intro x; (try clear_value x)) | split | dsimp only

theorem execRuntimeActivationTimeout_runs (id : Nat) (s : State) : OutRuns (execRuntimeActivationTimeout id s) := by
  unfold execRuntimeActivationTimeout
  repeat' first
    | with_reducible exact OutRuns.next _ | with_reducible refine OutRuns.ite ?_ ?_
    | ((try lift_lets); intro x; (try clear_value x)) | split | dsimp only

theorem execControllerHeartbeatMiss_runs (role : Nat) (s : State) : OutRuns (execControllerHeartbeatMiss role s) := by
  unfold execControllerHeartbeatMiss
  repeat' first
    | with_reducible exact OutRuns.next _ | with_reducible refine OutRuns.ite ?_ ?_
    | ((try lift_lets); intro x; (try clear_value x)) | split | dsimp only

theorem execGlazeSet_runs (id : Nat) (s : State) : OutRuns (execGlazeSet id s) := by
  unfold execGlazeSet
  repeat' first
    | with_reducible exact OutRuns.next _ | with_reducible refine OutRuns.ite ?_ ?_
    | ((try lift_lets); intro x; (try clear_value x)) | split | dsimp only

theorem execGlazeRead_runs (id : Nat) (s : State) : OutRuns (execGlazeRead id s) := by
  unfold execGlazeRead
  repeat' first
    | with_reducible exact OutRuns.next _ | with_reducible refine OutRuns.ite ?_ ?_
    | ((try lift_lets); intro x; (try clear_value x)) | split | dsimp only

theorem execTwinDrain_runs (id : Nat) (s : State) : OutRuns (execTwinDrain id s) := by
  unfold execTwinDrain
  repeat' first
    | with_reducible exact OutRuns.next _ | with_reducible refine OutRuns.ite ?_ ?_
    | ((try lift_lets); intro x; (try clear_value x)) | split | dsimp only

theorem execDrainComplete_runs (id : Nat) (s : State) : OutRuns (execDrainComplete id s) := by
  unfold execDrainComplete
  repeat' first
    | with_reducible exact OutRuns.next _ | with_reducible refine OutRuns.ite ?_ ?_
    | ((try lift_lets); intro x; (try clear_value x)) | split | dsimp only

theorem execTwinRejoin_runs (id : Nat) (s : State) : OutRuns (execTwinRejoin id s) := by
  unfold execTwinRejoin
  repeat' first
    | with_reducible exact OutRuns.next _ | with_reducible refine OutRuns.ite ?_ ?_
    | ((try lift_lets); intro x; (try clear_value x)) | split | dsimp only

theorem execSecQuote_runs (id : Nat) (s : State) : OutRuns (execSecQuote id s) := by
  unfold execSecQuote
  repeat' first
    | with_reducible exact OutRuns.next _ | with_reducible refine OutRuns.ite ?_ ?_
    | ((try lift_lets); intro x; (try clear_value x)) | split | dsimp only

theorem execSecCertRead_runs (id : Nat) (s : State) : OutRuns (execSecCertRead id s) := by
  unfold execSecCertRead
  repeat' first
    | with_reducible exact OutRuns.next _ | with_reducible refine OutRuns.ite ?_ ?_
    | ((try lift_lets); intro x; (try clear_value x)) | split | dsimp only

theorem execSecExtend_runs (id : Nat) (s : State) : OutRuns (execSecExtend id s) := by
  unfold execSecExtend
  repeat' first
    | with_reducible exact OutRuns.next _ | with_reducible refine OutRuns.ite ?_ ?_
    | ((try lift_lets); intro x; (try clear_value x)) | split | dsimp only

theorem execSecWrapOpen_runs (id : Nat) (s : State) : OutRuns (execSecWrapOpen id s) := by
  unfold execSecWrapOpen
  repeat' first
    | with_reducible exact OutRuns.next _ | with_reducible refine OutRuns.ite ?_ ?_
    | ((try lift_lets); intro x; (try clear_value x)) | split | dsimp only

theorem execSecKeySet_runs (id : Nat) (s : State) : OutRuns (execSecKeySet id s) := by
  unfold execSecKeySet
  repeat' first
    | with_reducible exact OutRuns.next _ | with_reducible refine OutRuns.ite ?_ ?_
    | ((try lift_lets); intro x; (try clear_value x)) | split | dsimp only

theorem execSecRekeyPrepare_runs (id : Nat) (s : State) : OutRuns (execSecRekeyPrepare id s) := by
  unfold execSecRekeyPrepare
  repeat' first
    | with_reducible exact OutRuns.next _ | with_reducible refine OutRuns.ite ?_ ?_
    | ((try lift_lets); intro x; (try clear_value x)) | split | dsimp only

theorem execKeyGraceExpiry_runs (saggar pos : Nat) (s : State) : OutRuns (execKeyGraceExpiry saggar pos s) := by
  unfold execKeyGraceExpiry
  repeat' first
    | with_reducible exact OutRuns.next _ | with_reducible refine OutRuns.ite ?_ ?_
    | ((try lift_lets); intro x; (try clear_value x)) | split | dsimp only

theorem execLaserInputRestored_runs (port echoNs : Nat) (s : State) : OutRuns (execLaserInputRestored port echoNs s) := by
  unfold execLaserInputRestored
  repeat' first
    | with_reducible exact OutRuns.next _ | with_reducible refine OutRuns.ite ?_ ?_
    | ((try lift_lets); intro x; (try clear_value x)) | split | dsimp only

theorem execCoolantOorClear_runs (s : State) : OutRuns (execCoolantOorClear s) := by
  unfold execCoolantOorClear
  repeat' first
    | with_reducible exact OutRuns.next _ | with_reducible refine OutRuns.ite ?_ ?_
    | ((try lift_lets); intro x; (try clear_value x)) | split | dsimp only

theorem execHeatMismatchClear_runs (s : State) : OutRuns (execHeatMismatchClear s) := by
  unfold execHeatMismatchClear
  repeat' first
    | with_reducible exact OutRuns.next _ | with_reducible refine OutRuns.ite ?_ ?_
    | ((try lift_lets); intro x; (try clear_value x)) | split | dsimp only

theorem execMgmtLinkUpChange_runs (up : Bool) (s : State) : OutRuns (execMgmtLinkUpChange up s) := by
  unfold execMgmtLinkUpChange
  repeat' first
    | with_reducible exact OutRuns.next _ | with_reducible refine OutRuns.ite ?_ ?_
    | ((try lift_lets); intro x; (try clear_value x)) | split | dsimp only

end Sys2Proof.Machine
end

