-- ==== Sys2Proof/Laws/State.lean ====
section
/-! SUPPORT. What each accessor that writes one piece of the state leaves alone, one lemma per field per update, and what
reading that piece then gives. -/
namespace Sys2Proof.Machine
namespace State

section setSite
variable (s : State) (i : Nat) (v : Site)
@[simp] theorem setSite_pending : (s.setSite i v).pending = s.pending := rfl
@[simp] theorem setSite_nowUs : (s.setSite i v).nowUs = s.nowUs := rfl
@[simp] theorem setSite_free : (s.setSite i v).free = s.free := rfl
@[simp] theorem setSite_pkg : (s.setSite i v).pkg = s.pkg := rfl
@[simp] theorem setSite_cores : (s.setSite i v).cores = s.cores := rfl
@[simp] theorem setSite_clusters : (s.setSite i v).clusters = s.clusters := rfl
@[simp] theorem setSite_outq : (s.setSite i v).outq = s.outq := rfl
@[simp] theorem setSite_net : (s.setSite i v).net = s.net := rfl
@[simp] theorem setSite_remaps : (s.setSite i v).remaps = s.remaps := rfl
@[simp] theorem setSite_rill : (s.setSite i v).rill = s.rill := rfl
@[simp] theorem setSite_heard : (s.setSite i v).heard = s.heard := rfl
@[simp] theorem setSite_bcasts : (s.setSite i v).bcasts = s.bcasts := rfl
@[simp] theorem setSite_mem : (s.setSite i v).mem = s.mem := rfl
@[simp] theorem setSite_poison : (s.setSite i v).poison = s.poison := rfl
@[simp] theorem setSite_latentCe : (s.setSite i v).latentCe = s.latentCe := rfl
@[simp] theorem setSite_latentUe : (s.setSite i v).latentUe = s.latentUe := rfl
@[simp] theorem setSite_stale : (s.setSite i v).stale = s.stale := rfl
@[simp] theorem setSite_unseen : (s.setSite i v).unseen = s.unseen := rfl
@[simp] theorem setSite_unsent : (s.setSite i v).unsent = s.unsent := rfl
@[simp] theorem setSite_owners : (s.setSite i v).owners = s.owners := rfl
@[simp] theorem setSite_filling : (s.setSite i v).filling = s.filling := rfl
@[simp] theorem setSite_sluices : (s.setSite i v).sluices = s.sluices := rfl
@[simp] theorem setSite_nbs : (s.setSite i v).nbs = s.nbs := rfl
@[simp] theorem setSite_kvs : (s.setSite i v).kvs = s.kvs := rfl
@[simp] theorem setSite_gatesSeen : (s.setSite i v).gatesSeen = s.gatesSeen := rfl
@[simp] theorem setSite_rings : (s.setSite i v).rings = s.rings := rfl
@[simp] theorem setSite_cmds : (s.setSite i v).cmds = s.cmds := rfl
@[simp] theorem setSite_compls : (s.setSite i v).compls = s.compls := rfl
@[simp] theorem setSite_txns : (s.setSite i v).txns = s.txns := rfl
@[simp] theorem setSite_commits : (s.setSite i v).commits = s.commits := rfl
@[simp] theorem setSite_changed : (s.setSite i v).changed = s.changed := rfl
@[simp] theorem setSite_saggars : (s.setSite i v).saggars = s.saggars := rfl
@[simp] theorem setSite_jobs : (s.setSite i v).jobs = s.jobs := rfl
@[simp] theorem setSite_launches : (s.setSite i v).launches = s.launches := rfl
@[simp] theorem setSite_host : (s.setSite i v).host = s.host := rfl
@[simp] theorem setSite_ports : (s.setSite i v).ports = s.ports := rfl
@[simp] theorem setSite_fab : (s.setSite i v).fab = s.fab := rfl
@[simp] theorem setSite_power : (s.setSite i v).power = s.power := rfl
@[simp] theorem setSite_domains : (s.setSite i v).domains = s.domains := rfl
@[simp] theorem setSite_thermal : (s.setSite i v).thermal = s.thermal := rfl
@[simp] theorem setSite_rel : (s.setSite i v).rel = s.rel := rfl
@[simp] theorem setSite_fw : (s.setSite i v).fw = s.fw := rfl
@[simp] theorem setSite_sec : (s.setSite i v).sec = s.sec := rfl
end setSite

section setCore
variable (s : State) (i : Nat) (v : Core)
@[simp] theorem setCore_pending : (s.setCore i v).pending = s.pending := rfl
@[simp] theorem setCore_nowUs : (s.setCore i v).nowUs = s.nowUs := rfl
@[simp] theorem setCore_free : (s.setCore i v).free = s.free := rfl
@[simp] theorem setCore_pkg : (s.setCore i v).pkg = s.pkg := rfl
@[simp] theorem setCore_sites : (s.setCore i v).sites = s.sites := rfl
@[simp] theorem setCore_clusters : (s.setCore i v).clusters = s.clusters := rfl
@[simp] theorem setCore_outq : (s.setCore i v).outq = s.outq := rfl
@[simp] theorem setCore_net : (s.setCore i v).net = s.net := rfl
@[simp] theorem setCore_remaps : (s.setCore i v).remaps = s.remaps := rfl
@[simp] theorem setCore_rill : (s.setCore i v).rill = s.rill := rfl
@[simp] theorem setCore_heard : (s.setCore i v).heard = s.heard := rfl
@[simp] theorem setCore_bcasts : (s.setCore i v).bcasts = s.bcasts := rfl
@[simp] theorem setCore_mem : (s.setCore i v).mem = s.mem := rfl
@[simp] theorem setCore_poison : (s.setCore i v).poison = s.poison := rfl
@[simp] theorem setCore_latentCe : (s.setCore i v).latentCe = s.latentCe := rfl
@[simp] theorem setCore_latentUe : (s.setCore i v).latentUe = s.latentUe := rfl
@[simp] theorem setCore_stale : (s.setCore i v).stale = s.stale := rfl
@[simp] theorem setCore_unseen : (s.setCore i v).unseen = s.unseen := rfl
@[simp] theorem setCore_unsent : (s.setCore i v).unsent = s.unsent := rfl
@[simp] theorem setCore_owners : (s.setCore i v).owners = s.owners := rfl
@[simp] theorem setCore_filling : (s.setCore i v).filling = s.filling := rfl
@[simp] theorem setCore_sluices : (s.setCore i v).sluices = s.sluices := rfl
@[simp] theorem setCore_nbs : (s.setCore i v).nbs = s.nbs := rfl
@[simp] theorem setCore_kvs : (s.setCore i v).kvs = s.kvs := rfl
@[simp] theorem setCore_gatesSeen : (s.setCore i v).gatesSeen = s.gatesSeen := rfl
@[simp] theorem setCore_rings : (s.setCore i v).rings = s.rings := rfl
@[simp] theorem setCore_cmds : (s.setCore i v).cmds = s.cmds := rfl
@[simp] theorem setCore_compls : (s.setCore i v).compls = s.compls := rfl
@[simp] theorem setCore_txns : (s.setCore i v).txns = s.txns := rfl
@[simp] theorem setCore_commits : (s.setCore i v).commits = s.commits := rfl
@[simp] theorem setCore_changed : (s.setCore i v).changed = s.changed := rfl
@[simp] theorem setCore_saggars : (s.setCore i v).saggars = s.saggars := rfl
@[simp] theorem setCore_jobs : (s.setCore i v).jobs = s.jobs := rfl
@[simp] theorem setCore_launches : (s.setCore i v).launches = s.launches := rfl
@[simp] theorem setCore_host : (s.setCore i v).host = s.host := rfl
@[simp] theorem setCore_ports : (s.setCore i v).ports = s.ports := rfl
@[simp] theorem setCore_fab : (s.setCore i v).fab = s.fab := rfl
@[simp] theorem setCore_power : (s.setCore i v).power = s.power := rfl
@[simp] theorem setCore_domains : (s.setCore i v).domains = s.domains := rfl
@[simp] theorem setCore_thermal : (s.setCore i v).thermal = s.thermal := rfl
@[simp] theorem setCore_rel : (s.setCore i v).rel = s.rel := rfl
@[simp] theorem setCore_fw : (s.setCore i v).fw = s.fw := rfl
@[simp] theorem setCore_sec : (s.setCore i v).sec = s.sec := rfl
end setCore

section setCluster
variable (s : State) (i : Nat) (v : Cluster)
@[simp] theorem setCluster_pending : (s.setCluster i v).pending = s.pending := rfl
@[simp] theorem setCluster_nowUs : (s.setCluster i v).nowUs = s.nowUs := rfl
@[simp] theorem setCluster_free : (s.setCluster i v).free = s.free := rfl
@[simp] theorem setCluster_pkg : (s.setCluster i v).pkg = s.pkg := rfl
@[simp] theorem setCluster_sites : (s.setCluster i v).sites = s.sites := rfl
@[simp] theorem setCluster_cores : (s.setCluster i v).cores = s.cores := rfl
@[simp] theorem setCluster_outq : (s.setCluster i v).outq = s.outq := rfl
@[simp] theorem setCluster_net : (s.setCluster i v).net = s.net := rfl
@[simp] theorem setCluster_remaps : (s.setCluster i v).remaps = s.remaps := rfl
@[simp] theorem setCluster_rill : (s.setCluster i v).rill = s.rill := rfl
@[simp] theorem setCluster_heard : (s.setCluster i v).heard = s.heard := rfl
@[simp] theorem setCluster_bcasts : (s.setCluster i v).bcasts = s.bcasts := rfl
@[simp] theorem setCluster_mem : (s.setCluster i v).mem = s.mem := rfl
@[simp] theorem setCluster_poison : (s.setCluster i v).poison = s.poison := rfl
@[simp] theorem setCluster_latentCe : (s.setCluster i v).latentCe = s.latentCe := rfl
@[simp] theorem setCluster_latentUe : (s.setCluster i v).latentUe = s.latentUe := rfl
@[simp] theorem setCluster_stale : (s.setCluster i v).stale = s.stale := rfl
@[simp] theorem setCluster_unseen : (s.setCluster i v).unseen = s.unseen := rfl
@[simp] theorem setCluster_unsent : (s.setCluster i v).unsent = s.unsent := rfl
@[simp] theorem setCluster_owners : (s.setCluster i v).owners = s.owners := rfl
@[simp] theorem setCluster_filling : (s.setCluster i v).filling = s.filling := rfl
@[simp] theorem setCluster_sluices : (s.setCluster i v).sluices = s.sluices := rfl
@[simp] theorem setCluster_nbs : (s.setCluster i v).nbs = s.nbs := rfl
@[simp] theorem setCluster_kvs : (s.setCluster i v).kvs = s.kvs := rfl
@[simp] theorem setCluster_gatesSeen : (s.setCluster i v).gatesSeen = s.gatesSeen := rfl
@[simp] theorem setCluster_rings : (s.setCluster i v).rings = s.rings := rfl
@[simp] theorem setCluster_cmds : (s.setCluster i v).cmds = s.cmds := rfl
@[simp] theorem setCluster_compls : (s.setCluster i v).compls = s.compls := rfl
@[simp] theorem setCluster_txns : (s.setCluster i v).txns = s.txns := rfl
@[simp] theorem setCluster_commits : (s.setCluster i v).commits = s.commits := rfl
@[simp] theorem setCluster_changed : (s.setCluster i v).changed = s.changed := rfl
@[simp] theorem setCluster_saggars : (s.setCluster i v).saggars = s.saggars := rfl
@[simp] theorem setCluster_jobs : (s.setCluster i v).jobs = s.jobs := rfl
@[simp] theorem setCluster_launches : (s.setCluster i v).launches = s.launches := rfl
@[simp] theorem setCluster_host : (s.setCluster i v).host = s.host := rfl
@[simp] theorem setCluster_ports : (s.setCluster i v).ports = s.ports := rfl
@[simp] theorem setCluster_fab : (s.setCluster i v).fab = s.fab := rfl
@[simp] theorem setCluster_power : (s.setCluster i v).power = s.power := rfl
@[simp] theorem setCluster_domains : (s.setCluster i v).domains = s.domains := rfl
@[simp] theorem setCluster_thermal : (s.setCluster i v).thermal = s.thermal := rfl
@[simp] theorem setCluster_rel : (s.setCluster i v).rel = s.rel := rfl
@[simp] theorem setCluster_fw : (s.setCluster i v).fw = s.fw := rfl
@[simp] theorem setCluster_sec : (s.setCluster i v).sec = s.sec := rfl
end setCluster

section setOwner
variable (s : State) (i : Nat) (v : Owner)
@[simp] theorem setOwner_pending : (s.setOwner i v).pending = s.pending := rfl
@[simp] theorem setOwner_nowUs : (s.setOwner i v).nowUs = s.nowUs := rfl
@[simp] theorem setOwner_free : (s.setOwner i v).free = s.free := rfl
@[simp] theorem setOwner_pkg : (s.setOwner i v).pkg = s.pkg := rfl
@[simp] theorem setOwner_sites : (s.setOwner i v).sites = s.sites := rfl
@[simp] theorem setOwner_cores : (s.setOwner i v).cores = s.cores := rfl
@[simp] theorem setOwner_clusters : (s.setOwner i v).clusters = s.clusters := rfl
@[simp] theorem setOwner_outq : (s.setOwner i v).outq = s.outq := rfl
@[simp] theorem setOwner_net : (s.setOwner i v).net = s.net := rfl
@[simp] theorem setOwner_remaps : (s.setOwner i v).remaps = s.remaps := rfl
@[simp] theorem setOwner_rill : (s.setOwner i v).rill = s.rill := rfl
@[simp] theorem setOwner_heard : (s.setOwner i v).heard = s.heard := rfl
@[simp] theorem setOwner_bcasts : (s.setOwner i v).bcasts = s.bcasts := rfl
@[simp] theorem setOwner_mem : (s.setOwner i v).mem = s.mem := rfl
@[simp] theorem setOwner_poison : (s.setOwner i v).poison = s.poison := rfl
@[simp] theorem setOwner_latentCe : (s.setOwner i v).latentCe = s.latentCe := rfl
@[simp] theorem setOwner_latentUe : (s.setOwner i v).latentUe = s.latentUe := rfl
@[simp] theorem setOwner_stale : (s.setOwner i v).stale = s.stale := rfl
@[simp] theorem setOwner_unseen : (s.setOwner i v).unseen = s.unseen := rfl
@[simp] theorem setOwner_unsent : (s.setOwner i v).unsent = s.unsent := rfl
@[simp] theorem setOwner_filling : (s.setOwner i v).filling = s.filling := rfl
@[simp] theorem setOwner_sluices : (s.setOwner i v).sluices = s.sluices := rfl
@[simp] theorem setOwner_nbs : (s.setOwner i v).nbs = s.nbs := rfl
@[simp] theorem setOwner_kvs : (s.setOwner i v).kvs = s.kvs := rfl
@[simp] theorem setOwner_gatesSeen : (s.setOwner i v).gatesSeen = s.gatesSeen := rfl
@[simp] theorem setOwner_rings : (s.setOwner i v).rings = s.rings := rfl
@[simp] theorem setOwner_cmds : (s.setOwner i v).cmds = s.cmds := rfl
@[simp] theorem setOwner_compls : (s.setOwner i v).compls = s.compls := rfl
@[simp] theorem setOwner_txns : (s.setOwner i v).txns = s.txns := rfl
@[simp] theorem setOwner_commits : (s.setOwner i v).commits = s.commits := rfl
@[simp] theorem setOwner_changed : (s.setOwner i v).changed = s.changed := rfl
@[simp] theorem setOwner_saggars : (s.setOwner i v).saggars = s.saggars := rfl
@[simp] theorem setOwner_jobs : (s.setOwner i v).jobs = s.jobs := rfl
@[simp] theorem setOwner_launches : (s.setOwner i v).launches = s.launches := rfl
@[simp] theorem setOwner_host : (s.setOwner i v).host = s.host := rfl
@[simp] theorem setOwner_ports : (s.setOwner i v).ports = s.ports := rfl
@[simp] theorem setOwner_fab : (s.setOwner i v).fab = s.fab := rfl
@[simp] theorem setOwner_power : (s.setOwner i v).power = s.power := rfl
@[simp] theorem setOwner_domains : (s.setOwner i v).domains = s.domains := rfl
@[simp] theorem setOwner_thermal : (s.setOwner i v).thermal = s.thermal := rfl
@[simp] theorem setOwner_rel : (s.setOwner i v).rel = s.rel := rfl
@[simp] theorem setOwner_fw : (s.setOwner i v).fw = s.fw := rfl
@[simp] theorem setOwner_sec : (s.setOwner i v).sec = s.sec := rfl
end setOwner

section setSluice
variable (s : State) (i : Nat) (v : Sluice)
@[simp] theorem setSluice_pending : (s.setSluice i v).pending = s.pending := rfl
@[simp] theorem setSluice_nowUs : (s.setSluice i v).nowUs = s.nowUs := rfl
@[simp] theorem setSluice_free : (s.setSluice i v).free = s.free := rfl
@[simp] theorem setSluice_pkg : (s.setSluice i v).pkg = s.pkg := rfl
@[simp] theorem setSluice_sites : (s.setSluice i v).sites = s.sites := rfl
@[simp] theorem setSluice_cores : (s.setSluice i v).cores = s.cores := rfl
@[simp] theorem setSluice_clusters : (s.setSluice i v).clusters = s.clusters := rfl
@[simp] theorem setSluice_outq : (s.setSluice i v).outq = s.outq := rfl
@[simp] theorem setSluice_net : (s.setSluice i v).net = s.net := rfl
@[simp] theorem setSluice_remaps : (s.setSluice i v).remaps = s.remaps := rfl
@[simp] theorem setSluice_rill : (s.setSluice i v).rill = s.rill := rfl
@[simp] theorem setSluice_heard : (s.setSluice i v).heard = s.heard := rfl
@[simp] theorem setSluice_bcasts : (s.setSluice i v).bcasts = s.bcasts := rfl
@[simp] theorem setSluice_mem : (s.setSluice i v).mem = s.mem := rfl
@[simp] theorem setSluice_poison : (s.setSluice i v).poison = s.poison := rfl
@[simp] theorem setSluice_latentCe : (s.setSluice i v).latentCe = s.latentCe := rfl
@[simp] theorem setSluice_latentUe : (s.setSluice i v).latentUe = s.latentUe := rfl
@[simp] theorem setSluice_stale : (s.setSluice i v).stale = s.stale := rfl
@[simp] theorem setSluice_unseen : (s.setSluice i v).unseen = s.unseen := rfl
@[simp] theorem setSluice_unsent : (s.setSluice i v).unsent = s.unsent := rfl
@[simp] theorem setSluice_owners : (s.setSluice i v).owners = s.owners := rfl
@[simp] theorem setSluice_filling : (s.setSluice i v).filling = s.filling := rfl
@[simp] theorem setSluice_nbs : (s.setSluice i v).nbs = s.nbs := rfl
@[simp] theorem setSluice_kvs : (s.setSluice i v).kvs = s.kvs := rfl
@[simp] theorem setSluice_gatesSeen : (s.setSluice i v).gatesSeen = s.gatesSeen := rfl
@[simp] theorem setSluice_rings : (s.setSluice i v).rings = s.rings := rfl
@[simp] theorem setSluice_cmds : (s.setSluice i v).cmds = s.cmds := rfl
@[simp] theorem setSluice_compls : (s.setSluice i v).compls = s.compls := rfl
@[simp] theorem setSluice_txns : (s.setSluice i v).txns = s.txns := rfl
@[simp] theorem setSluice_commits : (s.setSluice i v).commits = s.commits := rfl
@[simp] theorem setSluice_changed : (s.setSluice i v).changed = s.changed := rfl
@[simp] theorem setSluice_saggars : (s.setSluice i v).saggars = s.saggars := rfl
@[simp] theorem setSluice_jobs : (s.setSluice i v).jobs = s.jobs := rfl
@[simp] theorem setSluice_launches : (s.setSluice i v).launches = s.launches := rfl
@[simp] theorem setSluice_host : (s.setSluice i v).host = s.host := rfl
@[simp] theorem setSluice_ports : (s.setSluice i v).ports = s.ports := rfl
@[simp] theorem setSluice_fab : (s.setSluice i v).fab = s.fab := rfl
@[simp] theorem setSluice_power : (s.setSluice i v).power = s.power := rfl
@[simp] theorem setSluice_domains : (s.setSluice i v).domains = s.domains := rfl
@[simp] theorem setSluice_thermal : (s.setSluice i v).thermal = s.thermal := rfl
@[simp] theorem setSluice_rel : (s.setSluice i v).rel = s.rel := rfl
@[simp] theorem setSluice_fw : (s.setSluice i v).fw = s.fw := rfl
@[simp] theorem setSluice_sec : (s.setSluice i v).sec = s.sec := rfl
end setSluice

section setNb
variable (s : State) (i : Nat) (v : Nb)
@[simp] theorem setNb_pending : (s.setNb i v).pending = s.pending := rfl
@[simp] theorem setNb_nowUs : (s.setNb i v).nowUs = s.nowUs := rfl
@[simp] theorem setNb_free : (s.setNb i v).free = s.free := rfl
@[simp] theorem setNb_pkg : (s.setNb i v).pkg = s.pkg := rfl
@[simp] theorem setNb_sites : (s.setNb i v).sites = s.sites := rfl
@[simp] theorem setNb_cores : (s.setNb i v).cores = s.cores := rfl
@[simp] theorem setNb_clusters : (s.setNb i v).clusters = s.clusters := rfl
@[simp] theorem setNb_outq : (s.setNb i v).outq = s.outq := rfl
@[simp] theorem setNb_net : (s.setNb i v).net = s.net := rfl
@[simp] theorem setNb_remaps : (s.setNb i v).remaps = s.remaps := rfl
@[simp] theorem setNb_rill : (s.setNb i v).rill = s.rill := rfl
@[simp] theorem setNb_heard : (s.setNb i v).heard = s.heard := rfl
@[simp] theorem setNb_bcasts : (s.setNb i v).bcasts = s.bcasts := rfl
@[simp] theorem setNb_mem : (s.setNb i v).mem = s.mem := rfl
@[simp] theorem setNb_poison : (s.setNb i v).poison = s.poison := rfl
@[simp] theorem setNb_latentCe : (s.setNb i v).latentCe = s.latentCe := rfl
@[simp] theorem setNb_latentUe : (s.setNb i v).latentUe = s.latentUe := rfl
@[simp] theorem setNb_stale : (s.setNb i v).stale = s.stale := rfl
@[simp] theorem setNb_unseen : (s.setNb i v).unseen = s.unseen := rfl
@[simp] theorem setNb_unsent : (s.setNb i v).unsent = s.unsent := rfl
@[simp] theorem setNb_owners : (s.setNb i v).owners = s.owners := rfl
@[simp] theorem setNb_filling : (s.setNb i v).filling = s.filling := rfl
@[simp] theorem setNb_sluices : (s.setNb i v).sluices = s.sluices := rfl
@[simp] theorem setNb_kvs : (s.setNb i v).kvs = s.kvs := rfl
@[simp] theorem setNb_gatesSeen : (s.setNb i v).gatesSeen = s.gatesSeen := rfl
@[simp] theorem setNb_rings : (s.setNb i v).rings = s.rings := rfl
@[simp] theorem setNb_cmds : (s.setNb i v).cmds = s.cmds := rfl
@[simp] theorem setNb_compls : (s.setNb i v).compls = s.compls := rfl
@[simp] theorem setNb_txns : (s.setNb i v).txns = s.txns := rfl
@[simp] theorem setNb_commits : (s.setNb i v).commits = s.commits := rfl
@[simp] theorem setNb_changed : (s.setNb i v).changed = s.changed := rfl
@[simp] theorem setNb_saggars : (s.setNb i v).saggars = s.saggars := rfl
@[simp] theorem setNb_jobs : (s.setNb i v).jobs = s.jobs := rfl
@[simp] theorem setNb_launches : (s.setNb i v).launches = s.launches := rfl
@[simp] theorem setNb_host : (s.setNb i v).host = s.host := rfl
@[simp] theorem setNb_ports : (s.setNb i v).ports = s.ports := rfl
@[simp] theorem setNb_fab : (s.setNb i v).fab = s.fab := rfl
@[simp] theorem setNb_power : (s.setNb i v).power = s.power := rfl
@[simp] theorem setNb_domains : (s.setNb i v).domains = s.domains := rfl
@[simp] theorem setNb_thermal : (s.setNb i v).thermal = s.thermal := rfl
@[simp] theorem setNb_rel : (s.setNb i v).rel = s.rel := rfl
@[simp] theorem setNb_fw : (s.setNb i v).fw = s.fw := rfl
@[simp] theorem setNb_sec : (s.setNb i v).sec = s.sec := rfl
end setNb

section setRing
variable (s : State) (i : Nat) (v : Ring)
@[simp] theorem setRing_pending : (s.setRing i v).pending = s.pending := rfl
@[simp] theorem setRing_nowUs : (s.setRing i v).nowUs = s.nowUs := rfl
@[simp] theorem setRing_free : (s.setRing i v).free = s.free := rfl
@[simp] theorem setRing_pkg : (s.setRing i v).pkg = s.pkg := rfl
@[simp] theorem setRing_sites : (s.setRing i v).sites = s.sites := rfl
@[simp] theorem setRing_cores : (s.setRing i v).cores = s.cores := rfl
@[simp] theorem setRing_clusters : (s.setRing i v).clusters = s.clusters := rfl
@[simp] theorem setRing_outq : (s.setRing i v).outq = s.outq := rfl
@[simp] theorem setRing_net : (s.setRing i v).net = s.net := rfl
@[simp] theorem setRing_remaps : (s.setRing i v).remaps = s.remaps := rfl
@[simp] theorem setRing_rill : (s.setRing i v).rill = s.rill := rfl
@[simp] theorem setRing_heard : (s.setRing i v).heard = s.heard := rfl
@[simp] theorem setRing_bcasts : (s.setRing i v).bcasts = s.bcasts := rfl
@[simp] theorem setRing_mem : (s.setRing i v).mem = s.mem := rfl
@[simp] theorem setRing_poison : (s.setRing i v).poison = s.poison := rfl
@[simp] theorem setRing_latentCe : (s.setRing i v).latentCe = s.latentCe := rfl
@[simp] theorem setRing_latentUe : (s.setRing i v).latentUe = s.latentUe := rfl
@[simp] theorem setRing_stale : (s.setRing i v).stale = s.stale := rfl
@[simp] theorem setRing_unseen : (s.setRing i v).unseen = s.unseen := rfl
@[simp] theorem setRing_unsent : (s.setRing i v).unsent = s.unsent := rfl
@[simp] theorem setRing_owners : (s.setRing i v).owners = s.owners := rfl
@[simp] theorem setRing_filling : (s.setRing i v).filling = s.filling := rfl
@[simp] theorem setRing_sluices : (s.setRing i v).sluices = s.sluices := rfl
@[simp] theorem setRing_nbs : (s.setRing i v).nbs = s.nbs := rfl
@[simp] theorem setRing_kvs : (s.setRing i v).kvs = s.kvs := rfl
@[simp] theorem setRing_gatesSeen : (s.setRing i v).gatesSeen = s.gatesSeen := rfl
@[simp] theorem setRing_cmds : (s.setRing i v).cmds = s.cmds := rfl
@[simp] theorem setRing_compls : (s.setRing i v).compls = s.compls := rfl
@[simp] theorem setRing_txns : (s.setRing i v).txns = s.txns := rfl
@[simp] theorem setRing_commits : (s.setRing i v).commits = s.commits := rfl
@[simp] theorem setRing_changed : (s.setRing i v).changed = s.changed := rfl
@[simp] theorem setRing_saggars : (s.setRing i v).saggars = s.saggars := rfl
@[simp] theorem setRing_jobs : (s.setRing i v).jobs = s.jobs := rfl
@[simp] theorem setRing_launches : (s.setRing i v).launches = s.launches := rfl
@[simp] theorem setRing_host : (s.setRing i v).host = s.host := rfl
@[simp] theorem setRing_ports : (s.setRing i v).ports = s.ports := rfl
@[simp] theorem setRing_fab : (s.setRing i v).fab = s.fab := rfl
@[simp] theorem setRing_power : (s.setRing i v).power = s.power := rfl
@[simp] theorem setRing_domains : (s.setRing i v).domains = s.domains := rfl
@[simp] theorem setRing_thermal : (s.setRing i v).thermal = s.thermal := rfl
@[simp] theorem setRing_rel : (s.setRing i v).rel = s.rel := rfl
@[simp] theorem setRing_fw : (s.setRing i v).fw = s.fw := rfl
@[simp] theorem setRing_sec : (s.setRing i v).sec = s.sec := rfl
end setRing

section setSaggar
variable (s : State) (i : Nat) (v : Saggar)
@[simp] theorem setSaggar_pending : (s.setSaggar i v).pending = s.pending := rfl
@[simp] theorem setSaggar_nowUs : (s.setSaggar i v).nowUs = s.nowUs := rfl
@[simp] theorem setSaggar_free : (s.setSaggar i v).free = s.free := rfl
@[simp] theorem setSaggar_pkg : (s.setSaggar i v).pkg = s.pkg := rfl
@[simp] theorem setSaggar_sites : (s.setSaggar i v).sites = s.sites := rfl
@[simp] theorem setSaggar_cores : (s.setSaggar i v).cores = s.cores := rfl
@[simp] theorem setSaggar_clusters : (s.setSaggar i v).clusters = s.clusters := rfl
@[simp] theorem setSaggar_outq : (s.setSaggar i v).outq = s.outq := rfl
@[simp] theorem setSaggar_net : (s.setSaggar i v).net = s.net := rfl
@[simp] theorem setSaggar_remaps : (s.setSaggar i v).remaps = s.remaps := rfl
@[simp] theorem setSaggar_rill : (s.setSaggar i v).rill = s.rill := rfl
@[simp] theorem setSaggar_heard : (s.setSaggar i v).heard = s.heard := rfl
@[simp] theorem setSaggar_bcasts : (s.setSaggar i v).bcasts = s.bcasts := rfl
@[simp] theorem setSaggar_mem : (s.setSaggar i v).mem = s.mem := rfl
@[simp] theorem setSaggar_poison : (s.setSaggar i v).poison = s.poison := rfl
@[simp] theorem setSaggar_latentCe : (s.setSaggar i v).latentCe = s.latentCe := rfl
@[simp] theorem setSaggar_latentUe : (s.setSaggar i v).latentUe = s.latentUe := rfl
@[simp] theorem setSaggar_stale : (s.setSaggar i v).stale = s.stale := rfl
@[simp] theorem setSaggar_unseen : (s.setSaggar i v).unseen = s.unseen := rfl
@[simp] theorem setSaggar_unsent : (s.setSaggar i v).unsent = s.unsent := rfl
@[simp] theorem setSaggar_owners : (s.setSaggar i v).owners = s.owners := rfl
@[simp] theorem setSaggar_filling : (s.setSaggar i v).filling = s.filling := rfl
@[simp] theorem setSaggar_sluices : (s.setSaggar i v).sluices = s.sluices := rfl
@[simp] theorem setSaggar_nbs : (s.setSaggar i v).nbs = s.nbs := rfl
@[simp] theorem setSaggar_kvs : (s.setSaggar i v).kvs = s.kvs := rfl
@[simp] theorem setSaggar_gatesSeen : (s.setSaggar i v).gatesSeen = s.gatesSeen := rfl
@[simp] theorem setSaggar_rings : (s.setSaggar i v).rings = s.rings := rfl
@[simp] theorem setSaggar_cmds : (s.setSaggar i v).cmds = s.cmds := rfl
@[simp] theorem setSaggar_compls : (s.setSaggar i v).compls = s.compls := rfl
@[simp] theorem setSaggar_txns : (s.setSaggar i v).txns = s.txns := rfl
@[simp] theorem setSaggar_commits : (s.setSaggar i v).commits = s.commits := rfl
@[simp] theorem setSaggar_changed : (s.setSaggar i v).changed = s.changed := rfl
@[simp] theorem setSaggar_jobs : (s.setSaggar i v).jobs = s.jobs := rfl
@[simp] theorem setSaggar_launches : (s.setSaggar i v).launches = s.launches := rfl
@[simp] theorem setSaggar_host : (s.setSaggar i v).host = s.host := rfl
@[simp] theorem setSaggar_ports : (s.setSaggar i v).ports = s.ports := rfl
@[simp] theorem setSaggar_fab : (s.setSaggar i v).fab = s.fab := rfl
@[simp] theorem setSaggar_power : (s.setSaggar i v).power = s.power := rfl
@[simp] theorem setSaggar_domains : (s.setSaggar i v).domains = s.domains := rfl
@[simp] theorem setSaggar_thermal : (s.setSaggar i v).thermal = s.thermal := rfl
@[simp] theorem setSaggar_rel : (s.setSaggar i v).rel = s.rel := rfl
@[simp] theorem setSaggar_fw : (s.setSaggar i v).fw = s.fw := rfl
@[simp] theorem setSaggar_sec : (s.setSaggar i v).sec = s.sec := rfl
end setSaggar

section setPort
variable (s : State) (i : Nat) (v : Port)
@[simp] theorem setPort_pending : (s.setPort i v).pending = s.pending := rfl
@[simp] theorem setPort_nowUs : (s.setPort i v).nowUs = s.nowUs := rfl
@[simp] theorem setPort_free : (s.setPort i v).free = s.free := rfl
@[simp] theorem setPort_pkg : (s.setPort i v).pkg = s.pkg := rfl
@[simp] theorem setPort_sites : (s.setPort i v).sites = s.sites := rfl
@[simp] theorem setPort_cores : (s.setPort i v).cores = s.cores := rfl
@[simp] theorem setPort_clusters : (s.setPort i v).clusters = s.clusters := rfl
@[simp] theorem setPort_outq : (s.setPort i v).outq = s.outq := rfl
@[simp] theorem setPort_net : (s.setPort i v).net = s.net := rfl
@[simp] theorem setPort_remaps : (s.setPort i v).remaps = s.remaps := rfl
@[simp] theorem setPort_rill : (s.setPort i v).rill = s.rill := rfl
@[simp] theorem setPort_heard : (s.setPort i v).heard = s.heard := rfl
@[simp] theorem setPort_bcasts : (s.setPort i v).bcasts = s.bcasts := rfl
@[simp] theorem setPort_mem : (s.setPort i v).mem = s.mem := rfl
@[simp] theorem setPort_poison : (s.setPort i v).poison = s.poison := rfl
@[simp] theorem setPort_latentCe : (s.setPort i v).latentCe = s.latentCe := rfl
@[simp] theorem setPort_latentUe : (s.setPort i v).latentUe = s.latentUe := rfl
@[simp] theorem setPort_stale : (s.setPort i v).stale = s.stale := rfl
@[simp] theorem setPort_unseen : (s.setPort i v).unseen = s.unseen := rfl
@[simp] theorem setPort_unsent : (s.setPort i v).unsent = s.unsent := rfl
@[simp] theorem setPort_owners : (s.setPort i v).owners = s.owners := rfl
@[simp] theorem setPort_filling : (s.setPort i v).filling = s.filling := rfl
@[simp] theorem setPort_sluices : (s.setPort i v).sluices = s.sluices := rfl
@[simp] theorem setPort_nbs : (s.setPort i v).nbs = s.nbs := rfl
@[simp] theorem setPort_kvs : (s.setPort i v).kvs = s.kvs := rfl
@[simp] theorem setPort_gatesSeen : (s.setPort i v).gatesSeen = s.gatesSeen := rfl
@[simp] theorem setPort_rings : (s.setPort i v).rings = s.rings := rfl
@[simp] theorem setPort_cmds : (s.setPort i v).cmds = s.cmds := rfl
@[simp] theorem setPort_compls : (s.setPort i v).compls = s.compls := rfl
@[simp] theorem setPort_txns : (s.setPort i v).txns = s.txns := rfl
@[simp] theorem setPort_commits : (s.setPort i v).commits = s.commits := rfl
@[simp] theorem setPort_changed : (s.setPort i v).changed = s.changed := rfl
@[simp] theorem setPort_saggars : (s.setPort i v).saggars = s.saggars := rfl
@[simp] theorem setPort_jobs : (s.setPort i v).jobs = s.jobs := rfl
@[simp] theorem setPort_launches : (s.setPort i v).launches = s.launches := rfl
@[simp] theorem setPort_host : (s.setPort i v).host = s.host := rfl
@[simp] theorem setPort_fab : (s.setPort i v).fab = s.fab := rfl
@[simp] theorem setPort_power : (s.setPort i v).power = s.power := rfl
@[simp] theorem setPort_domains : (s.setPort i v).domains = s.domains := rfl
@[simp] theorem setPort_thermal : (s.setPort i v).thermal = s.thermal := rfl
@[simp] theorem setPort_rel : (s.setPort i v).rel = s.rel := rfl
@[simp] theorem setPort_fw : (s.setPort i v).fw = s.fw := rfl
@[simp] theorem setPort_sec : (s.setPort i v).sec = s.sec := rfl
end setPort

section setDomain
variable (s : State) (i : Nat) (v : Domain)
@[simp] theorem setDomain_pending : (s.setDomain i v).pending = s.pending := rfl
@[simp] theorem setDomain_nowUs : (s.setDomain i v).nowUs = s.nowUs := rfl
@[simp] theorem setDomain_free : (s.setDomain i v).free = s.free := rfl
@[simp] theorem setDomain_pkg : (s.setDomain i v).pkg = s.pkg := rfl
@[simp] theorem setDomain_sites : (s.setDomain i v).sites = s.sites := rfl
@[simp] theorem setDomain_cores : (s.setDomain i v).cores = s.cores := rfl
@[simp] theorem setDomain_clusters : (s.setDomain i v).clusters = s.clusters := rfl
@[simp] theorem setDomain_outq : (s.setDomain i v).outq = s.outq := rfl
@[simp] theorem setDomain_net : (s.setDomain i v).net = s.net := rfl
@[simp] theorem setDomain_remaps : (s.setDomain i v).remaps = s.remaps := rfl
@[simp] theorem setDomain_rill : (s.setDomain i v).rill = s.rill := rfl
@[simp] theorem setDomain_heard : (s.setDomain i v).heard = s.heard := rfl
@[simp] theorem setDomain_bcasts : (s.setDomain i v).bcasts = s.bcasts := rfl
@[simp] theorem setDomain_mem : (s.setDomain i v).mem = s.mem := rfl
@[simp] theorem setDomain_poison : (s.setDomain i v).poison = s.poison := rfl
@[simp] theorem setDomain_latentCe : (s.setDomain i v).latentCe = s.latentCe := rfl
@[simp] theorem setDomain_latentUe : (s.setDomain i v).latentUe = s.latentUe := rfl
@[simp] theorem setDomain_stale : (s.setDomain i v).stale = s.stale := rfl
@[simp] theorem setDomain_unseen : (s.setDomain i v).unseen = s.unseen := rfl
@[simp] theorem setDomain_unsent : (s.setDomain i v).unsent = s.unsent := rfl
@[simp] theorem setDomain_owners : (s.setDomain i v).owners = s.owners := rfl
@[simp] theorem setDomain_filling : (s.setDomain i v).filling = s.filling := rfl
@[simp] theorem setDomain_sluices : (s.setDomain i v).sluices = s.sluices := rfl
@[simp] theorem setDomain_nbs : (s.setDomain i v).nbs = s.nbs := rfl
@[simp] theorem setDomain_kvs : (s.setDomain i v).kvs = s.kvs := rfl
@[simp] theorem setDomain_gatesSeen : (s.setDomain i v).gatesSeen = s.gatesSeen := rfl
@[simp] theorem setDomain_rings : (s.setDomain i v).rings = s.rings := rfl
@[simp] theorem setDomain_cmds : (s.setDomain i v).cmds = s.cmds := rfl
@[simp] theorem setDomain_compls : (s.setDomain i v).compls = s.compls := rfl
@[simp] theorem setDomain_txns : (s.setDomain i v).txns = s.txns := rfl
@[simp] theorem setDomain_commits : (s.setDomain i v).commits = s.commits := rfl
@[simp] theorem setDomain_changed : (s.setDomain i v).changed = s.changed := rfl
@[simp] theorem setDomain_saggars : (s.setDomain i v).saggars = s.saggars := rfl
@[simp] theorem setDomain_jobs : (s.setDomain i v).jobs = s.jobs := rfl
@[simp] theorem setDomain_launches : (s.setDomain i v).launches = s.launches := rfl
@[simp] theorem setDomain_host : (s.setDomain i v).host = s.host := rfl
@[simp] theorem setDomain_ports : (s.setDomain i v).ports = s.ports := rfl
@[simp] theorem setDomain_fab : (s.setDomain i v).fab = s.fab := rfl
@[simp] theorem setDomain_power : (s.setDomain i v).power = s.power := rfl
@[simp] theorem setDomain_thermal : (s.setDomain i v).thermal = s.thermal := rfl
@[simp] theorem setDomain_rel : (s.setDomain i v).rel = s.rel := rfl
@[simp] theorem setDomain_fw : (s.setDomain i v).fw = s.fw := rfl
@[simp] theorem setDomain_sec : (s.setDomain i v).sec = s.sec := rfl
end setDomain

section setRegion
variable (s : State) (i : Nat) (v : Region)
@[simp] theorem setRegion_pending : (s.setRegion i v).pending = s.pending := rfl
@[simp] theorem setRegion_nowUs : (s.setRegion i v).nowUs = s.nowUs := rfl
@[simp] theorem setRegion_free : (s.setRegion i v).free = s.free := rfl
@[simp] theorem setRegion_pkg : (s.setRegion i v).pkg = s.pkg := rfl
@[simp] theorem setRegion_sites : (s.setRegion i v).sites = s.sites := rfl
@[simp] theorem setRegion_cores : (s.setRegion i v).cores = s.cores := rfl
@[simp] theorem setRegion_clusters : (s.setRegion i v).clusters = s.clusters := rfl
@[simp] theorem setRegion_outq : (s.setRegion i v).outq = s.outq := rfl
@[simp] theorem setRegion_net : (s.setRegion i v).net = s.net := rfl
@[simp] theorem setRegion_remaps : (s.setRegion i v).remaps = s.remaps := rfl
@[simp] theorem setRegion_rill : (s.setRegion i v).rill = s.rill := rfl
@[simp] theorem setRegion_heard : (s.setRegion i v).heard = s.heard := rfl
@[simp] theorem setRegion_bcasts : (s.setRegion i v).bcasts = s.bcasts := rfl
@[simp] theorem setRegion_mem : (s.setRegion i v).mem = s.mem := rfl
@[simp] theorem setRegion_poison : (s.setRegion i v).poison = s.poison := rfl
@[simp] theorem setRegion_latentCe : (s.setRegion i v).latentCe = s.latentCe := rfl
@[simp] theorem setRegion_latentUe : (s.setRegion i v).latentUe = s.latentUe := rfl
@[simp] theorem setRegion_stale : (s.setRegion i v).stale = s.stale := rfl
@[simp] theorem setRegion_unseen : (s.setRegion i v).unseen = s.unseen := rfl
@[simp] theorem setRegion_unsent : (s.setRegion i v).unsent = s.unsent := rfl
@[simp] theorem setRegion_owners : (s.setRegion i v).owners = s.owners := rfl
@[simp] theorem setRegion_filling : (s.setRegion i v).filling = s.filling := rfl
@[simp] theorem setRegion_sluices : (s.setRegion i v).sluices = s.sluices := rfl
@[simp] theorem setRegion_nbs : (s.setRegion i v).nbs = s.nbs := rfl
@[simp] theorem setRegion_kvs : (s.setRegion i v).kvs = s.kvs := rfl
@[simp] theorem setRegion_gatesSeen : (s.setRegion i v).gatesSeen = s.gatesSeen := rfl
@[simp] theorem setRegion_rings : (s.setRegion i v).rings = s.rings := rfl
@[simp] theorem setRegion_cmds : (s.setRegion i v).cmds = s.cmds := rfl
@[simp] theorem setRegion_compls : (s.setRegion i v).compls = s.compls := rfl
@[simp] theorem setRegion_txns : (s.setRegion i v).txns = s.txns := rfl
@[simp] theorem setRegion_commits : (s.setRegion i v).commits = s.commits := rfl
@[simp] theorem setRegion_changed : (s.setRegion i v).changed = s.changed := rfl
@[simp] theorem setRegion_saggars : (s.setRegion i v).saggars = s.saggars := rfl
@[simp] theorem setRegion_jobs : (s.setRegion i v).jobs = s.jobs := rfl
@[simp] theorem setRegion_launches : (s.setRegion i v).launches = s.launches := rfl
@[simp] theorem setRegion_host : (s.setRegion i v).host = s.host := rfl
@[simp] theorem setRegion_ports : (s.setRegion i v).ports = s.ports := rfl
@[simp] theorem setRegion_fab : (s.setRegion i v).fab = s.fab := rfl
@[simp] theorem setRegion_power : (s.setRegion i v).power = s.power := rfl
@[simp] theorem setRegion_domains : (s.setRegion i v).domains = s.domains := rfl
@[simp] theorem setRegion_thermal : (s.setRegion i v).thermal = s.thermal := rfl
@[simp] theorem setRegion_fw : (s.setRegion i v).fw = s.fw := rfl
@[simp] theorem setRegion_sec : (s.setRegion i v).sec = s.sec := rfl
end setRegion

section setWeir
variable (s : State) (i : Nat) (v : Weir)
@[simp] theorem setWeir_pending : (s.setWeir i v).pending = s.pending := rfl
@[simp] theorem setWeir_nowUs : (s.setWeir i v).nowUs = s.nowUs := rfl
@[simp] theorem setWeir_free : (s.setWeir i v).free = s.free := rfl
@[simp] theorem setWeir_pkg : (s.setWeir i v).pkg = s.pkg := rfl
@[simp] theorem setWeir_sites : (s.setWeir i v).sites = s.sites := rfl
@[simp] theorem setWeir_cores : (s.setWeir i v).cores = s.cores := rfl
@[simp] theorem setWeir_clusters : (s.setWeir i v).clusters = s.clusters := rfl
@[simp] theorem setWeir_outq : (s.setWeir i v).outq = s.outq := rfl
@[simp] theorem setWeir_net : (s.setWeir i v).net = s.net := rfl
@[simp] theorem setWeir_remaps : (s.setWeir i v).remaps = s.remaps := rfl
@[simp] theorem setWeir_rill : (s.setWeir i v).rill = s.rill := rfl
@[simp] theorem setWeir_heard : (s.setWeir i v).heard = s.heard := rfl
@[simp] theorem setWeir_bcasts : (s.setWeir i v).bcasts = s.bcasts := rfl
@[simp] theorem setWeir_mem : (s.setWeir i v).mem = s.mem := rfl
@[simp] theorem setWeir_poison : (s.setWeir i v).poison = s.poison := rfl
@[simp] theorem setWeir_latentCe : (s.setWeir i v).latentCe = s.latentCe := rfl
@[simp] theorem setWeir_latentUe : (s.setWeir i v).latentUe = s.latentUe := rfl
@[simp] theorem setWeir_stale : (s.setWeir i v).stale = s.stale := rfl
@[simp] theorem setWeir_unseen : (s.setWeir i v).unseen = s.unseen := rfl
@[simp] theorem setWeir_unsent : (s.setWeir i v).unsent = s.unsent := rfl
@[simp] theorem setWeir_owners : (s.setWeir i v).owners = s.owners := rfl
@[simp] theorem setWeir_filling : (s.setWeir i v).filling = s.filling := rfl
@[simp] theorem setWeir_sluices : (s.setWeir i v).sluices = s.sluices := rfl
@[simp] theorem setWeir_nbs : (s.setWeir i v).nbs = s.nbs := rfl
@[simp] theorem setWeir_kvs : (s.setWeir i v).kvs = s.kvs := rfl
@[simp] theorem setWeir_gatesSeen : (s.setWeir i v).gatesSeen = s.gatesSeen := rfl
@[simp] theorem setWeir_rings : (s.setWeir i v).rings = s.rings := rfl
@[simp] theorem setWeir_cmds : (s.setWeir i v).cmds = s.cmds := rfl
@[simp] theorem setWeir_compls : (s.setWeir i v).compls = s.compls := rfl
@[simp] theorem setWeir_txns : (s.setWeir i v).txns = s.txns := rfl
@[simp] theorem setWeir_commits : (s.setWeir i v).commits = s.commits := rfl
@[simp] theorem setWeir_changed : (s.setWeir i v).changed = s.changed := rfl
@[simp] theorem setWeir_saggars : (s.setWeir i v).saggars = s.saggars := rfl
@[simp] theorem setWeir_jobs : (s.setWeir i v).jobs = s.jobs := rfl
@[simp] theorem setWeir_launches : (s.setWeir i v).launches = s.launches := rfl
@[simp] theorem setWeir_host : (s.setWeir i v).host = s.host := rfl
@[simp] theorem setWeir_ports : (s.setWeir i v).ports = s.ports := rfl
@[simp] theorem setWeir_fab : (s.setWeir i v).fab = s.fab := rfl
@[simp] theorem setWeir_power : (s.setWeir i v).power = s.power := rfl
@[simp] theorem setWeir_domains : (s.setWeir i v).domains = s.domains := rfl
@[simp] theorem setWeir_thermal : (s.setWeir i v).thermal = s.thermal := rfl
@[simp] theorem setWeir_fw : (s.setWeir i v).fw = s.fw := rfl
@[simp] theorem setWeir_sec : (s.setWeir i v).sec = s.sec := rfl
end setWeir

section setGranState
variable (s : State) (i v : Nat)
@[simp] theorem setGranState_pending : (s.setGranState i v).pending = s.pending := rfl
@[simp] theorem setGranState_nowUs : (s.setGranState i v).nowUs = s.nowUs := rfl
@[simp] theorem setGranState_free : (s.setGranState i v).free = s.free := rfl
@[simp] theorem setGranState_pkg : (s.setGranState i v).pkg = s.pkg := rfl
@[simp] theorem setGranState_sites : (s.setGranState i v).sites = s.sites := rfl
@[simp] theorem setGranState_cores : (s.setGranState i v).cores = s.cores := rfl
@[simp] theorem setGranState_clusters : (s.setGranState i v).clusters = s.clusters := rfl
@[simp] theorem setGranState_outq : (s.setGranState i v).outq = s.outq := rfl
@[simp] theorem setGranState_net : (s.setGranState i v).net = s.net := rfl
@[simp] theorem setGranState_remaps : (s.setGranState i v).remaps = s.remaps := rfl
@[simp] theorem setGranState_rill : (s.setGranState i v).rill = s.rill := rfl
@[simp] theorem setGranState_heard : (s.setGranState i v).heard = s.heard := rfl
@[simp] theorem setGranState_bcasts : (s.setGranState i v).bcasts = s.bcasts := rfl
@[simp] theorem setGranState_mem : (s.setGranState i v).mem = s.mem := rfl
@[simp] theorem setGranState_poison : (s.setGranState i v).poison = s.poison := rfl
@[simp] theorem setGranState_latentCe : (s.setGranState i v).latentCe = s.latentCe := rfl
@[simp] theorem setGranState_latentUe : (s.setGranState i v).latentUe = s.latentUe := rfl
@[simp] theorem setGranState_stale : (s.setGranState i v).stale = s.stale := rfl
@[simp] theorem setGranState_unseen : (s.setGranState i v).unseen = s.unseen := rfl
@[simp] theorem setGranState_unsent : (s.setGranState i v).unsent = s.unsent := rfl
@[simp] theorem setGranState_owners : (s.setGranState i v).owners = s.owners := rfl
@[simp] theorem setGranState_filling : (s.setGranState i v).filling = s.filling := rfl
@[simp] theorem setGranState_sluices : (s.setGranState i v).sluices = s.sluices := rfl
@[simp] theorem setGranState_nbs : (s.setGranState i v).nbs = s.nbs := rfl
@[simp] theorem setGranState_kvs : (s.setGranState i v).kvs = s.kvs := rfl
@[simp] theorem setGranState_gatesSeen : (s.setGranState i v).gatesSeen = s.gatesSeen := rfl
@[simp] theorem setGranState_rings : (s.setGranState i v).rings = s.rings := rfl
@[simp] theorem setGranState_cmds : (s.setGranState i v).cmds = s.cmds := rfl
@[simp] theorem setGranState_compls : (s.setGranState i v).compls = s.compls := rfl
@[simp] theorem setGranState_txns : (s.setGranState i v).txns = s.txns := rfl
@[simp] theorem setGranState_commits : (s.setGranState i v).commits = s.commits := rfl
@[simp] theorem setGranState_changed : (s.setGranState i v).changed = s.changed := rfl
@[simp] theorem setGranState_saggars : (s.setGranState i v).saggars = s.saggars := rfl
@[simp] theorem setGranState_jobs : (s.setGranState i v).jobs = s.jobs := rfl
@[simp] theorem setGranState_launches : (s.setGranState i v).launches = s.launches := rfl
@[simp] theorem setGranState_host : (s.setGranState i v).host = s.host := rfl
@[simp] theorem setGranState_ports : (s.setGranState i v).ports = s.ports := rfl
@[simp] theorem setGranState_fab : (s.setGranState i v).fab = s.fab := rfl
@[simp] theorem setGranState_power : (s.setGranState i v).power = s.power := rfl
@[simp] theorem setGranState_domains : (s.setGranState i v).domains = s.domains := rfl
@[simp] theorem setGranState_thermal : (s.setGranState i v).thermal = s.thermal := rfl
@[simp] theorem setGranState_fw : (s.setGranState i v).fw = s.fw := rfl
@[simp] theorem setGranState_sec : (s.setGranState i v).sec = s.sec := rfl
end setGranState

section setSensor
variable (s : State) (i : Nat) (v : Sensor)
@[simp] theorem setSensor_pending : (s.setSensor i v).pending = s.pending := rfl
@[simp] theorem setSensor_nowUs : (s.setSensor i v).nowUs = s.nowUs := rfl
@[simp] theorem setSensor_free : (s.setSensor i v).free = s.free := rfl
@[simp] theorem setSensor_pkg : (s.setSensor i v).pkg = s.pkg := rfl
@[simp] theorem setSensor_sites : (s.setSensor i v).sites = s.sites := rfl
@[simp] theorem setSensor_cores : (s.setSensor i v).cores = s.cores := rfl
@[simp] theorem setSensor_clusters : (s.setSensor i v).clusters = s.clusters := rfl
@[simp] theorem setSensor_outq : (s.setSensor i v).outq = s.outq := rfl
@[simp] theorem setSensor_net : (s.setSensor i v).net = s.net := rfl
@[simp] theorem setSensor_remaps : (s.setSensor i v).remaps = s.remaps := rfl
@[simp] theorem setSensor_rill : (s.setSensor i v).rill = s.rill := rfl
@[simp] theorem setSensor_heard : (s.setSensor i v).heard = s.heard := rfl
@[simp] theorem setSensor_bcasts : (s.setSensor i v).bcasts = s.bcasts := rfl
@[simp] theorem setSensor_mem : (s.setSensor i v).mem = s.mem := rfl
@[simp] theorem setSensor_poison : (s.setSensor i v).poison = s.poison := rfl
@[simp] theorem setSensor_latentCe : (s.setSensor i v).latentCe = s.latentCe := rfl
@[simp] theorem setSensor_latentUe : (s.setSensor i v).latentUe = s.latentUe := rfl
@[simp] theorem setSensor_stale : (s.setSensor i v).stale = s.stale := rfl
@[simp] theorem setSensor_unseen : (s.setSensor i v).unseen = s.unseen := rfl
@[simp] theorem setSensor_unsent : (s.setSensor i v).unsent = s.unsent := rfl
@[simp] theorem setSensor_owners : (s.setSensor i v).owners = s.owners := rfl
@[simp] theorem setSensor_filling : (s.setSensor i v).filling = s.filling := rfl
@[simp] theorem setSensor_sluices : (s.setSensor i v).sluices = s.sluices := rfl
@[simp] theorem setSensor_nbs : (s.setSensor i v).nbs = s.nbs := rfl
@[simp] theorem setSensor_kvs : (s.setSensor i v).kvs = s.kvs := rfl
@[simp] theorem setSensor_gatesSeen : (s.setSensor i v).gatesSeen = s.gatesSeen := rfl
@[simp] theorem setSensor_rings : (s.setSensor i v).rings = s.rings := rfl
@[simp] theorem setSensor_cmds : (s.setSensor i v).cmds = s.cmds := rfl
@[simp] theorem setSensor_compls : (s.setSensor i v).compls = s.compls := rfl
@[simp] theorem setSensor_txns : (s.setSensor i v).txns = s.txns := rfl
@[simp] theorem setSensor_commits : (s.setSensor i v).commits = s.commits := rfl
@[simp] theorem setSensor_changed : (s.setSensor i v).changed = s.changed := rfl
@[simp] theorem setSensor_saggars : (s.setSensor i v).saggars = s.saggars := rfl
@[simp] theorem setSensor_jobs : (s.setSensor i v).jobs = s.jobs := rfl
@[simp] theorem setSensor_launches : (s.setSensor i v).launches = s.launches := rfl
@[simp] theorem setSensor_host : (s.setSensor i v).host = s.host := rfl
@[simp] theorem setSensor_ports : (s.setSensor i v).ports = s.ports := rfl
@[simp] theorem setSensor_fab : (s.setSensor i v).fab = s.fab := rfl
@[simp] theorem setSensor_power : (s.setSensor i v).power = s.power := rfl
@[simp] theorem setSensor_domains : (s.setSensor i v).domains = s.domains := rfl
@[simp] theorem setSensor_rel : (s.setSensor i v).rel = s.rel := rfl
@[simp] theorem setSensor_fw : (s.setSensor i v).fw = s.fw := rfl
@[simp] theorem setSensor_sec : (s.setSensor i v).sec = s.sec := rfl
end setSensor

section setPoint
variable (s : State) (i : Nat) (v : Point)
@[simp] theorem setPoint_pending : (s.setPoint i v).pending = s.pending := rfl
@[simp] theorem setPoint_nowUs : (s.setPoint i v).nowUs = s.nowUs := rfl
@[simp] theorem setPoint_free : (s.setPoint i v).free = s.free := rfl
@[simp] theorem setPoint_pkg : (s.setPoint i v).pkg = s.pkg := rfl
@[simp] theorem setPoint_sites : (s.setPoint i v).sites = s.sites := rfl
@[simp] theorem setPoint_cores : (s.setPoint i v).cores = s.cores := rfl
@[simp] theorem setPoint_clusters : (s.setPoint i v).clusters = s.clusters := rfl
@[simp] theorem setPoint_outq : (s.setPoint i v).outq = s.outq := rfl
@[simp] theorem setPoint_net : (s.setPoint i v).net = s.net := rfl
@[simp] theorem setPoint_remaps : (s.setPoint i v).remaps = s.remaps := rfl
@[simp] theorem setPoint_rill : (s.setPoint i v).rill = s.rill := rfl
@[simp] theorem setPoint_heard : (s.setPoint i v).heard = s.heard := rfl
@[simp] theorem setPoint_bcasts : (s.setPoint i v).bcasts = s.bcasts := rfl
@[simp] theorem setPoint_mem : (s.setPoint i v).mem = s.mem := rfl
@[simp] theorem setPoint_poison : (s.setPoint i v).poison = s.poison := rfl
@[simp] theorem setPoint_latentCe : (s.setPoint i v).latentCe = s.latentCe := rfl
@[simp] theorem setPoint_latentUe : (s.setPoint i v).latentUe = s.latentUe := rfl
@[simp] theorem setPoint_stale : (s.setPoint i v).stale = s.stale := rfl
@[simp] theorem setPoint_unseen : (s.setPoint i v).unseen = s.unseen := rfl
@[simp] theorem setPoint_unsent : (s.setPoint i v).unsent = s.unsent := rfl
@[simp] theorem setPoint_owners : (s.setPoint i v).owners = s.owners := rfl
@[simp] theorem setPoint_filling : (s.setPoint i v).filling = s.filling := rfl
@[simp] theorem setPoint_sluices : (s.setPoint i v).sluices = s.sluices := rfl
@[simp] theorem setPoint_nbs : (s.setPoint i v).nbs = s.nbs := rfl
@[simp] theorem setPoint_kvs : (s.setPoint i v).kvs = s.kvs := rfl
@[simp] theorem setPoint_gatesSeen : (s.setPoint i v).gatesSeen = s.gatesSeen := rfl
@[simp] theorem setPoint_rings : (s.setPoint i v).rings = s.rings := rfl
@[simp] theorem setPoint_cmds : (s.setPoint i v).cmds = s.cmds := rfl
@[simp] theorem setPoint_compls : (s.setPoint i v).compls = s.compls := rfl
@[simp] theorem setPoint_txns : (s.setPoint i v).txns = s.txns := rfl
@[simp] theorem setPoint_commits : (s.setPoint i v).commits = s.commits := rfl
@[simp] theorem setPoint_changed : (s.setPoint i v).changed = s.changed := rfl
@[simp] theorem setPoint_saggars : (s.setPoint i v).saggars = s.saggars := rfl
@[simp] theorem setPoint_jobs : (s.setPoint i v).jobs = s.jobs := rfl
@[simp] theorem setPoint_launches : (s.setPoint i v).launches = s.launches := rfl
@[simp] theorem setPoint_host : (s.setPoint i v).host = s.host := rfl
@[simp] theorem setPoint_ports : (s.setPoint i v).ports = s.ports := rfl
@[simp] theorem setPoint_fab : (s.setPoint i v).fab = s.fab := rfl
@[simp] theorem setPoint_power : (s.setPoint i v).power = s.power := rfl
@[simp] theorem setPoint_domains : (s.setPoint i v).domains = s.domains := rfl
@[simp] theorem setPoint_rel : (s.setPoint i v).rel = s.rel := rfl
@[simp] theorem setPoint_fw : (s.setPoint i v).fw = s.fw := rfl
@[simp] theorem setPoint_sec : (s.setPoint i v).sec = s.sec := rfl
end setPoint

section setBlock
variable (s : State) (i : Nat) (v : Block)
@[simp] theorem setBlock_pending : (s.setBlock i v).pending = s.pending := rfl
@[simp] theorem setBlock_nowUs : (s.setBlock i v).nowUs = s.nowUs := rfl
@[simp] theorem setBlock_free : (s.setBlock i v).free = s.free := rfl
@[simp] theorem setBlock_pkg : (s.setBlock i v).pkg = s.pkg := rfl
@[simp] theorem setBlock_sites : (s.setBlock i v).sites = s.sites := rfl
@[simp] theorem setBlock_cores : (s.setBlock i v).cores = s.cores := rfl
@[simp] theorem setBlock_clusters : (s.setBlock i v).clusters = s.clusters := rfl
@[simp] theorem setBlock_outq : (s.setBlock i v).outq = s.outq := rfl
@[simp] theorem setBlock_net : (s.setBlock i v).net = s.net := rfl
@[simp] theorem setBlock_remaps : (s.setBlock i v).remaps = s.remaps := rfl
@[simp] theorem setBlock_rill : (s.setBlock i v).rill = s.rill := rfl
@[simp] theorem setBlock_heard : (s.setBlock i v).heard = s.heard := rfl
@[simp] theorem setBlock_bcasts : (s.setBlock i v).bcasts = s.bcasts := rfl
@[simp] theorem setBlock_mem : (s.setBlock i v).mem = s.mem := rfl
@[simp] theorem setBlock_poison : (s.setBlock i v).poison = s.poison := rfl
@[simp] theorem setBlock_latentCe : (s.setBlock i v).latentCe = s.latentCe := rfl
@[simp] theorem setBlock_latentUe : (s.setBlock i v).latentUe = s.latentUe := rfl
@[simp] theorem setBlock_stale : (s.setBlock i v).stale = s.stale := rfl
@[simp] theorem setBlock_unseen : (s.setBlock i v).unseen = s.unseen := rfl
@[simp] theorem setBlock_unsent : (s.setBlock i v).unsent = s.unsent := rfl
@[simp] theorem setBlock_owners : (s.setBlock i v).owners = s.owners := rfl
@[simp] theorem setBlock_filling : (s.setBlock i v).filling = s.filling := rfl
@[simp] theorem setBlock_sluices : (s.setBlock i v).sluices = s.sluices := rfl
@[simp] theorem setBlock_nbs : (s.setBlock i v).nbs = s.nbs := rfl
@[simp] theorem setBlock_kvs : (s.setBlock i v).kvs = s.kvs := rfl
@[simp] theorem setBlock_gatesSeen : (s.setBlock i v).gatesSeen = s.gatesSeen := rfl
@[simp] theorem setBlock_rings : (s.setBlock i v).rings = s.rings := rfl
@[simp] theorem setBlock_cmds : (s.setBlock i v).cmds = s.cmds := rfl
@[simp] theorem setBlock_compls : (s.setBlock i v).compls = s.compls := rfl
@[simp] theorem setBlock_txns : (s.setBlock i v).txns = s.txns := rfl
@[simp] theorem setBlock_commits : (s.setBlock i v).commits = s.commits := rfl
@[simp] theorem setBlock_changed : (s.setBlock i v).changed = s.changed := rfl
@[simp] theorem setBlock_saggars : (s.setBlock i v).saggars = s.saggars := rfl
@[simp] theorem setBlock_jobs : (s.setBlock i v).jobs = s.jobs := rfl
@[simp] theorem setBlock_launches : (s.setBlock i v).launches = s.launches := rfl
@[simp] theorem setBlock_host : (s.setBlock i v).host = s.host := rfl
@[simp] theorem setBlock_ports : (s.setBlock i v).ports = s.ports := rfl
@[simp] theorem setBlock_fab : (s.setBlock i v).fab = s.fab := rfl
@[simp] theorem setBlock_power : (s.setBlock i v).power = s.power := rfl
@[simp] theorem setBlock_domains : (s.setBlock i v).domains = s.domains := rfl
@[simp] theorem setBlock_rel : (s.setBlock i v).rel = s.rel := rfl
@[simp] theorem setBlock_fw : (s.setBlock i v).fw = s.fw := rfl
@[simp] theorem setBlock_sec : (s.setBlock i v).sec = s.sec := rfl
end setBlock

section setMc
variable (s : State) (i : Nat) (v : Mc)
@[simp] theorem setMc_pending : (s.setMc i v).pending = s.pending := rfl
@[simp] theorem setMc_nowUs : (s.setMc i v).nowUs = s.nowUs := rfl
@[simp] theorem setMc_free : (s.setMc i v).free = s.free := rfl
@[simp] theorem setMc_pkg : (s.setMc i v).pkg = s.pkg := rfl
@[simp] theorem setMc_sites : (s.setMc i v).sites = s.sites := rfl
@[simp] theorem setMc_cores : (s.setMc i v).cores = s.cores := rfl
@[simp] theorem setMc_clusters : (s.setMc i v).clusters = s.clusters := rfl
@[simp] theorem setMc_outq : (s.setMc i v).outq = s.outq := rfl
@[simp] theorem setMc_net : (s.setMc i v).net = s.net := rfl
@[simp] theorem setMc_remaps : (s.setMc i v).remaps = s.remaps := rfl
@[simp] theorem setMc_rill : (s.setMc i v).rill = s.rill := rfl
@[simp] theorem setMc_heard : (s.setMc i v).heard = s.heard := rfl
@[simp] theorem setMc_bcasts : (s.setMc i v).bcasts = s.bcasts := rfl
@[simp] theorem setMc_mem : (s.setMc i v).mem = s.mem := rfl
@[simp] theorem setMc_poison : (s.setMc i v).poison = s.poison := rfl
@[simp] theorem setMc_latentCe : (s.setMc i v).latentCe = s.latentCe := rfl
@[simp] theorem setMc_latentUe : (s.setMc i v).latentUe = s.latentUe := rfl
@[simp] theorem setMc_stale : (s.setMc i v).stale = s.stale := rfl
@[simp] theorem setMc_unseen : (s.setMc i v).unseen = s.unseen := rfl
@[simp] theorem setMc_unsent : (s.setMc i v).unsent = s.unsent := rfl
@[simp] theorem setMc_owners : (s.setMc i v).owners = s.owners := rfl
@[simp] theorem setMc_filling : (s.setMc i v).filling = s.filling := rfl
@[simp] theorem setMc_sluices : (s.setMc i v).sluices = s.sluices := rfl
@[simp] theorem setMc_nbs : (s.setMc i v).nbs = s.nbs := rfl
@[simp] theorem setMc_kvs : (s.setMc i v).kvs = s.kvs := rfl
@[simp] theorem setMc_gatesSeen : (s.setMc i v).gatesSeen = s.gatesSeen := rfl
@[simp] theorem setMc_rings : (s.setMc i v).rings = s.rings := rfl
@[simp] theorem setMc_cmds : (s.setMc i v).cmds = s.cmds := rfl
@[simp] theorem setMc_compls : (s.setMc i v).compls = s.compls := rfl
@[simp] theorem setMc_txns : (s.setMc i v).txns = s.txns := rfl
@[simp] theorem setMc_commits : (s.setMc i v).commits = s.commits := rfl
@[simp] theorem setMc_changed : (s.setMc i v).changed = s.changed := rfl
@[simp] theorem setMc_saggars : (s.setMc i v).saggars = s.saggars := rfl
@[simp] theorem setMc_jobs : (s.setMc i v).jobs = s.jobs := rfl
@[simp] theorem setMc_launches : (s.setMc i v).launches = s.launches := rfl
@[simp] theorem setMc_host : (s.setMc i v).host = s.host := rfl
@[simp] theorem setMc_ports : (s.setMc i v).ports = s.ports := rfl
@[simp] theorem setMc_fab : (s.setMc i v).fab = s.fab := rfl
@[simp] theorem setMc_power : (s.setMc i v).power = s.power := rfl
@[simp] theorem setMc_domains : (s.setMc i v).domains = s.domains := rfl
@[simp] theorem setMc_thermal : (s.setMc i v).thermal = s.thermal := rfl
@[simp] theorem setMc_rel : (s.setMc i v).rel = s.rel := rfl
@[simp] theorem setMc_sec : (s.setMc i v).sec = s.sec := rfl
end setMc

section setRoleMc
variable (s : State) (i v : Nat)
@[simp] theorem setRoleMc_pending : (s.setRoleMc i v).pending = s.pending := rfl
@[simp] theorem setRoleMc_nowUs : (s.setRoleMc i v).nowUs = s.nowUs := rfl
@[simp] theorem setRoleMc_free : (s.setRoleMc i v).free = s.free := rfl
@[simp] theorem setRoleMc_pkg : (s.setRoleMc i v).pkg = s.pkg := rfl
@[simp] theorem setRoleMc_sites : (s.setRoleMc i v).sites = s.sites := rfl
@[simp] theorem setRoleMc_cores : (s.setRoleMc i v).cores = s.cores := rfl
@[simp] theorem setRoleMc_clusters : (s.setRoleMc i v).clusters = s.clusters := rfl
@[simp] theorem setRoleMc_outq : (s.setRoleMc i v).outq = s.outq := rfl
@[simp] theorem setRoleMc_net : (s.setRoleMc i v).net = s.net := rfl
@[simp] theorem setRoleMc_remaps : (s.setRoleMc i v).remaps = s.remaps := rfl
@[simp] theorem setRoleMc_rill : (s.setRoleMc i v).rill = s.rill := rfl
@[simp] theorem setRoleMc_heard : (s.setRoleMc i v).heard = s.heard := rfl
@[simp] theorem setRoleMc_bcasts : (s.setRoleMc i v).bcasts = s.bcasts := rfl
@[simp] theorem setRoleMc_mem : (s.setRoleMc i v).mem = s.mem := rfl
@[simp] theorem setRoleMc_poison : (s.setRoleMc i v).poison = s.poison := rfl
@[simp] theorem setRoleMc_latentCe : (s.setRoleMc i v).latentCe = s.latentCe := rfl
@[simp] theorem setRoleMc_latentUe : (s.setRoleMc i v).latentUe = s.latentUe := rfl
@[simp] theorem setRoleMc_stale : (s.setRoleMc i v).stale = s.stale := rfl
@[simp] theorem setRoleMc_unseen : (s.setRoleMc i v).unseen = s.unseen := rfl
@[simp] theorem setRoleMc_unsent : (s.setRoleMc i v).unsent = s.unsent := rfl
@[simp] theorem setRoleMc_owners : (s.setRoleMc i v).owners = s.owners := rfl
@[simp] theorem setRoleMc_filling : (s.setRoleMc i v).filling = s.filling := rfl
@[simp] theorem setRoleMc_sluices : (s.setRoleMc i v).sluices = s.sluices := rfl
@[simp] theorem setRoleMc_nbs : (s.setRoleMc i v).nbs = s.nbs := rfl
@[simp] theorem setRoleMc_kvs : (s.setRoleMc i v).kvs = s.kvs := rfl
@[simp] theorem setRoleMc_gatesSeen : (s.setRoleMc i v).gatesSeen = s.gatesSeen := rfl
@[simp] theorem setRoleMc_rings : (s.setRoleMc i v).rings = s.rings := rfl
@[simp] theorem setRoleMc_cmds : (s.setRoleMc i v).cmds = s.cmds := rfl
@[simp] theorem setRoleMc_compls : (s.setRoleMc i v).compls = s.compls := rfl
@[simp] theorem setRoleMc_txns : (s.setRoleMc i v).txns = s.txns := rfl
@[simp] theorem setRoleMc_commits : (s.setRoleMc i v).commits = s.commits := rfl
@[simp] theorem setRoleMc_changed : (s.setRoleMc i v).changed = s.changed := rfl
@[simp] theorem setRoleMc_saggars : (s.setRoleMc i v).saggars = s.saggars := rfl
@[simp] theorem setRoleMc_jobs : (s.setRoleMc i v).jobs = s.jobs := rfl
@[simp] theorem setRoleMc_launches : (s.setRoleMc i v).launches = s.launches := rfl
@[simp] theorem setRoleMc_host : (s.setRoleMc i v).host = s.host := rfl
@[simp] theorem setRoleMc_ports : (s.setRoleMc i v).ports = s.ports := rfl
@[simp] theorem setRoleMc_fab : (s.setRoleMc i v).fab = s.fab := rfl
@[simp] theorem setRoleMc_power : (s.setRoleMc i v).power = s.power := rfl
@[simp] theorem setRoleMc_domains : (s.setRoleMc i v).domains = s.domains := rfl
@[simp] theorem setRoleMc_thermal : (s.setRoleMc i v).thermal = s.thermal := rfl
@[simp] theorem setRoleMc_rel : (s.setRoleMc i v).rel = s.rel := rfl
@[simp] theorem setRoleMc_sec : (s.setRoleMc i v).sec = s.sec := rfl
end setRoleMc

section setWindow
variable (s : State) (i j : Nat) (v : Window)
@[simp] theorem setWindow_pending : (s.setWindow i j v).pending = s.pending := rfl
@[simp] theorem setWindow_nowUs : (s.setWindow i j v).nowUs = s.nowUs := rfl
@[simp] theorem setWindow_free : (s.setWindow i j v).free = s.free := rfl
@[simp] theorem setWindow_pkg : (s.setWindow i j v).pkg = s.pkg := rfl
@[simp] theorem setWindow_sites : (s.setWindow i j v).sites = s.sites := rfl
@[simp] theorem setWindow_cores : (s.setWindow i j v).cores = s.cores := rfl
@[simp] theorem setWindow_clusters : (s.setWindow i j v).clusters = s.clusters := rfl
@[simp] theorem setWindow_outq : (s.setWindow i j v).outq = s.outq := rfl
@[simp] theorem setWindow_net : (s.setWindow i j v).net = s.net := rfl
@[simp] theorem setWindow_remaps : (s.setWindow i j v).remaps = s.remaps := rfl
@[simp] theorem setWindow_rill : (s.setWindow i j v).rill = s.rill := rfl
@[simp] theorem setWindow_heard : (s.setWindow i j v).heard = s.heard := rfl
@[simp] theorem setWindow_bcasts : (s.setWindow i j v).bcasts = s.bcasts := rfl
@[simp] theorem setWindow_mem : (s.setWindow i j v).mem = s.mem := rfl
@[simp] theorem setWindow_poison : (s.setWindow i j v).poison = s.poison := rfl
@[simp] theorem setWindow_latentCe : (s.setWindow i j v).latentCe = s.latentCe := rfl
@[simp] theorem setWindow_latentUe : (s.setWindow i j v).latentUe = s.latentUe := rfl
@[simp] theorem setWindow_stale : (s.setWindow i j v).stale = s.stale := rfl
@[simp] theorem setWindow_unseen : (s.setWindow i j v).unseen = s.unseen := rfl
@[simp] theorem setWindow_unsent : (s.setWindow i j v).unsent = s.unsent := rfl
@[simp] theorem setWindow_owners : (s.setWindow i j v).owners = s.owners := rfl
@[simp] theorem setWindow_filling : (s.setWindow i j v).filling = s.filling := rfl
@[simp] theorem setWindow_sluices : (s.setWindow i j v).sluices = s.sluices := rfl
@[simp] theorem setWindow_nbs : (s.setWindow i j v).nbs = s.nbs := rfl
@[simp] theorem setWindow_kvs : (s.setWindow i j v).kvs = s.kvs := rfl
@[simp] theorem setWindow_gatesSeen : (s.setWindow i j v).gatesSeen = s.gatesSeen := rfl
@[simp] theorem setWindow_rings : (s.setWindow i j v).rings = s.rings := rfl
@[simp] theorem setWindow_cmds : (s.setWindow i j v).cmds = s.cmds := rfl
@[simp] theorem setWindow_compls : (s.setWindow i j v).compls = s.compls := rfl
@[simp] theorem setWindow_txns : (s.setWindow i j v).txns = s.txns := rfl
@[simp] theorem setWindow_commits : (s.setWindow i j v).commits = s.commits := rfl
@[simp] theorem setWindow_changed : (s.setWindow i j v).changed = s.changed := rfl
@[simp] theorem setWindow_saggars : (s.setWindow i j v).saggars = s.saggars := rfl
@[simp] theorem setWindow_jobs : (s.setWindow i j v).jobs = s.jobs := rfl
@[simp] theorem setWindow_launches : (s.setWindow i j v).launches = s.launches := rfl
@[simp] theorem setWindow_host : (s.setWindow i j v).host = s.host := rfl
@[simp] theorem setWindow_ports : (s.setWindow i j v).ports = s.ports := rfl
@[simp] theorem setWindow_power : (s.setWindow i j v).power = s.power := rfl
@[simp] theorem setWindow_domains : (s.setWindow i j v).domains = s.domains := rfl
@[simp] theorem setWindow_thermal : (s.setWindow i j v).thermal = s.thermal := rfl
@[simp] theorem setWindow_rel : (s.setWindow i j v).rel = s.rel := rfl
@[simp] theorem setWindow_fw : (s.setWindow i j v).fw = s.fw := rfl
@[simp] theorem setWindow_sec : (s.setWindow i j v).sec = s.sec := rfl
end setWindow

section draw
variable (s : State)
@[simp] theorem draw_pending : (s.draw).pending = s.pending := rfl
@[simp] theorem draw_nowUs : (s.draw).nowUs = s.nowUs := rfl
@[simp] theorem draw_pkg : (s.draw).pkg = s.pkg := rfl
@[simp] theorem draw_sites : (s.draw).sites = s.sites := rfl
@[simp] theorem draw_cores : (s.draw).cores = s.cores := rfl
@[simp] theorem draw_clusters : (s.draw).clusters = s.clusters := rfl
@[simp] theorem draw_outq : (s.draw).outq = s.outq := rfl
@[simp] theorem draw_net : (s.draw).net = s.net := rfl
@[simp] theorem draw_remaps : (s.draw).remaps = s.remaps := rfl
@[simp] theorem draw_rill : (s.draw).rill = s.rill := rfl
@[simp] theorem draw_heard : (s.draw).heard = s.heard := rfl
@[simp] theorem draw_bcasts : (s.draw).bcasts = s.bcasts := rfl
@[simp] theorem draw_mem : (s.draw).mem = s.mem := rfl
@[simp] theorem draw_poison : (s.draw).poison = s.poison := rfl
@[simp] theorem draw_latentCe : (s.draw).latentCe = s.latentCe := rfl
@[simp] theorem draw_latentUe : (s.draw).latentUe = s.latentUe := rfl
@[simp] theorem draw_stale : (s.draw).stale = s.stale := rfl
@[simp] theorem draw_unseen : (s.draw).unseen = s.unseen := rfl
@[simp] theorem draw_unsent : (s.draw).unsent = s.unsent := rfl
@[simp] theorem draw_owners : (s.draw).owners = s.owners := rfl
@[simp] theorem draw_filling : (s.draw).filling = s.filling := rfl
@[simp] theorem draw_sluices : (s.draw).sluices = s.sluices := rfl
@[simp] theorem draw_nbs : (s.draw).nbs = s.nbs := rfl
@[simp] theorem draw_kvs : (s.draw).kvs = s.kvs := rfl
@[simp] theorem draw_gatesSeen : (s.draw).gatesSeen = s.gatesSeen := rfl
@[simp] theorem draw_rings : (s.draw).rings = s.rings := rfl
@[simp] theorem draw_cmds : (s.draw).cmds = s.cmds := rfl
@[simp] theorem draw_compls : (s.draw).compls = s.compls := rfl
@[simp] theorem draw_txns : (s.draw).txns = s.txns := rfl
@[simp] theorem draw_commits : (s.draw).commits = s.commits := rfl
@[simp] theorem draw_changed : (s.draw).changed = s.changed := rfl
@[simp] theorem draw_saggars : (s.draw).saggars = s.saggars := rfl
@[simp] theorem draw_jobs : (s.draw).jobs = s.jobs := rfl
@[simp] theorem draw_launches : (s.draw).launches = s.launches := rfl
@[simp] theorem draw_host : (s.draw).host = s.host := rfl
@[simp] theorem draw_ports : (s.draw).ports = s.ports := rfl
@[simp] theorem draw_fab : (s.draw).fab = s.fab := rfl
@[simp] theorem draw_power : (s.draw).power = s.power := rfl
@[simp] theorem draw_domains : (s.draw).domains = s.domains := rfl
@[simp] theorem draw_thermal : (s.draw).thermal = s.thermal := rfl
@[simp] theorem draw_rel : (s.draw).rel = s.rel := rfl
@[simp] theorem draw_fw : (s.draw).fw = s.fw := rfl
@[simp] theorem draw_sec : (s.draw).sec = s.sec := rfl
end draw

@[simp] theorem site_setSite_same (s : State) (i : Nat) (v : Site) : (s.setSite i v).site i = v := Tbl.get_put_same _ _ _ _
theorem site_setSite_ne (s : State) (i j : Nat) (v : Site) (h : j ≠ i) : (s.setSite i v).site j = s.site j := Tbl.get_put_ne _ _ _ _ _ h
@[simp] theorem core_setCore_same (s : State) (i : Nat) (v : Core) : (s.setCore i v).core i = v := Tbl.get_put_same _ _ _ _
theorem core_setCore_ne (s : State) (i j : Nat) (v : Core) (h : j ≠ i) : (s.setCore i v).core j = s.core j := Tbl.get_put_ne _ _ _ _ _ h
@[simp] theorem cluster_setCluster_same (s : State) (i : Nat) (v : Cluster) : (s.setCluster i v).cluster i = v := Tbl.get_put_same _ _ _ _
theorem cluster_setCluster_ne (s : State) (i j : Nat) (v : Cluster) (h : j ≠ i) : (s.setCluster i v).cluster j = s.cluster j := Tbl.get_put_ne _ _ _ _ _ h
@[simp] theorem owner_setOwner_same (s : State) (i : Nat) (v : Owner) : (s.setOwner i v).owner i = v := Tbl.get_put_same _ _ _ _
theorem owner_setOwner_ne (s : State) (i j : Nat) (v : Owner) (h : j ≠ i) : (s.setOwner i v).owner j = s.owner j := Tbl.get_put_ne _ _ _ _ _ h
@[simp] theorem sluice_setSluice_same (s : State) (i : Nat) (v : Sluice) : (s.setSluice i v).sluice i = v := Tbl.get_put_same _ _ _ _
theorem sluice_setSluice_ne (s : State) (i j : Nat) (v : Sluice) (h : j ≠ i) : (s.setSluice i v).sluice j = s.sluice j := Tbl.get_put_ne _ _ _ _ _ h
@[simp] theorem nb_setNb_same (s : State) (i : Nat) (v : Nb) : (s.setNb i v).nb i = v := Tbl.get_put_same _ _ _ _
theorem nb_setNb_ne (s : State) (i j : Nat) (v : Nb) (h : j ≠ i) : (s.setNb i v).nb j = s.nb j := Tbl.get_put_ne _ _ _ _ _ h
@[simp] theorem ring_setRing_same (s : State) (i : Nat) (v : Ring) : (s.setRing i v).ring i = v := Tbl.get_put_same _ _ _ _
theorem ring_setRing_ne (s : State) (i j : Nat) (v : Ring) (h : j ≠ i) : (s.setRing i v).ring j = s.ring j := Tbl.get_put_ne _ _ _ _ _ h
@[simp] theorem saggar_setSaggar_same (s : State) (i : Nat) (v : Saggar) : (s.setSaggar i v).saggar i = v := Tbl.get_put_same _ _ _ _
theorem saggar_setSaggar_ne (s : State) (i j : Nat) (v : Saggar) (h : j ≠ i) : (s.setSaggar i v).saggar j = s.saggar j := Tbl.get_put_ne _ _ _ _ _ h
@[simp] theorem port_setPort_same (s : State) (i : Nat) (v : Port) : (s.setPort i v).port i = v := Tbl.get_put_same _ _ _ _
theorem port_setPort_ne (s : State) (i j : Nat) (v : Port) (h : j ≠ i) : (s.setPort i v).port j = s.port j := Tbl.get_put_ne _ _ _ _ _ h
@[simp] theorem domain_setDomain_same (s : State) (i : Nat) (v : Domain) : (s.setDomain i v).domain i = v := Tbl.get_put_same _ _ _ _
theorem domain_setDomain_ne (s : State) (i j : Nat) (v : Domain) (h : j ≠ i) : (s.setDomain i v).domain j = s.domain j := Tbl.get_put_ne _ _ _ _ _ h
@[simp] theorem region_setRegion_same (s : State) (i : Nat) (v : Region) : (s.setRegion i v).region i = v := Tbl.get_put_same _ _ _ _
theorem region_setRegion_ne (s : State) (i j : Nat) (v : Region) (h : j ≠ i) : (s.setRegion i v).region j = s.region j := Tbl.get_put_ne _ _ _ _ _ h
@[simp] theorem weir_setWeir_same (s : State) (i : Nat) (v : Weir) : (s.setWeir i v).weir i = v := Tbl.get_put_same _ _ _ _
theorem weir_setWeir_ne (s : State) (i j : Nat) (v : Weir) (h : j ≠ i) : (s.setWeir i v).weir j = s.weir j := Tbl.get_put_ne _ _ _ _ _ h
@[simp] theorem sensor_setSensor_same (s : State) (i : Nat) (v : Sensor) : (s.setSensor i v).sensor i = v := Tbl.get_put_same _ _ _ _
theorem sensor_setSensor_ne (s : State) (i j : Nat) (v : Sensor) (h : j ≠ i) : (s.setSensor i v).sensor j = s.sensor j := Tbl.get_put_ne _ _ _ _ _ h
@[simp] theorem point_setPoint_same (s : State) (i : Nat) (v : Point) : (s.setPoint i v).point i = v := Tbl.get_put_same _ _ _ _
theorem point_setPoint_ne (s : State) (i j : Nat) (v : Point) (h : j ≠ i) : (s.setPoint i v).point j = s.point j := Tbl.get_put_ne _ _ _ _ _ h
@[simp] theorem block_setBlock_same (s : State) (i : Nat) (v : Block) : (s.setBlock i v).block i = v := Tbl.get_put_same _ _ _ _
theorem block_setBlock_ne (s : State) (i j : Nat) (v : Block) (h : j ≠ i) : (s.setBlock i v).block j = s.block j := Tbl.get_put_ne _ _ _ _ _ h
@[simp] theorem mc_setMc_same (s : State) (i : Nat) (v : Mc) : (s.setMc i v).mc i = v := Tbl.get_put_same _ _ _ _
theorem mc_setMc_ne (s : State) (i j : Nat) (v : Mc) (h : j ≠ i) : (s.setMc i v).mc j = s.mc j := Tbl.get_put_ne _ _ _ _ _ h
@[simp] theorem setSite_setSite_same (s : State) (i : Nat) (v w : Site) : (s.setSite i v).setSite i w = s.setSite i w := by
  simp [State.setSite, Tbl.put_put_same]
@[simp] theorem setCore_setCore_same (s : State) (i : Nat) (v w : Core) : (s.setCore i v).setCore i w = s.setCore i w := by
  simp [State.setCore, Tbl.put_put_same]
@[simp] theorem setCluster_setCluster_same (s : State) (i : Nat) (v w : Cluster) : (s.setCluster i v).setCluster i w = s.setCluster i w := by
  simp [State.setCluster, Tbl.put_put_same]
@[simp] theorem setSluice_setSluice_same (s : State) (i : Nat) (v w : Sluice) : (s.setSluice i v).setSluice i w = s.setSluice i w := by
  simp [State.setSluice, Tbl.put_put_same]
@[simp] theorem setNb_setNb_same (s : State) (i : Nat) (v w : Nb) : (s.setNb i v).setNb i w = s.setNb i w := by
  simp [State.setNb, Tbl.put_put_same]
@[simp] theorem setRing_setRing_same (s : State) (i : Nat) (v w : Ring) : (s.setRing i v).setRing i w = s.setRing i w := by
  simp [State.setRing, Tbl.put_put_same]
@[simp] theorem setSaggar_setSaggar_same (s : State) (i : Nat) (v w : Saggar) : (s.setSaggar i v).setSaggar i w = s.setSaggar i w := by
  simp [State.setSaggar, Tbl.put_put_same]
@[simp] theorem setPort_setPort_same (s : State) (i : Nat) (v w : Port) : (s.setPort i v).setPort i w = s.setPort i w := by
  simp [State.setPort, Tbl.put_put_same]
theorem modSite_eq (s : State) (i : Nat) (f : Site → Site) : s.modSite i f = s.setSite i (f (s.site i)) := rfl
theorem modCore_eq (s : State) (i : Nat) (f : Core → Core) : s.modCore i f = s.setCore i (f (s.core i)) := rfl
theorem modCluster_eq (s : State) (i : Nat) (f : Cluster → Cluster) : s.modCluster i f = s.setCluster i (f (s.cluster i)) := rfl
theorem modSluice_eq (s : State) (i : Nat) (f : Sluice → Sluice) : s.modSluice i f = s.setSluice i (f (s.sluice i)) := rfl
theorem modNb_eq (s : State) (i : Nat) (f : Nb → Nb) : s.modNb i f = s.setNb i (f (s.nb i)) := rfl
theorem modRing_eq (s : State) (i : Nat) (f : Ring → Ring) : s.modRing i f = s.setRing i (f (s.ring i)) := rfl
theorem modSaggar_eq (s : State) (i : Nat) (f : Saggar → Saggar) : s.modSaggar i f = s.setSaggar i (f (s.saggar i)) := rfl
theorem modPort_eq (s : State) (i : Nat) (f : Port → Port) : s.modPort i f = s.setPort i (f (s.port i)) := rfl
theorem modRegion_eq (s : State) (i : Nat) (f : Region → Region) : s.modRegion i f = s.setRegion i (f (s.region i)) := rfl

end State
end Sys2Proof.Machine
end

