-- ==== Sys2Proof/Laws/Shared.lean ====
section
/-! SUPPORT. What the shared operations can change, said once each: recording an event, ending a command, marking its phase. -/
namespace Sys2Proof.Machine
open Sys2Proof

namespace State

theorem raiseVector_host (s : State) (v : Nat) : s.raiseVector v = { s with host := (s.raiseVector v).host } := by
  unfold raiseVector
  split <;> rfl

theorem eventInterrupt_rel (s : State) : s.eventInterrupt = { s with rel := s.eventInterrupt.rel, host := s.eventInterrupt.host } := by
  unfold eventInterrupt
  split
  · rfl
  · rw [raiseVector_host]

/-- An entry that arrives changes the error and event state and the host's interrupts alone. -/
theorem arrive_rel (s : State) (e : Entry) : s.arrive e = { s with rel := (s.arrive e).rel, host := (s.arrive e).host } := by
  unfold arrive
  by_cases h : 5 ≤ e.severity
  all_goals
    simp only [h, if_true, if_false]
    split
    · rfl
    · split
      · rw [eventInterrupt_rel]
      · rfl

/-- An event changes the error and event state and the host's interrupts, and draws free values; nothing else. -/
theorem record_rel (s : State) (code dom idx : Nat) (sag : Option Nat) (job : Nat) (payload : List Byte) :
    s.record code dom idx sag job payload =
      { s with rel := (s.record code dom idx sag job payload).rel, host := (s.record code dom idx sag job payload).host,
               free := (s.record code dom idx sag job payload).free } := by
  unfold record
  dsimp only
  split
  · rw [arrive_rel]; rfl
  · split
    · rw [arrive_rel]; rfl
    · rfl

@[simp] theorem record_pending (s : State) (c d i : Nat) (g : Option Nat) (j : Nat) (p : List Byte) : (s.record c d i g j p).pending = s.pending := by
  rw [record_rel]
@[simp] theorem record_mem (s : State) (c d i : Nat) (g : Option Nat) (j : Nat) (p : List Byte) : (s.record c d i g j p).mem = s.mem := by
  rw [record_rel]
@[simp] theorem record_pkg (s : State) (c d i : Nat) (g : Option Nat) (j : Nat) (p : List Byte) : (s.record c d i g j p).pkg = s.pkg := by
  rw [record_rel]
@[simp] theorem record_fw (s : State) (c d i : Nat) (g : Option Nat) (j : Nat) (p : List Byte) : (s.record c d i g j p).fw = s.fw := by
  rw [record_rel]
@[simp] theorem record_sec (s : State) (c d i : Nat) (g : Option Nat) (j : Nat) (p : List Byte) : (s.record c d i g j p).sec = s.sec := by
  rw [record_rel]
@[simp] theorem recordFw_pending (s : State) (r c : Nat) (g : Option Nat) (j : Nat) (p : List Byte) : (s.recordFw r c g j p).pending = s.pending :=
  record_pending ..
@[simp] theorem recordFw_mem (s : State) (r c : Nat) (g : Option Nat) (j : Nat) (p : List Byte) : (s.recordFw r c g j p).mem = s.mem :=
  record_mem ..
@[simp] theorem recordFw_pkg (s : State) (r c : Nat) (g : Option Nat) (j : Nat) (p : List Byte) : (s.recordFw r c g j p).pkg = s.pkg :=
  record_pkg ..
@[simp] theorem recordFw_fw (s : State) (r c : Nat) (g : Option Nat) (j : Nat) (p : List Byte) : (s.recordFw r c g j p).fw = s.fw :=
  record_fw ..
@[simp] theorem recordFw_sec (s : State) (r c : Nat) (g : Option Nat) (j : Nat) (p : List Byte) : (s.recordFw r c g j p).sec = s.sec :=
  record_sec ..

/-- A command that ends changes the commands in flight and the completions that wait; nothing else. -/
theorem finish_cmds (s : State) (id st : Nat) (r : Result) :
    s.finish id st r = { s with cmds := (s.finish id st r).cmds, compls := (s.finish id st r).compls } := by
  unfold finish
  repeat' split
  all_goals rfl

theorem setPhase_cmds (s : State) (id : Nat) (ph : Phase) : s.setPhase id ph = { s with cmds := (s.setPhase id ph).cmds } := by
  unfold setPhase
  split <;> rfl

@[simp] theorem finish_pending (s : State) (id st : Nat) (r : Result) : (s.finish id st r).pending = s.pending := by rw [finish_cmds]
@[simp] theorem finish_mem (s : State) (id st : Nat) (r : Result) : (s.finish id st r).mem = s.mem := by rw [finish_cmds]
@[simp] theorem finish_fw (s : State) (id st : Nat) (r : Result) : (s.finish id st r).fw = s.fw := by rw [finish_cmds]
@[simp] theorem finish_sec (s : State) (id st : Nat) (r : Result) : (s.finish id st r).sec = s.sec := by rw [finish_cmds]

end State
end Sys2Proof.Machine
end

