-- ==== Sys2Proof/Tests/Slice0.lean ====
section
/-! SUPPORT. The model's own tests: ill-formed commands that the checks refuse, worked examples of the manual, and for every
statement with hypotheses a concrete state that meets them. -/
namespace Sys2Proof.Tests
open Sys2Proof Sys2Proof.Machine

/-! ### Ill-formed commands -/

/-- A control frame with every field in range, and a data frame. -/
def okFrame : CtlFrame :=
  { type := 1, pondKey := true, srcPos := 255, dstPos := 255, srcPort := 31, srcSaggar := 63, dstSaggar := 63, pourId := 65535
    counter := 0, body := List.replicate 192 0, tag := List.replicate 16 0, crcOk := true }
def okData : DataFrame :=
  { pourId := 0, segment := 1023, frame := 15, hopSrc := 255, hopDst := 255, cascade := false, srcPos := 255, srcSaggar := 63
    dstPos := 255, dstSaggar := 63, window := 0, offset := 0, counter := 0, payload := [], tag := List.replicate 16 0
    fecCorrected := 0, fecBad := 0, crcOk := true }

set_option maxRecDepth 100000 in
theorem test_wf_frames : okFrame.wf = true ∧ okData.wf = true := by decide
set_option maxRecDepth 100000 in
theorem test_wf_refuses_frames :
    [{ okFrame with type := 16 }, { okFrame with srcPos := 256 }, { okFrame with dstPos := 256 }, { okFrame with srcPort := 32 },
      { okFrame with srcSaggar := 64 }, { okFrame with dstSaggar := 64 }, { okFrame with pourId := 65536 },
      { okFrame with counter := 2 ^ 64 }, { okFrame with body := [] }, { okFrame with tag := [] }].all (fun f => !f.wf) = true := by
  decide
set_option maxRecDepth 100000 in
theorem test_wf_refuses_data_frames :
    [{ okData with segment := 1024 }, { okData with frame := 16 }, { okData with hopSrc := 256 }, { okData with hopDst := 256 },
      { okData with srcPos := 256 }, { okData with dstPos := 256 }, { okData with srcSaggar := 64 }, { okData with dstSaggar := 64 },
      { okData with tag := [] }].all (fun f => !f.wf) = true := by decide
theorem test_wf_refuses_long_payload (d : DataFrame) (h : 4096 < d.payload.length) : d.wf = false := by
  simp [DataFrame.wf, Nat.not_le.mpr h]
theorem test_wf_refuses_datagrams (d : Datagram) (h : 2 ^ 32 ≤ d.session ∨ 2 ^ 64 ≤ d.seq ∨ [] ∈ d.packets) : d.wf = false := by
  rcases h with h | h | h
  · simp only [Datagram.wf, decide_eq_false (Nat.not_lt.mpr h), Bool.false_and]
  · simp only [Datagram.wf, decide_eq_false (Nat.not_lt.mpr h), Bool.false_and, Bool.and_false]
  · have : d.packets.all (fun b => decide (b.length = 64)) = false := by
      rw [List.all_eq_false]; exact ⟨[], h, by decide⟩
    simp [Datagram.wf, this]
theorem test_wf_refuses_bring_up (e : BringupEnv) (h : 4608 ∈ e.failedSites ∨ 16 ∈ e.failedModules ∨ 32 ∈ e.darkPorts) : e.wf = false := by
  have no : ∀ {p : Nat → Bool} {l : List Nat} {n : Nat}, n ∈ l → p n = false → l.all p = false :=
    fun m q => List.all_eq_false.mpr ⟨_, m, by simp [q]⟩
  rcases h with h | h | h
  · simp [BringupEnv.wf, no h (show siteOk 4608 = false from rfl)]
  · simp [BringupEnv.wf, no h (show moduleOk 16 = false from rfl)]
  · simp [BringupEnv.wf, no h (show portOk 32 = false from rfl)]
theorem test_wf_refuses_units :
    [.fence 4608, .registerWrite 16 0 4 0, .registerWrite 0 0 3 0, .doorbell 0 16384 0, .doorbell 0 0 (2 ^ 32), .coreDoorbell 0 16 false 0 0,
      .columnRefresh 36, .refreshNormalReturn 0 2, .hbmRefresh 512 0, .hbmRefresh 0 64, .sluiceDescriptorComplete 1024, .nbGapEnd 512,
      .nbCoreCommand 0 0 false [], .ringRewetDone 16384, .pourStart 32, .beacon 32 okFrame, .beacon 0 { okFrame with type := 16 },
      .dataFrameReceive 0 { okData with frame := 16 }, .railGood (.vhbm 16), .imageBroadcast 0 [4608],
      .runtimeActivationStart 0 [4608]].all (fun i : Instr => !i.wf) = true := by decide
theorem test_wf_refuses_events :
    [.clusterSwitchStage 1152 0, .clusterStartDeferralEnd 1152 0 0, .regulatorPhaseFault 4608, .rotateDue 64, .keyGraceExpiry 64 0,
      .keyGraceExpiry 0 256, .thermalShutdown 0, .thermalShutdown 4, .coolantOutOfRange 3 0, .fwRoleHandover 6 0, .fwRoleHandover 0 8,
      .controllerHeartbeatMiss 6].all (fun i : Instr => !i.wf) = true := by decide

/-! ### The manual's worked examples -/

/-- The worked example after R4: site (1, 13, 40). -/
theorem test_site_numbers : siteAt 1 13 40 = 2968 ∧ clusterOf 2968 = 740 := by decide
/-- The worked example after R27: straps at levels 1, 2, 0, 1, 2, 0 give position 196; with the sum above 255 it is not valid. -/
theorem test_strap_position : strapValue [1, 2, 0, 1, 2, 0] = 196 ∧ strapsValid [1, 2, 0, 1, 2, 0] = true ∧
    strapsValid [0, 0, 0, 0, 0, 2] = false := by decide
/-- The worked example after R198: channel 413, offset 0x253C40. -/
theorem test_channel_linear : linearBase + 413 * 2 ^ 31 + 0x253C40 = 0x01CE80253C40 ∧ chanOf 0x01CE80253C40 = 413 ∧
    chanOff 0x01CE80253C40 = 0x253C40 := by decide
set_option maxRecDepth 100000 in
/-- The worked example after R86: 0x3F80C000 into BF16 with the two random numbers it gives, and in mode 0. -/
theorem test_bf16_stochastic :
    (encodeElem 1 { mode := 2, ovf := false, r := 0x517A3C } (f32 0x3F80C000)).1 = 0x3F81 ∧
    (encodeElem 1 { mode := 2, ovf := false, r := 0x2B10E4 } (f32 0x3F80C000)).1 = 0x3F80 ∧
    (encodeElem 1 { mode := 0, ovf := false, r := 0 } (f32 0x3F80C000)).1 = 0x3F81 := by decide
set_option maxRecDepth 100000 in
/-- The worked example after R90: a block whose first values are 5.2, −1.3, 0.7 and 0.2 into E2M1. -/
theorem test_e2m1_block :
    let l : List Val := [f32 0x40A66666, f32 0xBFA66666, f32 0x3F333333, f32 0x3E4CCCCD] ++ List.replicate 28 (f32 0)
    let q := encodeBlock 6 (fun _ => { mode := 0, ovf := false, r := 0 }) l
    q.1 = 0x7F ∧ (packElems 6 q.2.1).take 3 = [0xB7, 0x01, 0x00] := by decide
/-- The worked example after R279: depths and ancestor sets of the six nodes. -/
theorem test_tree_sets : Tree.sets { parent := [0xFF, 0xFF, 0, 0, 2, 1], count := 6 } =
    [(0x01, 1), (0x02, 1), (0x05, 2), (0x09, 2), (0x15, 3), (0x22, 2)] := by decide
/-- The example of R451. -/
theorem test_wear_ppm : Wear.ppm { b0 := 164000, b1 := 19200, b2 := 600, b3 := 0, stack := [] } = 293437 := by decide
set_option maxRecDepth 100000 in
/-- GB/T 32905, appendix A.1: the digest of "abc" begins 66C7F0F4. -/
theorem test_sm3_abc : (sm3 [0x61, 0x62, 0x63]).take 4 = [0x66, 0xC7, 0xF0, 0xF4] := by decide
set_option maxRecDepth 100000 in
/-- GB/T 32907, appendix A.1. -/
theorem test_sm4 : sm4 0x0123456789ABCDEFFEDCBA9876543210 0x0123456789ABCDEFFEDCBA9876543210 = 0x681EDF34D206965E86B3E94F536E4246 := by
  decide
/-- The worked example after R451: 4.2 K below the limit give cone 3. -/
theorem test_thermal_cone : coneOfMargin 67 = 3 := by decide
theorem test_glazed_at_reset : State.reset.glazedOk := by decide

/-! ### Small states -/

/-- The package with its input off. -/
def offState : State := { State.reset with pkg := { Pkg.bisque with inputOn := false, vstby := false, enabled := 0 } }
/-- The last VHBM rail is not yet good. -/
def hbmState : State := { State.reset with pkg := { Pkg.bisque with vhbm := 0x7FFF, vhost := false, vopt := false, enabled := 5 } }
/-- In holdover. -/
def holdState : State := { State.reset with pkg := { Pkg.bisque with holdover := true, locked := false, refPresent := false } }
/-- Under voltage. -/
def lowState : State := { State.reset with power := { Power.bisque 0 with undervolt := true, inputMv := 39000 } }
/-- A request from site 0 to site 48 (die A, row 1, column 0). -/
def pkt : Packet :=
  { dest := 48, core := none, src := 0, vc := 0, priv := true, epochCheck := false, kind := .read 8, saggar := 0, payload := [],
    flits := 0, destEpoch := 0, tag := 1, status := 0, isResponse := false, address := 0, operand := 0, inline := [],
    remotePos := none, home := 0 }
/-- One with more than 64 flits, from site 1. -/
def pktBad : Packet := { pkt with src := 1, vc := 2, flits := 65 }
/-- One to a core that no column holds. -/
def pktFar : Packet := { pkt with core := some 4416 }
/-- A response to site 0. -/
def pktAnswer : Packet := { pkt with dest := 0, src := 48, vc := 1, isResponse := true }
def meshState : State := { State.reset with outq := [pkt, pktBad], sites := [(0, { Site.bisque 0 with pri := Shape.openBisque })] }
/-- A request, a response, a cascade node and an all-or word on the mesh. -/
def netState : State := { State.reset with net := [pkt, pktAnswer, { pkt with src := 2, kind := .casNode }, { pkt with src := 3, kind := .allorUp }] }
/-- The same with site 0 in reset. -/
def resetSite : State := { netState with sites := [(0, { Site.bisque 0 with inReset := true })] }
def mapDue : Remap :=
  { die := 0, row := 0, retired := 3, spare := some 46, moves := [(46, 3)], waitFor := [], sinceUs := 0, timeoutSeen := false }
def mapLate : Remap := { mapDue with waitFor := [5] }
/-- Rill messages, and a remap change that is due and one that waits for saggar 5. -/
def rillState : State :=
  { State.reset with
    nowUs := 10000000, rill := [.epoch 65535 7 [0, 63], .lagNotice 0 0 0 5], remaps := [mapDue, mapLate]
    saggars := [(5, { Saggar.bisque with active := true })] }
/-- A core that runs in user mode at core store offset 0x10000, where the word `w` stands. -/
def coreState (i w : Nat) : State :=
  { State.reset with
    cores := [(i, { Core.bisque with run := .running, user := true, pc := 0x10000 })]
    mem := [(storeAddr i 0x10000, BitVec.ofNat 8 w), (storeAddr i 0x10001, BitVec.ofNat 8 (w / 256)),
            (storeAddr i 0x10002, BitVec.ofNat 8 (w / 65536)), (storeAddr i 0x10003, BitVec.ofNat 8 (w / 16777216))] }
/-- The core owned by saggar 5, with aperture 0 at its own column memory and x1 at its start. -/
def aperState (w : Nat) : State :=
  { coreState 0 w with
    clusters := [(0, { Cluster.bisque with saggar := 5, assigned := true })]
    cores := [(0, { Core.bisque with
      run := .running, user := true, pc := 0x10000, x := [(1, 0x80000000)]
      apers := [(0, { base := columnBase / 0x10000000, epochCheck := true, enable := true })] })] }
def aperLoad : State := aperState 0x0000A083
def aperStore : State := aperState 0x0020A023
/-- A FENCE with a posted store unanswered. -/
def postedState : State :=
  { coreState 0 0x0110000F with cores := [(0, { Core.bisque with run := .running, user := true, pc := 0x10000, posted := [7] })] }
/-- Site 0 trapped with ECALL, site 4,607 with an illegal instruction. -/
def trapState : State :=
  { State.reset with
    sites := [(4607, { Site.bisque 4607 with gated := false })]
    cores := [(0, { Core.bisque with run := .trapped 8 0 }), (4607, { Core.bisque with run := .trapped 2 7 })] }
/-- TLD of shape 6 (a scale block, 32 bytes) to TL0 from the address in x1. -/
def tldWord : Nat := 0x0B + 1 * 32768 + 6 * 33554432
def tstWord : Nat := tldWord + 4096
def withX1 (s : State) : State := s.modCore 0 (fun k => { k with x := [(1, 0x10000)] })
def tldState : State := withX1 (coreState 0 tldWord)
def tstState : State := withX1 (coreState 0 tstWord)
/-- TCAS.OPEN of AC0 with NB in x1 and NEXT and the identifier in x0. -/
def openWord : Nat := 0x5B + 1 * 32768
def openState : State := (coreState 0 openWord).modCore 0 (fun k => { k with x := [(1, 1)] })
/-- AC0 has an open block of one group and an open reduction of one block. -/
def accState (w : Nat) : State :=
  (coreState 0 w).modCore 0 (fun k => { k with acc0 := { Acc.clear with isOpen := true, groups := 1, redOpen := true, nb := 1 } })
/-- AC0's reduction of two blocks holds node 0 of level 0. -/
def someNode : Node := { slot := 0, lvl := 0, idx := 0, isPre := false, val := [] }
def nodeState (w : Nat) : State :=
  (coreState 0 w).modCore 0 (fun k => { k with acc0 := { Acc.clear with redOpen := true, nb := 2, next := 1, nodes := [someNode] } })
/-- AC0's reduction has its root, or has failed. -/
def rootState (w : Nat) : State :=
  (coreState 0 w).modCore 0 (fun k => { k with acc0 := { Acc.clear with redOpen := true, nb := 1, next := 1, root := some someNode } })
def failState (w : Nat) : State :=
  (coreState 0 w).modCore 0 (fun k => { k with acc0 := { Acc.clear with redOpen := true, nb := 1, failed := true } })
/-- A core with a contribution: one member, itself, whose word is there already. -/
def aorState (w : Nat) (isOpen done : Bool) : State :=
  (coreState 0 w).modCore 0 (fun k => { k with aorCount := 1, aor := { k.aor with isOpen := isOpen, done := done } })
/-- It waits in TAOR.W. -/
def aorWait (done expired : Bool) : State :=
  (coreState 0 0).modCore 0 (fun k => { k with run := .waitAor 3, aor := { k.aor with isOpen := !expired, done := done, expired := expired } })
/-- A core waits in TCAS.FOLD of AC0. -/
def foldWait (root : Option Node) (failed : Bool) : State :=
  { (coreState 0 0).modCore 0 (fun k => { k with run := .waitFold 0 0 0, acc0 := { Acc.clear with redOpen := true, nb := 1, root := root, failed := failed } }) with
    nowUs := 100000 }
/-- A core in its kernel's trap handler. -/
def handlerState : State := (coreState 0 0x0000705B).modCore 0 (fun k => { k with kactive := true, kepc := 0x10040 })
/-- A read at channel 0 and a write at channel 511. -/
def pktStack : Packet := { pkt with dest := 4608, address := 0x10000000000 }
def pktStore : Packet := { pkt with dest := 5119, kind := .write, payload := [7], address := linOf 511 0x7FFFFFFF }
def portState : State := { State.reset with net := [pktStack, pktStore] }
def stepState : State := { portState with nbs := [(0, { Nb.bisque with state := .inStep })] }
def hotState : State := State.reset.setBlock 0 { Block.bisque with double0 := true, double1 := true }
/-- Saggar 5 owns granule 0; sluice 7 is its own, with descriptor ring 100 at the start of channel 0. -/
def saggarState : State :=
  { State.reset with
    saggars := [(5, { Saggar.bisque with active := true })]
    owners := [(0, { saggar := 5, assigned := true, carveout := false })] }
def ringOf7 : Ring := { Ring.unset with role := .descriptor, saggar := 5, pair := 101, entries := 256, base := 0x10000000000, tail := 2 }
def sluiceState (type : Nat) : State :=
  { saggarState with
    sluices := [(7, { Sluice.bisque with saggar := 5, valid := true, ring := 100, state := .idle })]
    rings := [(100, ringOf7)]
    mem := [(0x10000000000, BitVec.ofNat 8 type)] }
/-- A SIGNAL of eight zero bytes. -/
def signal (dst : Nat) : List Byte := [5] ++ List.replicate 31 0 ++ leBytes 8 dst ++ List.replicate 88 0
/-- An uncorrectable upset of the first unit of channel 0. -/
def badRead : Strikes := { ce := [], ue := [0x10000000000] }
/-- The sluice runs a descriptor; site 0, of the saggar, is in reset. -/
def runningSluice (d : List Byte) : State :=
  { sluiceState 5 with
    sluices := [(7, { Sluice.bisque with saggar := 5, valid := true, ring := 100, state := .running, desc := d })]
    clusters := [(0, { Cluster.bisque with saggar := 5, assigned := true })]
    sites := [(0, { Site.bisque 0 with inReset := true })] }
/-- A command of saggar 5 that may be dispatched, with serial 9, from ring 0. -/
def cmdOf (opcode : Nat) (params : List Byte) : Cmd :=
  { id := 9, origin := .ring 0, opcode := opcode, irq := false, ordered := false, saggar := 5, oper := false, tag := 1, txn := 0, job := 0,
    params := params, phase := .accepted, updates := 0 }
/-- One of the operator. -/
def operCmd (opcode : Nat) (params : List Byte) : Cmd := { cmdOf opcode params with oper := true, saggar := 0 }
def haltedSluice (mode : Byte) (unread : Bool) : State :=
  { sluiceState 5 with
    sluices := [(7, { Sluice.bisque with
      saggar := 5, valid := true, ring := 100, state := .halted, haltStatus := 0x0520, desc := signal 0, unread := unread })]
    cmds := [cmdOf 0x210 [7, 0, mode]] }
def resetSluice : State := { State.reset with sluices := [(1023, { Sluice.bisque with state := .inReset })] }
/-- Bytes as memory from an address. -/
def memFrom (a : Nat) (bs : List Byte) : List (Nat × Byte) := (bs.zipIdx.filter (fun p => p.1 != 0)).map (fun p => (a + p.2, p.1))
/-- A launch descriptor: an image of 8 bytes for core 0 at the start of the kernel area. -/
def launchDesc : List Byte :=
  leBytes 4 0 ++ leBytes 4 8 ++ leBytes 8 0x10000000400 ++ leBytes 4 0x10000 ++ leBytes 4 0x10000 ++ leBytes 4 0 ++ leBytes 2 0 ++ leBytes 2 1 ++
  leBytes 8 0x10000000200 ++ leBytes 8 0 ++ leBytes 8 0x10000000300 ++ leBytes 8 0
def launchCmd : Cmd := cmdOf 0x100 (leBytes 8 0x10000000000)
def launchState (_ : Bool) : State :=
  { saggarState with
    clusters := [(0, { Cluster.bisque with saggar := 5, assigned := true })], mem := memFrom 0x10000000000 launchDesc, cmds := [launchCmd] }
def launchOf (ready : Bool) : Launch :=
  { cmd := 9, saggar := 5, job := 0, statusAddr := noAddr, desc := launchDesc, started := false, imageReady := ready
    ranks := [Rank.mk 0 0 false 4 0 0], aborts := [] }
def launchBcast : Bcast := { launch := 9, image := [], loadAt := 0x10000, missing := [], tries := 0 }
/-- The launch is queued, its image broadcast or not. -/
def queuedLaunch (ready : Bool) : State :=
  { launchState true with cmds := [{ launchCmd with phase := .queued }], launches := [launchOf ready], bcasts := [launchBcast] }
/-- A KABORT of a tag of ring 0. -/
def abortState (tag : Byte) : State :=
  { queuedLaunch true with cmds := [{ launchCmd with phase := .queued }, { operCmd 0x101 [tag, 0, 0, 0] with id := 10 }] }
/-- A command for near-bank unit 3, on which saggar 5 has a share: one micro-operation at offset 0, and a status word. -/
def nbCmd (opcode : Nat) : Cmd := cmdOf opcode ([3, 0, 1, 0, 0, 0, 0, 0] ++ leBytes 8 0x10000000000 ++ List.replicate 16 0)
def nbShare : Nb := { Nb.bisque with shares := [(5, 100)] }
def nbState (opcode : Nat) : State := { saggarState with nbs := [(3, nbShare)], cmds := [nbCmd opcode] }
/-- A sequence with tag 1 of saggar 5. -/
def nbSeq1 : NbSeq := State.runSeq none 5 1 0 0 (fun lo n => fieldAt ([3, 0, 1, 0, 0, 0, 0, 0] ++ leBytes 8 0x10000000000) lo n)
def cancelState (opcode : Nat) : State := { nbState opcode with nbs := [(3, { nbShare with queue := [nbSeq1] })] }
def attnCmd : Cmd := cmdOf 0x403 ([3, 0, 0, 0, 0, 0, 0, 0] ++ leBytes 8 0x1000 ++ leBytes 8 0x10000000000 ++ List.replicate 16 0)
def attnState : State := { saggarState with nbs := [(3, nbShare)], cmds := [attnCmd] }
/-- The core of site 0 runs for saggar 5, and unit 3 holds a queued sequence. -/
def nbCoreState : State :=
  { saggarState with
    nbs := [(3, { nbShare with queue := [nbSeq1] })]
    clusters := [(0, { Cluster.bisque with saggar := 5, assigned := true })]
    cores := [(0, { Core.bisque with run := .running })] }
def nbPacket (opcode : Nat) : List Byte :=
  leBytes 2 opcode ++ List.replicate 14 0 ++ [3, 0, 1, 0, 0, 0, 0, 0] ++ leBytes 8 0x10000000000 ++ List.replicate 16 0
def nbRun1 : NbRunning :=
  { seq := nbSeq1, ops := [], left := [], opsDone := 0, steps := 0, flags := Flags.none, carry := [], fail := 0 }
def nbUnitState (st : NbSt) (asked : Bool) : State :=
  { saggarState with nbs := [(3, { nbShare with state := st, running := some nbRun1, resetAsked := asked })] }
def askedState : State := { saggarState with nbs := [(3, { nbShare with resetAsked := true })] }
/-- A KV command for sluice 7 of saggar 5. -/
def kvCmd (opcode : Nat) : Cmd := cmdOf opcode (leBytes 8 7 ++ leBytes 8 0x10000000000)
def kvState (opcode : Nat) (ph : Phase) : State :=
  { sluiceState 0 with rings := [(100, { ringOf7 with tail := 0 })], cmds := [{ kvCmd opcode with phase := ph }] }
def noSluice (opcode : Nat) : State := { saggarState with cmds := [kvCmd opcode] }
/-- An earlier service writes the same page. -/
def kvBehind : State :=
  { kvState 0x401 .queued with
    cmds := [{ kvCmd 0x401 with id := 8, phase := .queued }, { kvCmd 0x401 with phase := .queued }]
    kvs := [(8, [0x10000000000], true), (9, [0x10000000000], true)] }
/-- A training state command for unit or sluice 7, with a gate and a condition. -/
def gateAt : Nat := 0x10000000040
def trainCmd (opcode gate cond : Nat) : Cmd :=
  cmdOf opcode (leBytes 8 7 ++ leBytes 8 0x1000 ++ leBytes 8 0x10000000000 ++ leBytes 8 gate ++ leBytes 8 0 ++ leBytes 4 cond ++ leBytes 4 5)
def trainState (opcode gate cond : Nat) (ph : Phase) : State :=
  { kvState opcode ph with nbs := [(7, nbShare)], cmds := [{ trainCmd opcode gate cond with phase := ph }] }
/-- A held TS_AUDIT of step 0, whose gate holds a step, its VALID bit and the decision not to skip. -/
def heldTrain : Cmd := { trainCmd 0x503 gateAt 1 with phase := .held 0 }
def gateState (valid step : Nat) : State :=
  { trainState 0x503 gateAt 1 (.held 0) with
    nowUs := 5, mem := memFrom gateAt (leBytes 8 step ++ leBytes 4 0 ++ leBytes 4 valid) }
/-- A core of saggar 5 that runs, beside its descriptor ring 100. -/
def bellState : State :=
  { sluiceState 0 with
    clusters := [(0, { Cluster.bisque with saggar := 5, assigned := true })]
    sites := [(0, { Site.bisque 0 with pri := Shape.openBisque })]
    cores := [(0, { Core.bisque with run := .running })] }
/-- One packet in ring 0, or in tenant ring 100. -/
def fetchState : State := State.reset.modRing 0 (fun r => { r with tail := 1 })
def tenantRing : Ring := { ringOf7 with role := .submission, tail := 1 }
def tenantFetch : State :=
  { saggarState with
    saggars := [(5, { Saggar.bisque with active := true, inflightShare := 1 })], rings := [(100, tenantRing)] }
/-- A completion for ring 101 with `tail` entries outstanding. -/
def complOf : Compl :=
  { target := .ring 101, cmd := none, tag := 1, status := 0, progress := 0, r0 := 0, r1 := 0, r2 := 0, r3 := 0, ring := 100, irq := false,
    opcode := 0, desc := false, job := 0 }
def complState (tail stall : Nat) : State :=
  { saggarState with
    nowUs := 1000, compls := [complOf]
    rings := [(101, { Ring.unset with
      role := .completion, saggar := 5, entries := 256, base := 0x10000000000, tail := tail, vector := 1, irqPending := 1
      stalled := stall == 1, slotPoisoned := stall == 1 })] }
/-- A settings command of the operator in transaction 3, open since the start, after 10 s. -/
def txnCmd (opcode : Nat) (params : List Byte) : Cmd := { operCmd opcode params with txn := 3 }
def txnState (opcode : Nat) (params : List Byte) (committing : Bool) : State :=
  { State.reset with
    nowUs := 10000000, cmds := [txnCmd opcode params]
    txns := [{ id := 3, saggar := 0, oper := true, session := none, beganUs := 0, beganAt := 0, entries := [], committing := committing }] }
def openTxn : Txn :=
  { id := 3, saggar := 0, oper := true, session := none, beganUs := 0, beganAt := 0, entries := [], committing := false }
def manyTxns : State := { txnState 0x008 [] false with txns := List.replicate 64 openTxn }
/-- CFG_SET of CARVEOUT_ACCESS of saggar 5 to 1; CFG_GET of register 0 and of that setting. -/
def setOne : List Byte := List.replicate 8 0 ++ leBytes 2 0x0202 ++ leBytes 2 1 ++ leBytes 4 5 ++ leBytes 8 1
def getReg : List Byte := leBytes 2 1 ++ leBytes 2 0 ++ leBytes 4 0
def getSet : List Byte := leBytes 2 0x0202 ++ leBytes 2 0 ++ leBytes 4 5
/-- A commit of transaction 3 waits for saggars of which 5 has a running sluice. -/
def commitState (waits : List Nat) : State :=
  { txnState 0x00A [] true with
    commits := [{ cmd := 9, txn := 3, waitFor := waits, sinceUs := 0, applied := false, waitedUs := 0, rewets := [] }]
    saggars := [(5, { Saggar.bisque with active := true, quiescing := 1 })]
    sluices := [(7, { Sluice.bisque with saggar := 5, valid := true, state := .running })] }
/-- An entry that gives granule 5 to saggar 5, and a commit whose entries are in force while granule 5 is being filled. -/
def granEntry : CfgEntry := { setting := 0x0200, index := 5, run := 1, value := 0x45 }
def appliedState : State :=
  { commitState [] with
    filling := [5], commits := [{ cmd := 9, txn := 3, waitFor := [], sinceUs := 0, applied := true, waitedUs := 7, rewets := [] }] }
/-- A job command of saggar 5, with the jobs open. -/
def jobOf (closing : Option Nat) : Job := { saggar := 5, id := 7, busy := 1, idle := 2, openedUs := 0, lastUs := 999, closing := closing }
def jobState (opcode job : Nat) (l : List Job) : State := { saggarState with jobs := l, cmds := [{ cmdOf opcode [] with job := job }] }
def closingJob : State :=
  { jobState 0x019 7 [jobOf (some 9)] with nowUs := 1000, cmds := [{ cmdOf 0x019 [] with job := 7, phase := .running }] }
def ringResetState (inReset : Bool) (sag : Nat) : State :=
  { sluiceState 0 with rings := [(100, { ringOf7 with inReset := inReset, saggar := sag })], cmds := [cmdOf 0x020 [100, 0]] }
/-- A reset command of saggar 5; cluster 1 is of a saggar. -/
def rstState (opcode : Nat) (params : List Byte) (sag : Nat) : State :=
  { saggarState with clusters := [(1, { Cluster.bisque with saggar := sag, assigned := true })], cmds := [cmdOf opcode params] }
/-- Every site of cluster 1 is in a reset already. -/
def takenState : State :=
  { rstState 0x910 [1, 0] 5 with
    cmds := [operCmd 0x910 [1, 0]], clusters := []
    sites := [(2, { Site.bisque 2 with inReset := true }), (3, { Site.bisque 3 with inReset := true }),
              (50, { Site.bisque 50 with inReset := true }), (51, { Site.bisque 51 with inReset := true })]
    fw := { State.reset.fw with resets := [{ cmd := none, sites := [2, 3, 50, 51], sluices := [], rings := [], units := [], closing := none, wake := false }] } }
def busyState : State :=
  { rstState 0x912 [0] 5 with fw := { State.reset.fw with activation := some { cmd := 8, slot := 1, floor := false, moved := [], lastUs := 0 } } }
/-- Site 1 is in a reset that may end. -/
def rewetState (auto : Bool) : State :=
  { State.reset with
    sites := [(1, { Site.bisque 1 with inReset := true })], rel := { State.reset.rel with autoRetire := auto }
    fw := { State.reset.fw with resets := [{ cmd := none, sites := [1], sluices := [], rings := [], units := [], closing := none, wake := false }] } }
/-- An operator command that may be dispatched. -/
def operState (opcode : Nat) (params : List Byte) : State := { State.reset with cmds := [operCmd opcode params] }
def leakState : State :=
  { State.reset with
    nowUs := 10 ^ 12, rel := { State.reset.rel with regions := [(7, { Region.bisque with level := 3 })] } }
/-- A scrub of one unit of channel 0. -/
def scrubCmd (len : Nat) : Cmd := operCmd 0x800 (leBytes 8 0x10000000000 ++ leBytes 8 len ++ leBytes 8 0)
def scrubOf (started : Bool) (fixed : Nat) : Scrub :=
  { cmd := 9, addr := 0x10000000000, length := 64, statusAddr := noAddr, started := started, read := 1, corrected := fixed, bad := 0, marked := 0, status := 0 }
def scrubState (l : List Scrub) (ph : Phase) : State :=
  { saggarState with cmds := [{ scrubCmd 64 with phase := ph }], rel := { State.reset.rel with scrubs := l } }
/-- One entry in the cistern, that waits for the mirror; CIS_READ of it into the carve-out. -/
def entryOf4 : Entry :=
  { seq := 4, slot := 0, code := 0x9001, severity := 5, mirrored := false, hasSaggar := false, saggar := 0, domain := 5, index := 0
    originCount := 0, suppressed := 0, job := 0, payload := [] }
def cisCmd : Cmd := { cmdOf 0x808 (leBytes 8 0 ++ leBytes 8 0x10000000000 ++ leBytes 2 1 ++ [0]) with oper := true }
def bigRead : Cmd := { cmdOf 0x808 (leBytes 8 0 ++ leBytes 8 (linOf 0 0) ++ leBytes 2 1025 ++ [0]) with oper := true }
def bigState : State :=
  { saggarState with cmds := [bigRead], owners := (List.range 17).map (fun g => (g, { saggar := 5, assigned := true, carveout := false })) }
def cisState : State :=
  { saggarState with cmds := [cisCmd], rel := { State.reset.rel with entries := [entryOf4], toMirror := [entryOf4] } }
/-- FW_STAGE of 256 bytes of channel 0 into the free slot of kind 0. -/
def stageCmd : Cmd := { cmdOf 0x920 (leBytes 8 0 ++ leBytes 8 0x10000000000 ++ leBytes 4 256) with oper := true }
def stageState : State := { saggarState with cmds := [stageCmd] }
/-- Both slots of both kinds hold an image. -/
def actState (params : List Byte) : State :=
  { saggarState with
    cmds := [operCmd 0x921 params]
    fw := { State.reset.fw with
      slotsMgmt := [(0, { image := [], ok := true }), (1, { image := [], ok := true })]
      slotsRun := [(0, { image := [], ok := true }), (1, { image := [], ok := true })] } }
def actOf (moved : List Nat) : Activation := { cmd := 9, slot := 1, floor := false, moved := moved, lastUs := 0 }
def handState (moved : List Nat) : State :=
  { State.reset with nowUs := 1000000, fw := { State.reset.fw with activation := some (actOf moved) } }
def rtOf (started : Bool) : RtActivation :=
  { cmd := 9, slot := 1, floor := false, all := false, left := [5], sites := 0, sinceUs := 0, started := started }
/-- A runtime activation of saggar 5, which is quiescent or runs a launch. -/
def rtState (started : Bool) (busy : Nat) : State :=
  { saggarState with
    nowUs := 10000000
    saggars := [(5, { Saggar.bisque with active := true, quiescing := if started then 1 else 0 })]
    fw := { State.reset.fw with rtActivation := some (rtOf started) }
    sluices := if busy = 0 then [] else [(7, { Sluice.bisque with saggar := 5, valid := true, state := .running })]
    launches := if busy = 0 then [] else [{ launchOf true with started := true }] }
def drainState : State := { State.reset with fw := { State.reset.fw with draining := [(9, 3)] } }
/-- A GLAZE_SET of VARIANT with an authorisation of 64 bytes in channel 0. -/
def authCmd : Cmd := { cmdOf 0x930 (leBytes 4 0 ++ leBytes 4 1 ++ leBytes 8 0x10000000000 ++ leBytes 4 64) with oper := true }
def authState : State := { saggarState with cmds := [authCmd] }
/-- A security command of saggar 5, with an identity. -/
def secState (opcode : Nat) (params : List Byte) : State :=
  { saggarState with cmds := [cmdOf opcode params], sec := { State.reset.sec with identityOk := true, certificate := some [7] } }
def quoteParams : List Byte := leBytes 8 0x10000000000 ++ leBytes 4 20000 ++ [1, 5]
def wrapParams : List Byte := leBytes 8 0x10000000000 ++ leBytes 8 0x10000000100
def pairParams : List Byte := [1, 5, 2, 0, 0, 0, 0, 0] ++ leBytes 8 0x10000000000
def pondCmd : Cmd := { cmdOf 0xA04 ([0, 4, 0, 0, 0, 0, 0, 0] ++ leBytes 8 0x10000000000) with oper := true }
def pondState : State := { secState 0 [] with cmds := [pondCmd] }
def mgmt3 : MgmtSession := { id := 3, key := 1, seqs := [8], lastUs := 0, sender := 1, record := [], sent := [] }
/-- A pair key in its grace, and session 3 of the management link. -/
def graceState (now : Nat) : State :=
  { State.reset with
    nowUs := now, fab := { State.reset.fab with linkUp := true, sessions := [mgmt3] }
    sec := { State.reset.sec with pairKeys := [(1283, { key := 1, previous := some 2, changedUs := 0 })] } }
/-- A power command of saggar 5, which owns cluster 0. -/
def powerState (opcode : Nat) (params : List Byte) : State :=
  { saggarState with cmds := [cmdOf opcode params], clusters := [(0, { Cluster.bisque with saggar := 5, assigned := true })] }
def sleepState (opcode : Nat) : State :=
  { powerState opcode [0, 0, 1, 0] with clusters := [(0, { Cluster.bisque with saggar := 5, assigned := true, asleep := true })] }
def busyCluster : State := { powerState 0x701 [0, 0, 1, 0] with cores := [(0, { Core.bisque with launch := some (8, 0) })] }
/-- Cluster 7 waits to switch on, or ramps. -/
def rampState (staging deferred : Bool) : State :=
  { State.reset with clusters := [(7, { Cluster.bisque with wantOn := true, staging := staging, deferred := deferred })] }
def darkState : State := { State.reset with clusters := [(7, { Cluster.bisque with dark := true, phasesOk := 3 })] }
def litState : State := { State.reset with clusters := [(7, { Cluster.bisque with phasesOk := 3 })] }
def leaseOf (running : Bool) : Lease := { watts := 5, peer := 1, seq := 1, running := running, sinceUs := 0 }
def leaseState (now : Nat) : State :=
  { State.reset with
    nowUs := now, power := { State.reset.power with lastRecompute := 0, borrowed := [leaseOf false], lent := [leaseOf true] } }
def staleState (stale : Bool) (now : Nat) : State :=
  { State.reset with nowUs := now, thermal := { State.reset.thermal with kilnStale := stale, lastUpdateUs := 0, staleRaises := 0 } }
def coolState (set : Bool) (flow : Nat) : State :=
  { State.reset with
    domains := [(1174, { Domain.bisque with mean := 1000000, voltMv := 48000 })]
    thermal := { State.reset.thermal with coolantOor := set, flowLimited := set, flow := flow } }
/-- A cluster with a thermal cone of `cone`, and flow asked. -/
def warmState (cone flow : Nat) : State :=
  { State.reset with
    clusters := [(0, { Cluster.bisque with thermalCone := cone, cone := 1 })]
    thermal := { State.reset.thermal with flowAsk := true, flow := flow, flowWant := 1 } }
/-- THM_RANK of the one core 0, listed at the start of channel 0. -/
def rankCmd : Cmd := cmdOf 0x708 (leBytes 8 0x10000000000 ++ leBytes 2 1)
def rankState : State :=
  { saggarState with cmds := [rankCmd], clusters := [(0, { Cluster.bisque with saggar := 5, assigned := true })] }
def quietState : State := { State.reset with thermal := { State.reset.thermal with flowAsk := false } }
/-- Port 0 is UP with a pond key; the package stands at position 0, and saggar 5 shares a key with saggar 5 of position 1. -/
def fabState (f : Port → Port) : State :=
  { saggarState with
    nowUs := 1000001
    ports := [(0, f { Port.bisque .noKey with state := .up, synced := true })]
    saggars := [(5, { Saggar.bisque with active := true, fabShare := 1 })]
    fab := { State.reset.fab with peers := [(1281, 69)] }
    sec := { State.reset.sec with pondKeys := [(0, 7)], pairKeys := [(1281, { key := 9, previous := none, changedUs := 0 })] } }
/-- A frame from position 1 on port 0, before its tag. -/
def frameOf (type : Nat) (body : List Byte) : CtlFrame :=
  { type := type, pondKey := State.pondType type, srcPos := 1, dstPos := if State.pondType type then 0xFF else 0, srcPort := 0, srcSaggar := 5, dstSaggar := 5,
    pourId := 3, counter := 1, body := body, tag := [], crcOk := true }
def sealedF (f : CtlFrame) : CtlFrame := { f with tag := ctlTag f (if f.pondKey then 7 else 9) }
/-- Number of the replay windows of a type's key, and the state after one of its frames is heard. -/
def windowOf (type : Nat) : Nat := if State.pondType type then 2 * State.pondKeyId 0 else 2 * State.pairKeyId 1281
def heardState (type : Nat) (g : Port → Port) : State := ((fabState g).replayNote (windowOf type * 32 + 0) 1).portCount 0 cFramesRx 1
/-- Its frames pass: every check of `hear` holds, and the tag is that of the key. -/
theorem hear_sealed (type : Nat) (h : type < 13) (body : List Byte) (g : Port → Port)
    (hg : (g { Port.bisque .noKey with state := .up, synced := true }).state = .up) :
    (fabState g).hear 0 type (sealedF (frameOf type body)) = (heardState type g, true) := by
  have hp : (fabState g).port 0 = g { Port.bisque .noKey with state := .up, synced := true } := rfl
  have ht : ∀ k, k = (if State.pondType type then 7 else 9) → ((sealedF (frameOf type body)).tag == ctlTag (sealedF (frameOf type body)) k) = true := by
    intro k hk; subst hk; exact beq_self_eq_true _
  have hd : ¬((sealedF (frameOf type body)).dstPos ≠ (fabState g).pkg.posValue ∧
      ¬((sealedF (frameOf type body)).pondKey = true ∧ (sealedF (frameOf type body)).dstPos = 0xFF)) := by
    show ¬((if State.pondType type then 0xFF else 0) ≠ 0 ∧ ¬(State.pondType type = true ∧ (if State.pondType type then 0xFF else 0) = 0xFF))
    cases State.pondType type <;> decide
  have ho : (fabState g).onPond 0 (sealedF (frameOf type body)).srcPos = true := by
    show (if (0 : Nat) < 16 then 1 / 16 == (0 : Nat) / 16 else 1 % 16 == (0 : Nat) % 16) = true
    decide
  have hk : ((fabState g).rxKeys (sealedF (frameOf type body)).pondKey 0 (sealedF (frameOf type body)).dstSaggar (sealedF (frameOf type body)).srcPos) =
      [((if State.pondType type then 7 else 9), if State.pondType type then 2 * State.pondKeyId 0 else 2 * State.pairKeyId 1281)] := by
    show (fabState g).rxKeys (State.pondType type) 0 5 1 = _
    cases State.pondType type <;> rfl
  unfold State.hear
  rw [if_neg (by rw [hp, hg]; decide), if_neg (by show ¬((!true || decide (13 ≤ type)) = true); simp; omega), if_neg (by show ¬(type ≠ type); simp),
    if_neg hd, if_neg (by simp [ho]; intro _ h; exact absurd rfl h), if_neg (by show ¬(State.pondType type ≠ State.pondType type); simp)]
  unfold State.authenticate
  have hb := ht _ rfl
  rw [hk, List.find?_cons]
  simp only [hb]
  have hr : ∀ w, (fabState g).replayOk w (sealedF (frameOf type body)).counter = true := fun _ => rfl
  simp only [hr, if_true]
  rfl
def txOf (tries at_ : Nat) : TxFrame := { frame := { frameOf 12 [] with srcPos := 0 }, tries := tries, notBefore := at_, firstUs := 0, packet := none }
def queued (tries at_ : Nat) (p : Port) : Port := { p with txq := [txOf tries at_] }
def inState (st : PortSt) (p : Port) : Port := { p with state := st }
def leads (yes : Bool) (p : Port) : Port := { p with leader := yes, beaconUs := 3 }
def member (p : Port) : Port := { p with present := [3, 4], heardUs := [(3, 1), (4, 999999)] }
/-- FAB_POUR of `len` bytes of channel 0 to window 0 of position 1, on plane 0. -/
def pourCmd (len : Nat) : Cmd := cmdOf 0x600 (leBytes 8 0x10000000000 ++ leBytes 8 0 ++ leBytes 4 len ++ [1, 0, 0, 0] ++ leBytes 8 0)
def pourCmdState (len : Nat) : State :=
  { fabState id with cmds := [pourCmd len], owners := (List.range 64).map (fun g => (g, { saggar := 5, assigned := true, carveout := false })) }
def windowCmd (w len : Nat) : Cmd := cmdOf 0x602 (leBytes 8 w ++ leBytes 8 0x10000000000 ++ leBytes 4 len ++ [1, 0, 100, 0])
def windowState (w len : Nat) : State :=
  { fabState id with cmds := [windowCmd w len], rings := [(100, { Ring.unset with role := .completion, saggar := 5 })] }
/-- A cascade pour of saggar 5 to position 1. -/
def pourAt (st : PourSt) (sends queries : Nat) : Pour :=
  { (fabState id).pourOf (pourCmd 262144) with
    cmd := none, pourId := 3, stage := st, sends := sends, queries := queries }
def pours (st : PourSt) (sends queries : Nat) (p : Port) : Port := { p with current := some (pourAt st sends queries) }
def waits (p : Port) : Port := { p with queue := [pourAt .waiting 0 0] }
def awaits (p : Port) : Port := { p with awaiting := [pourAt .relaying 0 0] }
/-- Reservations in the queue of a port, and a pour that a port receives. -/
def manyResvs (n : Nat) (p : Port) : Port := { p with resvs := List.replicate n (State.resvOf (frameOf 2 [])) }
def recvOf (timed started closing : Bool) : Recv :=
  { resv := { State.resvOf (frameOf 2 []) with length := 327680 }, relay := none, base := 0x10000000000, arriveRing := 100, frames := []
    kept := [], written := [], bytes := 0, rounds := 0, lastSeg := 4, timed := timed, started := started, sinceUs := 0, answers := []
    closing := closing }
def takes (timed started closing : Bool) (p : Port) : Port := { p with recv := some (recvOf timed started closing) }
def dataOf (segment frame : Nat) : DataFrame :=
  { pourId := 3, segment := segment, frame := frame, hopSrc := 1, hopDst := 0, cascade := false, srcPos := 1, srcSaggar := 5, dstPos := 0
    dstSaggar := 5, window := 0, offset := 0, counter := 1, payload := [], tag := [], fecCorrected := 0, fecBad := 0, crcOk := true }
/-- A frame for position 16, on the column pond; bodies of MESH frames; a package in power group 2. -/
def viaFrame : CtlFrame := { frameOf 9 [] with dstPos := 16 }
def responseBody : List Byte := headerFlit { pktAnswer with vc := 1 }
def nodeBody : List Byte := headerFlit { pkt with kind := .casNode, vc := 2, address := 0 }
def groupState : State := { fabState id with power := { State.reset.power with powerGroup := 2, lendMax := 10, pkgCap := 100 } }
def optPkt : Packet := { pkt with dest := 5184, src := 0, vc := 2, kind := .casNode }
def optAnswer : Packet := { pktAnswer with dest := 5247 }
def atOptical : State :=
  { fabState id with
    net := [optPkt, optAnswer]
    fab := { (fabState id).fab with gathers := [{ attach := 0, destPos := 1, saggar := 5, packets := [optPkt], sinceUs := 0 }] } }
/-- A package that powered down, is held in reset, or has a bring-up asked for. -/
def bringState (down held : Bool) (ask : Option Bool) : State :=
  { State.reset with
    pkg := { State.reset.pkg with poweredDown := down, heldInReset := held, enabled := if down then 0 else State.reset.pkg.enabled }
    fw := { State.reset.fw with bringup := ask } }

/-! ### States that meet the hypotheses of the statements -/

theorem witness_RailsComeUpInOrder : offState.pkg.inputOn = false ∧ Rail.wf (.vhbm 15) = true ∧ hbmState.pkg.seqStopped = false ∧ railOrder (.vhbm 15) < hbmState.pkg.enabled ∧ hbmState.railGood (.vhbm 15) = false := by decide
theorem witness_RailWindowExpiryStops : hbmState.pkg.seqStopped = false ∧ railOrder (.vhbm 15) < hbmState.pkg.enabled ∧ hbmState.railGood (.vhbm 15) = false := by decide
theorem witness_ClockAndMeshRailEvents : State.reset.up = true ∧ State.reset.pkg.vmesh = true ∧ State.reset.pkg.holdover = false ∧ State.reset.pkg.heldInReset = false ∧ holdState.up = true ∧ holdState.pkg.heldInReset = false ∧ holdState.pkg.holdover = true := by decide
theorem witness_InputVoltageEvents : State.reset.up = true ∧ State.reset.power.undervolt = false ∧ lowState.up = true ∧ lowState.power.undervolt = true ∧ State.reset.pkg.poweredDown = false := by decide
theorem witness_PacketInjectSends : meshState.outq[0]? = some pkt ∧ meshState.injectCheck pkt = 0 ∧ meshState.translate pkt = some pkt ∧ (State.Shape.spend ((meshState.site pkt.src).shapeOf pkt.vc) meshState.nowUs meshState.meshPerUs (pkt.flits + 1)).isSome = true ∧ meshState.outq[1]? = some pktBad ∧ ((meshState.outq.take 1).any (fun x => x.src == pktBad.src && x.vc == pktBad.vc)) = false ∧ meshState.injectCheck pktBad ≠ 0 ∧ pktFar.isResponse = false ∧ pktFar.priv = true ∧ pktFar.core = some 4416 ∧ State.reset.siteOfCore 4416 = none := by decide
theorem witness_MeshArrivalsApply :
  (∃ t p, netState.siteRequest 0 (fun q => q != .casNode && q != .allorUp && q != .allorDown) = some (t, p) ∧ (t.siteGate p).2 = 0) ∧
  netState.net[1]? = some pktAnswer ∧ pktAnswer.isResponse = true ∧ netState.meshHead 1 pktAnswer = true ∧ (netState.site pktAnswer.dest).inReset = false ∧
  (resetSite.net[1]? = some pktAnswer ∧ resetSite.meshHead 1 pktAnswer = true ∧ (resetSite.site pktAnswer.dest).inReset = true) ∧
  (∃ t p, netState.siteRequest 2 (fun q => q == .casNode) = some (t, p) ∧ (t.siteGate p).2 = 0) ∧
  (∃ t p, netState.siteRequest 3 (fun q => q == .allorUp || q == .allorDown) = some (t, p) ∧ (t.siteGate p).2 = 0) :=
  ⟨⟨_, _, rfl, by decide⟩, by decide, by decide, by decide, by decide, by decide, ⟨_, _, rfl, by decide⟩, ⟨_, _, rfl, by decide⟩⟩
theorem witness_RillAndRemapCommands : rillState.rill[0]? = some (.epoch 65535 7 [0, 63]) ∧ rillState.rill[1]? = some (.lagNotice 0 0 0 5) ∧ rillState.remaps[0]? = some mapDue ∧ mapDue.waitFor.all rillState.quiescent = true ∧ rillState.remaps[1]? = some mapLate ∧ mapLate.timeoutSeen = false ∧ mapLate.waitFor.all rillState.quiescent = false ∧ mapLate.sinceUs + 10000000 ≤ rillState.nowUs ∧ (State.reset.site 4607).inReset = false := by decide
theorem witness_ScalarAdd : (coreState 0 0x00300093).nextWord 0 0x00300093 ∧ 0x00300093 % 128 = 0x13 ∧ bits 0x00300093 12 3 = 0 ∧ (coreState 0 0x003100B3).nextWord 0 0x003100B3 ∧ 0x003100B3 % 128 = 0x33 ∧ bits 0x003100B3 12 3 = 0 ∧ bits 0x003100B3 25 7 = 0 := by decide
theorem witness_ApertureAccesses :
  aperLoad.nextWord 0 0x0000A083 ∧ isBase 0x0000A083 = true ∧ ((aperLoad.fetched 0).baseEff 0 0x0000A083 4 []).isFar = true ∧
  aperStore.nextWord 0 0x0020A023 ∧ isBase 0x0020A023 = true ∧ ((aperStore.fetched 0).baseEff 0 0x0020A023 4 []).isPosted = true ∧
  aperLoad.siteOwner 0 = some 5 ∧ aperLoad.place 0 false false 0x80000000 4 = some (.aper columnBase true) ∧ aperLoad.routeOf 5 columnBase 4 = .inr 0 := by decide
theorem witness_FencesAndCsrWrites :
  (coreState 0 0x0220000F).nextWord 0 0x0220000F ∧ isFence 0x0220000F = true ∧ fencesWrites 0x0220000F = false ∧
  (coreState 0 0x0110000F).nextWord 0 0x0110000F ∧ fencesWrites 0x0110000F = true ∧ (((coreState 0 0x0110000F).fetched 0).core 0).posted = [] ∧
  (((coreState 0 0x0110000F).fetched 0).core 0).remCount = 0 ∧ postedState.nextWord 0 0x0110000F ∧ ((postedState.fetched 0).core 0).posted ≠ [] ∧
  (coreState 0 0x0000100F).nextWord 0 0x0000100F ∧ isFenceI 0x0000100F = true ∧
  (coreState 0 0x801110F3).nextWord 0 0x801110F3 ∧ 0x801110F3 % 128 = 0x73 ∧ bits 0x801110F3 12 3 = 1 ∧ bits 0x801110F3 20 12 = 0x801 ∧
  (coreState 0 0x80013073).nextWord 0 0x80013073 ∧ bits 0x80013073 12 3 = 3 ∧ bits 0x80013073 15 5 ≠ 0 ∧ bits 0x80013073 20 12 = 0x800 := by decide
theorem witness_KernelEnds : trapState.present 0 = true ∧ (trapState.core 0).run = .trapped 8 0 ∧ (trapState.core 0).getX 17 = 0 ∧ trapState.answered 0 = true ∧ (trapState.core 0).remCount = 0 ∧ trapState.present 4607 = true ∧ (trapState.core 4607).run = .trapped 2 7 ∧ trapState.answered 4607 = true := by decide
theorem witness_TileMoves :
  tldState.nextWord 0 tldWord ∧ tileOp tldWord = some .tld ∧ State.tldCheck (tldState.core 0) tldWord = 0 ∧
  ((State.tldRows (tldState.core 0) tldWord).map (fun a => (a, 32))).find? (fun q => (tldState.place 0 false false q.1 q.2).isNone) = none ∧
  tldState.farPieces 0 [] [(0x10000, 32)] = [] ∧ (match (tldState.coreReads 0 [] [(0x10000, 32)]).2 with | .ok _ => true | _ => false) = true ∧
  tstState.nextWord 0 tstWord ∧ tileOp tstWord = some .tst ∧ State.tldCheck (tstState.core 0) tstWord = 0 ∧
  (State.tldRows (tstState.core 0) tstWord).find? (fun a => (tstState.place 0 true false a 32).isNone) = none ∧
  (coreState 0 0x0000220B).nextWord 0 0x0000220B ∧ tileOp 0x0000220B = some .taclr ∧ ((coreState 0 0x0000220B).fetched 0).exporting 0 0 = false ∧
  (coreState 0 0x0000300B).nextWord 0 0x0000300B ∧ tileOp 0x0000300B = some .tmv ∧ bits 0x0000300B 7 5 % 4 = 0 ∧ bits 0x0000300B 20 2 = 0 ∧
  (coreState 0 0x0010300B).nextWord 0 0x0010300B ∧ tileOp 0x0010300B = some .tmv ∧ bits 0x0010300B 20 2 = 1 := by decide
set_option maxRecDepth 8000 in
theorem witness_TileArithmetic :
  (coreState 0 0x0000002B).nextWord 0 0x0000002B ∧ tileOp 0x0000002B = some .tmma ∧ ((coreState 0 0x0000002B).fetched 0).exporting 0 0 = false ∧
  ((coreState 0 0x0000002B).fetched 0).tmmaCheck 0 0x0000002B = 0 ∧ (coreState 0 31195179).nextWord 0 31195179 ∧ tileOp 31195179 = some .tmma ∧
  ((coreState 0 31195179).fetched 0).tmmaCheck 0 31195179 = 0 ∧ 1 &&& State.tmmaColumns (((coreState 0 31195179).fetched 0).core 0) 31195179 ≠ 0 ∧
  ((coreState 0 0x0000007B).nextWord 0 0x0000007B) ∧ tileOp 0x0000007B = some .tepi ∧ State.tepiCheck (((coreState 0 0x0000007B).fetched 0).core 0) 0x0000007B = 0 ∧
  bitAt ((((coreState 0 0x0000007B).fetched 0).core 0).getX 0) 3 = false ∧
  (coreState 0 0x0000107B).nextWord 0 0x0000107B ∧ tileOp 0x0000107B = some .tcvt ∧ State.tcvtCheck 0x0000107B = 0 ∧
  (coreState 0 0x0000227B).nextWord 0 0x0000227B ∧ tileOp 0x0000227B = some .osm ∧ bitAt 0x0000227B 9 = true ∧
  State.osmCheck (((coreState 0 0x0000227B).fetched 0).core 0) 0x0000227B = 0 := by decide
theorem witness_CascadeInstructions :
  openState.nextWord 0 openWord ∧ tileOp openWord = some .casOpen ∧ (openState.fetched 0).exporting 0 0 = false ∧
  ((openState.fetched 0).core 0).getX 1 ≠ 0 ∧ ((openState.fetched 0).core 0).getX 0 < ((openState.fetched 0).core 0).getX 1 ∧
  (((openState.fetched 0).core 0).acc 0).redOpen = false := by decide
theorem witness_CascadeInstructions_close :
  (coreState 0 0x0000105B).nextWord 0 0x0000105B ∧ tileOp 0x0000105B = some .casClose ∧ (((coreState 0 0x0000105B).fetched 0).core 0).acc0.isOpen = false ∧
  (accState 0x0000105B).nextWord 0 0x0000105B ∧ ((accState 0x0000105B).fetched 0).closeCheck 0 0 1 true = 0 ∧ (((accState 0x0000105B).fetched 0).core 0).acc0.isOpen = true := by decide
theorem witness_CascadeInstructions_fold :
  (nodeState 0x0000205B).nextWord 0 0x0000205B ∧ tileOp 0x0000205B = some .casExport ∧ ((nodeState 0x0000205B).fetched 0).exportCheck 0 0 0 = 0 ∧
  (nodeState 0x0000305B).nextWord 0 0x0000305B ∧ tileOp 0x0000305B = some .casFold ∧ (((nodeState 0x0000305B).fetched 0).core 0).acc0.redOpen = true ∧
  (((nodeState 0x0000305B).fetched 0).core 0).acc0.isOpen = false ∧ (((nodeState 0x0000305B).fetched 0).core 0).acc0.failed = false ∧
  (((nodeState 0x0000305B).fetched 0).core 0).acc0.root = none ∧ ((nodeState 0x0000305B).fetched 0).exporting 0 0 = false := by decide
theorem witness_CascadeInstructions_wait :
  (((nodeState 0x0000305B).fetched 0).core 0).casWait ≠ 0 ∧ (rootState 0x0000305B).nextWord 0 0x0000305B ∧ (((rootState 0x0000305B).fetched 0).core 0).acc0.root.isSome = true ∧
  (failState 0x0000305B).nextWord 0 0x0000305B ∧ (((failState 0x0000305B).fetched 0).core 0).acc0.failed = true ∧
  (coreState 0 0x0000405B).nextWord 0 0x0000405B ∧ tileOp 0x0000405B = some .casDiscard := by decide
theorem witness_WaitsAndReturn :
  (foldWait none true).present 0 = true ∧ ((foldWait none true).core 0).run = .waitFold 0 0 0 ∧ (((foldWait none true).core 0).acc 0).failed = true ∧
  (((foldWait (some someNode) false).core 0).acc 0).failed = false ∧ (((foldWait (some someNode) false).core 0).acc 0).root = some someNode ∧
  (((foldWait none false).core 0).acc 0).root = none ∧ 0 + ((foldWait none false).core 0).casWait + 0 ≤ (foldWait none false).nowUs := by decide
theorem witness_WaitsAndReturn_allor :
  (aorState 0x0000505B false false).nextWord 0 0x0000505B ∧ tileOp 0x0000505B = some .taorC ∧
  (((aorState 0x0000505B false false).fetched 0).core 0).aorCount ≠ 0 ∧ (((aorState 0x0000505B false false).fetched 0).core 0).aorCount ≤ 65536 ∧
  (((aorState 0x0000505B false false).fetched 0).core 0).aorSelf < (((aorState 0x0000505B false false).fetched 0).core 0).aorCount ∧
  (((aorState 0x0000505B false false).fetched 0).core 0).aorTable % 4 = 0 ∧
  (((aorState 0x0000505B false false).fetched 0).core 0).aor.isOpen = false := by decide
theorem witness_WaitsAndReturn_result :
  (aorState 0x000061DB true true).nextWord 0 0x000061DB ∧ tileOp 0x000061DB = some .taorW ∧
  (((aorState 0x000061DB true true).fetched 0).core 0).aor.isOpen = true ∧ (((aorState 0x000061DB true true).fetched 0).core 0).aor.done = true ∧
  (aorState 0x0000605B true false).nextWord 0 0x0000605B ∧ tileOp 0x0000605B = some .taorW ∧
  (((aorState 0x0000605B true false).fetched 0).core 0).aor.isOpen = true ∧ (((aorState 0x0000605B true false).fetched 0).core 0).aor.done = false := by decide
theorem witness_WaitsAndReturn_return :
  (aorWait true false).present 0 = true ∧ ((aorWait true false).core 0).run = .waitAor 3 ∧ ((aorWait true false).core 0).aor.done = true ∧
  (aorWait false true).present 0 = true ∧ ((aorWait false true).core 0).run = .waitAor 3 ∧ ((aorWait false true).core 0).aor.isOpen = false ∧
  ((aorWait false true).core 0).aor.expired = true ∧ handlerState.nextWord 0 0x0000705B ∧ tileOp 0x0000705B = some .tret ∧
  ((handlerState.fetched 0).core 0).kactive = true := by decide
theorem witness_StackMemoryAndRefresh :
  portState.net[0]? = some pktStack ∧ pktStack.isResponse = false ∧ portState.meshHead 0 pktStack = true ∧
  ({ portState with net := dropAt portState.net 0 }).stepsRun 0 = false ∧ pktStack.kind = .read 8 ∧
  ({ portState with net := dropAt portState.net 0 }).reach { saggar := 0, isPriv := true, carve := false } false pktStack.address 8 = 0 ∧
  portState.net[1]? = some pktStore ∧ pktStore.kind = .write ∧ portState.meshHead 1 pktStore = true ∧ pktStore.dest - 4608 = 511 ∧
  ({ portState with net := dropAt portState.net 1 }).stepsRun 511 = false ∧
  ({ portState with net := dropAt portState.net 1 }).reach { saggar := 0, isPriv := true, carve := false } true pktStore.address 1 = 0 ∧
  ({ stepState with net := dropAt stepState.net 0 }).stepsRun 0 = true ∧ stepState.net[0]? = some pktStack ∧ stepState.meshHead 0 pktStack = true := by decide
theorem witness_StackMemoryAndRefresh_host :
  15 ∈ State.reset.host.modules ∧ (State.reset.owner (firstCarveGranule State.reset.fw.carveoutNow)).carveout = true ∧
  (State.reset.owner (firstCarveGranule State.reset.fw.carveoutNow)).assigned = false ∧
  State.reset.isDonor (firstCarveGranule State.reset.fw.carveoutNow) = false ∧
  firstCarveGranule State.reset.fw.carveoutNow * 0x200000 + 0xFFFFFFFFFC0 ≥ linearBase := by decide
theorem witness_StackMemoryAndRefresh_rate :
  (State.reset.block 35).double0 = false ∧ (State.reset.block 35).double1 = false ∧ State.reset.thermal.kilnStale = false ∧
  (hotState.block 0).double0 = true ∧ (hotState.block 0).double1 = true ∧ hotState.thermal.kilnStale = false := by decide
theorem witness_StoredBytesReadBack : (0 : Nat) < [(7 : Byte)].length ∧ (State.reset.putBytes 5 [7]).byteAt 5 = 7 ∧ (State.reset.putBytes 5 [7]).byteAt 6 = 0 := by decide
theorem witness_SluicesRunDescriptors :
  7 < sluicesN ∧ (sluiceState 5).sluiceReady 7 = true ∧ ((sluiceState 5).load 7 (State.sluiceSrc 7) 0x10000000000 128).2.1 = none ∧
  (Desc.of ((sluiceState 5).load 7 (State.sluiceSrc 7) 0x10000000000 128).2.2).type = 5 ∧
  (sluiceState 5).descCheck 5 (Desc.of ((sluiceState 5).load 7 (State.sluiceSrc 7) 0x10000000000 128).2.2) = 0 ∧
  (Desc.of ((sluiceState 3).load 7 (State.sluiceSrc 7) 0x10000000000 128).2.2).type = 3 ∧
  (sluiceState 6).descCheck 5 (Desc.of ((sluiceState 6).load 7 (State.sluiceSrc 7) 0x10000000000 128).2.2) ≠ 0 ∧
  (((sluiceState 5).strike badRead).load 7 (State.sluiceSrc 7) 0x10000000000 128).2.1.isSome = true := by decide
theorem witness_SluicesRunDescriptors_run :
  ((runningSluice (signal 0)).sluice 7).state = .running ∧ ((runningSluice (signal 0)).runDesc 7).halt = none ∧ ((runningSluice (signal 0)).runDesc 7).stop = none ∧
  ((runningSluice (signal columnBase)).runDesc 7).halt.isSome = true ∧ (Desc.of (signal columnBase)).type ≠ 3 := by decide
theorem witness_SluicesRunDescriptors_resume :
  ((haltedSluice 0 false).ready 9 0x210).isSome = true ∧ ((haltedSluice 0 false).sluice 7).valid = true ∧ ((haltedSluice 0 false).sluice 7).state = .halted ∧
  ((haltedSluice 0 false).sluice 7).saggar = 5 ∧ ((haltedSluice 0 false).sluice 7).unread = false ∧ ((haltedSluice 0 true).sluice 7).unread = true ∧
  ((haltedSluice 1 false).ready 9 0x210).isSome = true ∧ resetSluice.sluice 1023 = { Sluice.bisque with state := .inReset } := by decide
theorem witness_KernelLaunches :
  (launchState true).ready 9 0x100 = some launchCmd ∧ ((launchState true).launchRead launchCmd).2.1 = 0 ∧
  ((launchState true).launchRead launchCmd).2.2 = (launchDesc, [0]) := by decide
theorem witness_KernelLaunches_bcast :
  (queuedLaunch false).bcasts[0]? = some launchBcast ∧ (queuedLaunch false).launch? 9 = some (launchOf false) ∧ (queuedLaunch false).launchEligible (launchOf false) = true ∧
  (queuedLaunch false).reach ((queuedLaunch false).engineAuth 5) false 0x10000000400 8 = 0 ∧
  ((queuedLaunch false).load 7 0xFFFF 0x10000000400 8).2.1 = none := by decide
theorem witness_KernelLaunches_reserve :
  ((queuedLaunch false).reserve (launchOf false)).launchSites (launchOf false) = [0] ∧
  (((queuedLaunch false).reserve (launchOf false)).site 0).inReset = false := by decide
theorem witness_KernelLaunches_start :
  (queuedLaunch true).launch? 9 = some (launchOf true) ∧ (launchOf true).imageReady = true ∧ (queuedLaunch true).launchEligible (launchOf true) = true ∧
  (LDesc.of (launchOf true).desc).argBytes = 0 ∧ (LDesc.of (launchOf true).desc).src ≠ 1 := by decide
theorem witness_KernelLaunches_abort :
  ((abortState 1).ready 10 0x101).isSome = true ∧ ((abortState 1).ring 0).saggar = 0 ∧ ((abortState 2).ready 10 0x101).isSome = true ∧
  ((abortState 1).abortTarget 0 1).isSome = true ∧ (abortState 2).abortTarget 0 2 = none := by decide
theorem witness_NearBankUnits :
  (nbState 0x300).ready 9 0x300 = some (nbCmd 0x300) ∧ (nbState 0x300).nbRunCheck 5 3 1 0 0x10000000000 = 0 ∧
  (nbCmd 0x300).p 0 2 = 3 ∧ (nbCmd 0x300).p 2 2 = 1 ∧ (nbCmd 0x300).p 4 4 = 0 ∧ (nbCmd 0x300).p 8 8 % 2 ^ 52 = 0x10000000000 ∧
  (nbState 0x301).ready 9 0x301 = some (nbCmd 0x301) ∧ lowest ((nbState 0x301).nbUnitCheck 5 3 false) = 0 ∧
  (nbState 0x303).ready 9 0x303 = some (nbCmd 0x303) ∧ lowest ((nbState 0x303).nbUnitCheck 5 3 true) = 0 := by decide
theorem witness_NearBankUnits_cancel :
  (cancelState 0x302).ready 9 0x302 = some (nbCmd 0x302) ∧ lowest ((cancelState 0x302).nbUnitCheck 5 3 true) = 0 ∧
  ((cancelState 0x302).nbCancel 3 5 1).isSome = true ∧ (attnState).ready 9 0x403 = some attnCmd ∧
  attnState.nbDescCheck 5 (attnCmd.p 0 2) (attnCmd.addr 8) (attnCmd.addr 16) = 0 := by decide
theorem witness_NearBankUnits_core :
  (nbCoreState.site 0).inReset = false ∧ (nbCoreState.core 0).run = .running ∧ nbCoreState.siteOwner 0 = some 5 ∧
  fieldAt (nbPacket 0x301) 0 2 % 4096 = 0x301 ∧ fieldAt (nbPacket 0x301) 16 2 = 3 ∧ lowest (nbCoreState.nbUnitCheck 5 3 true) = 0 ∧
  lowest (nbCoreState.nbUnitCheck 5 3 false) = 0 ∧ fieldAt (nbPacket 0x300) 0 2 % 4096 = 0x300 ∧
  nbCoreState.nbRunCheck 5 3 (fieldAt (nbPacket 0x300) 18 2) (fieldAt (nbPacket 0x300) 20 4) (fieldAt (nbPacket 0x300) 24 8 % 2 ^ 52) = 0 ∧
  fieldAt (nbPacket 0x302) 18 2 = 1 ∧ (nbCoreState.nbCancel 3 5 1).isSome = true ∧ fieldAt (nbPacket 0x303) 0 2 % 4096 = 0x303 := by decide
theorem witness_NearBankUnits_start :
  (nbCoreState.nb 3).state = .idle ∧ (nbCoreState.nb 3).resetAsked = false ∧ nbCoreState.nbHeldNow 3 = false ∧ nbCoreState.nbChoose 3 = some 0 ∧
  (nbCoreState.nb 3).queue[0]?.isSome = true ∧ ((nbUnitState .inStep false).nb 3).running = some nbRun1 ∧ ((nbUnitState .inStep false).nb 3).state = .inStep ∧
  ((nbUnitState .inGap false).nb 3).state = .inGap ∧ ((nbUnitState .inGap false).nb 3).resetAsked = false ∧
  ((nbUnitState .suspended false).nb 3).state = .suspended ∧ (askedState.nb 3).resetAsked = true ∧ (askedState.nb 3).running = none ∧
  (askedState.nb 3).state = .idle ∧ ((nbUnitState .inReset false).nb 3).state = .inReset := by decide
theorem witness_KvServices :
  (kvState 0x402 .accepted).ready 9 0x402 = some (kvCmd 0x402) ∧ (kvState 0x402 .accepted).sluiceEngine (kvCmd 0x402) = 0 ∧
  (noSluice 0x404).ready 9 0x404 = some (kvCmd 0x404) ∧ (noSluice 0x404).sluiceEngine (kvCmd 0x404) ≠ 0 := by decide
theorem witness_KvServices_start :
  (kvState 0x401 .queued).cmd? 9 = some { kvCmd 0x401 with phase := .queued } ∧ (kvState 0x401 .queued).sluiceEngine { kvCmd 0x401 with phase := .queued } = 0 ∧
  (kvState 0x401 .queued).sluiceFree 7 9 = true ∧ (kvState 0x401 .queued).kvFree 9 = true ∧ (kvCmd 0x401).p 0 2 % 1024 = 7 ∧
  kvBehind.kvFree 9 = false ∧ kvBehind.cmd? 9 = some { kvCmd 0x401 with phase := .queued } ∧
  kvBehind.sluiceEngine { kvCmd 0x401 with phase := .queued } = 0 := by decide
theorem witness_TrainingState :
  (trainState 0x500 0 0 .accepted).ready 9 0x500 = some (trainCmd 0x500 0 0) ∧ (trainState 0x500 0 0 .accepted).trainCheck (trainCmd 0x500 0 0) = 0 ∧
  (trainCmd 0x500 0 0).conditional = false ∧ (trainState 0x503 1 0 .accepted).ready 9 0x503 = some (trainCmd 0x503 1 0) ∧
  (trainState 0x503 1 0 .accepted).trainCheck (trainCmd 0x503 1 0) ≠ 0 ∧
  (trainState 0x504 gateAt 1 .accepted).ready 9 0x504 = some (trainCmd 0x504 gateAt 1) ∧ (trainState 0x504 gateAt 1 .accepted).trainCheck (trainCmd 0x504 gateAt 1) = 0 ∧
  (trainCmd 0x504 gateAt 1).conditional = true := by decide
theorem witness_TrainingState_sluice :
  (trainState 0x501 0 0 .accepted).ready 9 0x501 = some (trainCmd 0x501 0 0) ∧ (trainState 0x501 0 0 .accepted).trainCheck (trainCmd 0x501 0 0) = 0 ∧
  (trainState 0x501 gateAt 1 .accepted).trainCheck (trainCmd 0x501 gateAt 1) = 0 ∧ (trainState 0x502 0 0 .queued).cmd? 9 = some { trainCmd 0x502 0 0 with phase := .queued } ∧
  (trainState 0x502 0 0 .queued).sluiceEngine { trainCmd 0x502 0 0 with phase := .queued } = 0 ∧ (trainState 0x502 0 0 .queued).sluiceFree 7 9 = true := by decide
theorem witness_TrainingState_gate :
  (gateState 0 0).cmd? 9 = some heldTrain ∧ heldTrain.phase = .held 0 ∧ ((gateState 0 0).readGate heldTrain).2.1 = 0 ∧
  bitAt (fieldAt ((gateState 0 0).readGate heldTrain).2.2 12 1) 0 = false ∧ 0 < heldTrain.gateWait ∧
  bitAt (fieldAt ((gateState 1 0).readGate heldTrain).2.2 12 1) 0 = true ∧ skips (fieldAt ((gateState 1 0).readGate heldTrain).2.2 8 4) = false ∧
  fieldAt ((gateState 1 0).readGate heldTrain).2.2 0 8 = heldTrain.step ∧ heldTrain.cond = 1 ∧ heldTrain.step < fieldAt ((gateState 1 9).readGate heldTrain).2.2 0 8 ∧
  (gateState 1 0).trainCheck heldTrain = 0 ∧ 0 + heldTrain.gateWait ≤ (gateState 0 0).nowUs := by decide
theorem witness_RegistersAndDoorbells :
  15 ∈ State.reset.host.modules ∧ rwtAt 0x2000020 = none ∧ (rwtAt 0x1000000).isSome = true ∧ rwtAt 0x2000024 = none ∧ 0x2000020 % 8 = 0 ∧
  State.doorbellOk (State.reset.ring 0) 256 = true ∧ (State.reset.ring 0).role ≠ .completion ∧ State.doorbellOk (State.reset.ring 1) 0 = true ∧
  (State.reset.ring 1).role = .completion ∧ State.doorbellOk (State.reset.ring 0) 257 = false ∧ State.doorbellOk (State.reset.ring 16383) 0 = false := by decide
theorem witness_RegistersAndDoorbells_core :
  (bellState.site 0).inReset = false ∧ (bellState.core 0).run = .running ∧
  (State.Shape.spend ((bellState.site 0).shapeOf 0) bellState.nowUs bellState.meshPerUs 1).isSome = true ∧ bellState.siteOwner 0 = some 5 ∧
  (bellState.ring 100).saggar = 5 ∧ State.doorbellOk (bellState.ring 100) 4 = true ∧ (bellState.ring 0).saggar ≠ 5 := by decide
theorem witness_CommandFlow :
  fetchState.mayFetch 0 = true ∧ (fetchState.load 7 0xFFFF (State.slotAddr (fetchState.ring 0) 0 64) 64).2.1 = none ∧ (fetchState.ring 0).oper = true ∧
  tenantFetch.mayFetch 100 = true ∧ (tenantFetch.load 7 0xFFFF 0x10000000000 64).2.1 = none ∧ (tenantFetch.ring 100).oper = false ∧
  State.slotAddr (tenantFetch.ring 100) 0 64 = 0x10000000000 ∧ ((tenantFetch.strike badRead).load 7 0xFFFF 0x10000000000 64).2.1.isSome = true := by decide
theorem witness_CommandFlow_completion :
  (complState 0 0).compls[0]?.isSome = true ∧ ((complState 0 0).ring 101).role = .completion ∧ State.ringGap ((complState 0 0).ring 101).tail ((complState 0 0).ring 101).head < 256 ∧
  (complState 0 0).slotBad 0x10000000000 = false ∧ 256 ≤ State.ringGap ((complState 256 0).ring 101).tail ((complState 256 0).ring 101).head ∧
  ((complState 256 1).ring 101).stalled = true ∧ ((complState 256 1).ring 101).stallSeen = false ∧ ((complState 256 1).ring 101).stallSince + 1000 ≤ (complState 256 1).nowUs ∧
  ((complState 0 1).ring 101).slotPoisoned = true ∧ ((complState 0 1).compls.zipIdx.find? (fun p => p.1.target == .ring 101)).isSome = true ∧
  ((complState 0 0).ring 101).irqPending ≠ 0 ∧ ((complState 0 0).ring 101).irqSince + ((complState 0 0).ring 101).coalUs ≤ (complState 0 0).nowUs ∧
  ((complState 0 0).ring 101).vector ≠ 0 ∧ ({ saggarState with cmds := [cmdOf 0 []] } : State).ready 9 0 = some (cmdOf 0 []) := by decide
theorem witness_CommandsEndOnce : (kvState 0x402 .accepted).cmd? 9 = some (kvCmd 0x402) ∧ (kvCmd 0x402).phase ≠ .ended ∧ State.reset.cmd? 9 = none := by decide
theorem witness_SettingsTransactions :
  (txnState 0x008 [] false).ready 9 0x008 = some (txnCmd 0x008 []) ∧ (txnState 0x008 [] false).txns.length < 64 ∧ 64 ≤ manyTxns.txns.length ∧
  manyTxns.ready 9 0x008 = some (txnCmd 0x008 []) := by decide
theorem witness_SettingsTransactions_set :
  (txnState 0x009 setOne false).ready 9 0x009 = some (txnCmd 0x009 setOne) ∧ ((txnState 0x009 setOne false).ownTxn (txnCmd 0x009 setOne)).isSome = true ∧
  lowest ((txnState 0x009 setOne false).setEntries (txnCmd 0x009 setOne)).2.1 = 0 ∧
  (((txnState 0x009 setOne false).setEntries (txnCmd 0x009 setOne)).2.2.all (fun e => lowest (State.entryCheck e true 0) == 0)) = true ∧
  (((txnState 0x009 setOne false).setEntries (txnCmd 0x009 setOne)).2.2.foldl State.stageEntry []).length = 1 := by decide
theorem witness_SettingsTransactions_commit :
  (txnState 0x00A [] false).ready 9 0x00A = some (txnCmd 0x00A []) ∧ ((txnState 0x00A [] false).ownTxn (txnCmd 0x00A [])).isSome = true ∧
  (txnState 0x00B [] false).ready 9 0x00B = some (txnCmd 0x00B []) ∧ ((txnState 0x00B [] false).ownTxn (txnCmd 0x00B [])).isSome = true ∧
  ({ txnState 0x00B [] false with txns := [] } : State).ownTxn (txnCmd 0x00B []) = none ∧
  (txnState 0x00C ([0, 0, 0, 0] ++ leBytes 4 0) false).ready 9 0x00C = some (txnCmd 0x00C ([0, 0, 0, 0] ++ leBytes 4 0)) := by decide
theorem witness_SettingsTransactions_get :
  (txnState 0x00C getReg false).getCheck (txnCmd 0x00C getReg) = 0 ∧ (txnCmd 0x00C getReg).p 0 2 = 1 ∧ ((txnState 0x00C getReg false).regRead 0).isSome = true ∧
  (txnCmd 0x00C getReg).p 4 4 = 0 ∧ (txnState 0x00C getSet false).getCheck (txnCmd 0x00C getSet) = 0 ∧ (txnCmd 0x00C getSet).p 0 2 ≠ 1 := by decide
theorem witness_SettingsTransactions_apply :
  (commitState []).commits.head? = some { cmd := 9, txn := 3, waitFor := [], sinceUs := 0, applied := false, waitedUs := 0, rewets := [] } ∧
  (commitState []).commitRewets [] = [] ∧ (((commitState []).applyEntries 3 [] []).noteChanged []).filling = [] ∧
  (commitState []).commitRewets [granEntry] = [] ∧ (((commitState []).applyEntries 3 [] [granEntry]).noteChanged [granEntry]).filling = [5] ∧
  appliedState.commits.head?.map (·.applied) = some true ∧ (appliedState.txns.find? (fun x => x.id == 3)).isSome = true ∧
  ([] : List Nat).any appliedState.siteMayReturn = false ∧
  ((commitState []).txns.find? (fun x => x.id == 3)).isSome = true ∧ ([] : List Nat).all (commitState []).quiescent = true ∧
  (commitState []).relayWaits [] = false ∧ 0 + 10000000 ≤ (commitState [5]).nowUs ∧ [5].all (commitState [5]).quiescent = false ∧
  ((commitState [5]).txns.find? (fun x => x.id == 3)).isSome = true ∧ ((txnState 0 [] false).txns.find? (fun x => x.id == 3)).isSome = true ∧
  0 + 10000000 ≤ (txnState 0 [] false).nowUs := by decide
theorem witness_JobsAndRingResets :
  (jobState 0x018 7 []).ready 9 0x018 = some { cmdOf 0x018 [] with job := 7 } ∧ (jobState 0x018 7 []).jobOpen 5 7 = false ∧
  (jobState 0x018 7 [jobOf none]).jobOpen 5 7 = true ∧ (jobState 0x019 7 [jobOf none]).ready 9 0x019 = some { cmdOf 0x019 [] with job := 7 } ∧
  (jobState 0x019 7 [jobOf none]).jobOpen 5 7 = true ∧ (jobState 0x019 0 []).ready 9 0x019 = some { cmdOf 0x019 [] with job := 0 } ∧
  closingJob.inPhase 9 0x019 .running = some { cmdOf 0x019 [] with job := 7, phase := .running } ∧
  closingJob.jobs.find? (fun j => j.closing == some 9) = some (jobOf (some 9)) ∧
  closingJob.cmds.any (fun x => decide (x.id < 9) && x.saggar == 5 && x.job == 7) = false ∧ (jobOf (some 9)).lastUs / 1000 < closingJob.nowUs / 1000 := by decide
theorem witness_JobsAndRingResets_ring :
  (ringResetState false 5).ready 9 0x020 = some (cmdOf 0x020 [100, 0]) ∧ (ringResetState false 5).resetTurn (cmdOf 0x020 [100, 0]) = true ∧
  (cmdOf 0x020 [100, 0]).p 0 2 % ringsN = 100 ∧ ((ringResetState false 5).ring 100).inReset = false ∧ ((ringResetState false 5).ring 100).saggar = 5 ∧
  (cmdOf 0x020 [100, 0]).origin ≠ .ring 100 ∧ ((ringResetState true 5).ring 100).inReset = true ∧ ((ringResetState false 6).ring 100).saggar ≠ 5 := by decide
theorem witness_ResetScopes :
  (rstState 0x910 [1, 0] 5).ready 9 0x910 = some (cmdOf 0x910 [1, 0]) ∧ (rstState 0x910 [1, 0] 5).resetTurn (cmdOf 0x910 [1, 0]) = true ∧
  ((rstState 0x910 [1, 0] 5).cluster 1).assigned = true ∧ ((rstState 0x910 [1, 0] 5).cluster 1).saggar = 5 ∧ ((rstState 0x910 [1, 0] 6).cluster 1).saggar = 6 ∧
  (rstState 0x910 [1, 0] 5).allTaken { code := 0, index := 1, owner := some 5, sites := clusterSites 1, sluices := [], rings := [] } = false ∧
  takenState.ready 9 0x910 = some (operCmd 0x910 [1, 0]) ∧ takenState.resetTurn (operCmd 0x910 [1, 0]) = true ∧
  takenState.allTaken { code := 0, index := 1, owner := none, sites := clusterSites 1, sluices := [], rings := [] } = true := by decide
theorem witness_ResetScopes_saggar :
  (rstState 0x911 [5] 5).ready 9 0x911 = some (cmdOf 0x911 [5]) ∧ (rstState 0x911 [5] 5).resetTurn (cmdOf 0x911 [5]) = true ∧
  (rstState 0x911 [5] 5).allTaken ((rstState 0x911 [5] 5).saggarScope (cmdOf 0x911 [5]) 5) = false ∧ (rstState 0x911 [6] 5).ready 9 0x911 = some (cmdOf 0x911 [6]) ∧
  (rstState 0x010 [5] 5).ready 9 0x010 = some (cmdOf 0x010 [5]) ∧ ((rstState 0x010 [5] 5).saggar 5).active = true ∧
  (rstState 0x010 [5] 5).saggarRings 5 = [] ∧ (rstState 0x010 [5] 5).running.any (fun r => r.closing == some 5) = false ∧
  (rstState 0x010 [5] 5).allTaken ((rstState 0x010 [5] 5).saggarScope (cmdOf 0x010 [5]) 5) = false ∧
  (rstState 0x010 [6] 5).ready 9 0x010 = some (cmdOf 0x010 [6]) ∧ ((rstState 0x010 [6] 5).saggar 6).active = false := by decide
theorem witness_ResetScopes_die :
  (rstState 0x912 [0] 5).ready 9 0x912 = some (cmdOf 0x912 [0]) ∧ (rstState 0x912 [0] 5).fwBusy = false ∧ (rstState 0x912 [0] 5).resetTurn (cmdOf 0x912 [0]) = true ∧
  (rstState 0x913 [1] 5).ready 9 0x913 = some (cmdOf 0x913 [1]) ∧ (rstState 0x913 [1] 5).resetTurn (cmdOf 0x913 [1]) = true ∧
  (rstState 0x914 [1] 5).ready 9 0x914 = some (cmdOf 0x914 [1]) ∧ (rstState 0x914 [1] 5).resetTurn (cmdOf 0x914 [1]) = true ∧ busyState.fwBusy = true ∧
  busyState.ready 9 0x912 = some (cmdOf 0x912 [0]) ∧ busyState.resetTurn (cmdOf 0x912 [0]) = true ∧ ((rstState 0x912 [0] 5).site 0).inReset = false := by decide
theorem taken_of_site (s : State) (x : Scope) (i : Nat) (h : i ∈ x.sites) (hi : (s.site i).inReset = false) : s.allTaken x = false := by
  have : x.sites.all (fun i => (s.site i).inReset && (!s.siteReturns i || s.running.any (fun r => decide (i ∈ r.sites)))) = false :=
    List.all_eq_false.mpr ⟨i, h, by simp [hi]⟩
  unfold State.allTaken
  rw [this]
  rfl
theorem witness_ResetScopes_taken :
  (rstState 0x912 [0] 5).allTaken { code := 2, index := 0, owner := none, sites := span (0 * 2304) 2304, sluices := [], rings := [] } = false ∧
  (rstState 0x913 [1] 5).allTaken State.stackScope = false :=
  ⟨taken_of_site _ _ 0 (by simp [span]) (by decide), taken_of_site _ _ 0 (by simp [State.stackScope, sitesN]) (by decide)⟩
theorem witness_ResetScopes_rewet :
  (rewetState true).siteMayReturn 1 = true ∧ (rewetState false).siteMayReturn 1 = true ∧ ((rewetState true).site 1).role = .active ∧
  ((rewetState true).record 0x8011 1 1 ((rewetState true).siteOwner 1) 0 (p4 1 ++ p8 0)).rel.autoRetire = true ∧
  ((rewetState false).record 0x8011 1 1 ((rewetState false).siteOwner 1) 0 (p4 1 ++ p8 0)).rel.autoRetire = false := by decide
theorem witness_ScrubsAndRetirements :
  leakState.rel.leakUs + leakState.rel.ceLeakS * 1000000 ≤ leakState.nowUs ∧ (7, { Region.bisque with level := 3 }) ∈ leakState.rel.regions ∧
  leakState.rel.regions.Pairwise (fun p q => p.1 ≠ q.1) ∧ (∀ p ∈ leakState.rel.regions, p.1 ≠ 8) ∧
  (scrubState [] .accepted).ready 9 0x800 = some (scrubCmd 64) ∧ (scrubState [] .accepted).scrubCheck (scrubCmd 64) = 0 ∧
  ({ scrubState [] .accepted with cmds := [scrubCmd 63] } : State).scrubCheck (scrubCmd 63) ≠ 0 ∧
  ({ scrubState [] .accepted with cmds := [scrubCmd 63] } : State).ready 9 0x800 = some (scrubCmd 63) := by decide
theorem witness_ScrubsAndRetirements_run :
  (scrubState [scrubOf false 0] .queued).rel.scrubs.find? (fun x => !x.started) = some (scrubOf false 0) ∧
  ((scrubState [scrubOf false 0] .queued).inPhase 9 0x800 .queued).isSome = true ∧ (scrubOf false 0).cmd = 9 ∧
  ((scrubState [scrubOf false 0] .queued).rel.scrubs.filter (fun y => y.started)).length < 16 ∧
  (scrubState [scrubOf true 0] .running).rel.scrubs.find? (fun x => x.cmd == 9 && x.started) = some (scrubOf true 0) ∧
  (scrubOf true 0).corrected = 0 ∧ (scrubOf true 0).bad = 0 ∧ (scrubOf true 1).corrected ≠ 0 ∧
  (scrubState [scrubOf true 1] .running).rel.scrubs.find? (fun x => x.cmd == 9 && x.started) = some (scrubOf true 1) := by decide
theorem witness_ScrubsAndRetirements_retire :
  (operState 0x801 (leBytes 4 524287)).ready 9 0x801 = some (operCmd 0x801 (leBytes 4 524287)) ∧ (operCmd 0x801 (leBytes 4 524287)).p 0 4 < granulesN ∧
  granulesN ≤ (operCmd 0x801 (leBytes 4 524288)).p 0 4 ∧ (operState 0x802 [0, 0]).ready 9 0x802 = some (operCmd 0x802 [0, 0]) ∧
  ((operState 0x802 [0, 0]).site 0).role = .active ∧ sitesN ≤ (operCmd 0x802 [0, 18]).p 0 2 ∧
  (operState 0x801 (leBytes 4 524288)).ready 9 0x801 = some (operCmd 0x801 (leBytes 4 524288)) ∧
  (operState 0x802 [0, 18]).ready 9 0x802 = some (operCmd 0x802 [0, 18]) := by decide
theorem witness_CisternCommands :
  cisState.rel.toMirror.find? (fun e => e.seq == 4) = some entryOf4 ∧ (storeEntry 8192 cisState.rel.mirror { entryOf4 with mirrored := true }).isSome = true ∧
  cisState.ready 9 0x808 = some cisCmd ∧ cisCmd.p 16 2 = 1 ∧ cisState.reach (cisState.engineAuth 5) true (cisCmd.addr 8) 64 = 0 ∧
  (cisState.cisEntries cisCmd).take 1 = [entryOf4] ∧ (cisState.store 12 0xFFFF (cisCmd.addr 8) (entryBytes entryOf4)).2 = none := by decide
theorem witness_CisternCommands_clear :
  (operState 0x808 []).ready 9 0x808 = some (operCmd 0x808 []) ∧ (operCmd 0x808 []).p 16 2 = 0 ∧
  (operState 0x809 (leBytes 8 4)).ready 9 0x809 = some (operCmd 0x809 (leBytes 8 4)) ∧
  bigState.ready 9 0x808 = some bigRead ∧ 1024 < bigRead.p 16 2 ∧
  bigState.reach (bigState.engineAuth 5) true (bigRead.addr 8) (64 * bigRead.p 16 2) = 0 := by decide
theorem witness_FirmwareLifecycle :
  stageState.ready 9 0x920 = some stageCmd ∧ stageState.stageCheck stageCmd = 0 ∧ stageState.freeSlotOf (stageCmd.p 0 1) = some 1 ∧
  (stageState.load 7 0xFFFF (stageCmd.addr 8) (stageCmd.p 16 4)).2.1 = none ∧
  (actState [1, 5, 0]).ready 9 0x921 = some (operCmd 0x921 [1, 5, 0]) ∧ (actState [1, 5, 0]).activateCheck (operCmd 0x921 [1, 5, 0]) = 0 ∧
  (actState [1, 5, 0]).activateTargets (operCmd 0x921 [1, 5, 0]) = [5] ∧ (actState [0, 0, 2]).ready 9 0x921 = some (operCmd 0x921 [0, 0, 2]) ∧
  (actState [0, 0, 2]).activateCheck (operCmd 0x921 [0, 0, 2]) = 0 ∧ bitAt ((operCmd 0x921 [0, 0, 2]).p 2 1) 1 = true ∧
  (actState [2, 0, 0]).ready 9 0x921 = some (operCmd 0x921 [2, 0, 0]) ∧ (actState [2, 0, 0]).activateCheck (operCmd 0x921 [2, 0, 0]) ≠ 0 := by decide
theorem witness_FirmwareLifecycle_live :
  (actState [0, 0, 0]).ready 9 0x921 = some (operCmd 0x921 [0, 0, 0]) ∧ (actState [0, 0, 0]).activateCheck (operCmd 0x921 [0, 0, 0]) = 0 ∧
  bitAt ((operCmd 0x921 [0, 0, 0]).p 2 1) 1 = false ∧ (handState []).fw.activation = some (actOf []) ∧ 5 ∉ (actOf []).moved ∧ 6 ∈ (handState []).standbys ∧
  (handState [0, 1, 2, 3, 4, 5]).fw.activation = some (actOf [0, 1, 2, 3, 4, 5]) ∧ (∀ r < 6, r ∈ (actOf [0, 1, 2, 3, 4, 5]).moved) ∧
  (actOf []).lastUs + 1000000 ≤ (handState []).nowUs ∧ (actOf []).floor = false := by decide
theorem witness_FirmwareLifecycle_runtime :
  (rtState false 0).fw.rtActivation = some (rtOf false) ∧ (rtOf false).left = [5] ∧ (rtState false 0).saggarRuns 5 = false ∧
  (rtState true 0).quiescent 5 = true ∧ (rtOf true).sinceUs + 10000000 ≤ (rtState true 1).nowUs ∧ (rtState true 1).quiescent 5 = false ∧
  (rtState false 1).saggarRuns 5 = true ∧ (rtOf false).started = false ∧ (rtOf true).started = true := by decide
theorem witness_FirmwareLifecycle_twin :
  (State.reset.mc (State.reset.roleMc 5)).working = true ∧ State.reset.fw.activation = none ∧ ((State.reset.setMc 5 { State.reset.mc 5 with working := false }).workingMcs) ≠ [] ∧
  (operState 0x940 [1]).ready 9 0x940 = some (operCmd 0x940 [1]) ∧ bitAt ((operCmd 0x940 [1]).p 0 1) 0 = true ∧
  ({ saggarState with cmds := [operCmd 0x940 [0]] } : State).ready 9 0x940 = some (operCmd 0x940 [0]) ∧
  saggarState.saggars.any (fun p => p.2.active && !p.2.replicaValid) = true ∧ drainState.fw.draining.find? (fun p => p.1 == 9) = some (9, 3) ∧
  drainState.drainCount = 0 ∧ drainState.poursDone = true ∧ (operState 0x941 []).ready 9 0x941 = some (operCmd 0x941 []) := by decide
set_option maxRecDepth 4000 in
theorem witness_FirmwareLifecycle_takeover :
  3 ≤ (((State.reset.setMc 5 { State.reset.mc 5 with working := false }).rolesOf 5).foldl (fun t k => t.takeOver 5 k)
    (State.reset.setMc 5 { State.reset.mc 5 with working := false })).workingMcs.length := by decide
theorem witness_SecurityCommands_glaze :
  (operState 0x930 [0, 0, 0, 0, 1]).ready 9 0x930 = some (operCmd 0x930 [0, 0, 0, 0, 1]) ∧ (operCmd 0x930 [0, 0, 0, 0, 1]).p 16 4 = 0 ∧
  (operState 0x931 [0]).ready 9 0x931 = some (operCmd 0x931 [0]) ∧ (operCmd 0x931 [0]).p 0 1 = 0 ∧ (operCmd 0x931 [3]).p 0 1 = 3 ∧
  (operState 0x930 [0, 0, 0, 0, 3]).glazeCheck 0 3 [] ≠ 0 ∧
  ({ saggarState with fw := { State.reset.fw with qualified := 7 } } : State).glazeCheck 0 2 [] = 0 := by decide
theorem witness_SecurityCommands_data :
  authState.ready 9 0x930 = some authCmd ∧ authCmd.p 0 1 ≤ 2 ∧ 0 < authCmd.p 16 4 ∧ authCmd.p 16 4 ≤ 2048 ∧
  authState.placeCheck authCmd.saggar false (authCmd.addr 8) (authCmd.p 16 4) = 0 ∧
  (authState.load 7 0xFFFF (authCmd.addr 8) (authCmd.p 16 4)).2.1 = none := by decide
theorem witness_SecurityCommands_quote :
  (secState 0xA00 quoteParams).ready 9 0xA00 = some (cmdOf 0xA00 quoteParams) ∧ (secState 0xA00 quoteParams).quoteCheck (cmdOf 0xA00 quoteParams) = 0 ∧
  (secState 0xA01 quoteParams).ready 9 0xA01 = some (cmdOf 0xA01 quoteParams) ∧ (secState 0xA01 quoteParams).certificateNow.length ≤ 2048 ∧
  (secState 0xA01 quoteParams).certificateNow.length ≤ (cmdOf 0xA01 quoteParams).p 8 4 ∧
  (secState 0xA01 quoteParams).placeCheck 5 true 0x10000000000 (secState 0xA01 quoteParams).certificateNow.length = 0 ∧
  (secState 0xA02 []).ready 9 0xA02 = some (cmdOf 0xA02 []) ∧ (secState 0xA02 []).sec.identityOk = true ∧
  (operState 0xA02 []).ready 9 0xA02 = some (operCmd 0xA02 []) := by decide
theorem witness_SecurityCommands_keys :
  (secState 0xA03 wrapParams).ready 9 0xA03 = some (cmdOf 0xA03 wrapParams) ∧ (secState 0xA03 wrapParams).placeCheck 5 false 0x10000000000 64 = 0 ∧
  (secState 0xA03 wrapParams).placeCheck 5 true 0x10000000100 96 = 0 ∧ ((secState 0xA03 wrapParams).load 12 0xFFFF 0x10000000000 64).2.1 = none ∧
  (secState 0xA04 [3]).keySetCheck (cmdOf 0xA04 [3]) ≠ 0 ∧ (secState 0xA04 [2, 5, 1]).keySetCheck (cmdOf 0xA04 [2, 5, 1]) = 0 ∧
  (secState 0xA04 [2, 5, 1]).ready 9 0xA04 = some (cmdOf 0xA04 [2, 5, 1]) ∧
  (secState 0xA04 pairParams).keySetCheck (cmdOf 0xA04 pairParams) = 0 ∧ (cmdOf 0xA04 pairParams).p 0 1 = 1 ∧
  bitAt ((cmdOf 0xA04 pairParams).p 3 1) 0 = false ∧
  ((secState 0xA04 pairParams).load 12 0xFFFF ((cmdOf 0xA04 pairParams).addr 8) (State.keyRecordBytes (cmdOf 0xA04 pairParams))).2.1 = none ∧
  pondState.keySetCheck pondCmd = 0 ∧ pondCmd.p 0 1 = 0 ∧ pondState.ready 9 0xA04 = some pondCmd ∧
  (pondState.load 12 0xFFFF (pondCmd.addr 8) (State.keyRecordBytes pondCmd)).2.1 = none ∧
  (secState 0xA05 wrapParams).ready 9 0xA05 = some (cmdOf 0xA05 wrapParams) ∧ (secState 0xA05 wrapParams).placeCheck 5 true 0x10000000000 128 = 0 := by decide
theorem witness_SecurityCommands_mgmt :
  (graceState 10000).sec.pairKeys.find? (fun p => p.1 == 1283) = some (1283, { key := 1, previous := some 2, changedUs := 0 }) ∧
  (0 : Nat) + 10000 ≤ (graceState 10000).nowUs ∧ (graceState 9999).nowUs < 0 + 10000 ∧ (graceState 0).fab.linkUp = true ∧
  (graceState 0).pkg.poweredDown = false ∧ (graceState 0).pkg.heldInReset = false ∧ (graceState 0).session? 3 = some mgmt3 ∧
  (graceState 0).session? 4 = none ∧ (9 : Nat) ∉ mgmt3.seqs ∧ (8 : Nat) ∈ mgmt3.seqs ∧ mgmt3.lastUs + 300000000 ≤ (graceState 300000000).nowUs := by decide
theorem witness_ClusterPower :
  (powerState 0x700 [0, 0, 5]).ready 9 0x700 = some (cmdOf 0x700 [0, 0, 5]) ∧ (powerState 0x700 [0, 0, 5]).meterCheck (cmdOf 0x700 [0, 0, 5]) = 0 ∧
  (powerState 0x700 [0, 0, 6]).meterCheck (cmdOf 0x700 [0, 0, 6]) = 0x02C0 ∧ (powerState 0x701 [0, 0, 1, 0]).ready 9 0x701 = some (cmdOf 0x701 [0, 0, 1, 0]) ∧
  lowest ((powerState 0x701 [0, 0, 1, 0]).clusterRange (cmdOf 0x701 [0, 0, 1, 0]) ++ [check ((span 0 1).any (powerState 0x701 [0, 0, 1, 0]).clusterBusy) 0x06C0]) = 0 ∧
  (powerState 0x702 [0, 0, 1, 0]).ready 9 0x702 = some (cmdOf 0x702 [0, 0, 1, 0]) ∧ lowest ((powerState 0x702 [0, 0, 1, 0]).clusterRange (cmdOf 0x702 [0, 0, 1, 0])) = 0 ∧
  (((powerState 0x702 [0, 0, 1, 0]).cluster 0).asleep = false ∧ (sleepState 0x702).ready 9 0x702 = some (cmdOf 0x702 [0, 0, 1, 0]) ∧
  lowest ((sleepState 0x702).clusterRange (cmdOf 0x702 [0, 0, 1, 0])) = 0 ∧ ((sleepState 0x702).cluster 0).asleep = true ∧ (sleepState 0x702).siteServes 0 = true) := by decide
theorem witness_ClusterPower_busy : (busyCluster).ready 9 0x701 = some (cmdOf 0x701 [0, 0, 1, 0]) ∧
  lowest (busyCluster.clusterRange (cmdOf 0x701 [0, 0, 1, 0])) = 0 ∧ (span 0 1).any busyCluster.clusterBusy = true := by decide
theorem witness_ClusterPower_ramp :
  ((rampState false false).cluster 7).staging = false ∧ (rampState false false).nextRamp = some 7 ∧ ((rampState true false).cluster 7).deferred = false ∧
  ((rampState true true).cluster 7).staging = true ∧ ((rampState true true).cluster 7).deferred = true ∧ State.reset.nextRamp ≠ some 7 ∧
  bitAt (State.reset.cluster 1151).phasesOk.toNat 3 = true ∧ (1151 : Nat) < clustersN ∧
  ((List.range 4).filter (fun j => bitAt (BitVec.ofNat 4 ((State.reset.cluster 1151).phasesOk.toNat - 2 ^ 3)).toNat j)).length = 3 ∧
  (darkState.cluster 7).dark = true ∧ bitAt (darkState.cluster 7).phasesOk.toNat 1 = true ∧ bitAt (darkState.cluster 7).phasesOk.toNat (3 % 4) = false ∧
  (litState.cluster 7).dark = false ∧ (litState.cluster 7).phasesOk = 3 ∧ ((List.range 4).filter (fun j => bitAt (BitVec.ofNat 4 ((darkState.cluster 7).phasesOk.toNat - 2 ^ 1)).toNat j)).length ≠ 3 := by decide
theorem witness_KilnAndLeases :
  (leaseState 100).power.lastRecompute + 100 ≤ (leaseState 100).nowUs ∧ (leaseState 99).nowUs < (leaseState 99).power.lastRecompute + 100 ∧
  1600 * coneQ 7 ≤ 800 * 16 ∧ State.coneFor 1600 800 = 7 ∧ State.coneFor 1600 799 = 7 ∧ State.coneFor 1600 1500 = 1 ∧
  (leaseState 0).power.borrowed[0]? = some (leaseOf false) ∧ (leaseOf false).sinceUs + 10000 ≤ (leaseState 11000).nowUs ∧
  (leaseState 9999).nowUs < (leaseOf false).sinceUs + 10000 ∧ (leaseState 0).power.lent[0]? = some (leaseOf true) ∧ (leaseOf true).running = true ∧
  (leaseOf true).sinceUs + 11000 ≤ (leaseState 11000).nowUs ∧ (leaseState 10999).nowUs < (leaseOf true).sinceUs + 11000 ∧ (1174 : Nat) < domainsN := by decide
theorem witness_KilnAndLeases_shares :
  (([{ saggar := 5, job := 0, group := some 3, domain := 0, microjoules := 7, idle := false }] : List EnergyShare).map (fun e => e.microjoules)).foldl (· + ·) 0 ≤ 9 := by decide
theorem witness_ThermalEvents :
  State.reset.up = true ∧ (staleState false 500).up = true ∧ (staleState false 500).thermal.kilnStale = false ∧
  (staleState false 500).thermal.lastUpdateUs + 500 ≤ (staleState false 500).nowUs ∧ (staleState true 1500).thermal.kilnStale = true ∧
  (staleState true 1500).thermal.lastUpdateUs + 500 + 1000 * ((staleState true 1500).thermal.staleRaises + 1) ≤ (staleState true 1500).nowUs ∧
  coneOfMargin 113 = 0 ∧ coneOfMargin 112 = 1 ∧ coneOfMargin 97 = 1 ∧ coneOfMargin 17 = 6 ∧ coneOfMargin 16 = 7 ∧
  ptLimit (ptOf 0) ≤ tempOf 1680 ∧ 1680 % 65536 ≠ 0x8000 ∧ 0 ∈ ptClusters (ptOf 0) ∧ 0 ∉ (State.reset.cluster 0).clamps ∧
  (State.reset.sensor 0).suspect = false ∧ (State.reset.sensor 0).failed = false ∧ 0 ∈ ptSensors (ptOf 0) ∧ tempOf 1647 < ptLimit (ptOf 0) - 32 ∧
  tempOf 1679 < ptLimit (ptOf 0) := by decide
theorem witness_ThermalEvents_coolant :
  State.reset.pkg.poweredDown = false ∧ State.coolantBad 0 287 = true ∧ State.coolantBad 0 288 = false ∧ State.coolantBad 0 640 = false ∧
  State.coolantBad 0 641 = true ∧ State.coolantBad 1 6001 = true ∧ State.coolantBad 2 1501 = true ∧ (coolState true 6500).thermal.coolantOor = true ∧
  (coolState true 2999).thermal.flowLimited = true ∧ (coolState false 2999).thermal.flowLimited = false ∧ (coolState false 0).thermal.heatMismatch = false ∧
  0 * 100000 < 85 * (coolState false 0).inputMw ∧ (warmState 1 5999).thermal.flowAsk = true ∧ (warmState 1 5999).up = true ∧
  (warmState 1 5999).clusters.any (fun p => decide (0 < (warmState 1 5999).thermalConeOf p.1)) = true ∧ (warmState 1 5999).thermal.flow < 6000 ∧
  (warmState 0 1).clusters.any (fun p => decide (0 < (warmState 0 1).thermalConeOf p.1)) = false ∧ 0 < (warmState 0 1).thermal.flowWant ∧
  quietState.thermal.flowAsk = false := by decide
theorem witness_RankingAndWear :
  rankState.ready 9 0x708 = some rankCmd ∧ rankState.rankCheck rankCmd = 0 ∧
  (rankState.load 7 0xFFFF (rankCmd.addr 0) (2 * rankCmd.p 8 2)).2.1 = none ∧
  (rankState.load 7 0xFFFF (rankCmd.addr 0) (2 * rankCmd.p 8 2)).1.rankListCheck 5 (coreList 1 (rankState.load 7 0xFFFF (rankCmd.addr 0) (2 * rankCmd.p 8 2)).2.2) = 0 ∧
  ((rankState.load 7 0xFFFF (rankCmd.addr 0) (2 * rankCmd.p 8 2)).1.store 12 0xFFFF (rankCmd.addr 0) [0, 0]).2 = none ∧
  (0 : Nat) ≤ (State.reset.saggar 63).spread ∧ State.reset.thermal.rotSpread * 16 < (({ State.reset with saggars := [(63, { Saggar.bisque with spread := 0xFFFF })] } : State).saggar 63).spread ∧
  (operCmd 0x708 (leBytes 8 0 ++ [0x41, 0x11])).p 8 2 = 4417 ∧ (operCmd 0x708 []).p 8 2 = 0 ∧ (operState 0x708 []).ready 9 0x708 = some (operCmd 0x708 []) := by decide
theorem witness_ControlFramesAreAuthenticated :
  (0 : Nat) < portsN ∧ ((fabState id).port 0).state = .up ∧ (frameOf 2 []).dstPos = (fabState id).pkg.posValue ∧ (fabState id).onPond 0 1 = true ∧
  (frameOf 2 []).srcPort = 0 ∧ (frameOf 2 []).pondKey = State.pondType 2 ∧ (fabState id).rxKeys false 0 5 1 = [(9, 2 * State.pairKeyId 1281)] ∧
  (fabState id).replayOk (2 * State.pairKeyId 1281 * 32) 1 = true ∧ (fabState id).replayOk (2 * State.pairKeyId 1281 * 32) 0 = true ∧
  ((fabState id).replayNote 7 1025).replayOk 7 0 = false ∧ (State.reset.port 0).state ≠ .up := by decide
theorem witness_OpticalLinks :
  ((fabState (queued 0 0)).port 0).txq = [txOf 0 0] ∧ (fabState (queued 0 0)).mayTransmit 0 = true ∧ (txOf 0 0).tries = 0 ∧
  0 < (txOf 1 5).tries ∧ (txOf 1 5).notBefore ≤ (fabState (queued 1 5)).nowUs ∧ (txOf 1 5).frame.type = 12 ∧ (txOf 1 5).firstUs + 900 ≤ (fabState (queued 1 5)).nowUs ∧
  (fabState (queued 1 1000002)).nowUs < (txOf 1 1000002).notBefore ∧ ((fabState (inState .dark)).port 0).state = .dark ∧
  ((fabState (inState .ranging)).port 0).state = .ranging ∧ (operState 0x603 [0]).ready 9 0x603 = some (operCmd 0x603 [0]) ∧
  ((operState 0x603 [0]).port 0).state = .noKey ∧ ({ fabState id with cmds := [operCmd 0x603 [0]] } : State).ready 9 0x603 = some (operCmd 0x603 [0]) ∧
  ((fabState id).port 0).helloUs + 4096 ≤ (fabState id).nowUs ∧ ((fabState id).port 0).beaconUs + 256 + (fabState id).ownComb 0 * 64 ≤ (fabState id).nowUs ∧
  ((fabState (leads true)).port 0).leader = true ∧ ((fabState (leads false)).port 0).leader = false := by decide
theorem witness_OpticalLinks_beacon :
  ((fabState (leads true)).port 0).beaconUs + 64 ≤ (fabState (leads true)).nowUs ∧
  ((fabState (leads true)).finalFrame 0 ((fabState (leads true)).pondFrame 0 0 (leBytes 1 ((fabState (leads true)).ownComb 0)))).isSome = true ∧
  fieldAt (frameOf 1 [1, 0]).body 0 1 = 1 ∧ (1 : Nat) ≠ (fabState id).pkg.posValue ∧ State.combOf 0 1 ≠ (fabState id).ownComb 0 ∧
  State.combOf 0 16 = (fabState id).ownComb 0 ∧ (fabState id).onPond 0 1 = true ∧
  ((fabState member).port 0).heardUs.get (fun _ => 0) 3 + 10000 < (fabState member).nowUs ∧ (fabState member).nowUs ≤ ((fabState member).port 0).heardUs.get (fun _ => 0) 4 + 10000 := by decide
theorem witness_OpticalLinks_heard : ∃ u v w x : State,
  (fabState id).hear 0 1 (sealedF (frameOf 1 [1, 0])) = (u, true) ∧ State.combOf 0 1 ≠ u.ownComb 0 ∧ u.onPond 0 1 = true ∧
  (fabState id).hear 0 1 (sealedF (frameOf 1 [16, 0])) = (v, true) ∧ State.combOf 0 16 = v.ownComb 0 ∧
  (fabState (leads true)).hear 0 0 (sealedF (frameOf 0 [])) = (w, true) ∧ (w.port 0).leader = true ∧
  (fabState (leads false)).hear 0 0 (sealedF (frameOf 0 [])) = (x, true) ∧ (x.port 0).leader = false :=
  ⟨_, _, _, _, hear_sealed 1 (by decide) _ _ rfl, by decide, by decide, hear_sealed 1 (by decide) _ _ rfl, by decide,
    hear_sealed 0 (by decide) _ _ rfl, by decide, hear_sealed 0 (by decide) _ _ rfl, by decide⟩
theorem witness_PoursAtTheSender :
  (pourCmdState 262144).ready 9 0x600 = some (pourCmd 262144) ∧ (pourCmdState 262144).pourCheck (pourCmd 262144) = 0 ∧
  (pourCmdState 262080).pourCheck (pourCmd 262080) = 0x01B0 ∧ (pourCmdState 262080).ready 9 0x600 = some (pourCmd 262080) ∧
  (windowState 16 64).ready 9 0x602 = some (windowCmd 16 64) ∧ bitAt ((windowCmd 16 64).p 0 1) 4 = true ∧ 0 < (windowCmd 16 64).p 16 4 ∧
  (windowCmd 16 64).addr 8 % 64 = 0 ∧ (windowState 16 64).reach ((windowState 16 64).engineAuth 5) true ((windowCmd 16 64).addr 8) 64 = 0 ∧
  ((windowState 16 64).ring 100).role = .completion ∧ ((windowState 16 64).ring 100).saggar = 5 ∧ (windowCmd 16 64).p 22 2 % 16384 = 100 ∧
  bitAt ((windowCmd 0 64).p 0 1) 4 = false ∧ (windowCmd 16 0).p 16 4 = 0 := by decide
theorem witness_PoursAtTheSender_start :
  ((fabState waits).port 0).current = none ∧ (fabState waits).nextPourOf 0 = some (pourAt .waiting 0 0, 5, 1) ∧ (pourAt .waiting 0 0).cmd = none ∧
  (fabState (pours .reserved 0 0)).namedPour 0 (frameOf 3 []) = some (pourAt .reserved 0 0) ∧ (pourAt .reserved 0 0).busyRetries < 100 ∧
  (fabState (pours .sent 0 0)).namedPour 0 (frameOf 5 []) = some (pourAt .sent 0 0) ∧ fieldAt (frameOf 4 [0xB1, 6]).body 0 2 = 0x06B1 ∧
  fieldAt (frameOf 4 [0xB1, 2]).body 0 2 = 0x02B1 ∧ (fabState (pours .accepted 0 0)).nowUs ≥ (pourAt .accepted 0 0).sinceUs ∧
  (fabState (pours .reserved 8 0)).frameWaits 0 2 = false ∧ (pourAt .reserved 8 0).sends = 8 ∧ (pourAt .reserved 7 0).sends < 8 ∧
  (pourAt .reserved 0 0).sinceUs + 200 ≤ (fabState id).nowUs ∧ (fabState (pours .sent 0 2)).frameWaits 0 6 = false ∧ (pourAt .sent 0 2).queries < 3 ∧
  (pourAt .sent 0 3).queries = 3 ∧ (pourAt .backoff 0 0).stage = .backoff ∧
  ((fabState awaits).port 0).awaiting.find? (fun x => x.pourId == 3 && (fabState awaits).hopEnd x.destPos == 1) = some (pourAt .relaying 0 0) ∧
  ((fabState awaits).port 0).awaiting.find? (fun x => x.pourId == 3 && decide (x.sinceUs + 10000 ≤ (fabState awaits).nowUs)) = some (pourAt .relaying 0 0) := by decide
theorem witness_PoursAtTheSender_heard : ∃ u v w x y : State,
  (fabState (pours .reserved 0 0)).hear 0 3 (sealedF (frameOf 3 [])) = (u, true) ∧ u.namedPour 0 (sealedF (frameOf 3 [])) = some (pourAt .reserved 0 0) ∧
  (fabState (pours .reserved 0 0)).hear 0 4 (sealedF (frameOf 4 [0xB1, 6])) = (v, true) ∧
  v.namedPour 0 (sealedF (frameOf 4 [0xB1, 6])) = some (pourAt .reserved 0 0) ∧
  (fabState (pours .sent 0 0)).hear 0 5 (sealedF (frameOf 5 [])) = (w, true) ∧ w.namedPour 0 (sealedF (frameOf 5 [])) = some (pourAt .sent 0 0) ∧
  (fabState (pours .sent 0 0)).hear 0 8 (sealedF (frameOf 8 [])) = (x, true) ∧ x.namedPour 0 (sealedF (frameOf 8 [])) = some (pourAt .sent 0 0) ∧
  (fabState awaits).hear 0 7 (sealedF (frameOf 7 [])) = (y, true) ∧
  (y.port 0).awaiting.find? (fun x => x.pourId == 3 && y.hopEnd x.destPos == 1) = some (pourAt .relaying 0 0) :=
  ⟨_, _, _, _, _, hear_sealed 3 (by decide) _ _ rfl, by decide, hear_sealed 4 (by decide) _ _ rfl, by decide,
    hear_sealed 5 (by decide) _ _ rfl, by decide, hear_sealed 8 (by decide) _ _ rfl, by decide, hear_sealed 7 (by decide) _ _ rfl, by decide⟩
theorem witness_PoursAtTheReceiver :
  (∀ x ∈ ((fabState id).port 0).resvs, ¬(x.hopPos = 1 ∧ x.pourId = 3)) ∧ ((fabState id).port 0).recv = none ∧
  ((fabState (manyResvs 64)).port 0).resvs.length = 64 ∧ fieldAt (frameOf 2 []).body 16 1 = (fabState id).pkg.posValue ∧
  ((fabState id).saggar 5).quiescing = 0 ∧ State.resvOf (frameOf 2 []) ∈ ((fabState (manyResvs 1)).port 0).resvs ∧
  (fabState (manyResvs 1)).nextResv 0 = some (State.resvOf (frameOf 2 []), 5, 1) ∧ (fabState (manyResvs 1)).resvCheck 0 (State.resvOf (frameOf 2 [])) = 0x02B1 ∧
  (fabState (manyResvs 1)).resvCheck 0 { State.resvOf (frameOf 2 []) with cascade := true } = 0 := by decide
theorem witness_PoursAtTheReceiver_run :
  ((fabState (takes true true false)).port 0).recv = some (recvOf true true false) ∧ (fabState id).ofHop (recvOf true true false) (dataOf 4 15) = true ∧
  (dataOf 4 15).segment = (recvOf true true false).lastSeg ∧ (dataOf 4 15).frame + 1 = segFrames 327680 4 ∧ (dataOf 0 0).segment ≠ (recvOf true true false).lastSeg ∧
  (fabState id).ofHop (recvOf true true false) { dataOf 0 0 with pourId := 9 } = false ∧ (recvOf true false false).started = false ∧
  (recvOf true false false).sinceUs + 200 ≤ (fabState id).nowUs ∧ (recvOf true true true).closing = true ∧ (recvOf true true false).rounds = 0 ∧
  (recvOf false false false).timed = false ∧ (recvOf true true false).resv.hopPos = 1 ∧ (recvOf true true false).resv.pourId = 3 := by decide
theorem witness_PoursAtTheReceiver_heard : ∃ u v w x : State,
  (fabState id).hear 0 2 (sealedF (frameOf 2 [])) = (u, true) ∧ (u.port 0).resvs = [] ∧ (u.port 0).recv = none ∧ (u.saggar 5).quiescing = 0 ∧
  (fabState (manyResvs 64)).hear 0 2 (sealedF (frameOf 2 [])) = (v, true) ∧ (v.port 0).resvs.length = 64 ∧
  (fabState (takes true true true)).hear 0 6 (sealedF (frameOf 6 [])) = (w, true) ∧ (w.port 0).recv = some (recvOf true true true) ∧
  (fabState (takes true true false)).hear 0 6 (sealedF (frameOf 6 [])) = (x, true) ∧ (x.port 0).recv = some (recvOf true true false) :=
  ⟨_, _, _, _, hear_sealed 2 (by decide) _ _ rfl, by decide, by decide, by decide, hear_sealed 2 (by decide) _ _ rfl, by decide,
    hear_sealed 6 (by decide) _ _ rfl, by decide, hear_sealed 6 (by decide) _ _ rfl, by decide⟩
theorem witness_RemoteTraffic :
  (0 : Nat) < 16 ∧ (viaFrame).dstPos ≠ (fabState id).pkg.posValue ∧ (viaFrame).dstPos ≠ 0xFF ∧ (viaFrame).dstPos % 16 = (fabState id).pkg.posValue % 16 ∧
  (fabState id).onPond 0 viaFrame.srcPos = true ∧ (fabState id).forwards 0 (frameOf 9 []) = none ∧ (packetOf ((frameOf 9 responseBody).body.take 64) []).isResponse = true ∧
  (packetOf ((frameOf 9 []).body.take 64) []).isResponse = false ∧ ((fabState id).takeRemote 0 1 5 (packetOf ((frameOf 9 []).body.take 64) [])).2 ≠ 0 ∧
  ((fabState id).takeRemote 0 1 5 (packetOf ((frameOf 9 nodeBody).body.take 64) [])).2 = 0 ∧ fieldAt (frameOf 11 []).body 3 1 = 0 ∧
  fieldAt (frameOf 11 [0, 0, 0, 2]).body 3 1 = groupState.power.powerGroup ∧ fieldAt (frameOf 12 [2, 0, 5]).body 1 1 = groupState.pkg.posValue ∧
  fieldAt (frameOf 12 [2, 0, 5]).body 0 1 = groupState.power.powerGroup ∧ fieldAt (frameOf 12 [2, 0, 5]).body 2 2 = 5 ∧
  0 < groupState.power.lendMax - State.leaseSum groupState.power.borrowed ∧
  0 < ceilingW groupState.fw.variant - (groupState.power.pkgCap + State.leaseSum groupState.power.borrowed - State.leaseSum groupState.power.lent) ∧
  atOptical.net[0]? = some optPkt ∧ 5184 ≤ optPkt.dest ∧ optPkt.dest < 5248 ∧ atOptical.meshHead 0 optPkt = true ∧ optPkt.isResponse = false ∧
  atOptical.net[1]? = some optAnswer ∧ optAnswer.isResponse = true ∧ atOptical.meshHead 1 optAnswer = true ∧ optAnswer.dest = 5247 ∧
  atOptical.fab.gathers.find? (fun g => g.attach == 0 && g.destPos == 1 && decide (g.sinceUs + 2 ≤ atOptical.nowUs)) =
    some { attach := 0, destPos := 1, saggar := 5, packets := [optPkt], sinceUs := 0 } := by decide
theorem witness_RemoteTraffic_heard : ∃ u v w x : State,
  (fabState id).hear 0 9 (sealedF (frameOf 9 responseBody)) = (u, true) ∧ (fabState id).hear 0 10 (sealedF (frameOf 10 [])) = (v, true) ∧
  (fabState id).hear 0 11 (sealedF (frameOf 11 [])) = (w, true) ∧ (fabState id).hear 0 12 (sealedF (frameOf 12 [])) = (x, true) ∧
  fieldAt (sealedF (frameOf 12 [])).body 0 1 = 0 :=
  ⟨_, _, _, _, hear_sealed 9 (by decide) _ _ rfl, hear_sealed 10 (by decide) _ _ rfl, hear_sealed 11 (by decide) _ _ rfl,
    hear_sealed 12 (by decide) _ _ rfl, by decide⟩
theorem witness_PositionFromStraps : strapsValid [1, 2, 0, 1, 2, 0] = true ∧ strapValue [1, 2, 0, 1, 2, 0] = 196 ∧ strapsValid [0, 0, 0, 0, 0, 3] = false ∧
  strapsValid [1, 1, 1, 0, 0, 1] = false := by decide
theorem witness_BringupRuns :
  (bringState true false none).pkg.poweredDown = true ∧ (bringState true false none).pkg.inputOn = true ∧ (bringState true false none).pkg.seqStopped = false ∧
  (bringState false true none).pkg.heldInReset = true ∧ (bringState false true none).pkg.refPresent = true ∧ (bringState false false (some true)).fw.bringup = some true ∧
  (bringState false false none).fw.bringup ≠ some true ∧ (bringState false false none).pkg.heldInReset = false ∧
  (bringState false false (some false)).fw.bringup = some false ∧ (bringState false false (some false)).up = true := by decide
theorem witness_StepTakesTheFront : step State.reset = .next State.reset.tick := rfl
theorem witness_MemoryStaysCanonical : Memory.wf State.reset.mem ∧
  ∃ t, step { State.reset with pending := [.standbyPowerUp] } = .next t := ⟨by decide, _, rfl⟩
theorem witness_GlazedRecordBalances : State.reset.glazedOk ∧
  ∃ t, step { State.reset with pending := [.standbyPowerUp] } = .next t := ⟨by decide, _, rfl⟩
theorem witness_HashedWindow : State.reset.retiredRuns = [] ∧ (595 : Nat) < 524288 := by decide
theorem witness_StrapLevels : strapLevel 100 = 0 ∧ strapLevel 101 = 3 ∧ strapLevel 9000 = 1 ∧ strapLevel 11000 = 1 ∧ strapLevel 11001 = 3 ∧
  strapLevel 999999 = 3 ∧ strapLevel 1000000 = 2 := by decide
theorem witness_SiteWindows : (4607 : Nat) < 4608 ∧ (0x3FFFFF : Nat) < 0x400000 ∧ (0x7FFFF : Nat) < 0x80000 := by decide
theorem witness_RegistersAfterReset : State.reset.readRing 16383 0x20 = some 1 ∧ State.reset.readSite 4607 8 = some 1 := by decide

end Sys2Proof.Tests
end

section
/-! SUPPORT. The claims about the machine as a whole, of the family 00_scope. -/
namespace Sys2Proof.Machine
open Sys2Proof

/-! ### Every command answers a next state (R11, R334) -/

/-- The dispatch, arm by arm: each command has one meaning, and each meaning answers a next state. -/
theorem exec_runs : ∀ (c : Instr) (s : State), OutRuns (exec c s)
  | .standbyPowerUp, _ => execStandbyPowerUp_runs ..
  | .railGood _, _ => execRailGood_runs ..
  | .railWindowExpiry _, _ => execRailWindowExpiry_runs ..
  | .vmeshOutOfRange, _ => execVmeshOutOfRange_runs ..
  | .refLoss, _ => execRefLoss_runs ..
  | .refRecovery, _ => execRefRecovery_runs ..
  | .holdoverExpiry, _ => execHoldoverExpiry_runs ..
  | .inputUndervolt _, _ => execInputUndervolt_runs ..
  | .inputRecovery _, _ => execInputRecovery_runs ..
  | .inputPowerLost _, _ => execInputPowerLost_runs ..
  | .inputOvervoltage _, _ => execInputOvervoltage_runs ..
  | .bisqueStart _, _ => execBisqueStart_runs ..
  | .refire _, _ => execRefire_runs ..
  | .packetInject _, _ => execPacketInject_runs ..
  | .meshRequestArrival _ _, _ => execMeshRequestArrival_runs ..
  | .meshResponseArrival _, _ => execMeshResponseArrival_runs ..
  | .priorityFlitAged _, _ => execPriorityFlitAged_runs ..
  | .epochUpdate _, _ => execEpochUpdate_runs ..
  | .remapApply _, _ => execRemapApply_runs ..
  | .remapQuiescenceTimeout _, _ => execRemapQuiescenceTimeout_runs ..
  | .imageBroadcast _ _, _ => execImageBroadcast_runs ..
  | .rillInterrupt _, _ => execRillInterrupt_runs ..
  | .scalarVectorInstruction _ _, _ => execScalarVectorInstruction_runs ..
  | .apertureLoad _, _ => execApertureLoad_runs ..
  | .apertureStore _, _ => execApertureStore_runs ..
  | .fence _, _ => execFence_runs ..
  | .fenceI _, _ => execFenceI_runs ..
  | .csrWrite _, _ => execCsrWrite_runs ..
  | .tld _ _, _ => execTld_runs ..
  | .tst _ _, _ => execTst_runs ..
  | .taclr _, _ => execTaclr_runs ..
  | .tmma _ _, _ => execTmma_runs ..
  | .tepi _, _ => execTepi_runs ..
  | .tcvt _, _ => execTcvt_runs ..
  | .osm _, _ => execOsm_runs ..
  | .tmv _, _ => execTmv_runs ..
  | .tcasOpen _, _ => execTcasOpen_runs ..
  | .tcasClose _, _ => execTcasClose_runs ..
  | .tcasExport _, _ => execTcasExport_runs ..
  | .tcasFold _, _ => execTcasFold_runs ..
  | .foldComplete _, _ => execFoldComplete_runs ..
  | .foldTimeout _, _ => execFoldTimeout_runs ..
  | .tcasDiscard _, _ => execTcasDiscard_runs ..
  | .cascadeNodeArrival _, _ => execCascadeNodeArrival_runs ..
  | .taorC _, _ => execTaorC_runs ..
  | .allorWordArrival _, _ => execAllorWordArrival_runs ..
  | .allorTimeout _, _ => execAllorTimeout_runs ..
  | .taorW _, _ => execTaorW_runs ..
  | .taorWComplete _, _ => execTaorWComplete_runs ..
  | .tret _, _ => execTret_runs ..
  | .kernelExit _, _ => execKernelExit_runs ..
  | .kernelEndByTrap _, _ => execKernelEndByTrap_runs ..
  | .lagNoticeArrival _, _ => execLagNoticeArrival_runs ..
  | .attachPortRequest _ _, _ => execAttachPortRequest_runs ..
  | .cxlMemRequest _ _ _ _ _, _ => execCxlMemRequest_runs ..
  | .columnRefresh _, _ => execColumnRefresh_runs ..
  | .refreshRateChange _ _ _, _ => execRefreshRateChange_runs ..
  | .refreshNormalReturn _ _, _ => execRefreshNormalReturn_runs ..
  | .hbmRefresh c b, s => execHbmRefresh_runs c b s
  | .sluiceDescriptorStart _ _, _ => execSluiceDescriptorStart_runs ..
  | .sluiceDescriptorComplete _, _ => execSluiceDescriptorComplete_runs ..
  | .sluiceHalt _ _, _ => execSluiceHalt_runs ..
  | .sluiceResume _, _ => execSluiceResume_runs ..
  | .sluiceRewetDone _, _ => execSluiceRewetDone_runs ..
  | .nbRun _, _ => execNbRun_runs ..
  | .nbCoreCommand _ _ _ _, _ => execNbCoreCommand_runs ..
  | .fenceNb _, _ => execFenceNb_runs ..
  | .nbCancel _, _ => execNbCancel_runs ..
  | .nbReset _, _ => execNbReset_runs ..
  | .nbSequenceStart _, _ => execNbSequenceStart_runs ..
  | .nbStepEnd _ _ _, _ => execNbStepEnd_runs ..
  | .nbGapEnd _, _ => execNbGapEnd_runs ..
  | .nbResetEntry _, _ => execNbResetEntry_runs ..
  | .nbUnitRewetDone _, _ => execNbUnitRewetDone_runs ..
  | .kvAppend _, _ => execKvAppend_runs ..
  | .kvEvict _, _ => execKvEvict_runs ..
  | .kvStage _, _ => execKvStage_runs ..
  | .attnDecode _, _ => execAttnDecode_runs ..
  | .kvScore _, _ => execKvScore_runs ..
  | .kvAccept _, _ => execKvAccept_runs ..
  | .kvServiceStart _, _ => execKvServiceStart_runs ..
  | .tsUpdate _, _ => execTsUpdate_runs ..
  | .tsCastout _, _ => execTsCastout_runs ..
  | .tsScale _, _ => execTsScale_runs ..
  | .tsAudit _, _ => execTsAudit_runs ..
  | .tsDigest _, _ => execTsDigest_runs ..
  | .tsCompare _, _ => execTsCompare_runs ..
  | .stepGateReread _, _ => execStepGateReread_runs ..
  | .stepGateTimeout _, _ => execStepGateTimeout_runs ..
  | .ucieModuleLoss _, _ => execUcieModuleLoss_runs ..
  | .registerWrite _ _ _ _, _ => execRegisterWrite_runs ..
  | .doorbell _ _ _, _ => execDoorbell_runs ..
  | .coreDoorbell _ _ _ _ _, _ => execCoreDoorbell_runs ..
  | .commandFetch _ _, _ => execCommandFetch_runs ..
  | .completionWrite _, _ => execCompletionWrite_runs ..
  | .completionStallTimeout _, _ => execCompletionStallTimeout_runs ..
  | .completionSlotRetry _, _ => execCompletionSlotRetry_runs ..
  | .interruptCoalesceTimeout _, _ => execInterruptCoalesceTimeout_runs ..
  | .nop _, _ => execNop_runs ..
  | .cfgBegin _, _ => execCfgBegin_runs ..
  | .cfgSet _, _ => execCfgSet_runs ..
  | .cfgCommit _, _ => execCfgCommit_runs ..
  | .commitApply _ _, _ => execCommitApply_runs ..
  | .quiescenceTimeout _, _ => execQuiescenceTimeout_runs ..
  | .cfgAbort _, _ => execCfgAbort_runs ..
  | .transactionTimeout _, _ => execTransactionTimeout_runs ..
  | .cfgGet _, _ => execCfgGet_runs ..
  | .saggarClose _, _ => execSaggarClose_runs ..
  | .jobOpen _, _ => execJobOpen_runs ..
  | .jobClose _, _ => execJobClose_runs ..
  | .jobCloseComplete _, _ => execJobCloseComplete_runs ..
  | .ringReset _, _ => execRingReset_runs ..
  | .ringRewetDone _, _ => execRingRewetDone_runs ..
  | .klaunch _, _ => execKlaunch_runs ..
  | .launchStart _, _ => execLaunchStart_runs ..
  | .kabort _, _ => execKabort_runs ..
  | .fabPour _, _ => execFabPour_runs ..
  | .fabWindow _, _ => execFabWindow_runs ..
  | .fabPortReset _, _ => execFabPortReset_runs ..
  | .laserInputLoss _, _ => execLaserInputLoss_runs ..
  | .portRanging _ _, _ => execPortRanging_runs ..
  | .helloSend _, _ => execHelloSend_runs ..
  | .memberExpiry _ _, _ => execMemberExpiry_runs ..
  | .beaconSend _, _ => execBeaconSend_runs ..
  | .leaderTimeout _, _ => execLeaderTimeout_runs ..
  | .controlFrameSend _ _ _, _ => execControlFrameSend_runs ..
  | .controlBackoffExpiry _ _ _, _ => execControlBackoffExpiry_runs ..
  | .lendAbandon _, _ => execLendAbandon_runs ..
  | .beacon _ _, _ => execBeacon_runs ..
  | .hello _ _, _ => execHello_runs ..
  | .reserve _ _, _ => execReserve_runs ..
  | .accept _ _, _ => execAccept_runs ..
  | .refuse _ _, _ => execRefuse_runs ..
  | .done _ _, _ => execDone_runs ..
  | .query _ _, _ => execQuery_runs ..
  | .relayed _ _, _ => execRelayed_runs ..
  | .abort _ _, _ => execAbort_runs ..
  | .mesh _ _, _ => execMesh_runs ..
  | .session _ _, _ => execSession_runs ..
  | .lag _ _, _ => execLag_runs ..
  | .lend _ _, _ => execLend_runs ..
  | .pourStart _, _ => execPourStart_runs ..
  | .reservationTake _, _ => execReservationTake_runs ..
  | .pourSegmentsStart _, _ => execPourSegmentsStart_runs ..
  | .dataFrameReceive _ _, _ => execDataFrameReceive_runs ..
  | .reserveTimeout _, _ => execReserveTimeout_runs ..
  | .reserveRetry _, _ => execReserveRetry_runs ..
  | .firstSegmentTimeout _, _ => execFirstSegmentTimeout_runs ..
  | .doneTimeout _, _ => execDoneTimeout_runs ..
  | .doneRetentionExpiry _ _ _, _ => execDoneRetentionExpiry_runs ..
  | .relayedTimeout _ _, _ => execRelayedTimeout_runs ..
  | .opticalAttachPacket _, _ => execOpticalAttachPacket_runs ..
  | .cascadeGatherTimeout _ _, _ => execCascadeGatherTimeout_runs ..
  | .mgmtDatagram _, _ => execMgmtDatagram_runs ..
  | .mgmtSessionTimeout _, _ => execMgmtSessionTimeout_runs ..
  | .pwrMeterRead _, _ => execPwrMeterRead_runs ..
  | .pwrSleep _, _ => execPwrSleep_runs ..
  | .pwrWake _, _ => execPwrWake_runs ..
  | .clusterSwitchStage _ _, _ => execClusterSwitchStage_runs ..
  | .clusterStartDeferralEnd _ _ _, _ => execClusterStartDeferralEnd_runs ..
  | .regulatorPhaseFault _, _ => execRegulatorPhaseFault_runs ..
  | .kilnRecompute _, _ => execKilnRecompute_runs ..
  | .lendLeaseExpiry _, _ => execLendLeaseExpiry_runs ..
  | .lendReductionExpiry _, _ => execLendReductionExpiry_runs ..
  | .telemetryWindowClose _, _ => execTelemetryWindowClose_runs ..
  | .energyAttribution _ _, _ => execEnergyAttribution_runs ..
  | .kilnModelUpdate _, _ => execKilnModelUpdate_runs ..
  | .kilnStaleTimeout, _ => execKilnStaleTimeout_runs ..
  | .kilnStaleConeRaise, _ => execKilnStaleConeRaise_runs ..
  | .thermalClamp _ _, _ => execThermalClamp_runs ..
  | .thermalClampRelease _ _, _ => execThermalClampRelease_runs ..
  | .thermalShutdown _, _ => execThermalShutdown_runs ..
  | .coolantOutOfRange _ _, _ => execCoolantOutOfRange_runs ..
  | .flowLimited _, _ => execFlowLimited_runs ..
  | .flowLimitLift _, _ => execFlowLimitLift_runs ..
  | .heatMismatch _, _ => execHeatMismatch_runs ..
  | .flowRecord _, _ => execFlowRecord_runs ..
  | .rotateDue _, _ => execRotateDue_runs ..
  | .thmRank _, _ => execThmRank_runs ..
  | .wearSample, _ => execWearSample_runs ..
  | .wearPersist, _ => execWearPersist_runs ..
  | .ceBucketLeak, _ => execCeBucketLeak_runs ..
  | .relScrub _, _ => execRelScrub_runs ..
  | .scrubStart _ _, _ => execScrubStart_runs ..
  | .scrubComplete _, _ => execScrubComplete_runs ..
  | .relRetireGranule _, _ => execRelRetireGranule_runs ..
  | .relRetireSite _, _ => execRelRetireSite_runs ..
  | .siteRewetDone _ _, _ => execSiteRewetDone_runs ..
  | .mirrorWrite _, _ => execMirrorWrite_runs ..
  | .cisRead _, _ => execCisRead_runs ..
  | .cisClear _, _ => execCisClear_runs ..
  | .rstCluster _, _ => execRstCluster_runs ..
  | .rstSaggar _, _ => execRstSaggar_runs ..
  | .rstDie _, _ => execRstDie_runs ..
  | .rstStack _ _, _ => execRstStack_runs ..
  | .rstPackage _, _ => execRstPackage_runs ..
  | .fwStage _, _ => execFwStage_runs ..
  | .fwActivate _, _ => execFwActivate_runs ..
  | .fwRoleHandover _ _, _ => execFwRoleHandover_runs ..
  | .fwActivationConfirm, _ => execFwActivationConfirm_runs ..
  | .runtimeActivationStart _ _, _ => execRuntimeActivationStart_runs ..
  | .runtimeActivationTimeout _, _ => execRuntimeActivationTimeout_runs ..
  | .controllerHeartbeatMiss _, _ => execControllerHeartbeatMiss_runs ..
  | .glazeSet _, _ => execGlazeSet_runs ..
  | .glazeRead _, _ => execGlazeRead_runs ..
  | .twinDrain _, _ => execTwinDrain_runs ..
  | .drainComplete _, _ => execDrainComplete_runs ..
  | .twinRejoin _, _ => execTwinRejoin_runs ..
  | .secQuote _, _ => execSecQuote_runs ..
  | .secCertRead _, _ => execSecCertRead_runs ..
  | .secExtend _, _ => execSecExtend_runs ..
  | .secWrapOpen _, _ => execSecWrapOpen_runs ..
  | .secKeySet _, _ => execSecKeySet_runs ..
  | .secRekeyPrepare _, _ => execSecRekeyPrepare_runs ..
  | .keyGraceExpiry _ _, _ => execKeyGraceExpiry_runs ..
  | .laserInputRestored _ _, _ => execLaserInputRestored_runs ..
  | .coolantOorClear, _ => execCoolantOorClear_runs ..
  | .heatMismatchClear, _ => execHeatMismatchClear_runs ..
  | .mgmtLinkUpChange _, _ => execMgmtLinkUpChange_runs ..

/-- Settles O46: each of the commands has its own `execX_runs`. -/
theorem everyCommandCompletes : Obligations.EveryCommandCompletes :=
  fun c s => (exec_runs c s).runs

/-! ### Bytes of storage (R206, R207) -/

/-- Entries left out by their index read there what an unlisted entry holds; the others read as before. -/
theorem Tbl.get_filter_index {α : Type} (d : Nat → α) (t : Tbl α) (q : Nat → Bool) (a : Nat) :
    Tbl.get d (t.filter (fun p => q p.1)) a = if q a then Tbl.get d t a else d a := by
  induction t with
  | nil => simp [Tbl.get]
  | cons p r ih =>
    obtain ⟨i, v⟩ := p
    by_cases hi : i = a
    · subst hi
      by_cases hq : q i <;> simp [Tbl.get, hq, ih]
    · by_cases hq : q i <;> simp [Tbl.get, hq, hi, ih]

namespace State

/-- The first byte of a store: it enters memory, and the note of stale code bytes may grow. -/
theorem putBytes_cons (s : State) (lin : Nat) (b : Byte) (r : List Byte) : ∃ st : List (Nat × Byte),
    s.putBytes lin (b :: r) = putBytes { s with mem := s.mem.put (fun _ => 0) lin b, stale := st } (lin + 1) r := by
  rw [putBytes]
  dsimp only
  split
  · exact ⟨_, rfl⟩
  · exact ⟨s.stale, rfl⟩

/-- A store leaves alone every byte outside its range. -/
theorem byteAt_putBytes_outside (s : State) (lin a : Nat) (bs : List Byte) (h : a < lin ∨ lin + bs.length ≤ a) :
    (s.putBytes lin bs).byteAt a = s.byteAt a := by
  induction bs generalizing s lin with
  | nil => rfl
  | cons b r ih =>
    obtain ⟨st, hst⟩ := putBytes_cons s lin b r
    rw [List.length_cons] at h
    rw [hst, ih _ _ (by omega)]
    exact Tbl.get_put_ne _ _ _ _ _ (by omega)

/-- Inside its range a store is read back. -/
theorem byteAt_putBytes_inside (s : State) (lin k : Nat) (bs : List Byte) (h : k < bs.length) :
    (s.putBytes lin bs).byteAt (lin + k) = bs[k] := by
  induction bs generalizing s lin k with
  | nil => exact (Nat.not_lt_zero k h).elim
  | cons b r ih =>
    obtain ⟨st, hst⟩ := putBytes_cons s lin b r
    rw [hst]
    cases k with
    | zero =>
      rw [byteAt_putBytes_outside _ _ _ _ (by omega)]
      exact Tbl.get_put_same _ _ _ _
    | succ k =>
      rw [show lin + (k + 1) = lin + 1 + k by omega]
      exact ih _ _ k (Nat.lt_of_succ_lt_succ h)

/-- A store changes memory and the note of stale code bytes; nothing else. -/
theorem putBytes_mem_stale (s : State) (lin : Nat) (bs : List Byte) :
    s.putBytes lin bs = { s with mem := (s.putBytes lin bs).mem, stale := (s.putBytes lin bs).stale } := by
  induction bs generalizing s lin with
  | nil => rfl
  | cons b r ih =>
    obtain ⟨st, hst⟩ := putBytes_cons s lin b r
    rw [hst, ih]

/-- Filling with zeros leaves out of memory what stands in the range. -/
theorem byteAt_zeroLin (s : State) (lo n a : Nat) :
    (s.zeroLin lo n).byteAt a = if lo ≤ a ∧ a < lo + n then 0 else s.byteAt a := by
  rw [byteAt, zeroLin, Tbl.get_filter_index (fun _ => 0) s.mem (fun k => !decide (lo ≤ k ∧ k < lo + n))]
  by_cases h : lo ≤ a ∧ a < lo + n <;> simp [h, byteAt]

end State

/-- Settles O19: induction on the stored bytes, and the filter of a zero fill. -/
theorem storedBytesReadBack : Obligations.StoredBytesReadBack := by
  refine ⟨fun s lin bs => ⟨?_, ?_, State.putBytes_mem_stale s lin bs⟩, fun s lo n a => ⟨fun h1 h2 => ?_, fun h => ?_⟩⟩
  · exact fun k h => State.byteAt_putBytes_inside s lin k bs h
  · exact fun a h => State.byteAt_putBytes_outside s lin a bs h
  · rw [State.byteAt_zeroLin, if_pos ⟨h1, h2⟩]
  · rw [State.byteAt_zeroLin, if_neg (by omega)]

/-! ### Register writes and doorbells (R7, R320, R326, R327) -/

namespace State

theorem ringTheBell_of_ok {s : State} {n v : Nat} (dom idx : Nat) (h : doorbellOk (s.ring n) v = true) :
    s.ringTheBell dom idx n v = s.setRing n (ringDoorbell (s.ring n) v) :=
  if_pos h

/-- A refused doorbell on the way to its event: DB_ERR stands, and DB_ERRORS has counted it. -/
def bellRefused (s : State) (n : Nat) : State :=
  { s.setRing n { s.ring n with dbErr := true } with
    host := { s.host with dbErrors := min 0xFFFFFFFF (s.host.dbErrors + 1) } }

theorem ringTheBell_of_refused {s : State} {n v : Nat} (dom idx : Nat) (h : doorbellOk (s.ring n) v = false) :
    s.ringTheBell dom idx n v = (s.bellRefused n).record 0xB001 dom idx
      (if (s.ring n).role = .disabled then none else some (s.ring n).saggar) 0 (p4 n ++ p4 v) :=
  if_neg (by simp [h])

theorem ring_bellRefused (s : State) (n : Nat) : (s.bellRefused n).ring n = { s.ring n with dbErr := true } :=
  ring_setRing_same s n _

theorem db_ringDoorbell (r : Ring) (v : Nat) : (ringDoorbell r v).db = v := by
  unfold ringDoorbell
  split <;> rfl

theorem ringDoorbell_of_completion {r : Ring} (v : Nat) (h : r.role = .completion) :
    (ringDoorbell r v).head = v ∧ (ringDoorbell r v).tail = r.tail := by
  simp [ringDoorbell, h]

theorem ringDoorbell_of_not_completion {r : Ring} (v : Nat) (h : r.role ≠ .completion) :
    (ringDoorbell r v).tail = v ∧ (ringDoorbell r v).head = r.head := by
  simp [ringDoorbell, h]

/-- A ring in reset takes no doorbell. -/
theorem inReset_of_doorbellOk {r : Ring} {v : Nat} (h : doorbellOk r v = true) : r.inReset = false := by
  simp only [doorbellOk, Bool.and_eq_true, Bool.not_eq_true'] at h
  obtain ⟨⟨⟨hin, -⟩, -⟩, -⟩ := h
  exact hin

end State

section registerWrite
variable {m o : Nat} {s : State} (hm : m ∈ s.host.modules) (ho : o < 0x10000000)
include hm ho

theorem execRegisterWrite_of_bad_access {z : Nat} (v : Nat) (h : (z ≠ 4 ∧ z ≠ 8) ∨ o % z ≠ 0) : execRegisterWrite m o z v s =
    .next { s with host := { s.host with unsupported := min 0xFFFFFFFF (s.host.unsupported + 1) } } := by
  rw [execRegisterWrite, if_neg (by simp [hm, ho]), if_pos h]
  rfl

theorem execRegisterWrite_of_word (v : Nat) (h : o % 4 = 0) (hr : rwtAt o = none) :
    execRegisterWrite m o 4 v s = .next ((s.regPut m o (v % 2 ^ 32)).raiseUnmasked) := by
  rw [execRegisterWrite, if_neg (by simp [hm, ho]), if_neg (by simp [h])]
  simp [hr]

theorem execRegisterWrite_of_rwt_word (v : Nat) (h : o % 4 = 0) (hr : (rwtAt o).isSome = true) : execRegisterWrite m o 4 v s =
    .next ((({ s with host := { s.host with rwtIgnored := min 0xFFFFFFFF (s.host.rwtIgnored + 1) } } : State).regPut m o
      (v % 2 ^ 32)).raiseUnmasked) := by
  rw [execRegisterWrite, if_neg (by simp [hm, ho]), if_neg (by simp [h])]
  simp [hr, satAdd, top]

theorem execRegisterWrite_of_two_words (v : Nat) (h : o % 8 = 0) (hr : rwtAt o = none) (hr' : rwtAt (o + 4) = none) :
    execRegisterWrite m o 8 v s =
      .next (((s.regPut m o (v % 2 ^ 32)).regPut m (o + 4) (v / 2 ^ 32 % 2 ^ 32)).raiseUnmasked) := by
  rw [execRegisterWrite, if_neg (by simp [hm, ho]), if_neg (by simp [h])]
  simp [hr, hr']

end registerWrite

theorem execDoorbell_of_served {m n v : Nat} {s : State} (hm : m ∈ s.host.modules) (hn : n < ringsN) (hv : v < 2 ^ 32) :
    execDoorbell m n v s = .next (s.ringTheBell 5 m n v) := by
  rw [execDoorbell, if_neg (by simp [hm, hn]), Nat.mod_eq_of_lt hv]

/-- A priority request of a running core that SHAPE_PRI admits reaches the ring: its owner decides between the bell and a
refusal of 0x0220. -/
theorem execCoreDoorbell_of_admitted {i port n v sag : Nat} {s u : State} {h : Shape} (hi : i < sitesN) (hp : port < 64)
    (hr : (s.site i).inReset = false) (hc : (s.core i).run = .running)
    (hs : State.Shape.spend ((s.site i).shapeOf 0) s.nowUs s.meshPerUs 1 = some h) (hu : u = s.modSite i (fun x => x.setShape 0 h))
    (ho : u.siteOwner i = some sag) (hn : n < ringsN) (hv : v < 2 ^ 32) :
    ((u.ring n).saggar = sag → State.doorbellOk (u.ring n) v = true →
      execCoreDoorbell i port true n v s = .next (u.ringTheBell 5 (port / 4) n v)) ∧
    ((u.ring n).saggar ≠ sag → execCoreDoorbell i port true n v s = .next (u.remoteStatus i 0x0220)) := by
  subst hu
  rw [execCoreDoorbell, if_neg (by simp [hi, hp, hr, hc])]
  simp only [if_true, hs, ho, Nat.mod_eq_of_lt hn, Nat.mod_eq_of_lt hv]
  constructor
  · intro hsag hok
    simp [hsag, hok, State.inReset_of_doorbellOk hok]
  · intro hsag
    simp [hsag]

/-- Settles O25, from what each of the four commands answers. -/
theorem registersAndDoorbells : Obligations.RegistersAndDoorbells := by
  refine ⟨fun m o z v s hm ho => ⟨execRegisterWrite_of_bad_access hm ho v, ?_, ?_, ?_⟩,
    fun m n v s hm hn hv => ⟨fun hok => ?_, fun hno => ?_⟩,
    fun i port n v sag s u h hi hp hr hc hs hu hown hn hv => execCoreDoorbell_of_admitted hi hp hr hc hs hu hown hn hv,
    fun m s hm => if_pos hm⟩
  · rintro rfl
    exact execRegisterWrite_of_word hm ho v
  · rintro rfl
    exact execRegisterWrite_of_rwt_word hm ho v
  · rintro rfl
    exact execRegisterWrite_of_two_words hm ho v
  · have hrun : exec (.doorbell m n v) s = .next (s.setRing n (State.ringDoorbell (s.ring n) v)) := by
      rw [← State.ringTheBell_of_ok 5 m hok]
      exact execDoorbell_of_served hm hn hv
    refine ⟨_, hrun, ?_, fun hc => ?_, fun hc => ?_, fun k hk => State.ring_setRing_ne s n k _ hk, rfl⟩
    all_goals rw [State.ring_setRing_same]
    · exact State.db_ringDoorbell _ v
    · exact State.ringDoorbell_of_not_completion v hc
    · exact State.ringDoorbell_of_completion v hc
  · refine ⟨s.bellRefused n, ?_, State.ring_bellRefused s n, rfl, rfl⟩
    rw [← State.ringTheBell_of_refused 5 m hno]
    exact execDoorbell_of_served hm hn hv

/-! ### The registers after reset (the At bisque columns) -/

namespace State

/-- The registers that stand once (Tables 1-9, 1-11, 11-3, 13-7, 14-6, 15-6). -/
theorem reset_regRead : ∀ p ∈ [(0x4, 0x41), (0x8, 0), (0x108, 0xFFFF003F), (0x110, 0x32D), (0x200, 0), (0x204, 0), (0x208, 0), (0x20C, 0),
      (0x4000000, 0), (0x4000010, 0), (0x4000014, 0), (0x4000020, 0), (0x4000024, 0), (0x4000028, 0), (0x400002C, 0), (0x4000030, 0),
      (0x4000034, 0), (0x4000038, 0), (0x3000000, 3800), (0x3000004, 0), (0x320000C, 0)],
    reset.regRead p.1 = some p.2 := by decide

theorem reset_ring (n : Nat) : reset.ring n = Ring.bisque (firstCarveGranule 64) n := rfl
theorem reset_sluice (n : Nat) : reset.sluice n = Sluice.bisque := rfl
theorem reset_nb (n : Nat) : reset.nb n = Nb.bisque := rfl
theorem reset_site (i : Nat) : reset.site i = Site.bisque i := rfl

/-- No ring has a command in flight. -/
theorem reset_ringInflight (n : Nat) : reset.ringInflight n = 0 := rfl

/-- Beyond the two rings of Table 11-4 that a part starts with, a ring is unconfigured. -/
theorem reset_ring_unset {n : Nat} (h0 : n ≠ 0) (h1 : n ≠ 1) : reset.ring n = Ring.unset := by
  rw [reset_ring, Ring.bisque, if_neg h0, if_neg h1]

theorem reset_readRing (n : Nat) : reset.readRing n 0 = some (if n = 0 then 0x14001 else if n = 1 then 2 else 0) ∧
    reset.readRing n 4 = some (if n ≤ 1 then 256 else 0) ∧ (∀ o ∈ [0x10, 0x14, 0x18, 0x1C, 0x28], reset.readRing n o = some 0) ∧
    reset.readRing n 0x20 = some 1 ∧ reset.readRing n 0x24 = some 0x10000 := by
  by_cases h0 : n = 0
  · subst h0; decide
  by_cases h1 : n = 1
  · subst h1; decide
  have h2 : ¬n ≤ 1 := by omega
  unfold readRing
  rw [reset_ring_unset h0 h1, reset_ringInflight, if_neg h0, if_neg h1, if_neg h2]
  decide

theorem reset_readSluice (n : Nat) :
    (∀ o ∈ [0x0, 0x4, 0x10, 0x18, 0x20, 0x28, 0x2C], reset.readSluice n o = some 0) ∧ reset.readSluice n 8 = some 1 := by
  unfold readSluice
  rw [reset_sluice]
  decide

theorem reset_readNb (n : Nat) : (∀ o ∈ [0x0, 0x8, 0x10, 0x18, 0x1C], reset.readNb n o = some 0) ∧ reset.readNb n 4 = some 1 ∧
    reset.readNb n 0xC = some 65536 := by
  unfold readNb
  rw [reset_nb]
  decide

theorem priBisque_word : Shape.priBisque.word = 0x10000 := by decide
theorem openBisque_word : Shape.openBisque.word = 0x00FFFFFF := by decide

theorem reset_readSite (i : Nat) : reset.readSite i 8 = some 1 ∧ reset.readSite i 0x10 = some 0x10000 ∧
    (∀ o ∈ [0x14, 0x18, 0x1C], reset.readSite i o = some 0x00FFFFFF) ∧ (∀ o ∈ [0x20, 0x24, 0x28, 0x2C], reset.readSite i o = some 0) := by
  simp [readSite, reset_site, Site.bisque, priBisque_word, openBisque_word]

end State

/-- Settles O55: the registers that stand once are evaluated, and each numbered unit reads as its table's default. -/
theorem registersAfterReset : Obligations.RegistersAfterReset :=
  ⟨State.reset_regRead, fun n _ => State.reset_readRing n, fun n _ => State.reset_readSluice n, fun n _ => State.reset_readNb n,
    fun i _ => State.reset_readSite i⟩

end Sys2Proof.Machine
end

section
/-! SUPPORT. The claims about the package's position straps, bring-up, rails and clock, of the family 01_package_and_stack. -/
namespace Sys2Proof.Machine
open Sys2Proof

/-! ### Straps and the package position (R24, R25) -/

/-- Settles O52: the ranges of Table 1-5, one by one. -/
theorem strapLevels_of_resistance : Obligations.StrapLevels := by
  refine ⟨fun r => ⟨fun h => ?_, fun h9 h11 => ?_, fun h => ?_, fun h100 hgap hM => ?_⟩, fun _ _ _ _ _ _ => rfl⟩ <;>
    unfold strapLevel
  · rw [if_pos h]
  · rw [if_neg (by omega), if_pos ⟨h9, h11⟩]
  · rw [if_neg (by omega), if_neg (by omega), if_pos h]
  · rw [if_neg (by omega), if_neg (by omega), if_neg (by omega)]

theorem strapValue_six (a b c d e f : Nat) : strapValue [a, b, c, d, e, f] = a + 3 * b + 9 * c + 27 * d + 81 * e + 243 * f := by
  simp only [strapValue, List.foldr]
  omega

theorem strapsValid_iff (l : List Nat) : strapsValid l = true ↔ (∀ x ∈ l, x ≤ 2) ∧ strapValue l ≤ 255 := by
  simp [strapsValid]

/-- Levels that name a position hold no fault. -/
theorem no_fault_of_strapsValid {l : List Nat} (h : strapsValid l = true) : l.any (fun x => x == 3) = false := by
  refine List.any_eq_false.mpr fun x hx h3 => ?_
  have hle := ((strapsValid_iff l).mp h).1 x hx
  have h3 := eq_of_beq h3
  omega

namespace State

/-- The position that a bisque start's reading leaves: a free value where a strap reads a fault. -/
def positionRead (s : State) (env : BringupEnv) : Nat :=
  if (strapLevels env.strapOhms).any (fun x => x == 3) then (Config.freeWord s.free).toNat % 729 else strapValue (strapLevels env.strapOhms)

theorem positionRead_of_valid (s : State) {env : BringupEnv} (h : strapsValid (strapLevels env.strapOhms) = true) :
    s.positionRead env = strapValue (strapLevels env.strapOhms) :=
  if_neg (by simp [no_fault_of_strapsValid h])

/-- What a bisque start's reading of the straps leaves in the package's registers. -/
theorem readStraps_pkg (s : State) (env : BringupEnv) : (s.readStraps env).pkg = { s.pkg with
    strapLevels := strapLevels env.strapOhms, bisqueLevels := strapLevels env.strapOhms, posValue := s.positionRead env
    posValid := strapsValid (strapLevels env.strapOhms) } := by
  unfold readStraps positionRead
  dsimp only
  by_cases hv : strapsValid (strapLevels env.strapOhms) = true
  · rw [if_pos hv]
    split <;> rfl
  · rw [if_neg hv, recordFw_pkg]
    split <;> rfl

theorem ownComb_row (s : State) {port : Nat} (h : port < 16) : s.ownComb port = s.pkg.posValue % 16 := if_pos h

theorem ownComb_column (s : State) {port : Nat} (h : 16 ≤ port) (hp : s.pkg.posValue ≤ 255) : s.ownComb port = s.pkg.posValue / 16 := by
  rw [ownComb, if_neg (by omega)]
  omega

end State

/-- Settles O44, from the digits of R25 and from what reading the straps leaves in the package's registers. -/
theorem positionFromStraps : Obligations.PositionFromStraps := by
  refine ⟨fun a b c d e f => ⟨strapValue_six .., ?_⟩, ?_, fun port s => ⟨s.ownComb_row, s.ownComb_column⟩⟩
  · rw [strapsValid_iff, strapValue_six]
    simp
  · rintro env s l rfl
    rw [State.readStraps_pkg]
    exact ⟨fun h => ⟨s.positionRead_of_valid h, h⟩, id, rfl⟩

/-! ### When a bring-up runs, and where it stops (R36, R482, R483, R489, R491) -/

theorem exec_bisqueStart_of_due {env : BringupEnv} {s : State} (h : s.bisqueDue env = true) :
    exec (.bisqueStart env) s = .next (s.bisque env) := if_pos h

theorem exec_bisqueStart_of_not_due {env : BringupEnv} {s : State} (h : ¬s.bisqueDue env = true) :
    exec (.bisqueStart env) s = .next s := if_neg h

theorem exec_refire (env : BringupEnv) (s : State) :
    exec (.refire env) s = if s.fw.bringup = some false ∧ s.up = true then .next (s.refireAll env) else .next s := rfl

namespace State

theorem bisqueDue_iff (s : State) (env : BringupEnv) : s.bisqueDue env = true ↔
    (s.pkg.poweredDown = true ∧ s.pkg.inputOn = true ∧ s.pkg.seqStopped = false ∧ 40000 ≤ env.inputMv) ∨
    (s.pkg.heldInReset = true ∧ s.pkg.refPresent = true) ∨ s.fw.bringup = some true := by
  simp [bisqueDue, and_assoc, or_assoc]

section bisqueStart
variable {s u : State} {env : BringupEnv}

/-- No image boots: step 2 stops a bisque start. -/
theorem bisque_of_no_boot (h : (s.coldStart env).bootStep env env.failedControllers = none) :
    s.bisque env = (s.coldStart env).stopBringup 2 1 := by
  unfold bisque
  simp only [h]

/-- An image boots, and the memory's links fail: step 8 stops a bisque start. -/
theorem bisque_of_no_memory (h : (s.coldStart env).bootStep env env.failedControllers = some u)
    (hm : (((u.readStraps env).recalibrate env).testPhases env).memoryLinks env = none) :
    s.bisque env = (((u.readStraps env).recalibrate env).testPhases env).stopBringup 8 2 := by
  unfold bisque
  simp only [h, hm]

/-- An image boots and the memory's links work: a bisque start goes on to its last steps. -/
theorem bisque_of_memory {w : State} (h : (s.coldStart env).bootStep env env.failedControllers = some u)
    (hm : (((u.readStraps env).recalibrate env).testPhases env).memoryLinks env = some w) :
    s.bisque env = (w.applyRetirements env s.fw.carveoutNow).bisqueEnd env := by
  unfold bisque
  simp only [h, hm]

end bisqueStart

theorem stopBringup_stopped (s : State) (step cause : Nat) : (s.stopBringup step cause).fw.stopped = true := by
  rw [stopBringup, recordFw_fw]

end State

/-- Settles O45: the conditions of a start, case by case, and the two steps at which a bisque start stops for want of an image or
of memory. -/
theorem bringupRuns : Obligations.BringupRuns := by
  refine ⟨fun env s => ⟨fun hp hi hs hv => ?_, fun hh hr => ?_, fun hb => ?_, fun hp hh hb => ?_, fun _ hh hb hv => ?_, fun hb hu => ?_,
    fun h => ?_⟩, fun env s => ⟨State.bisque_of_no_boot, fun u v hu hv => ?_⟩, fun step cause s => s.stopBringup_stopped step cause⟩
  · exact exec_bisqueStart_of_due ((s.bisqueDue_iff env).mpr (.inl ⟨hp, hi, hs, hv⟩))
  · exact exec_bisqueStart_of_due ((s.bisqueDue_iff env).mpr (.inr (.inl ⟨hh, hr⟩)))
  · exact exec_bisqueStart_of_due ((s.bisqueDue_iff env).mpr (.inr (.inr hb)))
  · exact exec_bisqueStart_of_not_due (by simp [State.bisqueDue_iff, hp, hh, hb])
  · exact exec_bisqueStart_of_not_due (by simp [State.bisqueDue_iff, hh, hb, Nat.not_le.mpr hv])
  · rw [exec_refire, if_pos ⟨hb, hu⟩]
  · rw [exec_refire, if_neg (by rintro ⟨hb, hu⟩; simp [hb, hu] at h)]
  · rw [hv]
    exact ⟨State.bisque_of_no_memory hu, fun _ => State.bisque_of_memory hu⟩

/-! ### Rails (R30, R31) -/

theorem railOrder_eq_zero_iff (r : Rail) : railOrder r = 0 ↔ r = .vstby := by
  cases r <;> simp [railOrder]

namespace State

section rails
variable {s t : State}

/-- Whether a rail is good does not rest on the rails enabled or on the sequence. -/
theorem railGood_of_pkg {n : Nat} {b : Bool} (h : t.pkg = { s.pkg with enabled := n, seqStopped := b }) (r : Rail) :
    t.railGood r = s.railGood r := by
  cases r <;> simp only [railGood, h]

theorem getLsbD_or_bit (x : BitVec 16) {j : Nat} (k : Nat) (hj : j < 16) : (x ||| 1#16 <<< k).getLsbD j = (x.getLsbD j || decide (j = k)) := by
  rw [BitVec.getLsbD_or, ← BitVec.twoPow_eq, BitVec.getLsbD_twoPow]
  by_cases h : j = k
  · simp [← h, hj]
  · simp [h, Ne.symm h]

@[simp] theorem setRail_enabled (s : State) (r : Rail) (v : Bool) : (s.setRail r v).pkg.enabled = s.pkg.enabled := by
  cases r <;> rfl

theorem railGood_setRail_same {r : Rail} (h : r.wf = true) : (s.setRail r true).railGood r = true := by
  cases r with
  | vhbm k => exact (getLsbD_or_bit _ _ (of_decide_eq_true h)).trans (by simp)
  | vstby | vfoot | vmesh | vcm | vhost | vopt => rfl

theorem railGood_setRail_ne {r q : Rail} (hq : q.wf = true) (h : q ≠ r) : (s.setRail r true).railGood q = s.railGood q := by
  cases r with
  | vhbm k =>
    cases q with
    | vhbm j =>
      have hjk : j ≠ k := fun e => h (e ▸ rfl)
      exact (getLsbD_or_bit _ _ (of_decide_eq_true hq)).trans (by simp [hjk, railGood])
    | vstby | vfoot | vmesh | vcm | vhost | vopt => rfl
  | vstby | vfoot | vmesh | vcm | vhost | vopt => cases q <;> simp_all [setRail, railGood]

theorem nextEnabled_of_vfoot (he : s.pkg.enabled = 2) (h : s.railGood .vfoot = true) : s.nextEnabled = 3 := if_pos ⟨he, h⟩

theorem nextEnabled_of_vmesh (he : s.pkg.enabled = 3) (h : s.railGood .vmesh = true) : s.nextEnabled = 4 := by
  have h : s.pkg.vmesh = true := h
  simp [nextEnabled, he, h]

theorem nextEnabled_of_vcm (he : s.pkg.enabled = 4) (h : s.railGood .vcm = true) : s.nextEnabled = 5 := by
  have h : s.pkg.vcm = true := h
  simp [nextEnabled, he, h]

/-- VHOST and VOPT wait for VHBM of every stack. -/
theorem nextEnabled_eq_seven_iff (he : s.pkg.enabled = 5) : s.nextEnabled = 7 ↔ s.pkg.vhbm = 0xFFFF := by
  simp [nextEnabled, he]

end rails

/-- A rail that reports good: it is noted, and firmware enables what Table 1-8 then lets it (R30). -/
def railCameUp (s : State) (r : Rail) : State :=
  { s.setRail r true with pkg := { (s.setRail r true).pkg with enabled := (s.setRail r true).nextEnabled } }

/-- A rail that missed its window: the sequence and the bring-up stop (R31, R483). -/
def railStopped (s : State) : State :=
  { s with pkg := { s.pkg with seqStopped := true }, fw := { s.fw with stopped := true }, host := { s.host with ready := false } }

/-- The rail is enabled and not yet good, in a sequence that runs. -/
def railAwaited (s : State) (r : Rail) : Prop :=
  s.pkg.seqStopped = false ∧ railOrder r < s.pkg.enabled ∧ s.railGood r = false

theorem railAwaited.not_idle {s : State} {r : Rail} (h : s.railAwaited r) :
    ¬(s.pkg.seqStopped = true ∨ s.pkg.enabled ≤ railOrder r ∨ s.railGood r = true) := by
  obtain ⟨hs, ho, hg⟩ := h
  simp [hs, hg, ho]

end State

theorem exec_standbyPowerUp_of_off {s : State} (h : s.pkg.inputOn = false) : exec .standbyPowerUp s =
    .next { s with pkg := { s.pkg with inputOn := true, vstby := true, enabled := 2, seqStopped := false } } :=
  if_neg (by simp [h])

section railCommands
variable {s : State} {r : Rail}

theorem exec_railGood_of_awaited (h : s.railAwaited r) : exec (.railGood r) s = .next (s.railCameUp r) := if_neg h.not_idle

theorem exec_railGood_of_stopped (h : s.pkg.seqStopped = true) : exec (.railGood r) s = .next s := if_pos (.inl h)

theorem exec_railWindowExpiry_of_awaited (h : s.railAwaited r) : exec (.railWindowExpiry r) s = .next
    ((s.railStopped.recordFw 5 0x1003 none 0 (p4 (railBit r))).recordFw 5 0x9003 none 0
      (p4 (if r = .vstby then 1 else 4) ++ p4 (railBit r))) := by
  simp only [← railOrder_eq_zero_iff]
  exact if_neg h.not_idle

end railCommands

/-- Settles O3: what `setRail` leaves alone, and what firmware enables next. -/
theorem railsComeUpInOrder : Obligations.RailsComeUpInOrder := by
  refine ⟨fun s hoff => ⟨_, exec_standbyPowerUp_of_off hoff, rfl, rfl, rfl, fun r hr => ?_, rfl⟩, fun rail s hwf hs ho hg => ?_⟩
  · cases r <;> simp_all [State.railGood]
  have hsame : (s.setRail rail true).railGood rail = true := State.railGood_setRail_same hwf
  have hkeep : ∀ q, (s.railCameUp rail).railGood q = (s.setRail rail true).railGood q := State.railGood_of_pkg rfl
  refine ⟨_, exec_railGood_of_awaited ⟨hs, ho, hg⟩, (hkeep rail).trans hsame,
    fun q hq hne => (hkeep q).trans (State.railGood_setRail_ne hq hne), ?_, ?_, ?_, fun he => ?_, rfl⟩
  · rintro rfl he
    exact State.nextEnabled_of_vfoot ((s.setRail_enabled _ _).trans he) hsame
  · rintro rfl he
    exact State.nextEnabled_of_vmesh ((s.setRail_enabled _ _).trans he) hsame
  · rintro rfl he
    exact State.nextEnabled_of_vcm ((s.setRail_enabled _ _).trans he) hsame
  · exact State.nextEnabled_eq_seven_iff ((s.setRail_enabled _ _).trans he)

/-- Settles O4: the events leave the package's rails as the stop left them. -/
theorem railWindowExpiryStops : Obligations.RailWindowExpiryStops := by
  intro rail s hs ho hg
  have hpkg : ∀ a b, ((s.railStopped.recordFw 5 0x1003 none 0 a).recordFw 5 0x9003 none 0 b).pkg = { s.pkg with seqStopped := true } :=
    fun a b => by rw [State.recordFw_pkg, State.recordFw_pkg]; rfl
  refine ⟨_, _, exec_railWindowExpiry_of_awaited ⟨hs, ho, hg⟩, rfl, rfl, State.railGood_of_pkg (hpkg _ _), ?_, fun r => ?_⟩
  · rw [hpkg]
  · exact exec_railGood_of_stopped (by rw [hpkg])

/-! ### The mesh's rail and the reference clock (R32, R36) -/

namespace State

/-- The compute stack goes with its rail: event 0x1004 is mirrored, commands in flight end with 0x0500, and the sites and sluices
enter reset; nothing is left queued, on the mesh or launched (R32). -/
def stackLost (s : State) : State :=
  let t := (((s.setRail .vmesh false).recordFw 5 0x1004 none 0 []).mirrorAll.endAll 0x0500).enterStack
  { t with pkg := { t.pkg with computeLost := true }, outq := [], net := [], rill := [], launches := [] }

/-- The clock has not come back: commands in flight end with 0x0510, event 0x1007 is mirrored, every unit stops, and the package is
held in reset (R36). -/
def clockLost (s : State) : State :=
  let t := ((s.stopCommands 0x0510).recordFw 5 0x1007 none 0 []).mirrorAll.quietUnits
  { t with pkg := { t.pkg with heldInReset := true, holdover := false } }

section lost
variable (s : State)
@[simp] theorem stackLost_computeLost : s.stackLost.pkg.computeLost = true := rfl
@[simp] theorem stackLost_outq : s.stackLost.outq = [] := rfl
@[simp] theorem stackLost_net : s.stackLost.net = [] := rfl
@[simp] theorem stackLost_rill : s.stackLost.rill = [] := rfl
@[simp] theorem stackLost_launches : s.stackLost.launches = [] := rfl
@[simp] theorem clockLost_heldInReset : s.clockLost.pkg.heldInReset = true := rfl
@[simp] theorem clockLost_holdover : s.clockLost.pkg.holdover = false := rfl
@[simp] theorem clockLost_ready : s.clockLost.host.ready = false := rfl
@[simp] theorem clockLost_cmds : s.clockLost.cmds = [] := rfl
@[simp] theorem clockLost_compls : s.clockLost.compls = [] := rfl
@[simp] theorem clockLost_launches : s.clockLost.launches = [] := rfl
end lost

end State

section clock
variable {s : State}

theorem exec_vmeshOutOfRange_of_good (hu : s.up = true) (hv : s.pkg.vmesh = true) : exec .vmeshOutOfRange s = .next s.stackLost :=
  if_neg (by simp [hu, hv])

theorem exec_refLoss_of_locked (hu : s.up = true) (hh : s.pkg.holdover = false) : exec .refLoss s = .next ({ s with pkg := { s.pkg with
    holdover := true, refPresent := false, locked := false, refLossCount := satAdd (top 16) s.pkg.refLossCount 1 } }.recordFw 5 0x1005 none 0 []) :=
  if_neg (by simp [hu, hh])

theorem exec_refRecovery_of_holdover (hr : s.pkg.heldInReset = false) (hh : s.pkg.holdover = true) : exec .refRecovery s = .next
    ({ s with pkg := { s.pkg with holdover := false, refPresent := true, locked := true } }.recordFw 5 0x1006 none 0 []) :=
  (if_neg (by simp [hr])).trans (if_neg (by simp [hh]))

theorem exec_holdoverExpiry_of_holdover (hu : s.up = true) (hh : s.pkg.holdover = true) : exec .holdoverExpiry s = .next s.clockLost :=
  if_neg (by simp [hu, hh])

end clock

/-- Settles O5, from what each of the four commands answers. -/
theorem clockAndMeshRailEvents : Obligations.ClockAndMeshRailEvents := by
  refine ⟨fun s hu hv => ⟨s.stackLost, exec_vmeshOutOfRange_of_good hu hv, ?_⟩, fun s => exec_refLoss_of_locked,
    fun s => exec_refRecovery_of_holdover, fun s hu hh => ⟨s.clockLost, exec_holdoverExpiry_of_holdover hu hh, ?_⟩⟩
  · simp
  · simp

end Sys2Proof.Machine
end

section
/-! SUPPORT. The claims about the mesh, the rill, launches, scrubs and retirements, of the family 02_cores_mesh_rill. -/
namespace Sys2Proof.Machine
open Sys2Proof

/-! ### Injection (R43, R52, R55, R62) -/

namespace State

/-- Packet `p` stands at place `k` of the injection queues, and no older packet of its source and channel waits. -/
def injectHead (s : State) (k : Nat) (p : Packet) : Prop :=
  s.outq[k]? = some p ∧ ((s.outq.take k).any (fun x => x.src == p.src && x.vc == p.vc)) = false

/-- A packet `p`, translated to `q`, as the mesh carries it: an ordinary request of a core goes under the saggar that owns the
core's site (R62). -/
def underOwner (s : State) (p q : Packet) : Packet :=
  { q with saggar := if p.isResponse ∨ p.priv then q.saggar else (s.siteOwner p.src).getD q.saggar }

theorem underOwner_of_core (s : State) {p : Packet} (q : Packet) (h : p.src < 4608) : s.underOwner p q =
    if p.src < 4608 ∧ !p.isResponse ∧ !p.priv then { q with saggar := (s.siteOwner p.src).getD q.saggar } else q := by
  cases hr : p.isResponse <;> cases hp : p.priv <;> simp [underOwner, h, hr, hp]

theorem translate_of_absent {s : State} {p : Packet} {c : Nat} (hc : p.core = some c) (h : s.siteOfCore c = none) :
    s.translate p = none := by
  simp [translate, hc, h]

theorem injectCheck_of_absent {s : State} {p : Packet} (hr : p.isResponse = false) (hp : p.priv = true) (h : s.translate p = none) :
    s.injectCheck p = 0x0354 := by
  simp [injectCheck, hr, hp, h]

end State

section packetInject
variable {k : Nat} {s : State} {p : Packet} (hk : s.injectHead k p)
include hk

theorem exec_packetInject_of_stopped (hc : s.injectCheck p ≠ 0) : exec (.packetInject k) s =
    .next ({ s with outq := dropAt s.outq k }.answerLocal p (s.injectCheck p)) := by
  obtain ⟨hq, ho⟩ := hk
  show execPacketInject k s = _
  simp [execPacketInject, hq, ho, hc]

theorem exec_packetInject_of_sent {q : Packet} {h : Shape} (hc : s.injectCheck p = 0) (ht : s.translate p = some q)
    (hp : p.src < 4608) (hs : State.Shape.spend ((s.site p.src).shapeOf p.vc) s.nowUs s.meshPerUs (p.flits + 1) = some h) :
    exec (.packetInject k) s = .next { ({ s with outq := dropAt s.outq k } : State).modSite p.src (fun x => x.setShape p.vc h) with
      net := s.net ++ [s.underOwner p q] } := by
  obtain ⟨hq, ho⟩ := hk
  show execPacketInject k s = _
  rw [State.underOwner_of_core s q hp]
  simp [execPacketInject, hq, ho, hc, ht, hp, hs]

end packetInject

/-- Settles O7, from what a head packet is answered and how it is sent. -/
theorem packetInjectSends : Obligations.PacketInjectSends := by
  refine ⟨fun k s p q h hq ho hc ht hp hs => ⟨_, s.underOwner p q, exec_packetInject_of_sent ⟨hq, ho⟩ hc ht hp hs, rfl, rfl, rfl,
      fun i hi => State.site_setSite_ne _ _ _ _ hi, rfl⟩,
    fun k s p hq ho hc => exec_packetInject_of_stopped ⟨hq, ho⟩ hc,
    fun s p c hr hp hc ha => State.injectCheck_of_absent hr hp (State.translate_of_absent hc ha)⟩

/-! ### Arrivals (R50, R53, R62, R64, R67, R71, R142, R147) -/

namespace State

/-- A request that passes the checks of its site changes nothing on the way (R62, R64, R67). -/
theorem siteGate_of_passed {s : State} {p : Packet} (h : (s.siteGate p).2 = 0) : s.siteGate p = (s, 0) := by
  revert h
  unfold siteGate
  dsimp only
  split
  · exact nofun
  split
  · exact nofun
  split
  · exact nofun
  · exact fun _ => rfl

/-- A response that has reached a site in reset: it is counted and gone (R71). -/
def lateResponse (s : State) (i : Nat) : State :=
  s.modSite i (fun x => { x with cntLate := satAdd (top 32) x.cntLate 1, lateNow := satAdd (top 32) x.lateNow 1 })

theorem lateResponse_cntLate (s : State) (i : Nat) :
    ((s.lateResponse i).site i).cntLate = min (2 ^ 32 - 1) ((s.site i).cntLate + 1) := by
  rw [lateResponse, modSite_eq, site_setSite_same]
  rfl

end State

section requests
variable {k : Nat} {s t : State} {p : Packet}

theorem exec_meshRequestArrival_of_passed (x : Strikes)
    (h : s.siteRequest k (fun q => q != .casNode && q != .allorUp && q != .allorDown) = some (t, p)) (hg : (t.siteGate p).2 = 0) :
    exec (.meshRequestArrival k x) s =
      .next ((t.strike x).serveAccess p { saggar := p.saggar, isPriv := p.priv, carve := false } 3) := by
  show execMeshRequestArrival k x s = _
  simp [execMeshRequestArrival, h, State.siteGate_of_passed hg]

theorem exec_cascadeNodeArrival_of_passed (h : s.siteRequest k (fun q => q == .casNode) = some (t, p))
    (hg : (t.siteGate p).2 = 0) :
    exec (.cascadeNodeArrival k) s = .next ((t.takeNode p).1.respond p (t.takeNode p).2 []) := by
  show execCascadeNodeArrival k s = _
  simp [execCascadeNodeArrival, h, State.siteGate_of_passed hg]

theorem exec_allorWordArrival_of_passed (h : s.siteRequest k (fun q => q == .allorUp || q == .allorDown) = some (t, p))
    (hg : (t.siteGate p).2 = 0) :
    exec (.allorWordArrival k) s = .next ((t.takeWord p).1.respond p (t.takeWord p).2 []) := by
  show execAllorWordArrival k s = _
  simp [execAllorWordArrival, h, State.siteGate_of_passed hg]

end requests

theorem exec_meshResponseArrival {k : Nat} {s : State} {p : Packet} (hn : s.net[k]? = some p) (hr : p.isResponse = true)
    (hd : p.dest < 4608) (hh : s.meshHead k p = true) : exec (.meshResponseArrival k) s =
    .next (if (s.site p.dest).inReset then ({ s with net := dropAt s.net k } : State).lateResponse p.dest
      else ({ s with net := dropAt s.net k } : State).answerCore p.dest p.tag p.status p.payload) := by
  show execMeshResponseArrival k s = _
  simp only [execMeshResponseArrival, hn, hr, hd, hh]
  exact (apply_ite Host.Outcome.next _ _ _).symm

/-- Settles O8: a request that passes the checks is served in the state it found, and a response is for its site to take or to
count. -/
theorem meshArrivalsApply : Obligations.MeshArrivalsApply := by
  refine ⟨fun k x s t p h hg => exec_meshRequestArrival_of_passed x h hg, fun k s p hn hr hd hh hi => ?_,
    fun k s p hn hr hd hh hi => ⟨({ s with net := dropAt s.net k } : State).lateResponse p.dest, ?_, State.lateResponse_cntLate _ _, rfl, rfl⟩,
    fun k s t p h hg => exec_cascadeNodeArrival_of_passed h hg, fun k s t p h hg => exec_allorWordArrival_of_passed h hg⟩
  · rw [exec_meshResponseArrival hn hr hd hh, if_neg (by simp [hi])]
  · rw [exec_meshResponseArrival hn hr hd hh, if_pos hi]

/-! ### The rill and remap changes (R42, R58, R66, R156, R351, R420) -/

/-- One value written at many indices stands at each of them; the others hold what they held. -/
theorem Tbl.get_foldl_put {α : Type} [DecidableEq α] (d : Nat → α) (f : Nat → Nat) (v : α) (l : List Nat) (t : Tbl α) (a : Nat) :
    Tbl.get d (l.foldl (fun t g => t.put d (f g) v) t) a = if a ∈ l.map f then v else Tbl.get d t a := by
  induction l generalizing t with
  | nil => simp
  | cons g l ih =>
    rw [List.foldl_cons, ih]
    by_cases h : a = f g
    · simp [h, Tbl.get_put_same]
    · simp [h, Tbl.get_put_ne _ _ _ _ _ h]

namespace State

/-- The rill message at place `k` tells an epoch of unit `u` to the saggars of `l`, and leaves the rill (R66). -/
def hearEpoch (s : State) (k u : Nat) (v : BitVec 32) (l : List Nat) : State :=
  { s with rill := dropAt s.rill k, heard := l.foldl (fun t g => t.put (fun _ => 1) (g * 65536 + u) v) s.heard }

theorem heardEpoch_hearEpoch (s : State) (k u : Nat) (v : BitVec 32) (l : List Nat) (g w : Nat) :
    (s.hearEpoch k u v l).heardEpoch g w = if g * 65536 + w ∈ l.map (fun g => g * 65536 + u) then v else s.heardEpoch g w :=
  Tbl.get_foldl_put ..

/-- Units are below 65,536, so that a saggar and a unit have one index of what has been heard. -/
theorem heard_index_mem_iff {u w : Nat} (hu : u < 65536) (hw : w < 65536) (l : List Nat) (g : Nat) :
    g * 65536 + w ∈ l.map (fun g => g * 65536 + u) ↔ w = u ∧ g ∈ l := by
  rw [List.mem_map]
  constructor
  · rintro ⟨g', hg', h⟩
    obtain ⟨rfl, rfl⟩ : g' = g ∧ w = u := by omega
    exact ⟨rfl, hg'⟩
  · rintro ⟨rfl, hg⟩
    exact ⟨g, hg, rfl⟩

/-- The core that a rill interrupt reaches, at a site with this epoch; `hold`: its saggar is being brought to a quiescence point
(R156, R351). -/
def interrupted (s : State) (i : Nat) (hold : Bool) : State :=
  s.modCore i (fun k => { k with coreEpoch := (s.site i).epoch, suspended := k.suspended || (hold && k.run != .idle) })

/-- The saggar that owns a site is being brought to a quiescence point (R351). -/
def siteHeld (s : State) (i : Nat) : Bool :=
  match s.siteOwner i with
  | some g => decide (0 < (s.saggar g).quiescing)
  | none => false

end State

section rill
variable {k : Nat} {s : State}

theorem exec_priorityFlitAged {i : Nat} (h : i < 4608) :
    exec (.priorityFlitAged i) s = .next (s.record 0x2006 2 i (s.siteOwner i) 0 []) := if_pos h

theorem exec_epochUpdate {u : Nat} {v : BitVec 32} {l : List Nat} (h : s.rill[k]? = some (.epoch u v l)) :
    exec (.epochUpdate k) s = .next (s.hearEpoch k u v l) := by
  show execEpochUpdate k s = _
  simp only [execEpochUpdate, h]
  rfl

theorem exec_lagNoticeArrival {i g j d : Nat} (h : s.rill[k]? = some (.lagNotice i g j d)) :
    exec (.lagNoticeArrival k) s = .next ({ s with rill := dropAt s.rill k }.lagExtend i g j d) := by
  show execLagNoticeArrival k s = _
  simp only [execLagNoticeArrival, h]

theorem exec_rillInterrupt {i : Nat} (h : i < 4608) (hr : (s.site i).inReset = false) :
    exec (.rillInterrupt i) s = .next (s.interrupted i (s.siteHeld i)) := if_pos ⟨h, hr⟩

theorem exec_remapApply_of_quiescent {r : Remap} (h : s.remaps[k]? = some r) (hq : r.waitFor.all s.quiescent = true) :
    exec (.remapApply k) s = .next (((({ s with remaps := dropAt s.remaps k } : State).moveSites r).recordFw 5 0x2001
      ((({ s with remaps := dropAt s.remaps k } : State).moveSites r).siteOwner r.retired) 0 []).releaseSaggars r.waitFor) := by
  show execRemapApply k s = _
  simp only [execRemapApply, h]
  exact if_pos hq

theorem exec_remapQuiescenceTimeout_of_due {r : Remap} (h : s.remaps[k]? = some r) (ht : r.timeoutSeen = false)
    (hq : r.waitFor.all s.quiescent = false) (hu : r.sinceUs + 10000000 ≤ s.nowUs) : exec (.remapQuiescenceTimeout k) s =
      .next ({ s with remaps := s.remaps.set k { r with timeoutSeen := true } }.recordFw 5 0x2003 none 0 []) := by
  show execRemapQuiescenceTimeout k s = _
  simp only [execRemapQuiescenceTimeout, h]
  exact if_pos ⟨ht, hq, hu⟩

end rill

/-- Settles O9, from what each of the six commands answers and what a saggar has then heard. -/
theorem rillAndRemapCommands : Obligations.RillAndRemapCommands := by
  refine ⟨fun i s hi => exec_priorityFlitAged hi,
    fun k u v l s hm hu => ⟨_, exec_epochUpdate hm, fun g hg => ?_, fun g w hw hne => ?_, rfl⟩,
    fun k r s hr hq => ⟨_, rfl, exec_remapApply_of_quiescent hr hq⟩,
    fun k r s hr ht hq hu => exec_remapQuiescenceTimeout_of_due hr ht hq hu,
    fun k i g j d s hm => exec_lagNoticeArrival hm,
    fun i s hi hr => ⟨_, exec_rillInterrupt hi hr, ?_, ?_, fun j hj => State.core_setCore_ne _ _ _ _ hj, rfl⟩⟩
  · rw [State.heardEpoch_hearEpoch, if_pos ((State.heard_index_mem_iff hu hu l g).mpr ⟨rfl, hg⟩)]
  · have hnot : ¬(w = u ∧ g ∈ l) := fun ⟨hwu, hg⟩ => hne.elim (fun h => h hwu) (fun h => h hg)
    rw [State.heardEpoch_hearEpoch, if_neg (mt (State.heard_index_mem_iff hu hw l g).mp hnot)]
  · rw [State.interrupted, State.modCore_eq, State.core_setCore_same]
  · rw [State.interrupted, State.modCore_eq, State.core_setCore_same]

/-! ### Kernel launches (R69, R191, R360 to R364, R493) -/

/-- The ranks of a launch that have not ended, with their numbers. -/
def Launch.openRanks (l : Launch) : List (Rank × Nat) := l.ranks.zipIdx.filter (fun p => !p.1.ended)

/-- A launch that the KABORT `id` waits for, with the cores that it stops (R364). -/
def Launch.abortedBy (l : Launch) (id : Nat) : Launch :=
  { l with aborts := l.aborts ++ [(id, if l.started then l.openRanks.length else 0)] }

namespace State

/-- The launch that a KLAUNCH with the descriptor `b` and these cores queues (R361). -/
def newLaunch (s : State) (id : Nat) (c : Cmd) (b : List Byte) (cores : List Nat) : Launch :=
  { cmd := id, saggar := c.saggar, job := c.job, statusAddr := wordOrNone (c.addr 8), desc := b, started := false,
    imageReady := (LDesc.of b).src == 1, ranks := cores.map (fun k => Rank.mk k ((s.siteOfCore k).getD 0) false 4 0 0), aborts := [] }

theorem newLaunch_cores (s : State) (id : Nat) (c : Cmd) (b : List Byte) (cores : List Nat) :
    (s.newLaunch id c b cores).ranks.map (·.core) = cores := by
  rw [newLaunch, List.map_map]
  exact List.map_id' cores

/-- The launch joins the queue, and its image the broadcasts unless it lies in column memory (R69, R362). -/
def enqueueLaunch (s : State) (l : Launch) : State :=
  { s with launches := s.launches ++ [l], bcasts := if (LDesc.of l.desc).src = 1 then s.bcasts else
      s.bcasts ++ [{ launch := l.cmd, image := [], loadAt := (LDesc.of l.desc).load, missing := [], tries := 0 }] }

/-- The argument block of a launch as LAUNCH_START reads it: nothing is read for an empty one. -/
def argBlock (s : State) (d : LDesc) : State × Option Nat × List Byte :=
  if d.argBytes ≠ 0 then s.load 7 0xFFFF d.args d.argBytes else (s, none, [])

/-- A launch is marked started, with its command and status word; one whose image lies in column memory keeps its cores (R362). -/
def startLaunch (s : State) (id : Nat) (l : Launch) : State :=
  let t := ((s.setPhase id .running).statusWord id l.statusAddr 2 0 Result.zero).setLaunch { l with started := true }
  if (LDesc.of l.desc).src = 1 then t.reserve { l with started := true } else t

/-- KABORT `id` ends each open rank of a launch that has not started, and stops those of one that has (R364). -/
def abortLaunch (s : State) (id : Nat) (l : Launch) : State :=
  let t := (s.setPhase id .running).setLaunch (l.abortedBy id)
  l.openRanks.foldl (fun s p => if l.started then s.stopRank (l.abortedBy id) p.2 p.1 else s.endRank l.cmd p.2 3 0 0)
    { t with bcasts := t.bcasts.filter (fun b => b.launch != l.cmd) }

end State

section klaunch
variable {id st : Nat} {s u : State} {c : Cmd} {b : List Byte} {cores : List Nat} (hc : s.ready id 0x100 = some c)
  (hr : s.launchRead c = (u, st, b, cores))
include hc hr

theorem exec_klaunch_of_refused (h : st ≠ 0) : exec (.klaunch id) s = .next (u.refuse id st) := by
  show execKlaunch id s = _
  simp [execKlaunch, hc, hr, h]

theorem exec_klaunch_of_passed (h : st = 0) : exec (.klaunch id) s =
    .next (((u.setPhase id .queued).statusWord id (wordOrNone (c.addr 8)) 1 0 Result.zero).enqueueLaunch (u.newLaunch id c b cores)) := by
  show execKlaunch id s = _
  simp only [execKlaunch, hc, hr, h]
  rfl

end klaunch

/-- A pass over a list that changes nothing at any item. -/
theorem foldl_of_no_change {α β : Type} (a : α) (l : List β) : l.foldl (fun a _ => a) a = a := by
  induction l with
  | nil => rfl
  | cons b l ih => exact ih

/-- The first pass of a broadcast, when every listed site is named good: each takes the image, and none lacks it (R69, R493). -/
theorem exec_imageBroadcast_of_all_good {k : Nat} {good : List Nat} {s u v : State} {b : Bcast} {l m : Launch} {bs : List Byte}
    (hb : s.bcasts[k]? = some b) (hl : s.launch? b.launch = some l) (he : s.launchEligible l = true) (ht : b.tries = 0)
    (hr : s.reach (s.engineAuth l.saggar) false (LDesc.of l.desc).image (LDesc.of l.desc).bytes = 0)
    (hload : s.load 7 0xFFFF (LDesc.of l.desc).image (LDesc.of l.desc).bytes = (u, none, bs))
    (hgood : ∀ i ∈ (u.reserve l).launchSites l, i ∈ good ∧ ((u.reserve l).site i).inReset = false)
    (hv : v = ((u.reserve l).launchSites l).foldl (fun s i => (s.store 0 0xFFFF (storeAddr i b.loadAt) bs).1) (u.reserve l))
    (hm : v.launch? l.cmd = some m) : exec (.imageBroadcast k good) s =
      .next (({ v with bcasts := dropAt v.bcasts k } : State).setLaunch { m with imageReady := true }) := by
  have hnow : ((u.reserve l).launchSites l).filter (fun i => good.contains i && !((u.reserve l).site i).inReset) =
      (u.reserve l).launchSites l := List.filter_eq_self.mpr (fun i hi => by simp [hgood i hi])
  have hnone : ((u.reserve l).launchSites l).filter (fun i => !((u.reserve l).launchSites l).contains i) = [] := by simp
  have hm' : ({ v with bcasts := dropAt v.bcasts k } : State).launch? l.cmd = some m := hm
  show execImageBroadcast k good s = _
  simp only [execImageBroadcast, hb, hl, he, ht, hr, hload, Bool.true_eq_false, if_false, and_self, if_true, Option.isSome_none,
    Bool.false_eq_true, not_true, and_false, or_self, hnow, hnone, ← hv, List.isEmpty_nil, true_or, hm', List.contains_nil,
    foldl_of_no_change]

/-- A launch that may start, with its image and its argument block read: each rank starts (R191, R362). -/
theorem exec_launchStart_of_read {id : Nat} {s u : State} {l m : Launch} {bs : List Byte} (hl : s.launch? id = some l)
    (hi : l.imageReady = true) (he : s.launchEligible l = true)
    (hok : (LDesc.of l.desc).argBytes = 0 ∨
      s.reach (s.engineAuth l.saggar) false (LDesc.of l.desc).args (LDesc.of l.desc).argBytes = 0)
    (ha : s.argBlock (LDesc.of l.desc) = (u, none, bs)) (hm : (u.startLaunch id l).launch? id = some m) : exec (.launchStart id) s =
      .next (m.ranks.zipIdx.foldl (fun s p => s.startRank m (LDesc.of l.desc) bs p.2 p.1) (u.startLaunch id l)) := by
  have hgo : ¬(l.imageReady = false ∨ s.launchEligible l = false) := by simp [hi, he]
  simp only [State.argBlock] at ha
  simp only [State.startLaunch] at hm ⊢
  show execLaunchStart id s = _
  simp only [execLaunchStart, hl, if_neg hgo, hok, true_and, ha, not_true, Option.isSome_none, Bool.false_eq_true, or_self, if_false, hm]

section kabort
variable {id : Nat} {s : State} {c : Cmd} (hc : s.ready id 0x101 = some c) (hs : (s.ring (c.p 2 2 % ringsN)).saggar = c.saggar)
include hc hs

theorem exec_kabort_of_none (h : s.abortTarget (c.p 2 2 % ringsN) (c.p 0 2) = none) :
    exec (.kabort id) s = .next (s.refuse id 0x0142) := by
  show execKabort id s = _
  simp [execKabort, hc, hs, h]

theorem exec_kabort_of_target {l : Launch} (h : s.abortTarget (c.p 2 2 % ringsN) (c.p 0 2) = some l) :
    exec (.kabort id) s = .next (s.abortLaunch id l) := by
  show execKabort id s = _
  simp [execKabort, hc, hs, h]
  rfl

end kabort

/-- Settles O21, from what each of the four commands answers. -/
theorem kernelLaunches : Obligations.KernelLaunches := by
  refine ⟨fun id s u c st b cores hc hr => ⟨exec_klaunch_of_refused hc hr, fun h => ⟨u.newLaunch id c b cores, _, _,
      exec_klaunch_of_passed hc hr h, rfl, rfl, rfl, rfl, rfl, rfl, rfl, u.newLaunch_cores id c b cores, beq_iff_eq, rfl⟩⟩,
    fun k good s u v b l m bs => exec_imageBroadcast_of_all_good, fun id s u v l m hl hi he h0 hu hv hm => ?_,
    fun id s u v l m bs hl hi he h0 hr hload hsrc hv hm => ?_, fun id s u c o hc hs ho => ⟨?_, ?_⟩⟩
  · have ht : s.startLaunch id l = v := by rw [hv, hu, State.startLaunch]
    rw [← ht] at hm ⊢
    exact exec_launchStart_of_read hl hi he (.inl h0) (if_neg (not_not_intro h0)) hm
  · have ht : u.startLaunch id l = v := by rw [hv, State.startLaunch, if_neg hsrc]
    rw [← ht] at hm ⊢
    exact exec_launchStart_of_read hl hi he (.inr hr) ((if_pos h0).trans hload) hm
  · rintro rfl
    exact exec_kabort_of_none hc hs ho
  · rintro l _ rfl rfl rfl
    exact exec_kabort_of_target hc hs ho

/-! ### Scrubs and retirements (R457, R459 to R461, R464) -/

namespace State

section regions
variable (f : Region → Region) (s : State) (l : List Nat)

/-- Changing the regions of a list changes their table alone. -/
theorem foldl_modRegion_rel : l.foldl (fun s r => s.modRegion r f) s =
    { s with rel := { s.rel with regions := (l.foldl (fun s r => s.modRegion r f) s).rel.regions } } := by
  induction l generalizing s with
  | nil => rfl
  | cons q l ih => rw [List.foldl_cons, ih]; rfl

theorem region_foldl_modRegion_not_mem {r : Nat} (h : r ∉ l) : (l.foldl (fun s r => s.modRegion r f) s).region r = s.region r := by
  induction l generalizing s with
  | nil => rfl
  | cons q l ih =>
    rw [List.foldl_cons, ih _ (List.not_mem_of_not_mem_cons h), modRegion_eq,
      region_setRegion_ne _ _ _ _ (List.ne_of_not_mem_cons h)]

/-- A list that names no region twice changes each of its regions once. -/
theorem region_foldl_modRegion_mem {r : Nat} (hn : l.Nodup) (h : r ∈ l) :
    (l.foldl (fun s r => s.modRegion r f) s).region r = f (s.region r) := by
  induction l generalizing s with
  | nil => exact (List.not_mem_nil h).elim
  | cons q l ih =>
    obtain ⟨hq, hl⟩ := List.nodup_cons.mp hn
    rw [List.foldl_cons]
    rcases List.mem_cons.mp h with rfl | h
    · rw [region_foldl_modRegion_not_mem f _ l hq, modRegion_eq, region_setRegion_same]
    · rw [ih _ hl h, modRegion_eq, region_setRegion_ne _ _ _ _ (fun e : r = q => hq (e ▸ h))]

end regions

/-- The buckets of every region that is listed leak once (R457). -/
def leakBuckets (s : State) : State :=
  (s.rel.regions.map (·.1)).foldl (fun s r => s.modRegion r (fun g => { g with level := g.level - 1 }))
    { s with rel := { s.rel with leakUs := s.nowUs } }

/-- The scrub that a REL_SCRUB queues (R459). -/
def newScrub (id : Nat) (c : Cmd) : Scrub :=
  { cmd := id, addr := c.addr 0, length := c.p 8 8, statusAddr := wordOrNone (c.addr 16), started := false, read := 0
    corrected := 0, bad := 0, marked := 0, status := 0 }

/-- A scrub leaves the queue; one that has found errors is recorded with what it counted (R459). -/
def dropScrub (s : State) (id : Nat) (x : Scrub) : State :=
  let t : State := { s with rel := { s.rel with scrubs := removeFirst (fun y => y.cmd == id) s.rel.scrubs } }
  if x.corrected ≠ 0 ∨ x.bad ≠ 0 then
    t.recordFw 3 0x8007 none (((t.cmd? id).map (·.job)).getD 0) (p4 x.read ++ p4 x.corrected ++ p4 x.bad ++ p4 x.marked)
  else t

end State

section scrubs
variable {id : Nat} {s : State} {c : Cmd} {x : Scrub}

theorem exec_ceBucketLeak_of_due (h : s.rel.leakUs + s.rel.ceLeakS * 1000000 ≤ s.nowUs) :
    exec .ceBucketLeak s = .next s.leakBuckets := if_neg (Nat.not_lt.mpr h)

theorem exec_relScrub_of_refused (hc : s.ready id 0x800 = some c) (h : s.scrubCheck c ≠ 0) :
    exec (.relScrub id) s = .next (s.refuse id (s.scrubCheck c)) := by
  show execRelScrub id s = _
  simp only [execRelScrub, hc]
  exact if_pos h

theorem exec_relScrub_of_passed (hc : s.ready id 0x800 = some c) (h : s.scrubCheck c = 0) :
    exec (.relScrub id) s = .next ((({ s with rel := { s.rel with scrubs := s.rel.scrubs ++ [State.newScrub id c] } } : State).statusWord
      id (wordOrNone (c.addr 16)) 1 0 Result.zero).setPhase id .queued) := by
  show execRelScrub id s = _
  simp only [execRelScrub, hc]
  exact if_neg (not_not_intro h)

theorem exec_scrubStart_of_next (up : Strikes) (hx : s.rel.scrubs.find? (fun x => !x.started) = some x)
    (hc : s.inPhase id 0x800 .queued = some c) (hid : x.cmd = id) (hfree : (s.rel.scrubs.filter (fun y => y.started)).length < 16)
    {r : State × Scrub} (hr : r = State.scrubUnits c (x.length / State.scrubUnit x.addr) x.addr
      (((s.statusWord id x.statusAddr 2 0 Result.zero).setPhase id .running).strike up, { x with started := true })) :
    exec (.scrubStart id up) s = .next (r.1.setScrub r.2) := by
  show execScrubStart id up s = _
  simp only [execScrubStart, hx, hc, hr]
  exact if_neg (by simp [hid, hfree])

theorem exec_scrubComplete_of_run (hx : s.rel.scrubs.find? (fun x => x.cmd == id && x.started) = some x) : exec (.scrubComplete id) s =
    .next ((s.dropScrub id x).finishWord id x.statusAddr x.status (State.scrubResult x)) := by
  show execScrubComplete id s = _
  simp only [execScrubComplete, hx]
  rfl

end scrubs

section retirements
variable {id : Nat} {s : State} {c : Cmd}

theorem exec_relRetireGranule (hc : s.ready id 0x801 = some c) : exec (.relRetireGranule id) s =
    if granulesN ≤ c.p 0 4 then .next (s.refuse id 0x0101) else .next ((s.retirePending (c.p 0 4)).finish id 0 Result.zero) := by
  show execRelRetireGranule id s = _
  simp only [execRelRetireGranule, hc]

theorem exec_relRetireSite (hc : s.ready id 0x802 = some c) : exec (.relRetireSite id) s =
    if sitesN ≤ c.p 0 2 ∨ (s.site (c.p 0 2)).role ≠ .active then .next (s.refuse id 0x0101)
    else .next (((s.retireSite (c.p 0 2) .retired).settleResets).finish id 0 Result.zero) := by
  show execRelRetireSite id s = _
  simp only [execRelRetireSite, hc]

end retirements

/-- Settles O31: what a leak does to each region, and what each of the other commands answers. -/
theorem scrubsAndRetirements : Obligations.ScrubsAndRetirements := by
  refine ⟨fun s h => ⟨s.leakBuckets, exec_ceBucketLeak_of_due h, ?_, fun r hr hp => ?_, fun r hr => ?_, State.foldl_modRegion_rel _ _ _⟩,
    fun id s c hc => ⟨exec_relScrub_of_refused hc, fun h => ⟨State.newScrub id c, _, exec_relScrub_of_passed hc h, rfl, rfl, rfl, rfl, rfl,
      rfl, rfl, rfl⟩⟩,
    fun id up s u c x r hx hc hid hfree hu hr => exec_scrubStart_of_next up hx hc hid hfree (hu ▸ hr),
    fun id s u x hx hu => ?_,
    fun id s c hc => ⟨fun h => ?_, fun h => ?_⟩, fun id s c hc => ⟨fun hi hr => ?_, fun h => ?_⟩⟩
  · rw [State.leakBuckets, State.foldl_modRegion_rel]
  · exact State.region_foldl_modRegion_mem _ _ _ (List.pairwise_map.mpr hp)
      (List.mem_map.mpr (hr.imp' (fun v => (r, v)) fun v hv => ⟨hv, rfl⟩))
  · refine State.region_foldl_modRegion_not_mem _ _ _ (fun h => ?_)
    obtain ⟨⟨r', v⟩, hv, rfl⟩ := List.mem_map.mp h
    exact hr v hv
  · rw [exec_scrubComplete_of_run hx, State.dropScrub, ← hu]
    refine ⟨fun hc hb => ?_, fun h => ?_⟩
    · rw [if_neg (by simp [hc, hb]), State.scrubResult, hc, hb]
    · rw [if_pos h, State.scrubResult]
  · rw [exec_relRetireGranule hc, if_neg (Nat.not_le.mpr h)]
  · rw [exec_relRetireGranule hc, if_pos h]
  · rw [exec_relRetireSite hc, if_neg (by simp [hr, hi])]
  · rw [exec_relRetireSite hc, if_pos h]

end Sys2Proof.Machine
end

section
/-! SUPPORT. The claims about cascades, all-ors and the waits of a core, of the family 05_cascade_and_resharding. -/
namespace Sys2Proof.Machine
open Sys2Proof

/-! ### Registers of a core -/

namespace Core

theorem setX_pc (c : Core) (n v : Nat) : (c.setX n v).pc = c.pc := by
  unfold setX
  split <;> rfl

/-- What was written is read back modulo the register's width; x0 still reads 0. -/
theorem getX_setX_same (c : Core) (n v : Nat) : (c.setX n v).getX n = if n % 32 = 0 then 0 else v % 2 ^ 32 := by
  unfold getX
  split
  · rfl
  · next h => rw [setX, if_neg h, Tbl.get_put_same, BitVec.toNat_ofNat]

/-- The core takes the result of its all-or: the word enters a register, and the all-or closes (R178). -/
def aorTaken (k : Core) (rd : Nat) : Core :=
  { k.setX rd k.aor.word.toNat with aor := { k.aor with isOpen := false, done := false } }

theorem aorTaken_pc (k : Core) (rd : Nat) : (k.aorTaken rd).pc = k.pc := k.setX_pc rd _

theorem getX_aorTaken (k : Core) (rd : Nat) : (k.aorTaken rd).getX rd = if rd % 32 = 0 then 0 else k.aor.word.toNat := by
  show (k.setX rd k.aor.word.toNat).getX rd = _
  rw [getX_setX_same, Nat.mod_eq_of_lt k.aor.word.isLt]

end Core

/-! ### Running a tile instruction, and waits that end -/

namespace State

/-- A core whose next word is of the instruction's kind brings the instruction's effect about in the state after the fetch. -/
theorem runTile_of_nextWord {s : State} {i w : Nat} {o : TileOp} (hw : s.nextWord i w) (ho : tileOp w = some o)
    (f : State → Nat → Eff) : s.runTile i o f = (s.fetched i).settle i 4 (f (s.fetched i) w) := by
  obtain ⟨hlive, hfetch⟩ := hw
  have hpair : s.fetch i = (s.fetched i, .inl (w, 4)) := Prod.ext rfl hfetch
  simp only [runTile, runIf, hlive, if_true, hpair, ho, beq_self_eq_true]

theorem aorTake_eq (s : State) (i rd : Nat) : s.aorTake i rd = s.setCore i ((s.core i).aorTaken rd) := rfl

theorem aorTake_modCore (s : State) (i rd : Nat) (f : Core → Core) :
    (s.aorTake i rd).modCore i f = s.setCore i (f ((s.core i).aorTaken rd)) := by
  rw [aorTake_eq, modCore_eq, core_setCore_same, setCore_setCore_same]

/-- TAOR.C passes with a count above its index, an aligned table and no all-or open (R178). -/
theorem aorCheck_eq_zero {k : Core} (h0 : k.aorCount ≠ 0) (hmax : k.aorCount ≤ 65536) (hself : k.aorSelf < k.aorCount)
    (halign : k.aorTable % 4 = 0) (hshut : k.aor.isOpen = false) : aorCheck k = 0 := by
  have hrange : ¬(65536 < k.aorCount ∨ k.aorCount ≤ k.aorSelf) := by omega
  simp [aorCheck, h0, hrange, halign, hshut, check, lowest]

end State

section waits
variable {i : Nat} {s : State} (hp : s.present i = true)
include hp

section fold
variable {a since extra : Nat} (hr : (s.core i).run = .waitFold a since extra)
include hr

theorem exec_foldComplete_of_failed (h : ((s.core i).acc a).failed = true) : exec (.foldComplete i) s =
    .next ((s.modCore i (fun k => { k with run := .running })).takeTrap i 27 a 0 4) := by
  show execFoldComplete i s = _
  simp only [execFoldComplete, hp, if_true, hr, h]

theorem exec_foldComplete_of_root {n : Node} (hf : ((s.core i).acc a).failed = false)
    (hn : ((s.core i).acc a).root = some n) : exec (.foldComplete i) s = .next (s.settle i 4 (s.foldNow i a n)) := by
  show execFoldComplete i s = _
  simp only [execFoldComplete, hp, if_true, hr, hf, Bool.false_eq_true, if_false, hn]

theorem exec_foldTimeout_of_over (hn : ((s.core i).acc a).root = none)
    (hover : since + (s.core i).casWait + extra ≤ s.nowUs) : exec (.foldTimeout i) s =
      .next (s.settle i 4 (s.foldExpire i a)) := by
  have hwait : s.waitOver i since extra = true := decide_eq_true hover
  show execFoldTimeout i s = _
  simp only [execFoldTimeout, hp, if_true, hr, hn, Option.isNone_none, hwait, Bool.and_self]

end fold

section allor
variable {rd : Nat} (hr : (s.core i).run = .waitAor rd)
include hr

theorem exec_taorWComplete_of_done (h : (s.core i).aor.done = true) : exec (.taorWComplete i) s =
    .next (s.setCore i { ((s.core i).aorTaken rd).adv 4 with run := .running }) := by
  rw [← s.aorTake_modCore i rd (fun k => { k.adv 4 with run := .running })]
  show execTaorWComplete i s = _
  simp only [execTaorWComplete, hp, if_true, hr, h]

theorem exec_allorTimeout_of_expired (ho : (s.core i).aor.isOpen = false) (he : (s.core i).aor.expired = true) :
    exec (.allorTimeout i) s = .next (s.settle i 4 (s.aorTimeout i)) := by
  show execAllorTimeout i s = _
  simp only [execAllorTimeout, hp, if_true, ho, Bool.false_and, Bool.false_eq_true, if_false, hr, he]

end allor
end waits

section tileInstructions
variable {i w : Nat} {s : State} (hw : s.nextWord i w)
include hw

theorem exec_taorC_of_passed (ho : tileOp w = some .taorC) (hc : State.aorCheck ((s.fetched i).core i) = 0) :
    exec (.taorC i) s = .next (((s.fetched i).aorOpen i (((s.fetched i).core i).getX (bits w 20 5) % 65536)
      (BitVec.ofNat 32 (((s.fetched i).core i).getX (bits w 15 5)))).modCore i (fun k => k.adv 4)) := by
  show execTaorC i s = _
  rw [execTaorC, State.runTile_of_nextWord hw ho, State.taorCEff, if_neg (not_not_intro hc)]
  rfl

section taorW
variable (ho : tileOp w = some .taorW) (hopen : ((s.fetched i).core i).aor.isOpen = true)
include ho hopen

theorem exec_taorW_of_done (h : ((s.fetched i).core i).aor.done = true) : exec (.taorW i) s =
    .next ((s.fetched i).setCore i ((((s.fetched i).core i).aorTaken (bits w 7 5)).adv 4)) := by
  rw [← (s.fetched i).aorTake_modCore i (bits w 7 5) (fun k => k.adv 4)]
  show execTaorW i s = _
  rw [execTaorW, State.runTile_of_nextWord hw ho, State.taorWEff, if_pos hopen, if_pos h]
  rfl

theorem exec_taorW_of_waiting (h : ((s.fetched i).core i).aor.done = false) : exec (.taorW i) s =
    .next ((s.fetched i).modCore i (fun k => { k with run := .waitAor (bits w 7 5) })) := by
  show execTaorW i s = _
  rw [execTaorW, State.runTile_of_nextWord hw ho, State.taorWEff, if_pos hopen, if_neg (by simp [h])]
  rfl

end taorW

theorem exec_tret_of_active (ho : tileOp w = some .tret) (ha : ((s.fetched i).core i).kactive = true) : exec (.tret i) s =
    .next ((s.fetched i).setCore i { (s.fetched i).core i with pc := ((s.fetched i).core i).kepc, kactive := false }) := by
  show execTret i s = _
  rw [execTret, State.runTile_of_nextWord hw ho, State.tretEff, if_pos ha]
  rfl

end tileInstructions

/-- Settles O17, from what each of the seven commands answers. -/
theorem waitsAndReturn : Obligations.WaitsAndReturn := by
  refine ⟨fun i a since extra s hp hr => ⟨exec_foldComplete_of_failed hp hr, fun n => exec_foldComplete_of_root hp hr,
      exec_foldTimeout_of_over hp hr⟩, ?_, ?_,
    fun i rd s hp hr => ⟨fun hd => ⟨_, exec_taorWComplete_of_done hp hr hd, ?_⟩, exec_allorTimeout_of_expired hp hr⟩, ?_⟩
  · rintro i w s _ hw ho rfl h0 hmax hself halign hshut
    exact exec_taorC_of_passed hw ho (State.aorCheck_eq_zero h0 hmax hself halign hshut)
  · rintro i w s _ hw ho rfl hopen
    have hrd : bits w 7 5 % 32 = bits w 7 5 := Nat.mod_mod _ _
    refine ⟨fun hd => ⟨_, exec_taorW_of_done hw ho hopen hd, ?_⟩, exec_taorW_of_waiting hw ho hopen⟩
    rw [State.core_setCore_same]
    refine ⟨rfl, ?_, congrArg (· + 4) (Core.aorTaken_pc _ _), rfl⟩
    have hget := ((s.fetched i).core i).getX_aorTaken (bits w 7 5)
    rwa [hrd] at hget
  · rw [State.core_setCore_same]
    exact ⟨rfl, rfl, Core.getX_aorTaken _ rd, congrArg (· + 4) (Core.aorTaken_pc _ _), rfl⟩
  · rintro i w s _ hw ho rfl ha
    refine ⟨_, exec_tret_of_active hw ho ha, ?_⟩
    rw [State.core_setCore_same]
    exact ⟨rfl, rfl, rfl⟩

end Sys2Proof.Machine
end

section
/-! SUPPORT. The claims about the scalar unit, the apertures, the end of a kernel and the tile moves, of the family
06_tile_extension. -/
namespace Sys2Proof.Machine
open Sys2Proof

/-! ### Registers and accumulators of a core -/

namespace Core

theorem getX_setX_ne (c : Core) {n m : Nat} (v : Nat) (h : n % 32 ≠ m % 32) : (c.setX m v).getX n = c.getX n := by
  unfold setX
  split
  · rfl
  · rw [getX, getX, Tbl.get_put_ne _ _ _ _ _ h]

theorem acc_setAcc_same (c : Core) (a : Nat) (v : Acc) : (c.setAcc a v).acc a = v := by
  match a with
  | 0 | 1 | 2 | _ + 3 => rfl

theorem setAcc_acw (c : Core) (a : Nat) (v : Acc) : (c.setAcc a v).acw = c.acw := by
  unfold setAcc
  split <;> rfl

theorem setAcc_pc (c : Core) (a : Nat) (v : Acc) : (c.setAcc a v).pc = c.pc := by
  unfold setAcc
  split <;> rfl

/-- Every element of a cleared accumulator is +0. -/
theorem getAc_clearAc (c : Core) (a : Nat) {i j : Nat} (hi : i < 32) (hj : j < 32) : (c.clearAc a).getAc a i j = 0 := by
  have hown : (a * 1024 + i * 32 + j) / 1024 = a := by omega
  have hget := Tbl.get_filter_index (fun _ => (0 : W32)) c.acw (fun o => o / 1024 != a) (a * 1024 + i * 32 + j)
  rw [hown, bne_self_eq_false, if_neg Bool.false_ne_true] at hget
  exact congrArg BitVec.toNat hget

/-- What TACLR makes of a core (R166): the accumulator holds +0 in the mode named, and no block is open. -/
def tileCleared (c : Core) (a : Nat) (fp : Bool) : Core :=
  (c.clearAc a).modAcc a (fun r => { r with fp16 := fp, isOpen := false, groups := 0 })

theorem getAc_tileCleared (c : Core) (a : Nat) (fp : Bool) {i j : Nat} (hi : i < 32) (hj : j < 32) :
    (c.tileCleared a fp).getAc a i j = 0 := by
  rw [← c.getAc_clearAc a hi hj, getAc, getAc, tileCleared, modAcc, setAcc_acw]

theorem acc_tileCleared (c : Core) (a : Nat) (fp : Bool) :
    (c.tileCleared a fp).acc a = { (c.clearAc a).acc a with fp16 := fp, isOpen := false, groups := 0 } :=
  acc_setAcc_same _ _ _

theorem tileCleared_pc (c : Core) (a : Nat) (fp : Bool) : (c.tileCleared a fp).pc = c.pc := setAcc_pc _ _ _

end Core

/-! ### ADDI and ADD (R155) -/

namespace State

theorem strike_nothing (s : State) : s.strike { ce := [], ue := [] } = s := rfl

/-- A core whose next word is a scalar or vector instruction brings its outcome about when the command accepts it. -/
theorem runBase_of_nextWord {s : State} {i w : Nat} {pick : Eff → Bool} {e : Eff} (hw : s.nextWord i w)
    (hb : isBase w = true) (he : (s.fetched i).baseEff i w 4 [] = e) (hp : pick e = true) :
    s.runBase i { ce := [], ue := [] } pick = (s.fetched i).settle i 4 e := by
  obtain ⟨hlive, hfetch⟩ := hw
  have hpair : s.fetch i = (s.fetched i, .inl (w, 4)) := Prod.ext rfl hfetch
  simp only [runBase, hlive, if_true, hpair, hb, Bool.not_true, Bool.false_eq_true, and_false, if_false, strike_nothing, he, hp]

theorem baseEff_of_scalar {w : Nat} (h : isVector w = false) (s : State) (i : Nat) (got : List (Nat × Byte)) :
    s.baseEff i w 4 got = s.scalarEff i w w 4 got := by
  simp [baseEff, expand, h]

theorem scalarEff_addi {w : Nat} (hop : w % 128 = 0x13) (hf : bits w 12 3 = 0) (s : State) (i : Nat) (got : List (Nat × Byte)) :
    s.scalarEff i w w 4 got = s.retire i 4 (fun k => k.setX (bits w 7 5)
      (((s.core i).getX (bits w 15 5) + w32 (immI w)) % 2 ^ 32)) := by
  simp [scalarEff, hop, hf, aluOp]

theorem scalarEff_add {w : Nat} (hop : w % 128 = 0x33) (hf : bits w 12 3 = 0) (hs : bits w 25 7 = 0) (s : State) (i : Nat)
    (got : List (Nat × Byte)) :
    s.scalarEff i w w 4 got = s.retire i 4 (fun k => k.setX (bits w 7 5)
      (((s.core i).getX (bits w 15 5) + (s.core i).getX (bits w 20 5)) % 2 ^ 32)) := by
  simp [scalarEff, hop, hf, hs, aluOp]

end State

/-- OP-IMM and OP words belong to the scalar unit. -/
theorem isBase_of_op {w : Nat} (h : w % 128 = 0x13 ∨ w % 128 = 0x33) : isBase w = true ∧ isVector w = false := by
  obtain h | h := h <;>
    simp [isBase, isVector, tileOp, isFence, isFenceI, State.isCustomWrite, h]

/-- A scalar instruction that writes one register and moves on. -/
theorem exec_scalarVectorInstruction_of_setX {i w v : Nat} {s : State} (hw : s.nextWord i w)
    (hop : w % 128 = 0x13 ∨ w % 128 = 0x33)
    (he : (s.fetched i).scalarEff i w w 4 [] = (s.fetched i).retire i 4 (fun k => k.setX (bits w 7 5) v)) :
    exec (.scalarVectorInstruction i { ce := [], ue := [] }) s = .next (s.retired i (fun k => k.setX (bits w 7 5) v)) := by
  obtain ⟨hbase, hscalar⟩ := isBase_of_op hop
  have hbe := (State.baseEff_of_scalar hscalar (s.fetched i) i []).trans he
  show execScalarVectorInstruction i _ s = _
  rw [execScalarVectorInstruction, State.runBase_of_nextWord hw hbase hbe rfl]
  rfl

/-- ADDI with its immediate as the operand `b`, and ADD with a register as it, have one meaning. -/
theorem exec_scalarVectorInstruction_of_add {i w b : Nat} {s : State} (hw : s.nextWord i w)
    (hb : (w % 128 = 0x13 ∧ bits w 12 3 = 0 ∧ b = w32 (immI w)) ∨
      (w % 128 = 0x33 ∧ bits w 12 3 = 0 ∧ bits w 25 7 = 0 ∧ b = ((s.fetched i).core i).getX (bits w 20 5))) :
    exec (.scalarVectorInstruction i { ce := [], ue := [] }) s = .next (s.retired i (fun k => k.setX (bits w 7 5)
      ((((s.fetched i).core i).getX (bits w 15 5) + b) % 2 ^ 32))) := by
  obtain ⟨hop, hf, rfl⟩ | ⟨hop, hf, hs, rfl⟩ := hb
  · exact exec_scalarVectorInstruction_of_setX hw (.inl hop) (State.scalarEff_addi hop hf _ i [])
  · exact exec_scalarVectorInstruction_of_setX hw (.inr hop) (State.scalarEff_add hop hf hs _ i [])

/-- Settles O10: both words write one register, and what the write leaves alone follows from the register file. -/
theorem scalarAdd : Obligations.ScalarAdd := by
  intro i w s b hw hb
  have hrd : bits w 7 5 % 32 = bits w 7 5 := Nat.mod_mod _ _
  refine ⟨_, exec_scalarVectorInstruction_of_add hw hb, ?_, fun n hn hne => ?_, ?_,
    fun j hj => State.core_setCore_ne _ _ _ _ hj, fun a => rfl⟩
  all_goals rw [State.core_setCore_same]
  · show (Core.setX _ _ _).getX _ = _
    rw [Core.getX_setX_same, hrd, Nat.mod_mod]
  · exact Core.getX_setX_ne _ _ (by omega)
  · exact congrArg (· + 4) (Core.setX_pc _ _ _)

/-! ### Accesses through apertures (R159) -/

theorem exec_apertureLoad_of_far {i w : Nat} {s u : State} {need : List (Nat × Nat)} (hw : s.nextWord i w)
    (hb : isBase w = true) (he : (s.fetched i).baseEff i w 4 [] = .far u need) :
    exec (.apertureLoad i) s = .next (u.issueLoads i 4 need) := by
  show execApertureLoad i s = _
  rw [execApertureLoad, State.runBase_of_nextWord hw hb he rfl]
  rfl

theorem exec_apertureStore_of_posted {i w : Nat} {s u : State} (hw : s.nextWord i w)
    (hb : isBase w = true) (he : (s.fetched i).baseEff i w 4 [] = .done u true) :
    exec (.apertureStore i) s = .next u := by
  show execApertureStore i s = _
  rw [execApertureStore, State.runBase_of_nextWord hw hb he rfl]
  rfl

theorem State.modCore_setCore (s : State) (i : Nat) (v : Core) (f : Core → Core) :
    (s.setCore i v).modCore i f = s.setCore i (f v) := by
  rw [modCore_eq, core_setCore_same, setCore_setCore_same]

/-- A read request of site `i` joins the injection queue under the core's next tag (R159). -/
def State.readQueued (s : State) (i sag dest a n : Nat) (check : Bool) : State :=
  { s with outq := s.outq ++ [s.requestOf i sag dest (s.core i).nextTag a check (.read n) []] }

/-- The core has used its next tag. -/
def Core.tagUsed (c : Core) : Core := { c with nextTag := (c.nextTag + 1) % 65536 }

/-- A load of one piece behind an aperture sends one request, and the core waits for its answer. -/
theorem State.issueLoads_of_one {u : State} {i a n sag dest b : Nat} {chk : Bool} (len : Nat) (ho : u.siteOwner i = some sag)
    (hp : u.place i false false a n = some (.aper b chk)) (hr : u.routeOf sag b n = .inr dest) :
    u.issueLoads i len [(a, n)] = (u.readQueued i sag dest b n chk).setCore i
      { (u.core i).tagUsed with run := .waitLoad [((u.core i).nextTag, a, n)] [] none } := by
  rw [← modCore_setCore (u.readQueued i sag dest b n chk) i (u.core i).tagUsed
    (fun c => { c with run := .waitLoad [((u.core i).nextTag, a, n)] [] none })]
  simp only [issueLoads, List.foldl_cons, List.foldl_nil, ho, hp, hr, List.nil_append]
  rfl

/-- Settles O11, from what the two commands answer and the one request of a load. -/
theorem apertureAccesses : Obligations.ApertureAccesses := by
  refine ⟨fun i w s u need => exec_apertureLoad_of_far, fun i w s u => exec_apertureStore_of_posted,
    fun u i a n sag dest b chk ho hp hr => ⟨_, State.issueLoads_of_one 4 ho hp hr, ?_, ?_,
      fun j hj => State.core_setCore_ne _ _ _ _ hj, rfl, rfl⟩⟩
  · rw [State.core_setCore_same]
  · rw [State.core_setCore_same]
    rfl

/-! ### The end of a kernel (R187, R192) -/

/-- A kernel that ends leaves its core to the runtime: it waits for a launch, out of user mode. -/
theorem State.core_endKernel (s : State) (i outcome cause : Nat) (v : W32) :
    ((s.endKernel i outcome cause v).core i).run = .idle ∧ ((s.endKernel i outcome cause v).core i).user = false := by
  unfold endKernel
  split <;> rw [modCore_eq, core_setCore_same] <;> exact ⟨rfl, rfl⟩

theorem exec_kernelExit_of_ecall {i : Nat} {v : W32} {s : State} (hp : s.present i = true) (hr : (s.core i).run = .trapped 8 v)
    (hx : (s.core i).getX 17 = 0) (ha : s.answered i = true) (hc : (s.core i).remCount = 0) :
    exec (.kernelExit i) s = .next (s.endKernel i 0 0 (BitVec.ofNat 32 ((s.core i).getX 10))) := by
  show execKernelExit i s = _
  simp [execKernelExit, hr, hp, hx, ha, hc]

theorem exec_kernelEndByTrap_of_trap {i cause : Nat} {v : W32} {s : State} (hp : s.present i = true)
    (hr : (s.core i).run = .trapped cause v) (ha : s.answered i = true) (hx : cause ≠ 8 ∨ (s.core i).getX 17 ≠ 0) :
    exec (.kernelEndByTrap i) s = .next (s.endByTrap i cause v) := by
  have hno : (cause == 8 && (s.core i).getX 17 == 0) = false := by
    obtain h | h := hx <;> simp [h]
  show execKernelEndByTrap i s = _
  simp [execKernelEndByTrap, hr, hp, ha, hno]

/-- Settles O13, from what the two commands answer and where an ended kernel leaves its core. -/
theorem kernelEnds : Obligations.KernelEnds :=
  ⟨fun i _ s hp hr hx ha hc => ⟨_, exec_kernelExit_of_ecall hp hr hx ha hc, rfl, s.core_endKernel i _ _ _⟩,
    fun _ _ _ _ hp hr ha hx => ⟨_, exec_kernelEndByTrap_of_trap hp hr ha hx, rfl, State.core_endKernel _ _ _ _ _⟩⟩

/-! ### Tile moves (R164 to R166, R175) -/

theorem State.tmvEff_to_vector {w : Nat} (hvd : bits w 7 5 % 4 = 0) (hdir : bits w 20 2 = 0) (s : State) (i : Nat) :
    s.tmvEff i w = s.retire i 4 (fun k => setVecKib k (bits w 7 5) (k.getTBytes (bits w 15 3 * 1024) 1024)) := by
  simp [tmvEff, hdir, hvd, check, lowest]

theorem State.tmvEff_from_vector {w : Nat} (hvd : bits w 7 5 % 4 = 0) (hdir : bits w 20 2 = 1) (s : State) (i : Nat) :
    s.tmvEff i w = s.retire i 4 (fun k => k.setTBytes (bits w 15 3 * 1024) (vecKib k (bits w 7 5))) := by
  simp [tmvEff, hdir, hvd, check, lowest]

section tileMoves
variable {i w : Nat} {s : State} (hw : s.nextWord i w)
include hw

theorem exec_tld_of_read {x : Strikes} {u : State} {rows : List (Nat × Nat)} {bs : List Byte} (ho : tileOp w = some .tld)
    (hu : u = (s.fetched i).strike x) (hc : State.tldCheck (u.core i) w = 0)
    (hrows : rows = (State.tldRows (u.core i) w).map (fun a => (a, (State.tldShape (bits w 25 3)).2.1)))
    (hmay : rows.find? (fun q => (u.place i false false q.1 q.2).isNone) = none) (hfar : u.farPieces i [] rows = [])
    (hread : (u.coreReads i [] rows).2 = .ok bs) :
    exec (.tld i x) s = .next ((u.coreReads i [] rows).1.modCore i (fun k =>
      (k.setTBytes (bits w 7 3 * 1024 + (State.tldShape (bits w 25 3)).2.2.1) bs).adv 4)) := by
  subst hrows
  show execTld i x s = _
  rw [execTld, State.runTile_of_nextWord hw ho, ← hu]
  simp only [State.tldEff, hc, ne_eq, not_true, if_false, hmay, hfar, hread]
  rfl

theorem exec_tst_of_written {x : Strikes} {u v : State} {p : Bool} (ho : tileOp w = some .tst)
    (hu : u = (s.fetched i).strike x) (hc : State.tldCheck (u.core i) w = 0)
    (hmay : (State.tldRows (u.core i) w).find?
      (fun a => (u.place i true false a (State.tldShape (bits w 25 3)).2.1).isNone) = none)
    (hwrite : u.coreWrites i ((State.tldRows (u.core i) w).zipIdx.flatMap (fun q =>
      (State.linesOf q.1 (State.tldShape (bits w 25 3)).2.1).map (fun a => (a.1, (u.core i).getTBytes
        (bits w 7 3 * 1024 + (State.tldShape (bits w 25 3)).2.2.1 + q.2 * (State.tldShape (bits w 25 3)).2.1 +
          (a.1 - q.1)) a.2)))) = .done v p) :
    exec (.tst i x) s = .next (v.modCore i (fun k => k.adv 4)) := by
  show execTst i x s = _
  rw [execTst, State.runTile_of_nextWord hw ho, ← hu]
  simp only [State.tstEff, hc, ne_eq, not_true, if_false, hmay, hwrite]
  rfl

theorem exec_taclr_of_free (ho : tileOp w = some .taclr) (hex : (s.fetched i).exporting i (bits w 7 2) = false)
    (hmode : (((s.fetched i).core i).acc (bits w 7 2)).redOpen = true →
      (((s.fetched i).core i).acc (bits w 7 2)).red16 = bitAt w 9) :
    exec (.taclr i) s = .next (s.retired i (fun k => k.tileCleared (bits w 7 2) (bitAt w 9))) := by
  have hsame : ((((s.fetched i).core i).acc (bits w 7 2)).redOpen &&
      (((s.fetched i).core i).acc (bits w 7 2)).red16 != bitAt w 9) = false := by
    cases h : (((s.fetched i).core i).acc (bits w 7 2)).redOpen
    · rfl
    · simp [hmode h]
  show execTaclr i s = _
  rw [execTaclr, State.runTile_of_nextWord hw ho]
  simp only [State.taclrEff, hex, hsame, Bool.false_eq_true, if_false]
  rfl

section tmv
variable (ho : tileOp w = some .tmv) (hvd : bits w 7 5 % 4 = 0)
include ho hvd

theorem exec_tmv_to_vector (hdir : bits w 20 2 = 0) : exec (.tmv i) s =
    .next (s.retired i (fun k => State.setVecKib k (bits w 7 5) (k.getTBytes (bits w 15 3 * 1024) 1024))) := by
  show execTmv i s = _
  rw [execTmv, State.runTile_of_nextWord hw ho, State.tmvEff_to_vector hvd hdir]
  rfl

theorem exec_tmv_from_vector (hdir : bits w 20 2 = 1) : exec (.tmv i) s =
    .next (s.retired i (fun k => k.setTBytes (bits w 15 3 * 1024) (State.vecKib k (bits w 7 5)))) := by
  show execTmv i s = _
  rw [execTmv, State.runTile_of_nextWord hw ho, State.tmvEff_from_vector hvd hdir]
  rfl

end tmv
end tileMoves

/-- Settles O14, from what each of the four instructions answers and what TACLR leaves in its accumulator. -/
theorem tileMoves : Obligations.TileMoves := by
  refine ⟨fun i w x s u rows bs hw => exec_tld_of_read hw, fun i w x s u v p hw => exec_tst_of_written hw,
    fun i w s hw ho hex hmode => ⟨_, exec_taclr_of_free hw ho hex hmode, ?_⟩,
    fun i w s hw => exec_tmv_to_vector hw, fun i w s hw => exec_tmv_from_vector hw⟩
  rw [State.core_setCore_same]
  refine ⟨fun r c hr hc => Core.getAc_tileCleared _ _ _ hr hc, ?_, ?_, congrArg (· + 4) (Core.tileCleared_pc _ _ _), rfl⟩
  · exact congrArg Acc.fp16 (Core.acc_tileCleared _ _ _)
  · exact congrArg Acc.isOpen (Core.acc_tileCleared _ _ _)

end Sys2Proof.Machine
end

section
/-! SUPPORT. The claims about memory's canonical form, the physical address map, stack memory, refresh and sluices, of the family
07_memory_and_sluices. -/
namespace Sys2Proof.Machine
open Sys2Proof

/-! ### What a step keeps: the queue's rest, the form of memory, the glazed record (R200, R206, R207, R501, R502) -/

theorem State.OutKeeps.balances {s : State} {o : Out} (h : s.OutKeeps o) : OutAll s.Balances o :=
  ⟨fun t ht => (h.all t ht).balances⟩

/-- The dispatch, arm by arm: each command's meaning keeps what `Keeps` names; GLAZE_SET alone changes the glazed record, and
keeps it balanced. -/
theorem exec_balances : ∀ (c : Instr) (s : State), OutAll s.Balances (exec c s)
  | .standbyPowerUp, _ => (execStandbyPowerUp_keeps (h := .refl _) ..).balances
  | .railGood _, _ => (execRailGood_keeps (h := .refl _) ..).balances
  | .railWindowExpiry _, _ => (execRailWindowExpiry_keeps (h := .refl _) ..).balances
  | .vmeshOutOfRange, _ => (execVmeshOutOfRange_keeps (h := .refl _) ..).balances
  | .refLoss, _ => (execRefLoss_keeps (h := .refl _) ..).balances
  | .refRecovery, _ => (execRefRecovery_keeps (h := .refl _) ..).balances
  | .holdoverExpiry, _ => (execHoldoverExpiry_keeps (h := .refl _) ..).balances
  | .inputUndervolt _, _ => (execInputUndervolt_keeps (h := .refl _) ..).balances
  | .inputRecovery _, _ => (execInputRecovery_keeps (h := .refl _) ..).balances
  | .inputPowerLost _, _ => (execInputPowerLost_keeps (h := .refl _) ..).balances
  | .inputOvervoltage _, _ => (execInputOvervoltage_keeps (h := .refl _) ..).balances
  | .bisqueStart _, _ => (execBisqueStart_keeps (h := .refl _) ..).balances
  | .refire _, _ => (execRefire_keeps (h := .refl _) ..).balances
  | .packetInject _, _ => (execPacketInject_keeps (h := .refl _) ..).balances
  | .meshRequestArrival _ _, _ => (execMeshRequestArrival_keeps (h := .refl _) ..).balances
  | .meshResponseArrival _, _ => (execMeshResponseArrival_keeps (h := .refl _) ..).balances
  | .priorityFlitAged _, _ => (execPriorityFlitAged_keeps (h := .refl _) ..).balances
  | .epochUpdate _, _ => (execEpochUpdate_keeps (h := .refl _) ..).balances
  | .remapApply _, _ => (execRemapApply_keeps (h := .refl _) ..).balances
  | .remapQuiescenceTimeout _, _ => (execRemapQuiescenceTimeout_keeps (h := .refl _) ..).balances
  | .imageBroadcast _ _, _ => (execImageBroadcast_keeps (h := .refl _) ..).balances
  | .rillInterrupt _, _ => (execRillInterrupt_keeps (h := .refl _) ..).balances
  | .scalarVectorInstruction _ _, _ => (execScalarVectorInstruction_keeps (h := .refl _) ..).balances
  | .apertureLoad _, _ => (execApertureLoad_keeps (h := .refl _) ..).balances
  | .apertureStore _, _ => (execApertureStore_keeps (h := .refl _) ..).balances
  | .fence _, _ => (execFence_keeps (h := .refl _) ..).balances
  | .fenceI _, _ => (execFenceI_keeps (h := .refl _) ..).balances
  | .csrWrite _, _ => (execCsrWrite_keeps (h := .refl _) ..).balances
  | .tld _ _, _ => (execTld_keeps (h := .refl _) ..).balances
  | .tst _ _, _ => (execTst_keeps (h := .refl _) ..).balances
  | .taclr _, _ => (execTaclr_keeps (h := .refl _) ..).balances
  | .tmma _ _, _ => (execTmma_keeps (h := .refl _) ..).balances
  | .tepi _, _ => (execTepi_keeps (h := .refl _) ..).balances
  | .tcvt _, _ => (execTcvt_keeps (h := .refl _) ..).balances
  | .osm _, _ => (execOsm_keeps (h := .refl _) ..).balances
  | .tmv _, _ => (execTmv_keeps (h := .refl _) ..).balances
  | .tcasOpen _, _ => (execTcasOpen_keeps (h := .refl _) ..).balances
  | .tcasClose _, _ => (execTcasClose_keeps (h := .refl _) ..).balances
  | .tcasExport _, _ => (execTcasExport_keeps (h := .refl _) ..).balances
  | .tcasFold _, _ => (execTcasFold_keeps (h := .refl _) ..).balances
  | .foldComplete _, _ => (execFoldComplete_keeps (h := .refl _) ..).balances
  | .foldTimeout _, _ => (execFoldTimeout_keeps (h := .refl _) ..).balances
  | .tcasDiscard _, _ => (execTcasDiscard_keeps (h := .refl _) ..).balances
  | .cascadeNodeArrival _, _ => (execCascadeNodeArrival_keeps (h := .refl _) ..).balances
  | .taorC _, _ => (execTaorC_keeps (h := .refl _) ..).balances
  | .allorWordArrival _, _ => (execAllorWordArrival_keeps (h := .refl _) ..).balances
  | .allorTimeout _, _ => (execAllorTimeout_keeps (h := .refl _) ..).balances
  | .taorW _, _ => (execTaorW_keeps (h := .refl _) ..).balances
  | .taorWComplete _, _ => (execTaorWComplete_keeps (h := .refl _) ..).balances
  | .tret _, _ => (execTret_keeps (h := .refl _) ..).balances
  | .kernelExit _, _ => (execKernelExit_keeps (h := .refl _) ..).balances
  | .kernelEndByTrap _, _ => (execKernelEndByTrap_keeps (h := .refl _) ..).balances
  | .lagNoticeArrival _, _ => (execLagNoticeArrival_keeps (h := .refl _) ..).balances
  | .attachPortRequest _ _, _ => (execAttachPortRequest_keeps (h := .refl _) ..).balances
  | .cxlMemRequest _ _ _ _ _, _ => (execCxlMemRequest_keeps (h := .refl _) ..).balances
  | .columnRefresh _, _ => (execColumnRefresh_keeps (h := .refl _) ..).balances
  | .refreshRateChange _ _ _, _ => (execRefreshRateChange_keeps (h := .refl _) ..).balances
  | .refreshNormalReturn _ _, _ => (execRefreshNormalReturn_keeps (h := .refl _) ..).balances
  | .hbmRefresh c b, s => (execHbmRefresh_keeps c b s (.refl s)).balances
  | .sluiceDescriptorStart _ _, _ => (execSluiceDescriptorStart_keeps (h := .refl _) ..).balances
  | .sluiceDescriptorComplete _, _ => (execSluiceDescriptorComplete_keeps (h := .refl _) ..).balances
  | .sluiceHalt _ _, _ => (execSluiceHalt_keeps (h := .refl _) ..).balances
  | .sluiceResume _, _ => (execSluiceResume_keeps (h := .refl _) ..).balances
  | .sluiceRewetDone _, _ => (execSluiceRewetDone_keeps (h := .refl _) ..).balances
  | .nbRun _, _ => (execNbRun_keeps (h := .refl _) ..).balances
  | .nbCoreCommand _ _ _ _, _ => (execNbCoreCommand_keeps (h := .refl _) ..).balances
  | .fenceNb _, _ => (execFenceNb_keeps (h := .refl _) ..).balances
  | .nbCancel _, _ => (execNbCancel_keeps (h := .refl _) ..).balances
  | .nbReset _, _ => (execNbReset_keeps (h := .refl _) ..).balances
  | .nbSequenceStart _, _ => (execNbSequenceStart_keeps (h := .refl _) ..).balances
  | .nbStepEnd _ _ _, _ => (execNbStepEnd_keeps (h := .refl _) ..).balances
  | .nbGapEnd _, _ => (execNbGapEnd_keeps (h := .refl _) ..).balances
  | .nbResetEntry _, _ => (execNbResetEntry_keeps (h := .refl _) ..).balances
  | .nbUnitRewetDone _, _ => (execNbUnitRewetDone_keeps (h := .refl _) ..).balances
  | .kvAppend _, _ => (execKvAppend_keeps (h := .refl _) ..).balances
  | .kvEvict _, _ => (execKvEvict_keeps (h := .refl _) ..).balances
  | .kvStage _, _ => (execKvStage_keeps (h := .refl _) ..).balances
  | .attnDecode _, _ => (execAttnDecode_keeps (h := .refl _) ..).balances
  | .kvScore _, _ => (execKvScore_keeps (h := .refl _) ..).balances
  | .kvAccept _, _ => (execKvAccept_keeps (h := .refl _) ..).balances
  | .kvServiceStart _, _ => (execKvServiceStart_keeps (h := .refl _) ..).balances
  | .tsUpdate _, _ => (execTsUpdate_keeps (h := .refl _) ..).balances
  | .tsCastout _, _ => (execTsCastout_keeps (h := .refl _) ..).balances
  | .tsScale _, _ => (execTsScale_keeps (h := .refl _) ..).balances
  | .tsAudit _, _ => (execTsAudit_keeps (h := .refl _) ..).balances
  | .tsDigest _, _ => (execTsDigest_keeps (h := .refl _) ..).balances
  | .tsCompare _, _ => (execTsCompare_keeps (h := .refl _) ..).balances
  | .stepGateReread _, _ => (execStepGateReread_keeps (h := .refl _) ..).balances
  | .stepGateTimeout _, _ => (execStepGateTimeout_keeps (h := .refl _) ..).balances
  | .ucieModuleLoss _, _ => (execUcieModuleLoss_keeps (h := .refl _) ..).balances
  | .registerWrite _ _ _ _, _ => (execRegisterWrite_keeps (h := .refl _) ..).balances
  | .doorbell _ _ _, _ => (execDoorbell_keeps (h := .refl _) ..).balances
  | .coreDoorbell _ _ _ _ _, _ => (execCoreDoorbell_keeps (h := .refl _) ..).balances
  | .commandFetch _ _, _ => (execCommandFetch_keeps (h := .refl _) ..).balances
  | .completionWrite _, _ => (execCompletionWrite_keeps (h := .refl _) ..).balances
  | .completionStallTimeout _, _ => (execCompletionStallTimeout_keeps (h := .refl _) ..).balances
  | .completionSlotRetry _, _ => (execCompletionSlotRetry_keeps (h := .refl _) ..).balances
  | .interruptCoalesceTimeout _, _ => (execInterruptCoalesceTimeout_keeps (h := .refl _) ..).balances
  | .nop _, _ => (execNop_keeps (h := .refl _) ..).balances
  | .cfgBegin _, _ => (execCfgBegin_keeps (h := .refl _) ..).balances
  | .cfgSet _, _ => (execCfgSet_keeps (h := .refl _) ..).balances
  | .cfgCommit _, _ => (execCfgCommit_keeps (h := .refl _) ..).balances
  | .commitApply _ _, _ => (execCommitApply_keeps (h := .refl _) ..).balances
  | .quiescenceTimeout _, _ => (execQuiescenceTimeout_keeps (h := .refl _) ..).balances
  | .cfgAbort _, _ => (execCfgAbort_keeps (h := .refl _) ..).balances
  | .transactionTimeout _, _ => (execTransactionTimeout_keeps (h := .refl _) ..).balances
  | .cfgGet _, _ => (execCfgGet_keeps (h := .refl _) ..).balances
  | .saggarClose _, _ => (execSaggarClose_keeps (h := .refl _) ..).balances
  | .jobOpen _, _ => (execJobOpen_keeps (h := .refl _) ..).balances
  | .jobClose _, _ => (execJobClose_keeps (h := .refl _) ..).balances
  | .jobCloseComplete _, _ => (execJobCloseComplete_keeps (h := .refl _) ..).balances
  | .ringReset _, _ => (execRingReset_keeps (h := .refl _) ..).balances
  | .ringRewetDone _, _ => (execRingRewetDone_keeps (h := .refl _) ..).balances
  | .klaunch _, _ => (execKlaunch_keeps (h := .refl _) ..).balances
  | .launchStart _, _ => (execLaunchStart_keeps (h := .refl _) ..).balances
  | .kabort _, _ => (execKabort_keeps (h := .refl _) ..).balances
  | .fabPour _, _ => (execFabPour_keeps (h := .refl _) ..).balances
  | .fabWindow _, _ => (execFabWindow_keeps (h := .refl _) ..).balances
  | .fabPortReset _, _ => (execFabPortReset_keeps (h := .refl _) ..).balances
  | .laserInputLoss _, _ => (execLaserInputLoss_keeps (h := .refl _) ..).balances
  | .portRanging _ _, _ => (execPortRanging_keeps (h := .refl _) ..).balances
  | .helloSend _, _ => (execHelloSend_keeps (h := .refl _) ..).balances
  | .memberExpiry _ _, _ => (execMemberExpiry_keeps (h := .refl _) ..).balances
  | .beaconSend _, _ => (execBeaconSend_keeps (h := .refl _) ..).balances
  | .leaderTimeout _, _ => (execLeaderTimeout_keeps (h := .refl _) ..).balances
  | .controlFrameSend _ _ _, _ => (execControlFrameSend_keeps (h := .refl _) ..).balances
  | .controlBackoffExpiry _ _ _, _ => (execControlBackoffExpiry_keeps (h := .refl _) ..).balances
  | .lendAbandon _, _ => (execLendAbandon_keeps (h := .refl _) ..).balances
  | .beacon _ _, _ => (execBeacon_keeps (h := .refl _) ..).balances
  | .hello _ _, _ => (execHello_keeps (h := .refl _) ..).balances
  | .reserve _ _, _ => (execReserve_keeps (h := .refl _) ..).balances
  | .accept _ _, _ => (execAccept_keeps (h := .refl _) ..).balances
  | .refuse _ _, _ => (execRefuse_keeps (h := .refl _) ..).balances
  | .done _ _, _ => (execDone_keeps (h := .refl _) ..).balances
  | .query _ _, _ => (execQuery_keeps (h := .refl _) ..).balances
  | .relayed _ _, _ => (execRelayed_keeps (h := .refl _) ..).balances
  | .abort _ _, _ => (execAbort_keeps (h := .refl _) ..).balances
  | .mesh _ _, _ => (execMesh_keeps (h := .refl _) ..).balances
  | .session _ _, _ => (execSession_keeps (h := .refl _) ..).balances
  | .lag _ _, _ => (execLag_keeps (h := .refl _) ..).balances
  | .lend _ _, _ => (execLend_keeps (h := .refl _) ..).balances
  | .pourStart _, _ => (execPourStart_keeps (h := .refl _) ..).balances
  | .reservationTake _, _ => (execReservationTake_keeps (h := .refl _) ..).balances
  | .pourSegmentsStart _, _ => (execPourSegmentsStart_keeps (h := .refl _) ..).balances
  | .dataFrameReceive _ _, _ => (execDataFrameReceive_keeps (h := .refl _) ..).balances
  | .reserveTimeout _, _ => (execReserveTimeout_keeps (h := .refl _) ..).balances
  | .reserveRetry _, _ => (execReserveRetry_keeps (h := .refl _) ..).balances
  | .firstSegmentTimeout _, _ => (execFirstSegmentTimeout_keeps (h := .refl _) ..).balances
  | .doneTimeout _, _ => (execDoneTimeout_keeps (h := .refl _) ..).balances
  | .doneRetentionExpiry _ _ _, _ => (execDoneRetentionExpiry_keeps (h := .refl _) ..).balances
  | .relayedTimeout _ _, _ => (execRelayedTimeout_keeps (h := .refl _) ..).balances
  | .opticalAttachPacket _, _ => (execOpticalAttachPacket_keeps (h := .refl _) ..).balances
  | .cascadeGatherTimeout _ _, _ => (execCascadeGatherTimeout_keeps (h := .refl _) ..).balances
  | .mgmtDatagram _, _ => (execMgmtDatagram_keeps (h := .refl _) ..).balances
  | .mgmtSessionTimeout _, _ => (execMgmtSessionTimeout_keeps (h := .refl _) ..).balances
  | .pwrMeterRead _, _ => (execPwrMeterRead_keeps (h := .refl _) ..).balances
  | .pwrSleep _, _ => (execPwrSleep_keeps (h := .refl _) ..).balances
  | .pwrWake _, _ => (execPwrWake_keeps (h := .refl _) ..).balances
  | .clusterSwitchStage _ _, _ => (execClusterSwitchStage_keeps (h := .refl _) ..).balances
  | .clusterStartDeferralEnd _ _ _, _ => (execClusterStartDeferralEnd_keeps (h := .refl _) ..).balances
  | .regulatorPhaseFault _, _ => (execRegulatorPhaseFault_keeps (h := .refl _) ..).balances
  | .kilnRecompute _, _ => (execKilnRecompute_keeps (h := .refl _) ..).balances
  | .lendLeaseExpiry _, _ => (execLendLeaseExpiry_keeps (h := .refl _) ..).balances
  | .lendReductionExpiry _, _ => (execLendReductionExpiry_keeps (h := .refl _) ..).balances
  | .telemetryWindowClose _, _ => (execTelemetryWindowClose_keeps (h := .refl _) ..).balances
  | .energyAttribution _ _, _ => (execEnergyAttribution_keeps (h := .refl _) ..).balances
  | .kilnModelUpdate _, _ => (execKilnModelUpdate_keeps (h := .refl _) ..).balances
  | .kilnStaleTimeout, _ => (execKilnStaleTimeout_keeps (h := .refl _) ..).balances
  | .kilnStaleConeRaise, _ => (execKilnStaleConeRaise_keeps (h := .refl _) ..).balances
  | .thermalClamp _ _, _ => (execThermalClamp_keeps (h := .refl _) ..).balances
  | .thermalClampRelease _ _, _ => (execThermalClampRelease_keeps (h := .refl _) ..).balances
  | .thermalShutdown _, _ => (execThermalShutdown_keeps (h := .refl _) ..).balances
  | .coolantOutOfRange _ _, _ => (execCoolantOutOfRange_keeps (h := .refl _) ..).balances
  | .flowLimited _, _ => (execFlowLimited_keeps (h := .refl _) ..).balances
  | .flowLimitLift _, _ => (execFlowLimitLift_keeps (h := .refl _) ..).balances
  | .heatMismatch _, _ => (execHeatMismatch_keeps (h := .refl _) ..).balances
  | .flowRecord _, _ => (execFlowRecord_keeps (h := .refl _) ..).balances
  | .rotateDue _, _ => (execRotateDue_keeps (h := .refl _) ..).balances
  | .thmRank _, _ => (execThmRank_keeps (h := .refl _) ..).balances
  | .wearSample, _ => (execWearSample_keeps (h := .refl _) ..).balances
  | .wearPersist, _ => (execWearPersist_keeps (h := .refl _) ..).balances
  | .ceBucketLeak, _ => (execCeBucketLeak_keeps (h := .refl _) ..).balances
  | .relScrub _, _ => (execRelScrub_keeps (h := .refl _) ..).balances
  | .scrubStart _ _, _ => (execScrubStart_keeps (h := .refl _) ..).balances
  | .scrubComplete _, _ => (execScrubComplete_keeps (h := .refl _) ..).balances
  | .relRetireGranule _, _ => (execRelRetireGranule_keeps (h := .refl _) ..).balances
  | .relRetireSite _, _ => (execRelRetireSite_keeps (h := .refl _) ..).balances
  | .siteRewetDone _ _, _ => (execSiteRewetDone_keeps (h := .refl _) ..).balances
  | .mirrorWrite _, _ => (execMirrorWrite_keeps (h := .refl _) ..).balances
  | .cisRead _, _ => (execCisRead_keeps (h := .refl _) ..).balances
  | .cisClear _, _ => (execCisClear_keeps (h := .refl _) ..).balances
  | .rstCluster _, _ => (execRstCluster_keeps (h := .refl _) ..).balances
  | .rstSaggar _, _ => (execRstSaggar_keeps (h := .refl _) ..).balances
  | .rstDie _, _ => (execRstDie_keeps (h := .refl _) ..).balances
  | .rstStack _ _, _ => (execRstStack_keeps (h := .refl _) ..).balances
  | .rstPackage _, _ => (execRstPackage_keeps (h := .refl _) ..).balances
  | .fwStage _, _ => (execFwStage_keeps (h := .refl _) ..).balances
  | .fwActivate _, _ => (execFwActivate_keeps (h := .refl _) ..).balances
  | .fwRoleHandover _ _, _ => (execFwRoleHandover_keeps (h := .refl _) ..).balances
  | .fwActivationConfirm, _ => (execFwActivationConfirm_keeps (h := .refl _) ..).balances
  | .runtimeActivationStart _ _, _ => (execRuntimeActivationStart_keeps (h := .refl _) ..).balances
  | .runtimeActivationTimeout _, _ => (execRuntimeActivationTimeout_keeps (h := .refl _) ..).balances
  | .controllerHeartbeatMiss _, _ => (execControllerHeartbeatMiss_keeps (h := .refl _) ..).balances
  | .glazeSet _, _ => execGlazeSet_balances ..
  | .glazeRead _, _ => (execGlazeRead_keeps (h := .refl _) ..).balances
  | .twinDrain _, _ => (execTwinDrain_keeps (h := .refl _) ..).balances
  | .drainComplete _, _ => (execDrainComplete_keeps (h := .refl _) ..).balances
  | .twinRejoin _, _ => (execTwinRejoin_keeps (h := .refl _) ..).balances
  | .secQuote _, _ => (execSecQuote_keeps (h := .refl _) ..).balances
  | .secCertRead _, _ => (execSecCertRead_keeps (h := .refl _) ..).balances
  | .secExtend _, _ => (execSecExtend_keeps (h := .refl _) ..).balances
  | .secWrapOpen _, _ => (execSecWrapOpen_keeps (h := .refl _) ..).balances
  | .secKeySet _, _ => (execSecKeySet_keeps (h := .refl _) ..).balances
  | .secRekeyPrepare _, _ => (execSecRekeyPrepare_keeps (h := .refl _) ..).balances
  | .keyGraceExpiry _ _, _ => (execKeyGraceExpiry_keeps (h := .refl _) ..).balances
  | .laserInputRestored _ _, _ => (execLaserInputRestored_keeps (h := .refl _) ..).balances
  | .coolantOorClear, _ => (execCoolantOorClear_keeps (h := .refl _) ..).balances
  | .heatMismatchClear, _ => (execHeatMismatchClear_keeps (h := .refl _) ..).balances
  | .mgmtLinkUpChange _, _ => (execMgmtLinkUpChange_keeps (h := .refl _) ..).balances

/-- A step leaves the queue's rest, and keeps the form of memory and the balance of the glazed record, whichever command runs. -/
theorem step_balances {s t : State} (h : step s = .next t) :
    t.pending = s.pending.tail ∧ (Memory.wf s.mem → Memory.wf t.mem) ∧ (s.glazedOk → t.glazedOk) := by
  unfold step at h
  split at h
  next hq =>
    injection h with h
    subst h
    exact ⟨by rw [hq]; exact hq, id, id⟩
  next c rest hq =>
    rw [hq]
    exact (exec_balances c { s with pending := rest }).all t h

/-- Settles O48: a step that runs a command keeps the form as the command's meaning does, and a step that runs none leaves memory
alone. -/
theorem memoryStaysCanonical : Obligations.MemoryStaysCanonical := by
  intro s t hwf hstep
  obtain ⟨-, hmem, -⟩ := step_balances hstep
  exact hmem hwf

/-! ### The windows of the sites (R195) -/

section windows
variable {site o : Nat} (hs : site < 4608)
include hs

theorem columnAddr_bounds (ho : o < 0x400000) : columnBase ≤ columnAddr site o ∧ columnAddr site o < columnEnd := by
  unfold columnAddr columnBase columnEnd
  omega

theorem storeAddr_bounds (ho : o < 0x80000) : storeBase ≤ storeAddr site o ∧ storeAddr site o < storeEnd := by
  unfold storeAddr storeBase storeEnd
  omega

end windows

theorem winOf_of_column {a : Nat} (hlo : columnBase ≤ a) (hhi : a < columnEnd) : winOf a = some (.column, columnEnd) := by
  have hlin : linearBase < columnBase := by decide
  rw [winOf, if_neg (by omega), if_neg (by omega), if_pos hhi]

theorem winOf_of_store {a : Nat} (hlo : storeBase ≤ a) (hhi : a < storeEnd) : winOf a = some (.store, storeEnd) := by
  have hlin : linearBase < columnBase ∧ columnBase < columnEnd ∧ columnEnd ≤ storeBase := by decide
  rw [winOf, if_neg (by omega), if_neg (by omega), if_neg (by omega), if_pos ⟨hlo, hhi⟩]

theorem siteOfAddr_columnAddr {site o : Nat} (hs : site < 4608) (ho : o < 0x400000) : siteOfAddr (columnAddr site o) = site := by
  have hb := columnAddr_bounds hs ho
  have hend : columnEnd ≤ storeBase := by decide
  rw [siteOfAddr, if_pos (by omega), columnAddr]
  omega

theorem siteOfAddr_storeAddr {site o : Nat} (hs : site < 4608) (ho : o < 0x80000) : siteOfAddr (storeAddr site o) = site := by
  have hb := storeAddr_bounds hs ho
  rw [siteOfAddr, if_neg (by omega), storeAddr]
  omega

/-- Settles O53: the window of each address, and the quotient that gives back its site. -/
theorem siteWindows : Obligations.SiteWindows := by
  refine fun site o hs => ⟨fun ho => ⟨rfl, ?_, siteOfAddr_columnAddr hs ho⟩, fun ho => ⟨rfl, ?_, siteOfAddr_storeAddr hs ho⟩⟩
  · obtain ⟨hlo, hhi⟩ := columnAddr_bounds hs ho
    exact winOf_of_column hlo hhi
  · obtain ⟨hlo, hhi⟩ := storeAddr_bounds hs ho
    exact winOf_of_store hlo hhi

/-! ### The hashed window (R196, R197) -/

/-- Channel and offset are read back from a linear stack address. -/
theorem linOf_inj {n n' c c' : Nat} (hc : c < 0x80000000) (hc' : c' < 0x80000000) (h : linOf n c = linOf n' c') : n = n' ∧ c = c' := by
  unfold linOf at h
  omega

theorem bits_nine_four (v : Nat) : bits v 9 4 = v / 512 % 16 := by
  simp [bits, Nat.shiftRight_eq_div_pow]

/-- Channel and block in its frame of block `u` of granule `g` under a key. -/
theorem hashBlock_eq (key g : Nat) {u : Nat} (hu : u < 8192) : hashBlock key g u =
    (u % 512 ^^^ mix (key ^^^ g) % 512, u / 512 ^^^ mix (key ^^^ g) / 512 % 16) := by
  rw [hashBlock, bits_nine_four, bits_nine_four, Nat.mod_eq_of_lt (show u / 512 < 16 by omega)]

namespace State

theorem keyOf_of_owned {s : State} {g : Nat} (h : (s.owner g).assigned = true) :
    s.keyOf g = (s.saggar (s.owner g).saggar).hashKey.toNat := by
  simp [keyOf, granOwner, h]

theorem keyOf_of_unassigned {s : State} {g : Nat} (h : (s.owner g).assigned = false) : s.keyOf g = 0 := by
  simp [keyOf, granOwner, h]

theorem frameAt_of_none_retired {s : State} (h : s.retiredRuns = []) (n g q b : Nat) :
    s.frameAt n g q b = linOf n (g * 4096 + q * 256 + b) := by
  simp [frameAt, h]

end State

/-- A second xor with the same number undoes the first. -/
theorem xor_undoes_xor (a k : Nat) : a ^^^ k ^^^ k = a := by
  rw [Nat.xor_assoc, Nat.xor_self, Nat.xor_zero]

theorem eq_of_xor_eq {a b k : Nat} (h : a ^^^ k = b ^^^ k) : a = b := by
  rw [← xor_undoes_xor a k, h, xor_undoes_xor]

/-- The block of 256 bytes, of the 16 of a channel's frame, that holds byte `b` of a granule under the hash `h` (R197). -/
def hashBlockOf (h b : Nat) : Nat := b / 256 / 512 ^^^ h / 512 % 16
/-- The channel that holds byte `b` of a granule under the hash `h` (R197). -/
def hashChannelOf (h b : Nat) : Nat := b / 256 % 512 ^^^ h % 512

theorem hashBlockOf_lt (h : Nat) {b : Nat} (hb : b < 0x200000) : hashBlockOf h b < 16 :=
  Nat.xor_lt_two_pow (n := 4) (by omega) (Nat.mod_lt _ (by decide))

/-- The byte of a granule that channel `n` holds at offset `o` of the granule's frame, under the hash `h`. -/
def unhash (h n o : Nat) : Nat := ((o / 256 ^^^ h / 512 % 16) * 512 + (n ^^^ h % 512)) * 256 + o % 256

theorem unhash_mod (h n o : Nat) : unhash h n o % 256 = o % 256 := by
  unfold unhash
  omega

section unhash
variable {n o : Nat} (hn : n < 512) (ho : o < 4096) (h : Nat)
include hn ho

theorem unhash_bounds : (n ^^^ h % 512) < 512 ∧ (o / 256 ^^^ h / 512 % 16) < 16 :=
  ⟨Nat.xor_lt_two_pow (n := 9) hn (Nat.mod_lt _ (by decide)), Nat.xor_lt_two_pow (n := 4) (by omega) (Nat.mod_lt _ (by decide))⟩

theorem unhash_lt : unhash h n o < 0x200000 := by
  obtain ⟨hc, hq⟩ := unhash_bounds hn ho h
  unfold unhash
  omega

theorem hashChannelOf_unhash : hashChannelOf h (unhash h n o) = n := by
  obtain ⟨hc, hq⟩ := unhash_bounds hn ho h
  have hu : unhash h n o / 256 % 512 = n ^^^ h % 512 := by
    unfold unhash
    omega
  rw [hashChannelOf, hu, xor_undoes_xor]

theorem hashBlockOf_unhash : hashBlockOf h (unhash h n o) = o / 256 := by
  obtain ⟨hc, hq⟩ := unhash_bounds hn ho h
  have hu : unhash h n o / 256 / 512 = o / 256 ^^^ h / 512 % 16 := by
    unfold unhash
    omega
  rw [hashBlockOf, hu, xor_undoes_xor]

end unhash

/-- The byte is known by its channel, its block in the frame and its place in the block. -/
theorem eq_of_hash_eq (h : Nat) {b b' : Nat} (hn : hashChannelOf h b = hashChannelOf h b') (hq : hashBlockOf h b = hashBlockOf h b')
    (ha : b % 256 = b' % 256) : b = b' := by
  have hn := eq_of_xor_eq hn
  have hq := eq_of_xor_eq hq
  omega

namespace State

section hashLin
variable {s : State} (hr : s.retiredRuns = []) (key : Nat) {g : Nat}
include hr

theorem hashLin_of_none_retired {b : Nat} (hb : b < 0x200000) : s.hashLin key (g * 0x200000 + b) =
    linOf (hashChannelOf (mix (key ^^^ g)) b) (g * 4096 + hashBlockOf (mix (key ^^^ g)) b * 256 + b % 256) := by
  have hg : (g * 0x200000 + b) / 0x200000 = g := by omega
  have hu : (g * 0x200000 + b) / 256 % 8192 = b / 256 := by omega
  have ha : (g * 0x200000 + b) % 256 = b % 256 := by omega
  rw [hashLin, hg, hu, ha, hashBlock_eq key g (by omega), frameAt_of_none_retired hr]
  rfl

theorem hashLin_unhash {n o : Nat} (hn : n < 512) (ho : o < 4096) :
    s.hashLin key (g * 0x200000 + unhash (mix (key ^^^ g)) n o) = linOf n (g * 4096 + o) := by
  have hc : g * 4096 + o / 256 * 256 + o % 256 = g * 4096 + o := by omega
  rw [hashLin_of_none_retired hr key (unhash_lt hn ho _), hashChannelOf_unhash hn ho, hashBlockOf_unhash hn ho, unhash_mod, hc]

variable (hg : g < 524288)
include hg

/-- Bytes of the window that share storage, under whatever keys: one channel, granule, block in the frame and place in the block. -/
theorem hashLin_inj {key' g' b b' : Nat} (hg' : g' < 524288) (hb : b < 0x200000) (hb' : b' < 0x200000)
    (h : s.hashLin key (g * 0x200000 + b) = s.hashLin key' (g' * 0x200000 + b')) :
    hashChannelOf (mix (key ^^^ g)) b = hashChannelOf (mix (key' ^^^ g')) b' ∧ g = g' ∧
      hashBlockOf (mix (key ^^^ g)) b = hashBlockOf (mix (key' ^^^ g')) b' ∧ b % 256 = b' % 256 := by
  have hq := hashBlockOf_lt (mix (key ^^^ g)) hb
  have hq' := hashBlockOf_lt (mix (key' ^^^ g')) hb'
  rw [hashLin_of_none_retired hr key hb, hashLin_of_none_retired hr key' hb'] at h
  obtain ⟨hn, hc⟩ := linOf_inj (by omega) (by omega) h
  exact ⟨hn, by omega, by omega, by omega⟩

theorem hashLin_injOn {b b' : Nat} (hb : b < 0x200000) (hb' : b' < 0x200000)
    (h : s.hashLin key (g * 0x200000 + b) = s.hashLin key (g * 0x200000 + b')) : b = b' := by
  obtain ⟨hn, -, hq, ha⟩ := hashLin_inj hr key hg hg hb hb' h
  exact eq_of_hash_eq _ hn hq ha

/-- Two granules never share storage, whatever their keys. -/
theorem granule_eq_of_hashLin_eq {key' g' b b' : Nat} (hg' : g' < 524288) (hb : b < 0x200000) (hb' : b' < 0x200000)
    (h : s.hashLin key (g * 0x200000 + b) = s.hashLin key' (g' * 0x200000 + b')) : g = g' := by
  obtain ⟨-, hgran, -, -⟩ := hashLin_inj hr key hg hg' hb hb' h
  exact hgran

end hashLin
end State

/-- Settles O51: with no channel retired a byte's channel, block and place in the block stand in its storage address, and each xor
with the hash undoes itself. -/
theorem hashedWindow : Obligations.HashedWindow :=
  ⟨fun _ _ => ⟨fun ha _ => State.keyOf_of_owned ha, State.keyOf_of_unassigned⟩,
    fun _ key _ hr hg => ⟨fun _ => State.hashLin_of_none_retired hr key, fun _ _ => State.hashLin_injOn hr key hg,
      fun _ _ hn ho => ⟨_, unhash_lt hn ho _, State.hashLin_unhash hr key hn ho⟩,
      fun _ _ _ _ => State.granule_eq_of_hashLin_eq hr key hg⟩,
    fun _ _ => rfl⟩

/-! ### Attach ports and the host's requests (R198, R201, R207, R208, R243) -/

namespace State

/-- Whom an access may reach does not rest on the upsets that storage has met. -/
theorem reach_strike (s : State) (x : Strikes) : (s.strike x).reach = s.reach := rfl

section serve
variable {s : State} {p : Packet} {au : Auth} {path : Nat} (x : Strikes)

/-- A write that may reach its address is stored, and answered with what became of it. -/
theorem serveAccess_of_write (hk : p.kind = .write) (h : s.reach au true p.address p.payload.length = 0) : s.serveAccess p au path =
    (s.store path p.src p.address p.payload).1.respond p (if (s.store path p.src p.address p.payload).2.isSome then 0x0520 else 0) [] := by
  simp [serveAccess, hk, h]

/-- A read that may reach its address is served with no event of a refusal (R198). -/
theorem attachServe_of_read {n len : Nat} (hk : p.kind = .read len)
    (h : s.reach { saggar := p.saggar, isPriv := p.priv, carve := false } false p.address len = 0) :
    s.attachServe n p x = (s.strike x).serveAccess p { saggar := p.saggar, isPriv := p.priv, carve := false } 3 := by
  have hread : (Kind.read len == Kind.write) = false := rfl
  simp [attachServe, hk, hread, h]

/-- A write that may reach its address is served with no event of a refusal (R198). -/
theorem attachServe_of_write {n : Nat} (hk : p.kind = .write)
    (h : s.reach { saggar := p.saggar, isPriv := p.priv, carve := false } true p.address p.payload.length = 0) :
    s.attachServe n p x = (s.strike x).serveAccess p { saggar := p.saggar, isPriv := p.priv, carve := false } 3 := by
  simp [attachServe, hk, h]

end serve

/-- Packet `p` stands at place `k` of the mesh: a request to the attach port of a channel, the oldest of its stream, and no command
to the channel's near-bank unit. -/
def attachHead (s : State) (k : Nat) (p : Packet) : Prop :=
  s.net[k]? = some p ∧ p.isResponse = false ∧ (4608 ≤ p.dest ∧ p.dest < 5120) ∧ p.kind ≠ .nbCommand ∧ s.meshHead k p = true

end State

theorem exec_attachPortRequest {k : Nat} (x : Strikes) {s : State} {p : Packet} (hp : s.attachHead k p) :
    exec (.attachPortRequest k x) s = if ({ s with net := dropAt s.net k } : State).stepsRun (p.dest - 4608) = true
      then .next ((({ s with net := dropAt s.net k } : State).strike x).modNb (p.dest - 4608) (fun u => { u with gapq := u.gapq ++ [p] }))
      else .next (({ s with net := dropAt s.net k } : State).attachServe (p.dest - 4608) p x) := by
  obtain ⟨hn, hr, hd, hk, hh⟩ := hp
  show execAttachPortRequest k x s = _
  simp [execAttachPortRequest, hn, hr, hd, hk, hh]

/-- An address that the host may not name: past the hashed window, or of a granule outside the carve-out (R201). -/
theorem not_carveout_of_outside {s : State} {a : Nat} (h : linearBase ≤ a ∨ (s.owner (a / 0x200000)).carveout = false) :
    (decide (a < linearBase) && (s.owner (a / 0x200000)).carveout) = false := by
  obtain h | h := h
  · simp [Nat.not_lt.mpr h]
  · simp [h]

section cxlMem
variable {m offset a : Nat} {s : State} (hm : m ∈ s.host.modules) (ho : offset % 64 = 0)
  (ha : a = firstCarveGranule s.fw.carveoutNow * 0x200000 + offset)
include hm ho ha

section served
variable (hwin : a < linearBase) (hc : (s.owner (a / 0x200000)).carveout = true) (hu : (s.owner (a / 0x200000)).assigned = false)
  (hf : a / 0x200000 ∉ s.filling) (hd : s.isDonor (a / 0x200000) = false) (data : List Byte) (x : Strikes)
include hwin hc hu hf hd

/-- A host write of one line in the carve-out. -/
theorem exec_cxlMemRequest_of_write (hl : data.length = 64) :
    exec (.cxlMemRequest m true offset data x) s = .next ((s.strike x).store 6 0xFFFF a data).1 := by
  show execCxlMemRequest m true offset data x s = _
  simp [execCxlMemRequest, hm, ho, ← ha, hwin, hc, hu, hf, hd, List.take_left' hl, -List.reduceReplicate]

/-- A host read of one line in the carve-out. -/
theorem exec_cxlMemRequest_of_read : exec (.cxlMemRequest m false offset data x) s =
    .next { ((s.strike x).load 6 0xFFFF a 64).1 with host := { ((s.strike x).load 6 0xFFFF a 64).1.host with
      lastRead := if ((s.strike x).load 6 0xFFFF a 64).2.1.isSome then none else some ((s.strike x).load 6 0xFFFF a 64).2.2 } } := by
  show execCxlMemRequest m false offset data x s = _
  simp [execCxlMemRequest, hm, ho, ← ha, hwin, hc, hu, hf, hd]

end served

section outside
variable (hout : linearBase ≤ a ∨ (s.owner (a / 0x200000)).carveout = false) (data : List Byte) (x : Strikes) {u : State}
  (hu : u = s.record 0x3010 5 m (s.granOwner (a / 0x200000)) 0 (p8 a ++ p4 ((s.granOwner (a / 0x200000)).getD 0)))
include hout hu

/-- A host write outside the carve-out is dropped, with event 0x3010. -/
theorem exec_cxlMemRequest_of_write_outside : exec (.cxlMemRequest m true offset data x) s = .next u := by
  have hno := not_carveout_of_outside hout
  show execCxlMemRequest m true offset data x s = _
  simp [execCxlMemRequest, hm, ho, ← ha, hno, ← hu]

/-- A host read outside the carve-out gives poison, with event 0x3010. -/
theorem exec_cxlMemRequest_of_read_outside : exec (.cxlMemRequest m false offset data x) s =
    .next { u with host := { u.host with lastRead := none } } := by
  have hno := not_carveout_of_outside hout
  show execCxlMemRequest m false offset data x s = _
  simp [execCxlMemRequest, hm, ho, ← ha, hno, ← hu]

end outside
end cxlMem

/-! ### Refresh (R209 to R211) -/

section refresh
variable {b : Nat} {s : State} (hb : b < 36)
include hb

theorem exec_columnRefresh :
    exec (.columnRefresh b) s = .next (s.setBlock b { s.block b with refreshes := (s.block b).refreshes + 1 }) := if_pos hb

section hot
variable {temp : Nat} (ht : 1360 < temp)
include ht

theorem exec_refreshRateChange_layer0 (hd : (s.block b).double0 = false) : exec (.refreshRateChange b 0 temp) s =
    .next ((s.setBlock b { s.block b with double0 := true }).recordFw 3 0x3030 none 0 (p4 b ++ p4 0 ++ p4 temp)) := by
  show execRefreshRateChange b 0 temp s = _
  simp [execRefreshRateChange, State.doubleRate, hb, ht, hd]

theorem exec_refreshRateChange_layer1 (hd : (s.block b).double1 = false) : exec (.refreshRateChange b 1 temp) s =
    .next ((s.setBlock b { s.block b with double1 := true }).recordFw 3 0x3030 none 0 (p4 b ++ p4 1 ++ p4 temp)) := by
  show execRefreshRateChange b 1 temp s = _
  simp [execRefreshRateChange, State.doubleRate, hb, ht, hd]

end hot

section cool
variable (hk : s.thermal.kilnStale = false)
include hk

theorem exec_refreshNormalReturn_layer0 (hd : (s.block b).double0 = true) : exec (.refreshNormalReturn b 0) s =
    .next ((s.setBlock b { s.block b with double0 := false }).recordFw 3 0x3031 none 0 []) := by
  show execRefreshNormalReturn b 0 s = _
  simp [execRefreshNormalReturn, hb, hk, hd]

theorem exec_refreshNormalReturn_layer1 (hd : (s.block b).double1 = true) : exec (.refreshNormalReturn b 1) s =
    .next ((s.setBlock b { s.block b with double1 := false }).recordFw 3 0x3031 none 0 []) := by
  show execRefreshNormalReturn b 1 s = _
  simp [execRefreshNormalReturn, hb, hk, hd]

end cool
end refresh

/-- Settles O18, from what each of the six commands answers. -/
theorem stackMemoryAndRefresh : Obligations.StackMemoryAndRefresh := by
  refine ⟨?_, fun m offset data x s a hm ho ha => ⟨fun hwin hc hu hf hd =>
      ⟨exec_cxlMemRequest_of_write hm ho ha hwin hc hu hf hd data x,
        _, exec_cxlMemRequest_of_read hm ho ha hwin hc hu hf hd data x, rfl, rfl⟩,
      fun hout => ⟨_, rfl, exec_cxlMemRequest_of_write_outside hm ho ha hout data x rfl,
        exec_cxlMemRequest_of_read_outside hm ho ha hout data x rfl⟩⟩,
    fun b s hb => exec_columnRefresh hb,
    fun b temp s hb ht => ⟨exec_refreshRateChange_layer0 hb ht, exec_refreshRateChange_layer1 hb ht⟩,
    fun b s hb hk => ⟨exec_refreshNormalReturn_layer0 hb hk, exec_refreshNormalReturn_layer1 hb hk⟩, fun _ _ _ => rfl⟩
  rintro k x s t p hn hr hlo hhi hh rfl
  have hhead : p.kind ≠ .nbCommand → s.attachHead k p := fun hk => ⟨hn, hr, ⟨hlo, hhi⟩, hk, hh⟩
  refine ⟨fun n hk hidle hreach => ?_, fun hk hidle hreach => ?_, fun hk hrun => ?_⟩
  · rw [exec_attachPortRequest x (hhead (by simp [hk])), if_neg (by simp [hidle]), State.attachServe_of_read x hk hreach]
  · rw [exec_attachPortRequest x (hhead (by simp [hk])), if_neg (by simp [hidle]), State.attachServe_of_write x hk hreach,
      State.serveAccess_of_write hk (by rw [State.reach_strike]; exact hreach)]
  · rw [exec_attachPortRequest x (hhead hk), if_pos hrun]

/-! ### Sluices (R213 to R219, R221, R224 to R226, R229, R337, R343, R537) -/

namespace State

/-- A descriptor that has been read is consumed, and its sluice runs it from its first element with its saggar's epochs as its view
(R65, R214, R221). -/
def takeDesc (u : State) (n ring sag : Nat) (bs : List Byte) : State :=
  let v := u.modRing ring (fun r => { r with head := (r.head + 2) % 2 ^ 32 })
  v.modSluice n (fun y => { y with
    state := .running, desc := bs, progress := 0, dflags := Flags.none, unread := false, view := v.epochView sag })

/-- A descriptor that has ended leaves its sluice idle, and counted (R218). -/
theorem descDone_sluice (s : State) (n tag status progress flags left : Nat) (irq : Bool) :
    (s.descDone n tag status progress flags left irq).sluice n = { s.sluice n with
      state := .idle, doneCount := ((s.sluice n).doneCount + 1) % 2 ^ 32, desc := [], unread := false, dflags := Flags.none } :=
  sluice_setSluice_same s n _

/-- The end of a descriptor adds one completion to those that wait (R218, R337). -/
theorem descDone_compls (s : State) (n tag status progress flags left : Nat) (irq : Bool) : ∃ k : Compl,
    (s.descDone n tag status progress flags left irq).compls = s.compls ++ [k] ∧ k.desc = true ∧ k.status = status ∧ k.tag = tag ∧
      k.progress = progress % 2 ^ 32 ∧ k.r1 = flags ∧ k.r2 = left % 2 ^ 32 :=
  ⟨_, rfl, rfl, rfl, rfl, rfl, rfl, rfl⟩

section descDone
variable (s : State) (n tag status progress flags left : Nat) (irq : Bool)
@[simp] theorem descDone_mem : (s.descDone n tag status progress flags left irq).mem = s.mem := rfl
@[simp] theorem descDone_rings : (s.descDone n tag status progress flags left irq).rings = s.rings := rfl
end descDone

/-- What the moves of a descriptor leave in its sluice's registers: the progress, and the flags. -/
def noteMoves (m : Move) (n progress : Nat) : State :=
  m.s.modSluice n (fun u => { u with progress := progress, flags := u.flags.or m.flags, dflags := m.flags })

section noteMoves
variable (m : Move) (n progress : Nat)
@[simp] theorem noteMoves_mem : (noteMoves m n progress).mem = m.s.mem := rfl
@[simp] theorem noteMoves_rings : (noteMoves m n progress).rings = m.s.rings := rfl
@[simp] theorem noteMoves_compls : (noteMoves m n progress).compls = m.s.compls := rfl
end noteMoves

theorem noteMoves_doneCount (m : Move) (n progress : Nat) : ((noteMoves m n progress).sluice n).doneCount = (m.s.sluice n).doneCount := by
  rw [noteMoves, modSluice_eq, sluice_setSluice_same]

end State

section start
variable {n : Nat} {x : Strikes} {s u : State} (hn : n < sluicesN) (hr : s.sluiceReady n = true) {bs : List Byte}
include hn hr

theorem exec_sluiceDescriptorStart_of_unread {a : Nat} (hl : (s.strike x).load 7 (State.sluiceSrc n)
      (State.slotAddr (s.ring (s.sluice n).ring) (s.ring (s.sluice n).ring).head 64) 128 = (u, some a, bs)) :
    exec (.sluiceDescriptorStart n x) s = .next ((u.modSluice n (fun y => { y with
      unread := true, desc := [], dflags := Flags.none })).haltSluice n 0x0520 a 0) := by
  show execSluiceDescriptorStart n x s = _
  simp [execSluiceDescriptorStart, hn, hr, hl]

theorem exec_sluiceDescriptorStart_of_read {v : State} (hl : (s.strike x).load 7 (State.sluiceSrc n)
      (State.slotAddr (s.ring (s.sluice n).ring) (s.ring (s.sluice n).ring).head 64) 128 = (u, none, bs))
    (hv : v = u.takeDesc n (s.sluice n).ring (s.sluice n).saggar bs) : exec (.sluiceDescriptorStart n x) s =
      if (Desc.of bs).type = 3 then .next (v.beginReshard n)
      else if v.descCheck (s.sluice n).saggar (Desc.of bs) ≠ 0 then
        .next (v.descDone n (Desc.of bs).tag (v.descCheck (s.sluice n).saggar (Desc.of bs)) 0 0 0 (Desc.of bs).irq)
      else .next v := by
  subst hv
  show execSluiceDescriptorStart n x s = _
  simp only [execSluiceDescriptorStart, hn, hr, hl, decide_true, Bool.and_self, if_true]
  rfl

end start

section running
variable {n : Nat} {s : State} (hs : (s.sluice n).state = .running)
include hs

theorem exec_sluiceDescriptorComplete_of_moved {m : Move} (hm : m = s.runDesc n) (hh : m.halt = none) (hstop : m.stop = none) :
    exec (.sluiceDescriptorComplete n) s = .next ((State.noteMoves m n (s.descTotals (s.sluice n).desc).1).descDone n
      (Desc.of (s.sluice n).desc).tag 0 (s.descTotals (s.sluice n).desc).1 m.flags.word (s.descTotals (s.sluice n).desc).2
      (Desc.of (s.sluice n).desc).irq) := by
  show execSluiceDescriptorComplete n s = _
  simp only [execSluiceDescriptorComplete, hs, ← hm, hh, hstop]
  rfl

theorem exec_sluiceHalt_of_failed {st a e : Nat} {x : Strikes} {m : Move} (hm : m = (s.strike x).runDesc n)
    (hh : m.halt = some (st, a, e)) (ht : (Desc.of (s.sluice n).desc).type ≠ 3) : exec (.sluiceHalt n x) s =
      .next ((m.s.modSluice n (fun u => { u with flags := u.flags.or m.flags, dflags := m.flags })).haltSluice
        n st a (State.haltProgress m e)) := by
  show execSluiceHalt n x s = _
  simp [execSluiceHalt, hs, ← hm, hh, ht]

end running

/-- The operator may command every saggar's sluices, a saggar its own. -/
theorem Cmd.not_foreign {c : Cmd} {sag : Nat} (h : c.oper = true ∨ sag = c.saggar) : (!c.oper && sag != c.saggar) = false := by
  obtain h | h := h <;> simp [h]

section resume
variable {id n : Nat} {s u : State} {c : Cmd} (hc : s.ready id 0x210 = some c) (hn : n = c.p 0 2 % 1024)
  (hv : (s.sluice n).valid = true) (hs : (s.sluice n).state = .halted) (ho : c.oper = true ∨ (s.sluice n).saggar = c.saggar)
  (hu : u = s.recordFw 3 0x3021 (some (s.sluice n).saggar) 0 (p4 n ++ p4 (c.p 2 1)))
include hc hn hv hs ho hu

/-- Mode 1 ends the halted descriptor. -/
theorem exec_sluiceResume_of_end (hm : c.p 2 1 = 1) :
    exec (.sluiceResume id) s = .next ((u.endHalted n).finish id 0 Result.zero) := by
  have hown := Cmd.not_foreign ho
  show execSluiceResume id s = _
  simp [execSluiceResume, hc, ← hn, hv, hs, hm, hown, check, lowest, hu]

/-- Mode 0 of a halt before the descriptor was read: the sluice reads it again (R537). -/
theorem exec_sluiceResume_of_unread (hm : c.p 2 1 = 0) (hr : (s.sluice n).unread = true) : exec (.sluiceResume id) s =
    .next (((u.modRing (s.sluice n).ring (fun r => { r with halted := false })).modSluice n
      (fun y => { y with state := .idle, unread := false })).finish id 0 Result.zero) := by
  have hown := Cmd.not_foreign ho
  show execSluiceResume id s = _
  simp [execSluiceResume, hc, ← hn, hv, hs, hm, hown, hr, check, lowest, hu]

/-- Mode 0 of a halted descriptor: it runs again from where its retry starts, with a new view of the epochs (R225). -/
theorem exec_sluiceResume_of_retry {v : State} (hm : c.p 2 1 = 0) (hr : (s.sluice n).unread = false)
    (ht : (Desc.of (s.sluice n).desc).type ≠ 3) (hw : v = u.modRing (s.sluice n).ring (fun r => { r with halted := false })) :
    exec (.sluiceResume id) s = .next ((v.modSluice n (fun y => { y with
      state := .running, progress := retryFrom y.desc y.progress, view := v.epochView y.saggar })).finish id 0 Result.zero) := by
  have hown := Cmd.not_foreign ho
  show execSluiceResume id s = _
  simp [execSluiceResume, hc, ← hn, hv, hs, hm, hown, hr, ht, check, lowest, hu, hw]

end resume

theorem exec_sluiceRewetDone_of_inReset {n : Nat} {s : State} (h : (s.sluice n).state = .inReset) :
    exec (.sluiceRewetDone n) s = .next (((s.returnSluice n).sluiceReturned n).settleResets) := if_pos h

/-- Settles O20, from what each of the five commands answers and what an ended descriptor leaves in its sluice. -/
theorem sluicesRunDescriptors : Obligations.SluicesRunDescriptors := by
  refine ⟨?_, ?_, fun n st a e x s m hs hm hh ht => exec_sluiceHalt_of_failed hs hm hh ht,
    fun id s u c n hc hn hv hs ho hu => ⟨exec_sluiceResume_of_end hc hn hv hs ho hu,
      exec_sluiceResume_of_unread hc hn hv hs ho hu,
      fun hm hr ht => ⟨_, rfl, exec_sluiceResume_of_retry hc hn hv hs ho hu hm hr ht rfl⟩⟩,
    fun n s => exec_sluiceRewetDone_of_inReset⟩
  · rintro n x s u r hn hr rfl
    refine ⟨fun bs hl => ?_, fun a bs hl => exec_sluiceDescriptorStart_of_unread hn hr hl⟩
    have hrun := exec_sluiceDescriptorStart_of_read hn hr hl rfl
    refine ⟨u.takeDesc n (s.sluice n).ring (s.sluice n).saggar bs, rfl, fun h3 => ?_, fun h3 hok => ?_, fun st h3 hst hbad => ?_⟩
    · rw [hrun, if_pos h3]
    · rw [hrun, if_neg h3, if_neg (not_not_intro hok)]
    · subst hst
      rw [hrun, if_neg h3, if_pos hbad]
  · intro n s m hs hm hh hstop
    obtain ⟨k, hk, hfields⟩ := State.descDone_compls (State.noteMoves m n (s.descTotals (s.sluice n).desc).1) n
      (Desc.of (s.sluice n).desc).tag 0 (s.descTotals (s.sluice n).desc).1 m.flags.word (s.descTotals (s.sluice n).desc).2
      (Desc.of (s.sluice n).desc).irq
    obtain ⟨hdesc, hstatus, htag, hprogress, hflags, hleft⟩ := hfields
    refine ⟨_, k, exec_sluiceDescriptorComplete_of_moved hs hm hh hstop, ?_, ?_, ?_, hdesc, hstatus, htag, hprogress, hflags, hleft,
      ?_, ?_⟩
    · rw [State.descDone_sluice]
    · rw [State.descDone_sluice, State.noteMoves_doneCount]
    · rw [hk, State.noteMoves_compls]
    · rw [State.descDone_mem, State.noteMoves_mem]
    · rw [State.descDone_rings, State.noteMoves_rings]

end Sys2Proof.Machine
end

section
/-! SUPPORT. The claims about the KV services, of the family 09_attention_and_kv. -/
namespace Sys2Proof.Machine
open Sys2Proof

/-! ### Acceptance of a KV service (R262, R263, R279 to R281) -/

section queue
variable {id op : Nat} {w : Bool} {s : State} {k : Cmd} (hk : s.ready id op = some k)
include hk

theorem State.kvQueue_of_accepted (he : s.sluiceEngine k = 0) : s.kvQueue id op w =
    ({ s with kvs := s.kvs ++ [(id, s.kvPages k, w)] }).setPhase id .queued := by
  simp [State.kvQueue, hk, he]

theorem State.kvQueue_of_refused (he : s.sluiceEngine k ≠ 0) : s.kvQueue id op w = s.refuse id (s.sluiceEngine k) := by
  simp [State.kvQueue, hk, he]

end queue

/-- The five services are one queueing, told apart by their opcode and by whether they write the pages they name. -/
theorem exec_kvService_eq_kvQueue {id op : Nat} {w : Bool} {c : Instr} (s : State)
    (h : (c, op, w) ∈ [(Instr.kvAppend id, 0x400, true), (.kvEvict id, 0x401, true), (.kvStage id, 0x402, false),
      (.kvScore id, 0x404, true), (.kvAccept id, 0x405, true)]) : exec c s = .next (s.kvQueue id op w) := by
  simp only [List.mem_cons, Prod.mk.injEq, List.not_mem_nil, or_false] at h
  obtain ⟨rfl, rfl, rfl⟩ | ⟨rfl, rfl, rfl⟩ | ⟨rfl, rfl, rfl⟩ | ⟨rfl, rfl, rfl⟩ | ⟨rfl, rfl, rfl⟩ := h <;> rfl

/-! ### The run of a queued KV service (R282) -/

/-- What the service of a command with this opcode, one of the five, does on its sluice. -/
def kvServed (x : Slx) (opcode desc : Nat) : Served :=
  if opcode = 0x400 then kvAppend x desc else if opcode = 0x401 then kvEvict x desc
  else if opcode = 0x402 then kvStage x desc else if opcode = 0x404 then kvScore x desc else kvAccept x desc

/-- A service listed with its opcode is the one that the opcode selects. -/
theorem kvServed_of_mem {x : Slx} {opcode desc : Nat} {r : Served}
    (h : (opcode, r) ∈ [(0x400, kvAppend x desc), (0x401, kvEvict x desc), (0x402, kvStage x desc), (0x404, kvScore x desc),
      (0x405, kvAccept x desc)]) : opcode ∈ [0x400, 0x401, 0x402, 0x404, 0x405] ∧ kvServed x opcode desc = r := by
  simp only [List.mem_cons, Prod.mk.injEq, List.not_mem_nil, or_false] at h
  obtain ⟨rfl, rfl⟩ | ⟨rfl, rfl⟩ | ⟨rfl, rfl⟩ | ⟨rfl, rfl⟩ | ⟨rfl, rfl⟩ := h <;> simp [kvServed]

section start
variable {id : Nat} {s : State} {k : Cmd} (hk : s.cmd? id = some k) (he : s.sluiceEngine k = 0)
include hk he

theorem exec_kvServiceStart_of_free {r : Served} (hp : k.phase = .queued)
    (hop : k.opcode ∈ [0x400, 0x401, 0x402, 0x404, 0x405]) (hs : s.sluiceFree (k.p 0 2 % 1024) id = true)
    (hf : s.kvFree id = true)
    (hr : kvServed { s := s, n := k.p 0 2 % 1024, sag := k.saggar, fail := 0 } k.opcode (k.addr 8) = r) :
    exec (.kvServiceStart id) s = .next (({ r.x.s with kvs := r.x.s.kvs.filter (fun q => q.1 != id) }).finish id r.status r.r) := by
  subst hr
  have hgo : ¬ (k.phase ≠ .queued ∨ k.opcode ∉ [0x400, 0x401, 0x402, 0x404, 0x405]) :=
    not_or.mpr ⟨not_not_intro hp, not_not_intro hop⟩
  show execKvServiceStart id s = _
  simp only [execKvServiceStart, hk, if_neg hgo, he, ne_eq, not_true_eq_false, if_false, hs, hf, Bool.and_self, if_true]
  rfl

/-- Whatever its phase and its sluice, a service waits while an earlier one conflicts with it. -/
theorem exec_kvServiceStart_of_conflict (hf : s.kvFree id = false) : exec (.kvServiceStart id) s = .next s := by
  show execKvServiceStart id s = _
  simp [execKvServiceStart, hk, he, hf]

end start

/-- Settles O23, from what each command answers on its branches. -/
theorem kvServices : Obligations.KvServices := by
  refine ⟨fun id op w c s k hc hk => ?_, fun id s k x r hk hp he hs hf hx hr => ?_,
    fun id s k hk he hf => exec_kvServiceStart_of_conflict hk he hf⟩
  · rw [exec_kvService_eq_kvQueue s hc]
    exact ⟨fun he => by rw [State.kvQueue_of_accepted hk he],
      fun he => by rw [State.kvQueue_of_refused hk he]⟩
  · subst hx
    obtain ⟨hop, hserved⟩ := kvServed_of_mem hr
    exact exec_kvServiceStart_of_free hk he hp hop hs hf hserved

end Sys2Proof.Machine
end

section
/-! SUPPORT. The claims about the queue, command flow, the end of commands and settings, of the family 11_host_interface_commands. -/
namespace Sys2Proof.Machine
open Sys2Proof

/-! ### The queue of waiting commands (R334, R335) -/

/-- Settles O47: what every step leaves of the queue is the first part of `step_balances`. -/
theorem stepTakesTheFront : Obligations.StepTakesTheFront := by
  intro s t hstep
  obtain ⟨hqueue, -, -⟩ := step_balances hstep
  exact hqueue

/-- Settles O1: `step` is `exec` on a queue that is not empty. -/
theorem stepRunsFrontCommand : Obligations.StepRunsFrontCommand := fun _ _ _ => rfl

/-! ### Fetching (R325, R332, R333, R537) -/

namespace State

/-- The completion of the next entry of ring `n` where it reads uncorrectable (R537). -/
def unreadCompl (s : State) (n : Nat) : Compl :=
  let a := slotAddr (s.ring n) (s.ring n).head 64
  { target := .ring (s.ring n).pair, cmd := none, tag := 0, status := 0x0520, progress := 0, r0 := a % 2 ^ 32, r1 := a / 2 ^ 32,
    r2 := 0, r3 := 0, ring := n, irq := false, opcode := 0, desc := false, job := 0 }

/-- The state with an entry of ring `n` consumed: HEAD has moved on, and a tenant's turn is noted (R333). -/
def entryTaken (u : State) (n : Nat) (r : Ring) : State :=
  let v := u.setRing n { r with head := (r.head + 1) % 2 ^ 32 }
  if r.oper then v else v.noteTurn r.saggar n

section entryTaken
variable (u : State) (n : Nat) {r : Ring}

theorem entryTaken_of_oper (h : r.oper = true) : u.entryTaken n r = u.setRing n { r with head := (r.head + 1) % 2 ^ 32 } := if_pos h

theorem entryTaken_of_tenant (h : r.oper = false) :
    u.entryTaken n r = (u.setRing n { r with head := (r.head + 1) % 2 ^ 32 }).noteTurn r.saggar n := if_neg (by simp [h])

/-- Beside the ring's HEAD, an entry taken changes only whose turn it was. -/
theorem entryTaken_turn (r : Ring) : u.entryTaken n r = { u.setRing n { r with head := (r.head + 1) % 2 ^ 32 } with
    host := { u.host with lastSaggar := (u.entryTaken n r).host.lastSaggar, lastRing := (u.entryTaken n r).host.lastRing } } := by
  rw [entryTaken]
  dsimp only
  split <;> rfl

end entryTaken
end State

section fetch
variable {n : Nat} {x : Strikes} {s u : State} {bs : List Byte} (hm : s.mayFetch n = true)
include hm

theorem exec_commandFetch_of_read
    (hl : (s.strike x).load 7 0xFFFF (State.slotAddr (s.ring n) (s.ring n).head 64) 64 = (u, none, bs)) :
    exec (.commandFetch n x) s = .next ((u.entryTaken n (s.ring n)).admitCmd
      ((u.entryTaken n (s.ring n)).cmdOf (.ring n) (s.ring n).oper bs) (s.ring n).saggar) := by
  show execCommandFetch n x s = _
  simp only [execCommandFetch, hm, hl]
  rfl

theorem exec_commandFetch_of_unread {a : Nat}
    (hl : (s.strike x).load 7 0xFFFF (State.slotAddr (s.ring n) (s.ring n).head 64) 64 = (u, some a, bs)) :
    exec (.commandFetch n x) s = .next { u.entryTaken n (s.ring n) with
      compls := (u.entryTaken n (s.ring n)).compls ++ [s.unreadCompl n]
      host := { (u.entryTaken n (s.ring n)).host with
        refused := min 0xFFFFFFFF ((u.entryTaken n (s.ring n)).host.refused + 1) } } := by
  show execCommandFetch n x s = _
  simp only [execCommandFetch, hm, hl]
  rfl

end fetch

/-! ### Completions and interrupts (R338, R342, R345) -/

namespace State

/-- The state with completion `k` written into the next slot of ring `n`: TAIL has moved on, no stall is left, and the completion
and its command are gone (R338). -/
def complPut (s : State) (n k : Nat) (c : Compl) : State :=
  ((s.store 7 0xFFFF (slotAddr (s.ring n) (s.ring n).tail 32) (complBytes c (phaseOf (s.ring n).tail (s.ring n).entries))).1.modRing n
    (fun x => { x with
      tail := (x.tail + 1) % 2 ^ 32, stalled := false, stallSeen := false, slotPoisoned := false, slotSeen := false })).complGone k c

section writeCompl
variable {s : State} {n : Nat} (k : Nat) {c : Compl} (hin : (s.ring n).inReset = false) (hrole : (s.ring n).role = .completion)
include hin hrole

theorem writeCompl_of_full (h : (s.ring n).entries ≤ ringGap (s.ring n).tail (s.ring n).head) :
    s.writeCompl n k c = s.stallRing n false := by
  simp [writeCompl, hin, hrole, h]

theorem writeCompl_of_room (h : ringGap (s.ring n).tail (s.ring n).head < (s.ring n).entries)
    (hgood : s.slotBad (slotAddr (s.ring n) (s.ring n).tail 32) = false) (hirq : c.irq = false) :
    s.writeCompl n k c = s.complPut n k c := by
  simp [writeCompl, hin, hrole, Nat.not_le.mpr h, hgood, hirq, complPut]

end writeCompl
end State

/-- The first completion that waits for a ring is the one to be written there. -/
theorem exec_completionWrite_of_oldest {k n : Nat} {s : State} {c : Compl} (hc : s.compls[k]? = some c) (ht : c.target = .ring n)
    (hold : ∀ x ∈ s.compls.take k, x.target ≠ .ring n) : exec (.completionWrite k) s = .next (s.writeCompl n k c) := by
  have hfirst : (s.compls.take k).any (fun x => x.target == .ring n) = false := by
    rw [List.any_eq_false]
    exact fun x hx => by simpa using hold x hx
  show execCompletionWrite k s = _
  simp only [execCompletionWrite, hc, ht, hfirst, Bool.false_eq_true, if_false]

theorem exec_completionSlotRetry_of_poisoned {n k : Nat} {s : State} {c : Compl} (hp : (s.ring n).slotPoisoned = true)
    (hf : s.compls.zipIdx.find? (fun p => p.1.target == .ring n) = some (c, k)) :
    exec (.completionSlotRetry n) s = .next (s.writeCompl n k c) := by
  show execCompletionSlotRetry n s = _
  simp only [execCompletionSlotRetry, hp, if_true, hf]

theorem exec_interruptCoalesceTimeout_of_due {n : Nat} {s : State} (hq : (s.ring n).irqPending ≠ 0)
    (hd : (s.ring n).irqSince + (s.ring n).coalUs ≤ s.nowUs) (hv : (s.ring n).vector ≠ 0) :
    exec (.interruptCoalesceTimeout n) s = .next ((s.setRing n { s.ring n with irqPending := 0 }).raiseVector (s.ring n).vector) := by
  show execInterruptCoalesceTimeout n s = _
  simp [execInterruptCoalesceTimeout, hq, hd, hv]

theorem exec_nop_of_ready {id : Nat} {s : State} {c : Cmd} (hc : s.ready id 0x000 = some c) :
    exec (.nop id) s = .next (s.finish id 0 Result.zero) := by
  show execNop id s = _
  simp only [execNop, hc]

/-- Settles O26, from what each of the six commands answers. -/
theorem commandFlow : Obligations.CommandFlow := by
  refine ⟨?_, ?_, fun n s hst hseen hdue => if_pos ⟨hst, hseen, hdue⟩,
    fun n k s c => exec_completionSlotRetry_of_poisoned, fun n s => exec_interruptCoalesceTimeout_of_due,
    fun id s c => exec_nop_of_ready⟩
  · rintro n x s u v r hm rfl rfl
    refine ⟨fun bs hl ho => ?_, ?_, fun a bs hl => ⟨_, s.unreadCompl n, exec_commandFetch_of_unread hm hl, ?_⟩⟩
    · rw [exec_commandFetch_of_read hm hl, State.entryTaken_of_oper u n ho, ho]
    · rintro bs _ hl ho rfl
      rw [exec_commandFetch_of_read hm hl, State.entryTaken_of_tenant u n ho, ho]
    · rw [State.entryTaken_turn]
      exact ⟨rfl, rfl, rfl, rfl, rfl, rfl, rfl, rfl⟩
  · rintro k n s c r hc ht hold rfl hin hrole
    rw [exec_completionWrite_of_oldest hc ht hold]
    refine ⟨fun hfull => by rw [State.writeCompl_of_full k hin hrole hfull], ?_⟩
    rintro _ hroom hgood hirq rfl
    rw [State.writeCompl_of_room k hin hrole hroom hgood hirq, State.complPut]

/-! ### The end of a command (R332, R334, R337, R338, R340) -/

/-- Where the first entry that satisfies `p` is replaced by another that does, the search finds that one. -/
theorem find?_replaceFirst {α : Type} {p : α → Bool} {l : List α} {a b : α} (h : l.find? p = some a) (hb : p b = true) :
    (replaceFirst p (fun _ => b) l).find? p = some b := by
  induction l with
  | nil => simp at h
  | cons x r ih =>
    cases hx : p x with
    | true => simp [replaceFirst, hx, hb]
    | false =>
      rw [List.find?_cons, hx] at h
      simpa [replaceFirst, hx] using ih h

namespace State

variable {s : State} {id : Nat} {c : Cmd}

theorem id_of_cmd? (h : s.cmd? id = some c) : c.id = id := by
  simpa using List.find?_some h

theorem cmd?_setCmd_same {d : Cmd} (h : s.cmd? id = some c) (hd : d.id = id) : (s.setCmd d).cmd? id = some d := by
  subst hd
  exact find?_replaceFirst h (beq_self_eq_true _)

/-- The completion that the end of a command leaves (Table 11-6). -/
def endCompl (s : State) (id : Nat) (c : Cmd) (status : Nat) (r : Result) : Compl :=
  { target := s.pairOf c.origin, cmd := some id, tag := c.tag, status := status, progress := r.progress, r0 := r.r0,
    r1 := r.r1, r2 := r.r2, r3 := r.r3, ring := c.ringNo, irq := c.irq, opcode := c.opcode, desc := false, job := c.job }

theorem finish_of_running (st : Nat) (r : Result) (h : s.cmd? id = some c) (hp : c.phase ≠ .ended) : s.finish id st r =
    { s.setCmd { c with phase := .ended } with compls := s.compls ++ [s.endCompl id c st r] } := by
  simp only [finish, h]
  exact if_neg hp

theorem finish_of_ended (st : Nat) (r : Result) (h : s.cmd? id = none ∨ ∃ c, s.cmd? id = some c ∧ c.phase = .ended) :
    s.finish id st r = s := by
  obtain h | ⟨c, h, hp⟩ := h
  · simp only [finish, h]
  · simp only [finish, h]
    exact if_pos hp

theorem cmd?_finish (st : Nat) (r : Result) (h : s.cmd? id = some c) (hp : c.phase ≠ .ended) :
    (s.finish id st r).cmd? id = some { c with phase := .ended } := by
  rw [finish_of_running st r h hp]
  have hid : c.id = id := id_of_cmd? h
  exact cmd?_setCmd_same h hid

end State

/-- Settles O27, from what `finish` does to a command that runs and to any other. -/
theorem commandsEndOnce : Obligations.CommandsEndOnce :=
  ⟨fun s id st r c h hp => ⟨s.endCompl id c st r, State.finish_of_running st r h hp, rfl, rfl, rfl, rfl, rfl, rfl, rfl, rfl, rfl, rfl,
      rfl, rfl, rfl, State.cmd?_finish st r h hp⟩,
    fun _ _ st r => State.finish_of_ended st r, State.finish_cmds, fun _ _ _ => rfl⟩

/-! ### Lowest statuses (R11) -/

/-- One step of `lowest`: the lower of two statuses, where 0 is a check that passes. -/
def lower (a b : Nat) : Nat := if b = 0 then a else if a = 0 then b else min a b

theorem lower_eq_zero_iff (a b : Nat) : lower a b = 0 ↔ a = 0 ∧ b = 0 := by
  unfold lower
  split
  · omega
  · split <;> omega

theorem lowest_eq_zero_iff (l : List Nat) : lowest l = 0 ↔ ∀ x ∈ l, x = 0 := by
  have hfold : ∀ a, l.foldl lower a = 0 ↔ a = 0 ∧ ∀ x ∈ l, x = 0 := by
    induction l with
    | nil => simp
    | cons b r ih => simp [ih, lower_eq_zero_iff, and_assoc]
  exact (hfold 0).trans (and_iff_right rfl)

/-! ### Transactions (R346 to R349) -/

/-- The transaction that CFG_BEGIN opens. -/
def newTxn (s : State) (c : Cmd) : Txn :=
  { id := nextTxnId s, saggar := c.saggar, oper := c.oper, session := State.sessionOf c, beganUs := s.nowUs,
    beganAt := s.host.commitSerial, entries := [], committing := false }

/-- The state with the transaction that CFG_BEGIN opens. -/
def txnBegun (s : State) (c : Cmd) : State :=
  { s with txns := s.txns ++ [newTxn s c], host := { s.host with nextTxn := nextTxnId s % 65535 + 1 } }

section cfgBegin
variable {id : Nat} {s : State} {c : Cmd} (hc : s.ready id 0x008 = some c)
include hc

theorem exec_cfgBegin_of_full (h : 64 ≤ s.txns.length) : exec (.cfgBegin id) s = .next (s.refuse id 0x0403) := by
  show execCfgBegin id s = _
  simp only [execCfgBegin, hc]
  exact if_pos h

theorem exec_cfgBegin_of_room (h : s.txns.length < 64) :
    exec (.cfgBegin id) s = .next ((txnBegun s c).finish id 0 (Result.w0 (nextTxnId s))) := by
  show execCfgBegin id s = _
  simp only [execCfgBegin, hc]
  exact if_neg (Nat.not_le.mpr h)

end cfgBegin

/-- A CFG_SET of an open transaction whose reading and whose entries pass every check stages them. -/
theorem exec_cfgSet_of_passed {id : Nat} {s u : State} {c : Cmd} {t : Txn} {checks : List Nat} {es : List CfgEntry}
    (hc : s.ready id 0x009 = some c) (ht : s.ownTxn c = some t) (hr : s.setEntries c = (u, checks, es)) (hread : lowest checks = 0)
    (hes : ∀ e ∈ es, lowest (State.entryCheck e t.oper c.saggar) = 0) (hlen : (es.foldl State.stageEntry t.entries).length ≤ 256) :
    exec (.cfgSet id) s = .next (({ u with txns := u.txns.map (fun (x : Txn) =>
        if x.id = c.txn then { x with entries := es.foldl State.stageEntry t.entries } else x) } : State).finish id 0
      (Result.w0 (es.foldl State.stageEntry t.entries).length)) := by
  have hpass : lowest ([check (some t).isNone 0x0401] ++ checks ++ es.flatMap (fun e => State.entryCheck e t.oper c.saggar) ++
      [check (decide (256 < (es.foldl State.stageEntry t.entries).length)) 0x0101]) = 0 := by
    have hlong : ¬ 256 < (es.foldl State.stageEntry t.entries).length := Nat.not_lt.mpr hlen
    simp only [lowest_eq_zero_iff, List.mem_append, List.mem_flatMap, List.mem_singleton] at hread hes ⊢
    rintro x (((rfl | hx) | ⟨e, he, hx⟩) | rfl)
    · rfl
    · exact hread x hx
    · exact hes e he x hx
    · simp [check, hlong]
  show execCfgSet id s = _
  simp only [execCfgSet, hc, ht, hr]
  exact if_neg (not_not_intro hpass)

/-- CFG_COMMIT and CFG_ABORT of a transaction that is not the sender's (R349, R403). -/
theorem exec_cfgEnd_of_foreign {id op : Nat} {i : Instr} {s : State} {c : Cmd}
    (hi : (i, op) ∈ [(Instr.cfgCommit id, 0x00A), (.cfgAbort id, 0x00B)]) (hc : s.ready id op = some c) (ht : s.ownTxn c = none) :
    exec i s = .next (s.refuse id 0x0401) := by
  simp only [List.mem_cons, Prod.mk.injEq, List.not_mem_nil, or_false] at hi
  obtain ⟨rfl, rfl⟩ | ⟨rfl, rfl⟩ := hi
  · show execCfgCommit id s = _
    simp only [execCfgCommit, hc, ht]
  · show execCfgAbort id s = _
    simp only [execCfgAbort, hc, ht]

theorem exec_cfgAbort_of_own {id : Nat} {s : State} {c : Cmd} {t : Txn} (hc : s.ready id 0x00B = some c) (ht : s.ownTxn c = some t) :
    exec (.cfgAbort id) s = .next ((s.dropTxn t.id).finish id 0 Result.zero) := by
  show execCfgAbort id s = _
  simp only [execCfgAbort, hc, ht]

/-- The commit of transaction `t` as CFG_COMMIT `id` puts it behind those that wait. -/
def newCommit (s : State) (id : Nat) (t : Txn) : Commit :=
  { cmd := id, txn := t.id, waitFor := [], sinceUs := s.nowUs, applied := false, waitedUs := 0, rewets := [] }

/-- The state with a commit behind those that wait, and its transaction no longer open. -/
def commitQueued (s : State) (id : Nat) (t : Txn) : State :=
  { s with
    txns := s.txns.map (fun (x : Txn) => if x.id = t.id then { x with committing := true } else x)
    commits := s.commits ++ [newCommit s id t] }

theorem exec_cfgCommit_of_own {id : Nat} {s : State} {c : Cmd} {t : Txn} (hc : s.ready id 0x00A = some c) (ht : s.ownTxn c = some t) :
    exec (.cfgCommit id) s = .next (if (s.setPhase id .running).commits.isEmpty then
      (commitQueued (s.setPhase id .running) id t).beginCommits 64 else commitQueued (s.setPhase id .running) id t) := by
  show execCfgCommit id s = _
  simp only [execCfgCommit, hc, ht]
  rfl

section cfgGet
variable {id : Nat} {s : State} {c : Cmd} (hc : s.ready id 0x00C = some c) (h0 : s.getCheck c = 0)
include hc h0

theorem exec_cfgGet_of_register {v : Nat} (hk : c.p 0 2 = 1) (hv : s.regRead (c.p 4 4) = some v) :
    exec (.cfgGet id) s = .next (s.finish id 0 (Result.wide v)) := by
  show execCfgGet id s = _
  simp [execCfgGet, hc, h0, hk, hv]

theorem exec_cfgGet_of_setting (hk : c.p 0 2 ≠ 1) :
    exec (.cfgGet id) s = .next (s.finish id 0 (Result.wide (s.getSetting (c.p 0 2) (c.p 4 4)))) := by
  show execCfgGet id s = _
  simp [execCfgGet, hc, h0, hk]

end cfgGet

theorem exec_transactionTimeout_of_due {n : Nat} {s : State} {t : Txn} (ht : s.txns.find? (fun x => x.id == n) = some t)
    (hopen : t.committing = false) (hdue : t.beganUs + 10000000 ≤ s.nowUs) :
    exec (.transactionTimeout n) s = .next ((s.dropTxn n).recordFw 1 0xB003 (some t.saggar) 0 (p4 n ++ p4 t.saggar)) := by
  show execTransactionTimeout n s = _
  simp only [execTransactionTimeout, ht]
  exact if_pos ⟨hopen, hdue⟩

/-! ### The first commit (R350, R351) -/

/-- The commit as the COMMIT_APPLY that applies its entries leaves it. -/
def appliedCommit (s : State) (k : Commit) (t : Txn) : Commit :=
  { k with applied := true, waitedUs := s.nowUs - k.sinceUs, rewets := s.commitRewets t.entries }

/-- The search for a commit's transaction, as the commands of the first commit write it. -/
theorem find?_txn_of_first {s : State} {k : Commit} {t : Txn} (ht : s.txns.find? (fun x => x.id == k.txn) = some t) :
    s.txns.find? (fun x => some x.id == (some k).map (·.txn)) = some t := ht

section firstCommit
variable {s : State} {k : Commit} {t : Txn} (hk : s.commits.head? = some k) (ht : s.txns.find? (fun x => x.id == k.txn) = some t)

include hk ht

section notApplied
variable (hnot : k.applied = false)
include hnot

theorem exec_commitApply_of_quiet {u : State} (bad : List Nat) (hquiet : k.waitFor.all s.quiescent = true)
    (hrelay : s.relayWaits t.entries = false) (hu : u = (s.applyEntries t.id k.waitFor t.entries).noteChanged t.entries) :
    exec (.commitApply k.cmd bad) s = if s.commitRewets t.entries = [] ∧ u.filling = [] then
        .next (((u.endFills []).endCommit (appliedCommit s k t) 0 (Result.w01 t.entries.length (s.nowUs - k.sinceUs))).beginCommits 64)
      else .next { u with commits := u.commits.map (fun x => if x.cmd = k.cmd then appliedCommit s k t else x) } := by
  subst hu
  show execCommitApply k.cmd bad s = _
  simp only [execCommitApply, hk, find?_txn_of_first ht, List.isEmpty_iff]
  rw [if_neg (not_not_intro rfl), if_neg (by simp [hnot]), if_pos ⟨hquiet, hrelay⟩]
  rfl

/-- A commit that waits longer than 10 s for what does not come fails (R351). -/
theorem exec_quiescenceTimeout_of_due (hdue : k.sinceUs + 10000000 ≤ s.nowUs)
    (hwait : k.waitFor.all s.quiescent = false ∨ s.relayWaits t.entries = true) :
    exec (.quiescenceTimeout k.cmd) s = .next (((s.recordFw 1 0xB004 none 0 (p4 t.id ++
      p8 ((k.waitFor.filter (fun g => !s.quiescent g)).foldl (fun a g => a + 2 ^ g) 0))).endCommit k 0x0402 Result.zero).beginCommits
        64) := by
  show execQuiescenceTimeout k.cmd s = _
  simp only [execQuiescenceTimeout, hk, find?_txn_of_first ht]
  exact if_pos ⟨trivial, hnot, hdue, hwait⟩

end notApplied

/-- Once every site of an applied commit has returned or failed its rewet, the row ends the fills and the commit. -/
theorem exec_commitApply_of_applied (bad : List Nat) (happ : k.applied = true) (hdone : k.rewets.any s.siteMayReturn = false) :
    exec (.commitApply k.cmd bad) s =
      .next (((s.endFills bad).endCommit k 0 (Result.w01 t.entries.length k.waitedUs)).beginCommits 64) := by
  show execCommitApply k.cmd bad s = _
  simp only [execCommitApply, hk, find?_txn_of_first ht]
  rw [if_neg (not_not_intro rfl), if_pos happ, if_neg (by simp [hdone])]

end firstCommit

/-- Settles O28, from what each of the eight commands answers. -/
theorem settingsTransactions : Obligations.SettingsTransactions := by
  refine ⟨fun id s c hc => ⟨exec_cfgBegin_of_full hc, fun h =>
      ⟨txnBegun s c, newTxn s c, exec_cfgBegin_of_room hc h, rfl, rfl, rfl, rfl, rfl, rfl, rfl, rfl⟩⟩,
    ?_, fun id op i s c => exec_cfgEnd_of_foreign, ?_, fun id s c t => exec_cfgAbort_of_own,
    fun id s c hc h0 => ⟨fun hk v => exec_cfgGet_of_register hc h0 hk, exec_cfgGet_of_setting hc h0⟩,
    fun s k t hk ht => ⟨?_, fun bad => exec_commitApply_of_applied hk ht bad, exec_quiescenceTimeout_of_due hk ht⟩,
    fun n s t => exec_transactionTimeout_of_due⟩
  · rintro id s u c t checks es _ hc ht hr hread hes rfl hlen
    exact exec_cfgSet_of_passed hc ht hr hread hes hlen
  · rintro id s _ c t _ hc ht rfl rfl
    exact exec_cfgCommit_of_own hc ht
  · rintro bad u _ hnot hquiet hrelay rfl hu
    rw [exec_commitApply_of_quiet hk ht hnot bad hquiet hrelay hu]
    exact ⟨fun hrewets hfills => if_pos ⟨hrewets, hfills⟩, fun hwait => if_neg (Classical.not_and_iff_not_or_not.mpr hwait)⟩

end Sys2Proof.Machine
end

section
/-! SUPPORT. The claims about control frames, optical links, pours, traffic between packages and the security commands, of the family
12_yilvan_fabric. -/
namespace Sys2Proof.Machine
open Sys2Proof

/-! ### Authentication of control frames (R376, R390, R391) -/

namespace State

/-- A counter that passed its window and was noted does not pass it again (R390). -/
theorem replayOk_replayNote_same {s : State} {k c : Nat} (h : s.replayOk k c = true) : (s.replayNote k c).replayOk k c = false := by
  simp only [replayOk, Bool.and_eq_true, decide_eq_true_eq] at h
  obtain ⟨hw, -⟩ := h
  have hseen : c ∈ (c :: (s.sec.replays.get (fun _ => { top := 0, seen := [] }) k).seen).filter (fun d =>
      decide (max (s.sec.replays.get (fun _ => { top := 0, seen := [] }) k).top c ≤ d + 1024)) :=
    List.mem_filter.mpr ⟨List.mem_cons_self, decide_eq_true (Nat.max_le.mpr ⟨hw, Nat.le_add_right c 1024⟩)⟩
  simp only [replayOk, replayNote, Tbl.get_put_same]
  rw [List.contains_iff_mem.mpr hseen, Bool.not_true, Bool.and_false]

/-- Where one key may have sealed a frame, its tag decides, and then its counter. -/
theorem authenticate_singleton (s : State) (port key id src c : Nat) (ok : Nat → Bool) : s.authenticate port [(key, id)] src c ok =
    if ok key = true then
      if s.replayOk (id * 32 + src) c then ((s.replayNote (id * 32 + src) c).portCount port cFramesRx 1, true)
      else (s.portCount port cReplay 1, false)
    else (s.authFail port, false) := by
  unfold authenticate
  cases h : ok key <;> simp [h]

theorem hear_of_not_up {s : State} {port : Nat} (type : Nat) (f : CtlFrame) (h : (s.port port).state ≠ .up) :
    s.hear port type f = (s, false) := if_pos (.inr h)

section up
variable {s : State} {port type : Nat} {f : CtlFrame} (hp : port < portsN) (hup : (s.port port).state = .up)
include hp hup

theorem hear_of_bad_crc (hcrc : f.crcOk = false) : s.hear port type f = (s.portCount port cCrcFail 1, false) := by
  rw [hear, if_neg (by simp [hup, Nat.not_le.mpr hp]), if_pos (by simp [hcrc])]

theorem hear_of_elsewhere (hcrc : f.crcOk = true) (hlt : f.type < 13) (hpos : f.dstPos ≠ s.pkg.posValue) (hall : f.dstPos ≠ 0xFF) :
    s.hear port type f = (s, false) := by
  rw [hear, if_neg (by simp [hup, Nat.not_le.mpr hp]), if_neg (by simp [hcrc, hlt])]
  by_cases ht : f.type = type
  · rw [if_neg (not_not_intro ht), if_pos ⟨hpos, fun h => hall h.2⟩]
  · rw [if_pos ht]

/-- A frame of the type expected, for this package and from the port's own number on its pond, is left to its key and its
counter (R376). -/
theorem hear_of_addressed (hcrc : f.crcOk = true) (ht : f.type = type) (hlt : type < 13)
    (hdst : f.dstPos = s.pkg.posValue ∨ (f.pondKey = true ∧ f.dstPos = 0xFF)) (hpond : s.onPond port f.srcPos = true)
    (hsrc : f.srcPort = port) (hkey : f.pondKey = pondType type) : s.hear port type f =
      s.authenticate port (s.rxKeys f.pondKey port f.dstSaggar f.srcPos) port f.counter (fun k => f.tag == ctlTag f k) := by
  rw [hear, if_neg (by simp [hup, Nat.not_le.mpr hp]), if_neg (by simp [hcrc, ht, hlt]), if_neg (not_not_intro ht),
    if_neg (fun h => hdst.elim h.1 h.2), if_neg (fun h => h.2.1 ⟨hpond, hsrc⟩), if_neg (not_not_intro hkey), hsrc]

end up
end State

/-- Settles O39, from what a port does with a frame at each check, and from the window's memory of a counter. -/
theorem controlFramesAreAuthenticated : Obligations.ControlFramesAreAuthenticated := by
  refine ⟨fun port type key id f s hp hup hcrc ht hlt hdst hpond hsrc hpk hkeys => ?_,
    fun k c s => State.replayOk_replayNote_same, fun port type f s hp hup hcrc => State.hear_of_bad_crc hp hup hcrc,
    fun port type f s => ⟨State.hear_of_not_up type f, fun hp hup => State.hear_of_elsewhere hp hup⟩⟩
  rw [State.hear_of_addressed hp hup hcrc ht hlt hdst hpond hsrc hpk, hkeys, State.authenticate_singleton]
  refine ⟨fun htag hr => ?_, fun htag hr => ?_, fun htag => ?_⟩
  · rw [if_pos (beq_iff_eq.mpr htag), if_pos hr]
  · rw [if_pos (beq_iff_eq.mpr htag), if_neg (by simp [hr])]
  · rw [if_neg (by simp [htag])]

/-! ### Sending control frames (R377) -/

section txq
variable {port : Nat} {s : State} {x : TxFrame} {l : List TxFrame} (hq : (s.port port).txq = x :: l)
include hq

theorem exec_controlFrameSend_of_head (e : Echo) (k : Nat) : exec (.controlFrameSend port e k) s =
    if x.tries = 0 ∧ s.mayTransmit port = true then .next (s.tryFrame port x e k) else .next s := by
  show execControlFrameSend port e k s = _
  simp only [execControlFrameSend, hq]

theorem exec_controlBackoffExpiry_of_head (e : Echo) (k : Nat) : exec (.controlBackoffExpiry port e k) s =
    if 0 < x.tries ∧ x.notBefore ≤ s.nowUs ∧ s.mayTransmit port = true then .next (s.tryFrame port x e k) else .next s := by
  show execControlBackoffExpiry port e k s = _
  simp only [execControlBackoffExpiry, hq]

theorem exec_lendAbandon_of_head : exec (.lendAbandon port) s =
    if x.frame.type = 12 ∧ 0 < x.tries ∧ x.firstUs + 900 ≤ s.nowUs then .next (s.abandon port x) else .next s := by
  show execLendAbandon port s = _
  simp only [execLendAbandon, hq]

end txq

/-! ### Laser input, ranging and reset of a port (R369, R375, R399, R400) -/

section laser
variable {port : Nat} {s : State}

/-- A port that laser input keeps alight goes to DARK without it; where it was not UP, the event is recorded after (R369). -/
theorem exec_laserInputLoss_of_lit (hp : port < portsN)
    (hst : (s.port port).state = .up ∨ (s.port port).state = .ranging ∨ (s.port port).state = .noKey) :
    exec (.laserInputLoss port) s = .next (if (s.port port).state = .up then s.portDown port .dark 3
      else (s.portDown port .dark 3).portEvent port 0x5002 none 0 (p4 port ++ p4 (PortSt.code .dark) ++ p4 3)) := by
  refine if_neg ?_
  rcases hst with h | h | h <;> simp [h, Nat.not_le.mpr hp]

theorem exec_laserInputLoss_of_dark (h : (s.port port).state = .dark) : exec (.laserInputLoss port) s = .next s :=
  if_pos (.inr (.inr (.inl h)))

theorem exec_laserInputRestored_of_dark (ns : Nat) (hp : port < portsN) (h : (s.port port).state = .dark) :
    exec (.laserInputRestored port ns) s = .next (s.rangeOrWait port ns) :=
  if_neg (by simp [h, Nat.not_le.mpr hp])

theorem exec_laserInputRestored_of_lit (ns : Nat) (h : (s.port port).state ≠ .dark) : exec (.laserInputRestored port ns) s = .next s :=
  if_pos (.inr h)

theorem exec_portRanging_of_ranging (ns : Nat) (hp : port < portsN) (h : (s.port port).state = .ranging) :
    exec (.portRanging port ns) s = .next (s.rangePort port ns) :=
  if_neg (by simp [h, Nat.not_le.mpr hp])

variable {id : Nat} {c : Cmd} (hc : s.ready id 0x603 = some c) (hport : port = c.p 0 1 % 32)
include hc hport

theorem exec_fabPortReset_of_open
    (h : (s.port port).state = .up ∨ (s.port port).state = .ranging ∨
      ((s.port port).state = .fault ∧ (s.port port).faultCause ≠ 1)) :
    exec (.fabPortReset id) s = .next ((s.portDown port .ranging 0).finish id 0 Result.zero) := by
  show execFabPortReset id s = _
  simp only [execFabPortReset, hc, ← hport]
  rw [if_pos h]

theorem exec_fabPortReset_of_waiting
    (h : (s.port port).state = .dark ∨ (s.port port).state = .disabled ∨ (s.port port).state = .noKey) :
    exec (.fabPortReset id) s = .next (s.finish id 0 Result.zero) := by
  show execFabPortReset id s = _
  simp only [execFabPortReset, hc, ← hport]
  rw [if_neg (by rcases h with h | h | h <;> simp [h])]

end laser

/-! ### HELLO and the members of a pond (R372) -/

section hello
variable {port : Nat} {s u : State} {f : CtlFrame}

theorem exec_helloSend_of_due (hp : port < portsN) (hup : (s.port port).state = .up) (hdue : (s.port port).helloUs + 4096 ≤ s.nowUs) :
    exec (.helloSend port) s = .next ((s.queueFrame port (s.pondFrame 1 port (s.helloBody port))).modPort port
      (fun p => { p with helloUs := s.nowUs })) :=
  if_neg (by simp [hup, Nat.not_le.mpr hp, hdue])

variable (hh : s.hear port 1 f = (u, true)) (hpos : fieldAt f.body 0 1 ≠ u.pkg.posValue)
include hh hpos

/-- A HELLO of another position on the port's own comb is a second device there. -/
theorem exec_hello_of_own_comb (hcomb : State.combOf (fieldAt f.body 1 1) (fieldAt f.body 0 1) = u.ownComb port) :
    exec (.hello port f) s =
      .next ((u.portEvent port 0x5003 none 0 (p4 port ++ p4 (fieldAt f.body 0 1))).portDown port .fault 1) := by
  show execHello port f s = _
  simp only [execHello, hh]
  rw [if_neg (by decide), if_neg (fun h => hpos h.2), if_pos hcomb]

theorem exec_hello_of_member (hcomb : State.combOf (fieldAt f.body 1 1) (fieldAt f.body 0 1) ≠ u.ownComb port)
    (hpond : u.onPond port (fieldAt f.body 0 1) = true) (hfrom : fieldAt f.body 1 1 = port) :
    exec (.hello port f) s = .next (u.modPort port (fun p => { p with
      present := insertNat (State.combOf (fieldAt f.body 1 1) (fieldAt f.body 0 1)) p.present
      heardUs := p.heardUs.put (fun _ => 0) (State.combOf (fieldAt f.body 1 1) (fieldAt f.body 0 1)) u.nowUs })) := by
  show execHello port f s = _
  simp only [execHello, hh]
  rw [if_neg (by decide), if_neg (fun h => hpos h.2), if_neg hcomb, if_neg (by simp [hpond, hfrom])]

end hello

namespace State

/-- A port once MEMBER_EXPIRY has looked at a comb: the comb is no longer listed where it was last heard more than 10 ms ago. -/
def memberExpired (s : State) (port comb : Nat) : Port :=
  let p := s.port port
  { p with
    present := p.present.filter (fun c => c != comb || !decide (p.heardUs.get (fun _ => 0) comb + 10000 < s.nowUs))
    misplaced := p.misplaced.filter (fun c => c != comb || !decide (p.heardUs.get (fun _ => 0) (16 + comb) + 10000 < s.nowUs)) }

theorem mem_memberExpired_present_iff (s : State) (port comb k : Nat) : k ∈ (s.memberExpired port comb).present ↔
    k ∈ (s.port port).present ∧ (k ≠ comb ∨ s.nowUs ≤ (s.port port).heardUs.get (fun _ => 0) comb + 10000) := by
  simp [memberExpired]

theorem memberExpired_present_of_heard {s : State} {port comb : Nat}
    (h : s.nowUs ≤ (s.port port).heardUs.get (fun _ => 0) comb + 10000) :
    (s.memberExpired port comb).present = (s.port port).present :=
  List.filter_eq_self.mpr (by simp [h])

end State

theorem exec_memberExpiry (port comb : Nat) (s : State) :
    exec (.memberExpiry port comb) s = .next (s.setPort port (s.memberExpired port comb)) := rfl

/-! ### Beacons and the slot leader (R373, R374) -/

section beacon
variable {port : Nat} {s u : State} {f : CtlFrame}

theorem exec_beaconSend_of_due (hp : port < portsN) (hup : (s.port port).state = .up) (hlead : (s.port port).leader = true)
    (hdue : (s.port port).beaconUs + 64 ≤ s.nowUs)
    (hf : s.finalFrame port (s.pondFrame 0 port (leBytes 1 (s.ownComb port))) = some (u, f)) :
    exec (.beaconSend port) s = .next ((u.portCount port cFramesTx 1).modPort port (fun p =>
      { p with txLast := some f, synced := true, beaconUs := u.nowUs })) := by
  show execBeaconSend port s = _
  simp only [execBeaconSend, hf]
  exact if_neg (by simp [hup, hlead, Nat.not_le.mpr hp, hdue])

theorem exec_beacon_of_heard (hh : s.hear port 0 f = (u, true)) : exec (.beacon port f) s =
    if (u.port port).leader = true then .next u
    else .next (u.modPort port (fun p => { p with synced := true, beaconUs := s.nowUs, leaderComb := fieldAt f.body 0 1 % 16 })) := by
  show execBeacon port f s = _
  simp [execBeacon, hh]

theorem exec_leaderTimeout_of_follower (hp : port < portsN) (hup : (s.port port).state = .up) (hlead : (s.port port).leader = false) :
    exec (.leaderTimeout port) s = if s.nowUs < (s.port port).beaconUs + 256 + s.ownComb port * 64 then .next s
      else .next ((s.modPort port (fun p => { p with leader := true, leaderComb := s.ownComb port })).portEvent port 0x5005 none 0
        (p4 port ++ p4 (s.ownComb port))) := by
  show execLeaderTimeout port s = _
  simp [execLeaderTimeout, hup, hlead, Nat.not_le.mpr hp]

end beacon

/-- Settles O40, from what each of the commands answers and what MEMBER_EXPIRY leaves listed. -/
theorem opticalLinks : Obligations.OpticalLinks := by
  refine ⟨fun port k e s x l hq => ⟨fun ht hm => ?_, fun ht => ?_, fun ht hb hm => ?_, fun hb => ?_,
      fun hty ht hold => ?_, fun hty => ?_⟩,
    fun port ns s hp => ⟨fun h => ?_, fun h => ?_, exec_laserInputLoss_of_dark, exec_laserInputRestored_of_dark ns hp,
      exec_laserInputRestored_of_lit ns, fun h hns => ?_, fun h hns => ?_⟩,
    fun id port s c hc hport => ⟨exec_fabPortReset_of_open hc hport, exec_fabPortReset_of_waiting hc hport⟩,
    fun port s => exec_helloSend_of_due, ?_,
    fun port comb s => ⟨_, exec_memberExpiry port comb s, ?_⟩,
    fun port s u f => exec_beaconSend_of_due,
    fun port f s u hh => ⟨fun hl => ?_, fun hl => ?_⟩,
    fun port s hp hup hl => ⟨fun hdue => ?_, fun hdue => ?_⟩⟩
  · rw [exec_controlFrameSend_of_head hq, if_pos ⟨ht, hm⟩]
  · rw [exec_controlFrameSend_of_head hq, if_neg (fun h => Nat.ne_of_gt ht h.1)]
  · rw [exec_controlBackoffExpiry_of_head hq, if_pos ⟨ht, hb, hm⟩]
  · rw [exec_controlBackoffExpiry_of_head hq, if_neg (fun h => Nat.not_le.mpr hb h.2.1)]
  · rw [exec_lendAbandon_of_head hq, if_pos ⟨hty, ht, hold⟩]
  · rw [exec_lendAbandon_of_head hq, if_neg (fun h => hty h.1)]
  · rw [exec_laserInputLoss_of_lit hp (.inl h), if_pos h]
  · rw [exec_laserInputLoss_of_lit hp (.inr h), if_neg (by rcases h with h | h <;> simp [h])]
  · rw [exec_portRanging_of_ranging ns hp h, State.rangePort, if_pos hns]
  · rw [exec_portRanging_of_ranging ns hp h, State.rangePort, if_neg (Nat.not_lt.mpr hns)]
    rfl
  · rintro port pos comb f s u hh rfl rfl hpos
    exact ⟨exec_hello_of_own_comb hh hpos, exec_hello_of_member hh hpos⟩
  · rw [State.port_setPort_same]
    refine ⟨fun hold => ?_, State.memberExpired_present_of_heard, fun k hk => ?_, fun q hq => State.port_setPort_ne s port q _ hq⟩
    · simp [State.mem_memberExpired_present_iff, hold]
    · simp [State.mem_memberExpired_present_iff, hk]
  · rw [exec_beacon_of_heard hh, if_neg (by simp [hl])]
  · rw [exec_beacon_of_heard hh, if_pos hl]
  · rw [exec_leaderTimeout_of_follower hp hup hl, if_neg (Nat.not_lt.mpr hdue)]
  · rw [exec_leaderTimeout_of_follower hp hup hl, if_pos hdue]

/-! ### FAB_POUR and FAB_WINDOW (R378, R379, R385) -/

section pourCommands
variable {id : Nat} {s : State} {c : Cmd}

theorem exec_fabPour_of_ready (hc : s.ready id 0x600 = some c) : exec (.fabPour id) s =
    if s.pourCheck c ≠ 0 then .next (s.refuse id (s.pourCheck c))
    else .next (((s.setPhase id .queued).statusWord id (s.pourOf c).statusAddr 1 0 Result.zero).enqueuePour
      (s.pourPort (s.pourOf c).auto (c.p 22 1 % 16) (s.pourOf c).destPos) (s.pourOf c)) := by
  show execFabPour id s = _
  simp only [execFabPour, hc]

variable (hc : s.ready id 0x602 = some c)
include hc

theorem exec_fabWindow_of_close (h : bitAt (c.p 0 1) 4 = false) :
    exec (.fabWindow id) s = .next ((s.setWindow c.saggar (c.p 0 1 % 16) Window.closed).finish id 0 Result.zero) := by
  show execFabWindow id s = _
  simp only [execFabWindow, hc]
  exact if_pos h

/-- The checks of an opened window: its length, its alignment, the range it names and its completion ring (R385). -/
theorem exec_fabWindow_of_open (h : bitAt (c.p 0 1) 4 = true) {st : Nat}
    (hst : st = lowest [check (c.p 16 4 = 0) 0x0102, check (c.addr 8 % 64 ≠ 0 ∨ c.p 16 4 % 64 ≠ 0) 0x0103,
      check (c.p 16 4 ≠ 0 ∧ s.reach (s.engineAuth c.saggar) true (c.addr 8) (c.p 16 4) ∉ [0, 0x0602]) 0x0220,
      check ((s.ring (c.p 22 2 % 16384)).role ≠ .completion ∨ (s.ring (c.p 22 2 % 16384)).saggar ≠ c.saggar) 0x0321]) :
    exec (.fabWindow id) s = if st ≠ 0 then .next (s.refuse id st) else
      .next ((s.setWindow c.saggar (c.p 0 1 % 16) (Window.mk true (c.addr 8) (c.p 16 4) (c.p 20 1)
        (bitAt (c.p 21 1) 0) (c.p 22 2 % 16384))).finish id 0 Result.zero) := by
  subst hst
  show execFabWindow id s = _
  simp only [execFabWindow, hc]
  exact if_neg (by simp [h])

theorem exec_fabWindow_of_good_range (h : bitAt (c.p 0 1) 4 = true) (hlen : 0 < c.p 16 4) (hbase : c.addr 8 % 64 = 0)
    (hmul : c.p 16 4 % 64 = 0) (hreach : s.reach (s.engineAuth c.saggar) true (c.addr 8) (c.p 16 4) = 0)
    (hrole : (s.ring (c.p 22 2 % 16384)).role = .completion) (hown : (s.ring (c.p 22 2 % 16384)).saggar = c.saggar) :
    exec (.fabWindow id) s = .next ((s.setWindow c.saggar (c.p 0 1 % 16) (Window.mk true (c.addr 8) (c.p 16 4) (c.p 20 1)
      (bitAt (c.p 21 1) 0) (c.p 22 2 % 16384))).finish id 0 Result.zero) := by
  refine (exec_fabWindow_of_open hc h rfl).trans (if_neg (not_not_intro ((lowest_eq_zero_iff _).mpr ?_)))
  simp [check, Nat.ne_of_gt hlen, hbase, hmul, hreach, hrole, hown]

/-- Of a window without length the alignment and the range pass, and 0x0102 is below the status of a bad ring. -/
theorem exec_fabWindow_of_empty (h : bitAt (c.p 0 1) 4 = true) (hlen : c.p 16 4 = 0) (hbase : c.addr 8 % 64 = 0) :
    exec (.fabWindow id) s = .next (s.refuse id 0x0102) := by
  have hring : ∀ bad : Bool, 0x0102 = lowest [0x0102, 0, 0, check bad 0x0321] := by decide
  refine (exec_fabWindow_of_open hc h (st := 0x0102) ?_).trans (if_pos (by decide))
  rw [hlen, hbase]
  exact hring _

end pourCommands

/-! ### The start of a pour (R380, R381) -/

/-- The command of a pour that starts, where it has one, is running (R378). -/
def State.markStarted (u : State) (x : Pour) : State :=
  match x.cmd with
  | some id => (u.setPhase id .running).statusWord id x.statusAddr 2 0 Result.zero
  | none => u

/-- A pour whose turn it is takes the port's next POUR_ID. -/
theorem exec_pourStart_of_turn {port g t : Nat} {s u : State} {x : Pour} (hp : port < portsN) (hup : (s.port port).state = .up)
    (hfree : (s.port port).current = none) (hx : s.nextPourOf port = some (x, g, t)) (hu : u = s.modPort port (fun p => { p with
      queue := p.queue.erase x, lastSaggar := g, turn := t, nextPour := if 65535 ≤ p.nextPour then 1 else p.nextPour + 1 })) :
    exec (.pourStart port) s = .next ((u.markStarted x).sendReserve port { x with pourId := (s.port port).nextPour }) := by
  subst hu
  show execPourStart port s = _
  simp only [execPourStart, hx]
  exact if_neg (by simp [hup, hfree, Nat.not_le.mpr hp])

/-! ### What the receiver of a pour sends back (R381, R384, R387, R393) -/

section named
variable {port : Nat} {f : CtlFrame} {s u : State} {x : Pour} (hx : u.namedPour port f = some x)
include hx

theorem exec_accept_of_named (hh : s.hear port 3 f = (u, true)) (hst : x.stage = .reserved) : exec (.accept port f) s =
    .next (u.modPour port (fun x => { x with
      stage := .accepted, sinceUs := s.nowUs + (fieldAt f.body 0 8 % 64 + 64 - s.slotNo port) % 64 })) := by
  show execAccept port f s = _
  simp [execAccept, hh, hx, hst]

theorem exec_refuse_of_named (hh : s.hear port 4 f = (u, true)) :
    exec (.refuse port f) s = .next (u.takeRefuse port x (fieldAt f.body 0 2)) := by
  show execRefuse port f s = _
  simp [execRefuse, hh, hx]

theorem exec_done_of_named (hh : s.hear port 5 f = (u, true)) (hst : x.stage = .sent) :
    exec (.done port f) s = .next (u.takeDone port x (doneReport f.body)) := by
  show execDone port f s = _
  simp [execDone, hh, hx, hst]

theorem exec_abort_of_named (hh : s.hear port 8 f = (u, true)) :
    exec (.abort port f) s = .next (u.endCurrent port (fieldAt f.body 0 2) false Report.none) := by
  show execAbort port f s = _
  simp [execAbort, hh, hx]

end named

namespace State

theorem takeRefuse_of_busy {s : State} {x : Pour} (port : Nat) (hst : x.stage = .reserved) (hleft : x.busyRetries < 100) :
    s.takeRefuse port x 0x06B1 = s.modPort port (fun p => { p with
      current := some { x with stage := .backoff, busyRetries := x.busyRetries + 1, sinceUs := s.nowUs } }) := by
  simp [takeRefuse, hst, hleft]

theorem takeRefuse_of_final (s : State) (port : Nat) (x : Pour) {st : Nat} (hbusy : st ≠ 0x06B1) (hknown : st ≠ 0x05B1) :
    s.takeRefuse port x st = s.endCurrent port st true Report.none := by
  simp [takeRefuse, hbusy, hknown]

end State

theorem exec_relayed_of_awaited {port : Nat} {f : CtlFrame} {s u : State} {x : Pour} (hh : s.hear port 7 f = (u, true))
    (hx : (u.port port).awaiting.find? (fun x => x.pourId == f.pourId && s.hopEnd x.destPos == f.srcPos) = some x) :
    exec (.relayed port f) s = .next ((u.modPort port (fun p =>
      { p with awaiting := removeFirst (fun x => x.pourId == f.pourId && s.hopEnd x.destPos == f.srcPos) p.awaiting })).endPour port
        { x with bytes := (relayedReport f.body).2.bytes } (relayedReport f.body).1 false (relayedReport f.body).2) := by
  show execRelayed port f s = _
  simp [execRelayed, hh, hx]

/-! ### The sender's slot and timers (R381, R382, Table 12-6) -/

section current
variable {port : Nat} {s : State} {x : Pour} (hx : (s.port port).current = some x)
include hx

theorem exec_pourSegmentsStart_of_slot (hst : x.stage = .accepted) (hdue : x.sinceUs ≤ s.nowUs) :
    exec (.pourSegmentsStart port) s = .next (s.sendSegments port x (List.range (segsOf x.length))) := by
  show execPourSegmentsStart port s = _
  simp only [execPourSegmentsStart, hx]
  exact if_pos ⟨hst, hdue⟩

theorem exec_reserveTimeout_of_due (hst : x.stage = .reserved) (hsent : s.frameWaits port 2 = false) (hdue : x.sinceUs + 200 ≤ s.nowUs) :
    exec (.reserveTimeout port) s =
      .next (if 8 ≤ x.sends then s.endCurrent port 0x06B2 true Report.none else s.sendReserve port x) := by
  show execReserveTimeout port s = _
  simp only [execReserveTimeout, hx]
  exact if_pos ⟨hst, hsent, hdue⟩

theorem exec_reserveRetry_of_due (hst : x.stage = .backoff) (hdue : x.sinceUs + 50 ≤ s.nowUs) :
    exec (.reserveRetry port) s = .next (s.sendReserve port { x with sends := 0 }) := by
  show execReserveRetry port s = _
  simp only [execReserveRetry, hx]
  exact if_pos ⟨hst, hdue⟩

theorem exec_doneTimeout_of_due (hst : x.stage = .sent) (hsent : s.frameWaits port 6 = false) (hdue : x.sinceUs + 50 ≤ s.nowUs) :
    exec (.doneTimeout port) s = if 3 ≤ x.queries then .next (s.endCurrent port 0x05B1 true Report.none)
      else .next ((s.modPour port (fun x => { x with queries := x.queries + 1, sinceUs := s.nowUs })).queueFrame port
        (s.pairFrame 6 (s.pourHop x) port x.saggar x.peer x.pourId [])) := by
  show execDoneTimeout port s = _
  simp only [execDoneTimeout, hx]
  exact if_pos ⟨hst, hsent, hdue⟩

end current

theorem exec_relayedTimeout_of_due {port n : Nat} {s : State} {x : Pour}
    (hx : (s.port port).awaiting.find? (fun x => x.pourId == n && decide (x.sinceUs + 10000 ≤ s.nowUs)) = some x) :
    exec (.relayedTimeout port n) s = .next ((s.modPort port (fun p =>
      { p with awaiting := removeFirst (fun x => x.pourId == n && decide (x.sinceUs + 10000 ≤ s.nowUs)) p.awaiting })).endPour port x
        0x05B1 true Report.none) := by
  show execRelayedTimeout port n s = _
  simp only [execRelayedTimeout, hx]

/-- Settles O41, from what the two commands, the start of a pour, the frames heard for it and its timers answer. -/
theorem poursAtTheSender : Obligations.PoursAtTheSender := by
  refine ⟨fun id s c hc => ⟨fun h => ?_, fun h => ?_⟩,
    fun id s c hc => ⟨exec_fabWindow_of_close hc, exec_fabWindow_of_good_range hc, exec_fabWindow_of_empty hc⟩,
    fun port g t s u x hp hup hfree hx hu => ⟨fun hcmd => ?_, fun id hcmd => ?_⟩,
    fun port f s u x hx => ⟨exec_accept_of_named hx, fun hh hbusy hst hleft => ⟨_, ?_, rfl⟩, fun hh hbusy hknown => ?_,
      exec_done_of_named hx, exec_abort_of_named hx⟩,
    fun port f s u x => exec_relayed_of_awaited,
    fun port s x hx => ⟨exec_pourSegmentsStart_of_slot hx, fun hst hsent hdue => ⟨fun hn => ?_, fun hn => ?_⟩,
      exec_reserveRetry_of_due hx, fun hst hsent hdue => ⟨fun hn => ?_, fun hn => ?_⟩⟩,
    fun port n s x => exec_relayedTimeout_of_due⟩
  · rw [exec_fabPour_of_ready hc, if_neg (not_not_intro h)]
  · rw [exec_fabPour_of_ready hc, if_pos h]
  · rw [exec_pourStart_of_turn hp hup hfree hx hu, State.markStarted, hcmd]
  · rw [exec_pourStart_of_turn hp hup hfree hx hu, State.markStarted, hcmd]
  · rw [exec_refuse_of_named hx hh, hbusy, State.takeRefuse_of_busy port hst hleft]
  · rw [exec_refuse_of_named hx hh, State.takeRefuse_of_final u port x hbusy hknown]
  · rw [exec_reserveTimeout_of_due hx hst hsent hdue, if_neg (Nat.not_le.mpr hn)]
  · rw [exec_reserveTimeout_of_due hx hst hsent hdue, if_pos hn]
  · rw [exec_doneTimeout_of_due hx hst hsent hdue, if_neg (Nat.not_le.mpr hn)]
  · rw [exec_doneTimeout_of_due hx hst hsent hdue, if_pos hn]

/-! ### Reservations at a receiver (R381, R387, R393, R398) -/

section reserve
variable {port : Nat} {f : CtlFrame} {s u : State} (hh : s.hear port 2 f = (u, true))
include hh

theorem exec_reserve_of_known {x : Resv} (hx : x ∈ (u.port port).resvs) (hpos : x.hopPos = f.srcPos) (hid : x.pourId = f.pourId) :
    exec (.reserve port f) s = .next u := by
  have hsame : (u.port port).resvs.any (fun x => x.hopPos == (State.resvOf f).hopPos && x.pourId == (State.resvOf f).pourId) = true :=
    List.any_eq_true.mpr ⟨x, hx, by simp [State.resvOf, hpos, hid]⟩
  show execReserve port f s = _
  simp [execReserve, hh, hsame]

/-- A reservation that the port neither holds nor receives joins its queue while there is room and no quiescence point. -/
theorem exec_reserve_of_new (hnew : ∀ x ∈ (u.port port).resvs, ¬(x.hopPos = f.srcPos ∧ x.pourId = f.pourId))
    (hrecv : (u.port port).recv = none) : exec (.reserve port f) s =
    if 64 ≤ (u.port port).resvs.length ∨ (fieldAt f.body 16 1 = u.pkg.posValue ∧ (u.saggar f.dstSaggar).quiescing ≠ 0) then
      .next (u.refuseResv port (State.resvOf f) 0x06B1)
    else .next (u.modPort port (fun p => { p with resvs := p.resvs ++ [State.resvOf f] })) := by
  have hnone : (u.port port).resvs.any (fun x => x.hopPos == (State.resvOf f).hopPos && x.pourId == (State.resvOf f).pourId) = false :=
    List.any_eq_false.mpr (fun x hx => by simpa [State.resvOf] using hnew x hx)
  show execReserve port f s = _
  simp only [execReserve, hh, hnone, hrecv]
  rfl

end reserve

theorem exec_reservationTake_of_turn {port g t : Nat} {s u : State} {r : Resv} (hp : port < portsN) (hup : (s.port port).state = .up)
    (hfree : (s.port port).recv = none) (hr : s.nextResv port = some (r, g, t))
    (hu : u = s.modPort port (fun p => { p with resvs := p.resvs.erase r, lastResvSaggar := g, resvTurn := t })) :
    exec (.reservationTake port) s =
      .next (if u.resvCheck port r ≠ 0 then u.refuseResv port r (u.resvCheck port r) else u.takeResv port r) := by
  subst hu
  show execReservationTake port s = _
  simp only [execReservationTake, hr]
  exact if_neg (by simp [hup, hfree, Nat.not_le.mpr hp])

/-! ### Data frames, and the pour that a port receives (R383, R384) -/

section receiving
variable {port : Nat} {s : State} {r : Recv} (hr : (s.port port).recv = some r)
include hr

/-- A frame of the pour is checked and kept, and the last frame of the last segment brings DONE. -/
theorem exec_dataFrameReceive_of_hop {f : DataFrame} {u : State} {v : Recv} (hv : v = { r with started := true, sinceUs := s.nowUs })
    (hu : u = (s.modPort port (fun p => { p with recv := some v })).checkFrame port v f) (hup : (s.port port).state = .up)
    (hof : s.ofHop r f = true) : exec (.dataFrameReceive port f) s =
      if f.segment = r.lastSeg ∧ f.frame + 1 = segFrames r.resv.length r.lastSeg then .next (u.sendDone port) else .next u := by
  subst hu hv
  show execDataFrameReceive port f s = _
  simp only [execDataFrameReceive, hr]
  exact if_neg (by simp [hup, hof])

theorem exec_dataFrameReceive_of_other {f : DataFrame} (hof : s.ofHop r f = false) : exec (.dataFrameReceive port f) s = .next s := by
  show execDataFrameReceive port f s = _
  simp only [execDataFrameReceive, hr]
  exact if_pos (.inr hof)

theorem exec_firstSegmentTimeout_of_recv : exec (.firstSegmentTimeout port) s =
    if r.timed = true ∧ ((r.started = false ∧ r.sinceUs + 20 ≤ s.nowUs) ∨ r.sinceUs + 200 ≤ s.nowUs) then .next (s.dropRecv port)
    else .next s := by
  show execFirstSegmentTimeout port s = _
  simp only [execFirstSegmentTimeout, hr]

end receiving

/-! ### QUERY and kept DONEs (R381, Table 12-6) -/

section query
variable {port : Nat} {f : CtlFrame} {s u : State} {r : Recv} (hh : s.hear port 6 f = (u, true)) (hr : (u.port port).recv = some r)
  (hpos : r.resv.hopPos = f.srcPos) (hid : r.resv.pourId = f.pourId)
include hh hr hpos hid

theorem exec_query_of_closing (h : r.closing = true) : exec (.query port f) s = .next u := by
  show execQuery port f s = _
  simp [execQuery, hh, hr, hpos, hid, h]

theorem exec_query_of_first_round (h : r.closing = false) (hround : r.rounds = 0) :
    exec (.query port f) s = .next (u.sendDone port) := by
  show execQuery port f s = _
  simp [execQuery, hh, hr, hpos, hid, h, hround]

end query

/-- Settles O42, from what each of the six commands answers. -/
theorem poursAtTheReceiver : Obligations.PoursAtTheReceiver := by
  refine ⟨fun port f s u hh hnew hrecv => ⟨fun hroom hopen => ?_, fun hfull => ?_⟩,
    fun port f s u x hh => exec_reserve_of_known hh,
    fun port g t s u r hp hup hfree hr hu => ⟨fun hst => ?_, fun hst => ?_⟩,
    fun port f s u r v hr hv hu => ⟨fun hup hof hseg hlast => ?_, fun hup hof hseg => ?_, exec_dataFrameReceive_of_other hr⟩,
    fun port s r hr => ⟨fun ht hst hdue => ?_, fun ht hdue => ?_, fun ht => ?_⟩,
    fun port f s u r hh hr hpos hid => ⟨exec_query_of_closing hh hr hpos hid, exec_query_of_first_round hh hr hpos hid⟩,
    fun port pos n s => rfl⟩
  · rw [exec_reserve_of_new hh hnew hrecv, if_neg]
    exact fun h => h.elim (Nat.not_le.mpr hroom) (fun hq => hopen.elim (· hq.1) hq.2)
  · rw [exec_reserve_of_new hh hnew hrecv, if_pos hfull]
  · rw [exec_reservationTake_of_turn hp hup hfree hr hu, if_neg (not_not_intro hst)]
  · rw [exec_reservationTake_of_turn hp hup hfree hr hu, if_pos hst]
  · rw [exec_dataFrameReceive_of_hop hr hv hu hup hof, if_pos ⟨hseg, hlast⟩]
  · rw [exec_dataFrameReceive_of_hop hr hv hu hup hof, if_neg (fun h => hseg h.1)]
  · rw [exec_firstSegmentTimeout_of_recv hr, if_pos ⟨ht, .inl ⟨hst, hdue⟩⟩]
  · rw [exec_firstSegmentTimeout_of_recv hr, if_pos ⟨ht, .inr hdue⟩]
  · rw [exec_firstSegmentTimeout_of_recv hr, if_neg (by simp [ht])]

/-! ### Frames that pass through a relay, and packets of another package (R394 to R397) -/

/-- A frame from the row pond for a position on this package's column pond goes on as it stands (R397). -/
theorem State.forwards_of_column {port : Nat} {f : CtlFrame} {s : State} (hrow : port < 16) (hup : (s.port port).state = .up)
    (hcrc : f.crcOk = true) (hpos : f.dstPos ≠ s.pkg.posValue) (hall : f.dstPos ≠ 0xFF)
    (hcol : f.dstPos % 16 = s.pkg.posValue % 16) (hpond : s.onPond port f.srcPos = true) :
    s.forwards port f = some (s.queueFrame (16 + port) f) :=
  if_pos ⟨hrow, hup, hcrc, hpos, hall, hcol, hpond⟩

/-- MESH, SESSION and LAG go on unchanged wherever the relay forwards them. -/
theorem exec_of_forwards {port : Nat} {f : CtlFrame} {s t : State} (h : s.forwards port f = some t) {c : Instr}
    (hc : c ∈ [Instr.mesh port f, .session port f, .lag port f]) : exec c s = .next t := by
  simp only [List.mem_cons, List.not_mem_nil, or_false] at hc
  rcases hc with rfl | rfl | rfl
  · show execMesh port f s = _
    simp only [execMesh, h]
  · show execSession port f s = _
    simp only [execSession, h]
  · show execLag port f s = _
    simp only [execLag, h]

section heard
variable {port : Nat} {f : CtlFrame} {s u : State} (hf : s.forwards port f = none)
include hf

theorem exec_mesh_of_response (hh : s.hear port 9 f = (u, true)) (hp : (packetOf (f.body.take 64) []).isResponse = true) :
    exec (.mesh port f) s = .next { u with outq := u.outq ++ [{ packetOf (f.body.take 64) [] with
      src := opticalCode port 0, saggar := f.dstSaggar, remotePos := some f.srcPos }] } := by
  show execMesh port f s = _
  simp [execMesh, hf, hh, hp]

/-- A request is put on the mesh, or answered with the status that refuses it (R396). -/
theorem exec_mesh_of_request (hh : s.hear port 9 f = (u, true)) (hp : (packetOf (f.body.take 64) []).isResponse = false)
    {t : State × Nat} (ht : t = u.takeRemote port f.srcPos f.dstSaggar (packetOf (f.body.take 64) [])) :
    exec (.mesh port f) s = .next (if t.2 = 0 then t.1
      else t.1.answerRemote port f.srcPos f.dstSaggar (State.localResponse (packetOf (f.body.take 64) []) t.2)) := by
  subst ht
  show execMesh port f s = _
  simp [execMesh, hf, hh, hp]

theorem exec_session_of_heard (hh : s.hear port 10 f = (u, true)) : exec (.session port f) s = .next { u with fab := { u.fab with
    peerSessions := u.fab.peerSessions.put (fun _ => 0) (f.srcSaggar * 256 + f.srcPos) (fieldAt f.body 0 4) } } := by
  show execSession port f s = _
  simp [execSession, hf, hh]

/-- The watts of a lag notice count toward lending within its sender's power group; the rill hears of it in any case (R420, R421). -/
theorem exec_lag_of_heard (hh : s.hear port 11 f = (u, true)) {v : State} (hv : v = { u with power := { u.power with
      lagSums := u.power.lagSums.put (fun _ => 0) f.srcPos (u.power.lagSums.get (fun _ => 0) f.srcPos + fieldAt f.body 8 2) } }) :
    exec (.lag port f) s = .next ((if fieldAt f.body 3 1 ≠ 0 ∧ fieldAt f.body 3 1 = u.power.powerGroup then v else u).rillLag
      f.dstSaggar (fieldAt f.body 0 2) (fieldAt f.body 4 4)) := by
  subst hv
  show execLag port f s = _
  simp [execLag, hf, hh]

end heard

/-! ### Offers of power (R422) -/

namespace State

/-- Watts that an offer of LEND gives: what the borrower may still hold, below its ceiling (R422). -/
def lendTaken (u : State) (f : CtlFrame) : Nat :=
  min (fieldAt f.body 2 2) (min (u.power.lendMax - leaseSum u.power.borrowed)
    (ceilingW u.fw.variant - (u.power.pkgCap + leaseSum u.power.borrowed - leaseSum u.power.lent)))

/-- The lease that an offer of LEND brings. -/
def lendLease (u : State) (f : CtlFrame) : Lease :=
  { watts := u.lendTaken f, peer := f.srcPos, seq := fieldAt f.body 8 4, running := true, sinceUs := u.nowUs }

end State

theorem exec_lend_of_heard {port : Nat} {f : CtlFrame} {s u : State} (hh : s.hear port 12 f = (u, true)) : exec (.lend port f) s =
    if fieldAt f.body 1 1 ≠ u.pkg.posValue ∨ fieldAt f.body 0 1 = 0 ∨ fieldAt f.body 0 1 ≠ u.power.powerGroup ∨
        u.lendTaken f = 0 then .next u
    else .next (({ u with power := { u.power with borrowed := u.power.borrowed ++ [u.lendLease f] } } : State).setCap.recordFw 0 0x6008
      none 0 (p4 f.srcPos ++ p4 (u.lendTaken f))) := by
  show execLend port f s = _
  simp only [execLend, hh]
  rfl

/-! ### Optical attach ports (R394, R395) -/

theorem exec_opticalAttachPacket_of_head {k : Nat} {s u : State} {p : Packet} (hp : s.net[k]? = some p) (hlo : 5184 ≤ p.dest)
    (hhi : p.dest < 5248) (hhead : s.meshHead k p = true) (hu : u = { s with net := dropAt s.net k }) :
    exec (.opticalAttachPacket k) s =
      .next (if p.isResponse = true then u.attachResponse (p.dest - 5184) p else u.attachRequest (p.dest - 5184) p) := by
  subst hu
  show execOpticalAttachPacket k s = _
  simp only [execOpticalAttachPacket, hp]
  exact if_pos ⟨hlo, hhi, hhead⟩

theorem exec_cascadeGatherTimeout_of_due {a pos : Nat} {s : State} {g : Gather}
    (hg : s.fab.gathers.find? (fun g => g.attach == a && g.destPos == pos && decide (g.sinceUs + 2 ≤ s.nowUs)) = some g) :
    exec (.cascadeGatherTimeout a pos) s = .next (({ s with fab := { s.fab with
      gathers := removeFirst (fun g => g.attach == a && g.destPos == pos && decide (g.sinceUs + 2 ≤ s.nowUs)) s.fab.gathers } } :
        State).gatherPour g) := by
  show execCascadeGatherTimeout a pos s = _
  simp only [execCascadeGatherTimeout, hg]

/-- Settles O43, from what a relay forwards and what each frame or packet that this package takes brings about. -/
theorem remoteTraffic : Obligations.RemoteTraffic := by
  refine ⟨fun port f s hrow hup hcrc hpos hall hcol hpond c =>
      exec_of_forwards (State.forwards_of_column hrow hup hcrc hpos hall hcol hpond),
    ?_, fun port f s u hf hh => ⟨_, exec_session_of_heard hf hh, Tbl.get_put_same _ _ _ _,
      fun n hn => Tbl.get_put_ne _ _ _ _ _ hn, rfl⟩,
    fun port f s u v hf hh => ⟨fun hg => ?_, fun hg hown hv => ?_⟩, ?_,
    fun k s u p hp hlo hhi hhead hu => ⟨fun hr => ?_, fun hr => ?_⟩, ?_⟩
  · rintro port f s u p hf hh rfl
    refine ⟨fun hp => ⟨_, exec_mesh_of_response hf hh hp, rfl⟩, fun hp ht => ?_, fun hp ht => ?_⟩
    · rw [exec_mesh_of_request hf hh hp rfl, if_pos ht]
    · rw [exec_mesh_of_request hf hh hp rfl, if_neg ht]
  · rw [exec_lag_of_heard hf hh rfl, if_neg (fun h => hg.elim h.1 (· h.2))]
  · rw [exec_lag_of_heard hf hh hv, if_pos ⟨hg, hown⟩]
  · rintro port w f s u hh rfl
    refine ⟨fun hpos hg hown hw => ⟨u.lendLease f, ?_, rfl, rfl, rfl, rfl⟩, fun h => ?_⟩
    · rw [exec_lend_of_heard hh, if_neg]
      · rfl
      · rintro (h | h | h | h)
        · exact h hpos
        · exact hg h
        · exact h hown
        · exact Nat.ne_of_gt hw h
    · rw [exec_lend_of_heard hh]
      exact if_pos h
  · rw [exec_opticalAttachPacket_of_head hp hlo hhi hhead hu, if_pos hr]
  · rw [exec_opticalAttachPacket_of_head hp hlo hhi hhead hu, if_neg (by simp [hr])]
  · rintro a pos s u g hg rfl
    exact exec_cascadeGatherTimeout_of_due hg

/-! ### Glazed settings (R501, R502, R504) -/

section glaze
variable {id : Nat} {s : State} {c : Cmd}

/-- A GLAZE_SET of a known setting whose authorisation has been read is decided by the checks of R502. -/
theorem exec_glazeSet_of_read (hc : s.ready id 0x930 = some c) (hset : c.p 0 1 ≤ 2) (hn : c.p 16 4 ≤ 2048)
    (hplace : c.p 16 4 = 0 ∨ s.placeCheck c.saggar false (c.addr 8) (c.p 16 4) = 0) {u : State} {auth : List Byte}
    (hread : (if c.p 16 4 = 0 then (s, none, []) else s.load 7 0xFFFF (c.addr 8) (c.p 16 4)) = (u, none, auth)) :
    exec (.glazeSet id) s = .next (if u.glazeCheck (c.p 0 1) (c.p 4 4) auth = 0 then u.glazeChange id (c.p 0 1) (c.p 4 4) auth
      else u.refuse id (u.glazeCheck (c.p 0 1) (c.p 4 4) auth)) := by
  have hst : lowest [check (2 < c.p 0 1) 0x0101, check (2048 < c.p 16 4) 0x0101,
      if c.p 16 4 = 0 ∨ 2048 < c.p 16 4 then 0 else s.placeCheck c.saggar false (c.addr 8) (c.p 16 4)] = 0 := by
    rw [lowest_eq_zero_iff]
    rcases hplace with h | h <;> simp [check, h, Nat.not_lt.mpr hset, Nat.not_lt.mpr hn]
  show execGlazeSet id s = _
  simp only [execGlazeSet, hc, hread]
  rw [if_neg (not_not_intro hst), if_neg (by simp)]
  by_cases h : u.glazeCheck (c.p 0 1) (c.p 4 4) auth = 0
  · rw [if_pos h, if_neg (not_not_intro h)]
  · rw [if_neg h, if_pos h]

variable (hc : s.ready id 0x931 = some c)
include hc

theorem exec_glazeRead_of_known (h : c.p 0 1 ≤ 2) : exec (.glazeRead id) s = .next (s.finish id 0
    { progress := 0, r0 := s.glazeValue (c.p 0 1), r1 := if c.p 0 1 = 0 then s.fw.pendingVariant.getD 0xFFFFFFFF else 0xFFFFFFFF,
      r2 := s.glazeLeft (c.p 0 1), r3 := if c.p 0 1 = 0 then s.fw.qualified else 0 }) := by
  show execGlazeRead id s = _
  simp only [execGlazeRead, hc]
  exact if_neg (Nat.not_lt.mpr h)

theorem exec_glazeRead_of_unknown (h : 2 < c.p 0 1) : exec (.glazeRead id) s = .next (s.refuse id 0x0101) := by
  show execGlazeRead id s = _
  simp only [execGlazeRead, hc]
  exact if_pos h

end glaze

/-! ### Quotes, the certificate, measurements and keys (R515, R517, R521 to R524) -/

section sec
variable {id : Nat} {s : State} {c : Cmd}

theorem exec_secQuote_of_passed (hc : s.ready id 0xA00 = some c) (h : s.quoteCheck c = 0) : exec (.secQuote id) s =
    .next (s.draw.deliver id (c.addr 0) (s.quoteBody (c.p 12 1) (c.p 13 1 % 64) (State.digestParam c) ++ s.freeBytes 64)
      (Result.w0 (320 + 64 * (s.quoteLog (c.p 12 1) (c.p 13 1 % 64)).length))) := by
  show execSecQuote id s = _
  simp only [execSecQuote, hc]
  exact if_neg (not_not_intro h)

theorem exec_secCertRead_of_passed (hc : s.ready id 0xA01 = some c) (hmax : s.certificateNow.length ≤ 2048)
    (hfit : s.certificateNow.length ≤ c.p 8 4) (hlen : 0 < c.p 8 4)
    (hplace : s.placeCheck c.saggar true (c.addr 0) s.certificateNow.length = 0) :
    exec (.secCertRead id) s = .next (s.deliver id (c.addr 0) s.certificateNow (Result.w0 s.certificateNow.length)) := by
  show execSecCertRead id s = _
  simp only [execSecCertRead, hc, List.take_of_length_le hmax]
  refine if_neg (not_not_intro ((lowest_eq_zero_iff _).mpr ?_))
  simp [check, Nat.ne_of_gt hlen, Nat.not_lt.mpr hfit, hplace]

theorem exec_secExtend_of_ready (hc : s.ready id 0xA02 = some c) {st : Nat} (hst : st = lowest [check c.oper 0x0202,
      check (!c.oper && decide (256 ≤ (s.saggar c.saggar).slog.length)) 0x03F8]) : exec (.secExtend id) s =
    if st ≠ 0 then .next (s.refuse id st)
    else .next ((s.extendSag c.saggar 0x0015 0 (State.digestParam c)).finish id 0 Result.zero) := by
  subst hst
  show execSecExtend id s = _
  simp only [execSecExtend, hc]

theorem exec_secWrapOpen_of_read {u v : State} {bs : List Byte} (hc : s.ready id 0xA03 = some c) (hoper : c.oper = false)
    (hid : s.sec.identityOk = true) (hin : s.placeCheck c.saggar false (c.addr 0) 64 = 0)
    (hout : s.placeCheck c.saggar true (c.addr 8) 96 = 0)
    (hread : s.load 12 0xFFFF (c.addr 0) 64 = (u, none, bs)) (hv : v = { u.draw with sec := { u.draw.sec with
      wrapKeys := (u.draw.sec.wrapKeys.drop c.saggar).place c.saggar (Config.freeKey u.free).toNat } }) :
    exec (.secWrapOpen id) s =
      .next ((v.extendSag c.saggar 0x0013 0 (sm3 bs)).deliver id (c.addr 8) (u.freeBytes 96) Result.zero) := by
  subst hv
  show execSecWrapOpen id s = _
  simp only [execSecWrapOpen, hc, hread]
  rw [if_neg (not_not_intro ((lowest_eq_zero_iff _).mpr (by simp [check, hoper, hid, hin, hout])))]
  rfl

theorem exec_secRekeyPrepare_of_passed (hc : s.ready id 0xA05 = some c) (hid : s.sec.identityOk = true)
    (hout : s.placeCheck c.saggar true (c.addr 0) 128 = 0) : exec (.secRekeyPrepare id) s =
    .next (({ s.draw with sec := { s.draw.sec with candidate := true } } : State).deliver id (c.addr 0)
      ((Config.identityKey (s.sec.rekeys + 1) ++ List.replicate 64 0).take 64 ++ s.freeBytes 64) Result.zero) := by
  show execSecRekeyPrepare id s = _
  simp only [execSecRekeyPrepare, hc]
  exact if_neg (not_not_intro ((lowest_eq_zero_iff _).mpr (by simp [check, hid, hout])))

section keySet
variable (hc : s.ready id 0xA04 = some c)
include hc

theorem exec_secKeySet_of_refused (h : s.keySetCheck c ≠ 0) : exec (.secKeySet id) s = .next (s.refuse id (s.keySetCheck c)) := by
  show execSecKeySet id s = _
  simp only [execSecKeySet, hc]
  exact if_pos h

theorem exec_secKeySet_of_erase (h : s.keySetCheck c = 0) (hk : c.p 0 1 = 2) :
    exec (.secKeySet id) s = .next ((s.removePair (c.p 1 1 % 64 * 256 + c.p 2 1)).finish id 0 Result.zero) := by
  show execSecKeySet id s = _
  simp only [execSecKeySet, hc]
  rw [if_neg (not_not_intro h), if_pos hk]

/-- A key record that was read and opened installs its key, as a pond key or as a pair key (R522). -/
theorem exec_secKeySet_of_record (h : s.keySetCheck c = 0) (hk : c.p 0 1 ≠ 2) {u : State} {bs : List Byte} {key : Nat}
    (hread : s.load 12 0xFFFF (c.addr 8) (State.keyRecordBytes c) = (u, none, bs)) (hkey : u.recordKey c bs = some key) :
    exec (.secKeySet id) s = .next ((if c.p 0 1 = 0 then u.installPond (c.p 1 1 % 32) key
      else u.installPair (c.p 1 1 % 64 * 256 + c.p 2 1) key).finish id 0 Result.zero) := by
  show execSecKeySet id s = _
  simp only [execSecKeySet, hc, hread, hkey]
  rw [if_neg (not_not_intro h), if_neg hk, if_neg (by simp)]

end keySet

/-- A record that is not wrapped is the key itself (R522). -/
theorem State.recordKey_of_plain (u : State) {c : Cmd} (bs : List Byte) (h : ¬(c.p 0 1 = 1 ∧ bitAt (c.p 3 1) 0 = true)) :
    u.recordKey c bs = some (beNat (bs.take 16)) := if_neg h

end sec

/-- Ten milliseconds after a pair key was changed its previous key, and the windows under that key's number, are gone (R524). -/
theorem exec_keyGraceExpiry_of_previous {g k n old : Nat} {s : State} {v : PairKey} (hn : n = g * 256 + k)
    (hv : s.sec.pairKeys.find? (fun p => p.1 == n) = some (n, v)) (hold : v.previous = some old) : exec (.keyGraceExpiry g k) s =
    if s.nowUs < v.changedUs + 10000 then .next s else .next { s with sec := { s.sec with
      pairKeys := (s.sec.pairKeys.drop n).place n { v with previous := none }
      replays := s.sec.replays.filter (fun q => q.1 / 32 != 2 * State.pairKeyId n + 1) } } := by
  subst hn
  show execKeyGraceExpiry g k s = _
  simp [execKeyGraceExpiry, hv, hold]

/-! ### The management port (R401, R404, R520) -/

section mgmt
variable {d : Datagram} {s : State} (hlink : s.fab.linkUp = true) (hpower : s.pkg.poweredDown = false)
  (hreset : s.pkg.heldInReset = false)
include hlink hpower hreset

theorem exec_mgmtDatagram_of_exchange (hd : d.session = 0) : exec (.mgmtDatagram d) s = .next (s.exchange d) := by
  show execMgmtDatagram d s = _
  rw [execMgmtDatagram, if_neg (by simp [hlink, hpower, hreset]), if_pos hd]

theorem exec_mgmtDatagram_of_no_session (hd : d.session ≠ 0) (hx : s.session? d.session = none) :
    exec (.mgmtDatagram d) s = .next s.mgmtDrop := by
  show execMgmtDatagram d s = _
  rw [execMgmtDatagram, if_neg (by simp [hlink, hpower, hreset]), if_neg hd, hx]

/-- A datagram of an open session is served when its tag, its sequence number and its packets pass, and is dropped otherwise (R401). -/
theorem exec_mgmtDatagram_of_session {x : MgmtSession} (hd : d.session ≠ 0) (hx : s.session? d.session = some x) :
    exec (.mgmtDatagram d) s = if d.tag ≠ datagramTag x.key d ∨ d.seq ∈ x.seqs ∨ d.packets = [] ∨ 16 < d.packets.length ∨
        d.packets.any (fun b => b.length != 64) = true then .next s.mgmtDrop
      else .next (d.packets.foldl (fun s b => s.mgmtPacket d.session b)
        (s.setSession { x with seqs := d.seq :: x.seqs, lastUs := s.nowUs, sender := d.sender })) := by
  show execMgmtDatagram d s = _
  rw [execMgmtDatagram, if_neg (by simp [hlink, hpower, hreset]), if_neg hd, hx]

end mgmt

theorem exec_mgmtSessionTimeout_of_session {n : Nat} {s : State} {x : MgmtSession} (hx : s.session? n = some x) :
    exec (.mgmtSessionTimeout n) s = if x.lastUs + 300000000 ≤ s.nowUs then .next (s.closeSession x) else .next s := by
  show execMgmtSessionTimeout n s = _
  simp only [execMgmtSessionTimeout, hx]

/-- Settles O34, from what each of the commands answers on its branches. -/
theorem securityCommands : Obligations.SecurityCommands := by
  refine ⟨fun id s c hc hset hn => ?_, fun id s u c auth hc hset hn hmax hplace hread => ?_,
    fun id s c hc => ⟨fun h => ?_, fun h => ?_, fun h => ?_, exec_glazeRead_of_unknown hc⟩,
    fun id s c => exec_secQuote_of_passed, fun id s c => exec_secCertRead_of_passed,
    fun id s c hc => ⟨fun ho hroom => ?_, fun ho hfull => ?_, fun ho => ?_⟩,
    fun id s u v c bs => exec_secWrapOpen_of_read,
    fun id s c hc => ⟨exec_secKeySet_of_refused hc, exec_secKeySet_of_erase hc,
      fun u bs h hread => ⟨fun hk => ?_, fun hk hplain => ?_⟩⟩,
    ?_, fun g k n s v old hn hv hold => ⟨fun hdue => ?_, fun hdue => ?_⟩,
    fun d s hlink hpower hreset => ⟨exec_mgmtDatagram_of_exchange hlink hpower hreset, fun x hd hx => ⟨?_, ?_⟩,
      exec_mgmtDatagram_of_no_session hlink hpower hreset⟩,
    fun n s x hx => ⟨fun hdue => ?_, fun hdue => ?_⟩, fun up s => rfl⟩
  · rw [exec_glazeSet_of_read hc hset (by simp [hn]) (.inl hn) (if_pos hn)]
    exact ⟨fun h => by rw [if_neg h], fun h => by rw [if_pos h]⟩
  · exact exec_glazeSet_of_read hc hset hmax (.inr hplace) ((if_neg (Nat.ne_of_gt hn)).trans hread)
  · rw [exec_glazeRead_of_known hc (by omega), h]
    rfl
  · rw [exec_glazeRead_of_known hc (by omega), h]
    rfl
  · rw [exec_glazeRead_of_known hc (by omega), h]
    rfl
  · rw [exec_secExtend_of_ready hc rfl, if_neg]
    simp [ho, lowest, check, Nat.not_le.mpr hroom]
  · exact (exec_secExtend_of_ready hc (by simp [ho, hfull, lowest, check])).trans (if_pos (by decide))
  · exact (exec_secExtend_of_ready hc (by simp [ho, lowest, check])).trans (if_pos (by decide))
  · rw [exec_secKeySet_of_record hc h (by omega) hread (State.recordKey_of_plain u bs (by omega)), if_pos hk]
  · rw [exec_secKeySet_of_record hc h (by omega) hread (State.recordKey_of_plain u bs (by simp [hplain])), if_neg (by omega)]
  · rintro id s u c hc hid hout rfl
    exact exec_secRekeyPrepare_of_passed hc hid hout
  · rw [exec_keyGraceExpiry_of_previous hn hv hold, if_neg (Nat.not_lt.mpr hdue)]
  · rw [exec_keyGraceExpiry_of_previous hn hv hold, if_pos hdue]
  · intro htag hseq hsome hmax hlen
    rw [exec_mgmtDatagram_of_session hlink hpower hreset hd hx, if_neg]
    simpa [htag, hseq, hsome, Nat.not_lt.mpr hmax] using hlen
  · intro h
    rw [exec_mgmtDatagram_of_session hlink hpower hreset hd hx, if_pos (h.imp_right .inl)]
  · rw [exec_mgmtSessionTimeout_of_session hx, if_pos hdue]
  · rw [exec_mgmtSessionTimeout_of_session hx, if_neg (Nat.not_le.mpr hdue)]

end Sys2Proof.Machine
end

section
/-! SUPPORT. The claims about the power of clusters, of the family 13_power_delivery_and_energy. -/
namespace Sys2Proof.Machine
open Sys2Proof

/-! ### Meters (R429) -/

/-- The two words in which a reading of 64 bits is returned. -/
theorem words_of_reading (m : Nat) : m % 2 ^ 32 + m / 2 ^ 32 % 2 ^ 32 * 2 ^ 32 = m % 2 ^ 64 := by
  omega

section meter
variable {id : Nat} {s : State} {c : Cmd} (hc : s.ready id 0x700 = some c)
include hc

theorem exec_pwrMeterRead_of_passed (h : s.meterCheck c = 0) {m : Nat × Nat} (hm : m = s.meterOf (c.p 0 1) (c.p 2 2) (c.p 4 1 % 64)) :
    exec (.pwrMeterRead id) s = .next (s.finish id 0
      { progress := 0, r0 := m.1 % 2 ^ 32, r1 := m.1 / 2 ^ 32 % 2 ^ 32, r2 := m.2 % 2 ^ 32, r3 := m.2 / 2 ^ 32 % 2 ^ 32 }) := by
  subst hm
  show execPwrMeterRead id s = _
  simp only [execPwrMeterRead, hc]
  exact if_neg (not_not_intro h)

theorem exec_pwrMeterRead_of_refused (h : s.meterCheck c ≠ 0) :
    exec (.pwrMeterRead id) s = .next (s.refuse id (s.meterCheck c)) := by
  show execPwrMeterRead id s = _
  simp only [execPwrMeterRead, hc]
  exact if_pos h

end meter

/-! ### Sleep and wake (R414) -/

/-- Where the checks before it pass, a last check gives the status (R11). -/
theorem lowest_append_singleton {l : List Nat} (h : lowest l = 0) (x : Nat) : lowest (l ++ [x]) = x := by
  have hstep : lowest (l ++ [x]) = lower (lowest l) x := List.foldl_append
  rw [hstep, h, lower, if_pos rfl, ite_eq_right_iff]
  exact Eq.symm

section sleepWake
variable {id : Nat} {s : State} {c : Cmd} {l : List Nat}

theorem exec_pwrSleep_of_ready (hc : s.ready id 0x701 = some c) (hl : l = span (c.p 0 2) (c.p 2 2)) {st : Nat}
    (hst : lowest (s.clusterRange c ++ [check (l.any s.clusterBusy) 0x06C0]) = st) : exec (.pwrSleep id) s =
      if st ≠ 0 then .next (s.refuse id st) else .next ((l.foldl State.sleepCluster s).finish id 0 Result.zero) := by
  subst hl hst
  show execPwrSleep id s = _
  simp only [execPwrSleep, hc]

namespace State

/-- The state in which each cluster of a list has been asked to switch on. -/
def wakeAsked (s : State) (l : List Nat) : State := l.foldl (fun s k => s.modCluster k (fun x => { x with wantOn := true })) s

/-- The run of PWR_WAKE that waits for a list of sites to return. -/
def wakeRun (id : Nat) (sites : List Nat) : ResetRun :=
  { cmd := some id, sites := sites, sluices := [], rings := [], units := [], closing := none, wake := true }

end State

theorem exec_pwrWake_of_range {w : List Nat} (hc : s.ready id 0x702 = some c) (hrange : lowest (s.clusterRange c) = 0)
    (hl : l = (span (c.p 0 2) (c.p 2 2)).filter (fun k => (s.cluster k).asleep))
    (hw : w = (l.flatMap clusterSites).filter s.siteServes) : exec (.pwrWake id) s =
      if w.isEmpty then .next ((s.wakeAsked l).finish id 0 Result.zero)
      else .next { (s.wakeAsked l).setPhase id .running with
        fw := { (s.wakeAsked l).fw with resets := (s.wakeAsked l).fw.resets ++ [State.wakeRun id w] } } := by
  subst hw hl
  show execPwrWake id s = _
  simp only [execPwrWake, hc]
  exact if_neg (not_not_intro hrange)

end sleepWake

/-! ### The ramp of a cluster (R412, R413) -/

section ramp
variable {n : Nat} {s : State} (np : Nat)

theorem exec_clusterSwitchStage_of_staging (h : (s.cluster n).staging = true) : exec (.clusterSwitchStage n np) s =
    if (s.cluster n).deferred then .next s else .next (s.closeBank n np) :=
  if_pos h

theorem exec_clusterSwitchStage_of_other_turn (h : (s.cluster n).staging = false) (hturn : s.nextRamp ≠ some n) :
    exec (.clusterSwitchStage n np) s = .next s :=
  (if_neg (Bool.eq_false_iff.mp h)).trans (if_pos hturn)

/-- The cluster whose turn it is starts, and waits first where a neighbour draws more than 950 permille of its limit. -/
theorem exec_clusterSwitchStage_of_turn (h : (s.cluster n).staging = false) (hturn : s.nextRamp = some n) :
    exec (.clusterSwitchStage n np) s =
      if 950 < np then .next (s.setCluster n { s.cluster n with staging := true, deferred := true, bank := 0, mult := 8 })
      else .next ((s.setCluster n { s.cluster n with staging := true, bank := 0, mult := State.rampMult 1 np }).closeBank n np) :=
  (if_neg (Bool.eq_false_iff.mp h)).trans (if_neg (not_not_intro hturn))

theorem exec_clusterStartDeferralEnd_of_due {ns : Nat} (hst : (s.cluster n).staging = true) (hdef : (s.cluster n).deferred = true)
    (hdue : np ≤ 950 ∨ 50000 ≤ ns) : exec (.clusterStartDeferralEnd n np ns) s =
      .next ((s.setCluster n { s.cluster n with deferred := false }).recordFw 0 0x6005
        (if (s.cluster n).assigned then some (s.cluster n).saggar else none) 0 (p4 n ++ p4 ns)) :=
  if_pos ⟨hst, hdef, hdue⟩

end ramp

/-! ### The phases of a cluster's regulator (R415) -/

/-- Phases that a regulator's mask holds. -/
def phaseCount (left : BitVec 4) : Nat := ((List.range 4).filter (fun j => bitAt left.toNat j)).length

namespace State

/-- The cluster goes dark: its sites enter reset, the spare and the active ones retire, and its ramp stops (R415). -/
def darkened (u : State) (n : Nat) : State :=
  ((u.clusterActive n).foldl (fun s i => s.retireSite i .retired) ((clusterSites n).foldl (fun s i => s.modSite i (fun y =>
    if y.role = .spare then { y with role := .retired } else y)) ((clusterSites n).foldl enterSite u))).modCluster n (fun y =>
      { y with dark := true, wantOn := false, staging := false, bank := 0, mult := 1, deferred := false })

end State

section phases
variable {n k : Nat} {s : State}

/-- Phase `k` of regulator `n` has one number (Table 13-3). -/
theorem phase_of_number (n : Nat) (hk : k < 4) : (4 * n + k) / 4 = n ∧ (4 * n + k) % 4 = k := by
  omega

theorem exec_regulatorPhaseFault_of_out (hk : k < 4) (hout : bitAt (s.cluster n).phasesOk.toNat k = false) :
    exec (.regulatorPhaseFault (4 * n + k)) s = .next s := by
  obtain ⟨hdiv, hmod⟩ := phase_of_number n hk
  show execRegulatorPhaseFault (4 * n + k) s = _
  simp only [execRegulatorPhaseFault, hdiv, hmod]
  exact if_pos (.inr (by simp [hout]))

variable {left : BitVec 4} (hn : n < clustersN) (hk : k < 4) (hok : bitAt (s.cluster n).phasesOk.toNat k = true)
  (hleft : left = BitVec.ofNat 4 ((s.cluster n).phasesOk.toNat - 2 ^ k))
include hn hk hok hleft

theorem exec_regulatorPhaseFault_of_three (h : phaseCount left = 3) : exec (.regulatorPhaseFault (4 * n + k)) s =
    .next ((s.setCluster n { s.cluster n with phasesOk := left, derated := true }).recordFw 0 0x6003
      (if (s.cluster n).assigned then some (s.cluster n).saggar else none) 0 (p4 n ++ p4 (4 * n + k))) := by
  subst hleft
  obtain ⟨hdiv, hmod⟩ := phase_of_number n hk
  rw [phaseCount] at h
  show execRegulatorPhaseFault (4 * n + k) s = _
  simp only [execRegulatorPhaseFault, hdiv, hmod]
  rw [if_neg (by simp [hok, Nat.not_le.mpr hn]), if_pos h, decide_eq_true h, Bool.true_or]

/-- With two phases or fewer left the cluster is dark, and goes dark if it was not. -/
theorem exec_regulatorPhaseFault_of_fewer (h : phaseCount left ≠ 3) {u : State}
    (hu : u = s.setCluster n { s.cluster n with phasesOk := left }) : exec (.regulatorPhaseFault (4 * n + k)) s =
      if (s.cluster n).dark then .next u
      else .next (((clusterSites n).foldl State.siteReturned (u.darkened n)).recordFw 0 0x6004
        (if (s.cluster n).assigned then some (s.cluster n).saggar else none) 0 (p4 n ++ p4 (u.clusterActive n).length)).settleResets := by
  subst hu hleft
  obtain ⟨hdiv, hmod⟩ := phase_of_number n hk
  rw [phaseCount] at h
  show execRegulatorPhaseFault (4 * n + k) s = _
  simp only [execRegulatorPhaseFault, hdiv, hmod]
  rw [if_neg (by simp [hok, Nat.not_le.mpr hn]), if_neg h, decide_eq_false h, Bool.false_or]
  rfl

end phases

/-- Settles O35, from what each of the six commands answers on its branches. -/
theorem clusterPower : Obligations.ClusterPower := by
  refine ⟨fun id s c hc => ⟨fun h => ⟨_, exec_pwrMeterRead_of_passed hc h rfl, rfl, words_of_reading _, words_of_reading _⟩,
      exec_pwrMeterRead_of_refused hc⟩,
    fun id s c l hc hl => ⟨fun hst => ?_, fun hrange hbusy => ?_⟩, ?_,
    fun n np s => ⟨fun hst hturn hnp => ⟨_, ?_, rfl⟩, fun hst hturn hnp => ⟨_, ?_, rfl⟩, fun hst hdef => ?_, ?_⟩,
    fun n np ns s => exec_clusterStartDeferralEnd_of_due np,
    fun n k s left hn hk hok hleft => ⟨exec_regulatorPhaseFault_of_three hn hk hok hleft, fun h hdark => ?_, ?_⟩,
    fun n k s hn => exec_regulatorPhaseFault_of_out (Nat.mod_lt k (by decide))⟩
  · rw [exec_pwrSleep_of_ready hc hl hst, if_neg (not_not_intro rfl)]
  · rw [exec_pwrSleep_of_ready hc hl (lowest_append_singleton hrange _), hbusy]
    exact if_pos (by decide)
  · rintro id s u c l w hc hrange hl hw rfl
    refine ⟨fun h => ?_, fun h => ⟨State.wakeRun id w, ?_, rfl, rfl, rfl, rfl, rfl, rfl⟩⟩
    · exact (exec_pwrWake_of_range hc hrange hl hw).trans (if_pos (List.isEmpty_iff.mpr h))
    · exact (exec_pwrWake_of_range hc hrange hl hw).trans (if_neg (mt List.isEmpty_iff.mp h))
  · rw [exec_clusterSwitchStage_of_turn np hst hturn, if_pos hnp]
  · rw [exec_clusterSwitchStage_of_turn np hst hturn, if_neg (Nat.not_lt.mpr hnp)]
  · rw [exec_clusterSwitchStage_of_staging np hst, if_neg (Bool.eq_false_iff.mp hdef)]
  · rintro (⟨hst, hdef⟩ | ⟨hst, hturn⟩)
    · rw [exec_clusterSwitchStage_of_staging np hst, if_pos hdef]
    · exact exec_clusterSwitchStage_of_other_turn np hst hturn
  · exact (exec_regulatorPhaseFault_of_fewer hn hk hok hleft h rfl).trans (if_pos hdark)
  · rintro u v h hlit hu rfl
    exact (exec_regulatorPhaseFault_of_fewer hn hk hok hleft h hu).trans (if_neg (Bool.eq_false_iff.mp hlit))

end Sys2Proof.Machine
end

section
/-! SUPPORT. The claims about thermal control and the coolant, of the family 14_thermal_and_cooling. -/
namespace Sys2Proof.Machine
open Sys2Proof

/-! ### The kiln's model (R437, R442) -/

theorem exec_kilnModelUpdate_of_up {s : State} (hup : s.up = true) (l : List PointIn) : ∃ t : State,
    exec (.kilnModelUpdate l) s =
      .next { t with thermal := { t.thermal with kilnStale := false, lastUpdateUs := t.nowUs, staleRaises := 0 } } :=
  ⟨_, if_neg (by simp [hup])⟩

/-- The cone rises by one for every 1 K that the margin is below 8 K (Table 14-3). -/
theorem coneOfMargin_eq (d : Int) : coneOfMargin d = min 7 ((128 - d) / 16).toNat := by
  unfold coneOfMargin
  repeat' split
  all_goals omega

theorem exec_kilnStaleTimeout_of_due {s : State} (hup : s.up = true) (hfresh : s.thermal.kilnStale = false)
    (hdue : s.thermal.lastUpdateUs + 500 ≤ s.nowUs) : exec .kilnStaleTimeout s = .next ((List.range 36).foldl (fun s b =>
      (s.doubleRate b 0 (s.sensor (layerSensor 0 b)).temp).doubleRate b 1 (s.sensor (layerSensor 1 b)).temp)
        (({ s with thermal := { s.thermal with kilnStale := true, staleRaises := 0 } } : State).recordFw 0 0x7009 none 0 [])) :=
  if_neg (by simp [hup, hfresh, hdue])

namespace State

section clusters
variable (f : Cluster → Cluster) (s : State) (l : List Nat)

/-- Changing the clusters of a list changes their table alone. -/
theorem foldl_modCluster_clusters : l.foldl (fun s c => s.modCluster c f) s =
    { s with clusters := (l.foldl (fun s c => s.modCluster c f) s).clusters } := by
  induction l generalizing s with
  | nil => rfl
  | cons q l ih => rw [List.foldl_cons, ih]; rfl

theorem cluster_foldl_modCluster_not_mem {c : Nat} (h : c ∉ l) : (l.foldl (fun s c => s.modCluster c f) s).cluster c = s.cluster c := by
  induction l generalizing s with
  | nil => rfl
  | cons q l ih =>
    rw [List.foldl_cons, ih _ (List.not_mem_of_not_mem_cons h), modCluster_eq, cluster_setCluster_ne _ _ _ _ (List.ne_of_not_mem_cons h)]

/-- A list that names no cluster twice changes each of its clusters once. -/
theorem cluster_foldl_modCluster_mem {c : Nat} (hn : l.Nodup) (h : c ∈ l) :
    (l.foldl (fun s c => s.modCluster c f) s).cluster c = f (s.cluster c) := by
  induction l generalizing s with
  | nil => exact (List.not_mem_nil h).elim
  | cons q l ih =>
    obtain ⟨hq, hl⟩ := List.nodup_cons.mp hn
    rw [List.foldl_cons]
    rcases List.mem_cons.mp h with rfl | h
    · rw [cluster_foldl_modCluster_not_mem f _ l hq, modCluster_eq, cluster_setCluster_same]
    · rw [ih _ hl h, modCluster_eq, cluster_setCluster_ne _ _ _ _ (fun e : c = q => hq (e ▸ h))]

end clusters

end State

/-- What a millisecond without updates makes of a cluster: the thermal cone one higher, and the cone at least that (R437). -/
def Cluster.staleRaised (x : Cluster) : Cluster :=
  { x with thermalCone := min 7 (x.thermalCone + 1), cone := max x.cone (min 7 (x.thermalCone + 1)) }

theorem exec_kilnStaleConeRaise_of_due {s : State} (hstale : s.thermal.kilnStale = true)
    (hdue : s.thermal.lastUpdateUs + 500 + 1000 * (s.thermal.staleRaises + 1) ≤ s.nowUs) : exec .kilnStaleConeRaise s =
      .next ((List.range clustersN).foldl (fun s c => s.modCluster c Cluster.staleRaised)
        { s with thermal := { s.thermal with staleRaises := s.thermal.staleRaises + 1 } }) :=
  if_neg (by simp [hstale, Nat.not_lt.mpr hdue])

/-! ### Clamps and the shutdown (R443, R444) -/

section clamps
variable {p v : Nat} {s : State}

theorem exec_thermalClamp_of_reached (hv : v % 65536 ≠ 0x8000) (hlim : ptLimit (ptOf p) ≤ tempOf v)
    (hfree : ∃ c ∈ ptClusters (ptOf p), p ∉ (s.cluster c).clamps)
    (hgood : ∃ k ∈ ptSensors (ptOf p), (s.sensor k).suspect = false ∧ (s.sensor k).failed = false) : exec (.thermalClamp p v) s =
      .next (((ptClusters (ptOf p)).foldl (fun s c => s.modCluster c (fun y => { y with clamps := insertNat p y.clamps, cone := 7 })) s).recordFw
        0 0x7005 none 0 (p4 p ++ pInt (tempOf v))) := by
  obtain ⟨c, hc, hp⟩ := hfree
  obtain ⟨k, hk, hsus, hfail⟩ := hgood
  refine if_neg ?_
  rintro (h | h | h | h | h)
  · exact hv h
  · exact Int.not_le.mpr h hlim
  · exact List.ne_nil_of_mem hc (List.isEmpty_iff.mp h)
  · simpa [hsus, hfail] using List.all_eq_true.mp h k hk
  · exact hp (of_decide_eq_true (List.all_eq_true.mp h c hc))

theorem exec_thermalClamp_of_below (h : v % 65536 = 0x8000 ∨ tempOf v < ptLimit (ptOf p)) : exec (.thermalClamp p v) s = .next s :=
  if_pos (h.imp_right .inl)

theorem exec_thermalClampRelease_of_below (hv : v % 65536 ≠ 0x8000) (hlim : tempOf v < ptLimit (ptOf p) - 32) :
    exec (.thermalClampRelease p v) s =
      .next ((ptClusters (ptOf p)).foldl (fun s c => s.modCluster c (fun y => { y with clamps := y.clamps.filter (· != p) })) s) :=
  if_neg (not_or.mpr ⟨hv, Int.not_le.mpr hlim⟩)

end clamps

theorem exec_thermalShutdown_of_powered {s : State} (h : s.pkg.poweredDown = false) (k : Nat) :
    exec (.thermalShutdown k) s = .next (((s.stopCommands 0x05D0).recordFw 0 0x7006 none 0 (p4 k)).powerDown) :=
  if_neg (Bool.eq_false_iff.mp h)

/-! ### The coolant (R447) -/

namespace State

/-- The `k`-th free value of a state, taken into a range. -/
def freeIn (s : State) (k lo hi : Nat) : Nat := lo + (Config.freeWord (s.free + k)).toNat % (hi - lo + 1)

theorem le_freeIn (s : State) (k lo hi : Nat) : lo ≤ s.freeIn k lo hi := Nat.le_add_right ..

theorem freeIn_le (s : State) (k : Nat) {lo hi : Nat} (h : lo ≤ hi) : s.freeIn k lo hi ≤ hi := by
  have hlt : (Config.freeWord (s.free + k)).toNat % (hi - lo + 1) < hi - lo + 1 := Nat.mod_lt _ (Nat.succ_pos _)
  rw [freeIn]
  omega

theorem coolantBad_inlet_of_range {v : Nat} (hlo : 288 ≤ v) (hhi : v ≤ 640) : coolantBad 0 v = false := by
  have hcode : tempOf v = v := by rw [tempOf, Nat.mod_eq_of_lt (by omega), if_pos (by omega)]
  simp only [coolantBad, hcode, if_true, decide_eq_false_iff_not]
  omega

theorem coolantBad_drop_iff (v : Nat) : coolantBad 2 v = true ↔ 1500 < v := by
  simp [coolantBad]

/-- What is measured once every quantity of the coolant is in range. -/
def inletInRange (s : State) : Nat := if coolantBad 0 s.thermal.inlet then s.freeIn 0 288 640 else s.thermal.inlet
def flowInRange (s : State) : Nat := if 6000 < s.thermal.flow ∨ s.thermal.flow < 3000 then s.freeIn 1 3000 6000 else s.thermal.flow
def dropInRange (s : State) : Nat := if 1500 < s.thermal.dp then s.freeIn 2 0 1500 else s.thermal.dp

variable (s : State)

theorem coolantBad_inletInRange : coolantBad 0 s.inletInRange = false := by
  unfold inletInRange
  split
  · exact coolantBad_inlet_of_range (s.le_freeIn ..) (s.freeIn_le 0 (by decide))
  · next h => exact Bool.eq_false_iff.mpr h

theorem flowInRange_mem : 3000 ≤ s.flowInRange ∧ s.flowInRange ≤ 6000 := by
  unfold flowInRange
  split
  · exact ⟨s.le_freeIn .., s.freeIn_le 1 (by decide)⟩
  · next h => omega

theorem coolantBad_dropInRange : coolantBad 2 s.dropInRange = false := by
  rw [Bool.eq_false_iff, Ne, coolantBad_drop_iff, Nat.not_lt, dropInRange]
  split
  · exact s.freeIn_le 2 (by decide)
  · next h => exact Nat.not_lt.mp h

end State

section coolant
variable {q v f : Nat} {s : State}

theorem exec_coolantOutOfRange_of_bad (h : State.coolantBad q v = true) : exec (.coolantOutOfRange q v) s =
    .next (({ s.coolantSet q v with thermal := { (s.coolantSet q v).thermal with coolantOor := true } } : State).recordFw 0 0x7007 none 0
      (p4 q ++ (if q = 0 then pInt (tempOf v) else p4 v))) :=
  if_neg (by simp [h])

theorem exec_coolantOorClear_of_set (h : s.thermal.coolantOor = true) : exec .coolantOorClear s =
    .next { s.draw.draw.draw with thermal := { s.thermal with
      coolantOor := false, inlet := s.inletInRange, flow := s.flowInRange, dp := s.dropInRange } } :=
  if_neg (by simp [h])

theorem exec_flowLimited_of_low (hf : f < 3000) (hoff : s.thermal.flowLimited = false) : exec (.flowLimited f) s =
    .next (({ s with thermal := { s.thermal with flowLimited := true, flow := f } } : State).setCap.recordFw 0 0x7007 none 0 (p4 1 ++ p4 f)) :=
  if_neg (by simp [hf, hoff])

theorem exec_flowLimitLift_of_enough (hf : 3000 ≤ f) (hon : s.thermal.flowLimited = true) : exec (.flowLimitLift f) s =
    .next ({ s with thermal := { s.thermal with flowLimited := false, flow := f } } : State).setCap :=
  if_neg (by simp [hf, hon])

end coolant

/-! ### The heat balance and flow records (R448, R449) -/

section flow
variable {w : Nat} {s : State}

theorem exec_heatMismatch_of_low (hoff : s.thermal.heatMismatch = false) (hw : w * 100000 < 85 * s.inputMw) : exec (.heatMismatch w) s =
    .next (({ s with thermal := { s.thermal with heatMismatch := true, heatW := w } } : State).recordFw 0 0x700B none 0 []) :=
  if_neg (by simp [hoff, hw])

/-- A cluster of the package has a thermal cone above 0. -/
def State.hot (s : State) : Bool := s.clusters.any (fun p => decide (0 < s.thermalConeOf p.1))

variable (hask : s.thermal.flowAsk = true) (hup : s.up = true)
include hask hup

theorem exec_flowRecord_of_hot (hhot : s.hot = true) (hflow : s.thermal.flow < 6000) : exec (.flowRecord w) s =
    .next ({ s with thermal := { s.thermal with heatW := w, flowWant := min 6000 (s.thermal.flow + 500) } } : State).sendFlow :=
  (if_neg (by simp [hask, hup])).trans (if_pos ⟨hhot, hflow⟩)

theorem exec_flowRecord_of_cool (hcool : s.hot = false) (hwant : 0 < s.thermal.flowWant) : exec (.flowRecord w) s =
    .next ({ s with thermal := { s.thermal with heatW := w, flowWant := 0 } } : State).sendFlow :=
  (if_neg (by simp [hask, hup])).trans ((if_neg fun h => Bool.eq_false_iff.mp hcool h.1).trans
    (if_pos ⟨congrArg (!·) hcool, hwant⟩))

end flow

/-- Settles O37, from what each command answers: the table of cones is one division, a raise meets each cluster once, and
a clear leaves every quantity in its range. -/
theorem thermalEvents : Obligations.ThermalEvents := by
  refine ⟨fun l s hup => ?_, fun d => ?_, ?_, fun s hstale hdue => ?_, ?_, fun p v s => exec_thermalClampRelease_of_below,
    fun k s h => exec_thermalShutdown_of_powered h k, ?_, fun s h => ?_,
    fun f s => ⟨exec_flowLimited_of_low, fun h => if_pos h, exec_flowLimitLift_of_enough, fun h => if_pos h⟩,
    fun w s => ⟨exec_heatMismatch_of_low, fun h => if_pos h, rfl, exec_flowRecord_of_hot, exec_flowRecord_of_cool, fun h => if_pos (.inl h)⟩⟩
  · obtain ⟨t, ht⟩ := exec_kilnModelUpdate_of_up hup l
    exact ⟨_, ht, rfl, rfl, rfl⟩
  · rw [coneOfMargin_eq]
    exact ⟨by omega, by omega, by omega⟩
  · rintro s u hup hfresh hdue rfl
    exact exec_kilnStaleTimeout_of_due hup hfresh hdue
  · exact ⟨_, exec_kilnStaleConeRaise_of_due hstale hdue,
      fun c hc => State.cluster_foldl_modCluster_mem _ _ _ List.nodup_range (List.mem_range.mpr hc), State.foldl_modCluster_clusters ..⟩
  · rintro p v s u l rfl rfl
    exact ⟨exec_thermalClamp_of_reached, exec_thermalClamp_of_below⟩
  · rintro q v s u rfl
    exact ⟨exec_coolantOutOfRange_of_bad, fun h => if_pos h⟩
  · obtain ⟨hlo, hhi⟩ := s.flowInRange_mem
    exact ⟨_, exec_coolantOorClear_of_set h, rfl, s.coolantBad_inletInRange, s.coolantBad_dropInRange, hhi, hlo,
      fun hlo hhi => if_neg (by omega), fun hdp => if_neg (Nat.not_lt.mpr hdp), fun hin => if_neg (Bool.eq_false_iff.mp hin)⟩

end Sys2Proof.Machine
end

section
/-! SUPPORT. The claims about the cistern, firmware and the twinned pair, of the families 15_reliability_and_cistern and
16_bringup_reset_repair, and of the machine as a whole. -/
namespace Sys2Proof.Machine
open Sys2Proof

/-! ### Every step (R469, R501) -/

/-- Settles O49: what every step keeps of the glazed record is the third part of `step_balances`. -/
theorem glazedRecordBalances : Obligations.GlazedRecordBalances := by
  intro s t hok hstep
  obtain ⟨-, -, hglazed⟩ := step_balances hstep
  exact hglazed hok

/-- Settles O2: `step` is a tick on an empty queue. -/
theorem emptyQueueStepTicks : Obligations.EmptyQueueStepTicks := by
  intro s hq
  unfold step
  split
  next => rfl
  next c rest h => exact (List.cons_ne_nil c rest (h.symm.trans hq)).elim

/-- Settles O50, by evaluation: the reset state is closed and its fields are literals. -/
theorem resetMeetsTheInvariants : Obligations.ResetMeetsTheInvariants :=
  ⟨by decide, rfl, by decide, rfl, rfl, rfl, rfl, rfl⟩

/-! ### A store of entries (R472) -/

/-- Where no two entries share a SEQ, removing the first one of a SEQ removes every one of it. -/
theorem removeFirst_seq_eq_filter {l : List Entry} (h : l.Pairwise (fun a b => a.seq ≠ b.seq)) (n : Nat) :
    removeFirst (fun x => x.seq == n) l = l.filter (fun x => x.seq != n) := by
  induction h with
  | nil => rfl
  | @cons a l ha _ ih =>
    rw [removeFirst]
    split
    · next hn =>
      obtain rfl := beq_iff_eq.mp hn
      rw [List.filter_cons_of_neg (by simp), List.filter_eq_self.mpr fun x hx => bne_iff_ne.mpr (ha x hx).symm]
    · next hn => rw [List.filter_cons_of_pos (by simpa using hn), ih]

/-- The first entry that meets a condition has the lowest SEQ of those that do. -/
theorem seq_le_of_find? {l : List Entry} {p : Entry → Bool} {o : Entry} (hl : l.Pairwise (fun a b => a.seq < b.seq))
    (ho : l.find? p = some o) {x : Entry} (hx : x ∈ l) (hp : p x = true) : o.seq ≤ x.seq := by
  obtain ⟨-, before, after, rfl, hbefore⟩ := List.find?_eq_some_iff_append.mp ho
  obtain ⟨-, hrest, -⟩ := List.pairwise_append.mp hl
  rcases List.mem_append.mp hx with hx | hx
  · have hnot : p x = false := by simpa using hbefore x hx
    exact (Bool.eq_false_iff.mp hnot hp).elim
  · rcases List.mem_cons.mp hx with rfl | hx
    · exact Nat.le_refl _
    · exact Nat.le_of_lt (List.rel_of_pairwise_cons hrest hx)

section storeEntry
variable {cap : Nat} {l : List Entry} {e : Entry}

theorem storeEntry_of_room (h : l.length < cap) : storeEntry cap l e = some (l ++ [{ e with slot := freeSlot l }]) := if_pos h

theorem storeEntry_of_none (h : cap ≤ l.length) (hf : l.find? (fun o => decide (o.severity ≤ e.severity)) = none) :
    storeEntry cap l e = none := by
  rw [storeEntry, if_neg (Nat.not_lt.mpr h), hf]

theorem storeEntry_of_found (h : cap ≤ l.length) {o : Entry} (hf : l.find? (fun o => decide (o.severity ≤ e.severity)) = some o) :
    storeEntry cap l e = some (removeFirst (fun x => x.seq == o.seq) l ++ [{ e with slot := o.slot }]) := by
  rw [storeEntry, if_neg (Nat.not_lt.mpr h), hf]

end storeEntry

/-- Settles O54: the entry that is found first is the one of lowest SEQ, as the store is kept in that order. -/
theorem cisternReplacement : Obligations.CisternReplacement := by
  refine fun cap l e => ⟨storeEntry_of_room, fun hfull hall => storeEntry_of_none hfull ?_, fun hfull hl ⟨q, hq, hsev⟩ => ?_⟩
  · exact List.find?_eq_none.mpr fun o ho => by simpa using hall o ho
  · have hsome : (l.find? (fun o => decide (o.severity ≤ e.severity))).isSome := List.find?_isSome.mpr ⟨q, hq, decide_eq_true hsev⟩
    obtain ⟨o, ho⟩ := Option.isSome_iff_exists.mp hsome
    refine ⟨o, List.mem_of_find?_eq_some ho, of_decide_eq_true (List.find?_some ho :), fun x hx hle => ?_, ?_⟩
    · exact seq_le_of_find? hl ho hx (decide_eq_true hle)
    · rw [storeEntry_of_found hfull ho, removeFirst_seq_eq_filter (hl.imp Nat.ne_of_lt)]

/-- An entry with nothing but its SEQ and its severity. -/
def bareEntry (seq severity : Nat) : Entry :=
  { seq, slot := 0, code := 0, severity, mirrored := false, hasSaggar := false, saggar := 0, domain := 0, index := 0, originCount := 0,
    suppressed := 0, job := 0, payload := [] }

/-- A full store meets the hypotheses of `cisternReplacement`: those of its third clause for severity 5, and of its second for 2. -/
theorem witness_CisternReplacement : let l := [bareEntry 1 6, bareEntry 2 4, bareEntry 3 3]
    3 ≤ l.length ∧ l.Pairwise (fun a b => a.seq < b.seq) ∧ (∃ o ∈ l, o.severity ≤ 5) ∧ ∀ o ∈ l, 2 < o.severity := by
  decide

/-! ### MIRROR_WRITE, CIS_READ and CIS_CLEAR (R473, R474, R476) -/

namespace State

section mirrorOne
variable {s : State} {e : Entry}

theorem mirrorOne_of_dropped (h : storeEntry 8192 s.rel.mirror { e with mirrored := true } = none) : s.mirrorOne e =
    { s with rel := { s.rel with
      toMirror := removeFirst (fun x => x.seq == e.seq) s.rel.toMirror, mirrorDrop := satAdd (top 32) s.rel.mirrorDrop 1 } } := by
  simp only [mirrorOne, h]

theorem mirrorOne_of_stored {l : List Entry} (h : storeEntry 8192 s.rel.mirror { e with mirrored := true } = some l) : s.mirrorOne e =
    { s with rel := { s.rel with
      toMirror := removeFirst (fun x => x.seq == e.seq) s.rel.toMirror, mirror := l,
      entries := s.rel.entries.map (fun x => if x.seq = e.seq then { x with mirrored := true } else x) } } := by
  simp only [mirrorOne, h]

end mirrorOne

/-- The checks of CIS_READ (R474). -/
def cisReadCheck (s : State) (c : Cmd) : Nat :=
  lowest [check (c.p 16 2 = 0) 0x0102, check (1024 < c.p 16 2) 0x0101,
    check (!decide (c.p 16 2 = 0 ∨ s.reach (s.engineAuth c.saggar) true (c.addr 8) (64 * c.p 16 2) = 0)) 0x0220]

/-- The SEQ that comes after the entries `l` that a CIS_READ of `n` gives (R474). -/
def cisNext (s : State) (n : Nat) (l : List Entry) : Nat :=
  if l.length = n then (l.getLast?.map (fun e => e.seq + 1)).getD 0 else s.rel.nextSeq

/-- A CIS_READ asks for entries below all that its store holds. -/
def cisBelow (s : State) (c : Cmd) : Bool :=
  match s.cisLowest c with
  | some q => decide (c.p 0 8 < q)
  | none => false

/-- The results of a CIS_READ of `n` that gives the entries `l`. -/
def cisResult (s : State) (c : Cmd) (n : Nat) (l : List Entry) : Result :=
  { progress := 0, r0 := l.length, r1 := s.cisNext n l % 2 ^ 32, r2 := s.cisNext n l / 2 ^ 32 % 2 ^ 32, r3 := b2n (s.cisBelow c) }

/-- The state without the entries at or below `lim`, in the mirror too when `both` asks for it (R476). -/
def cisCleared (s : State) (lim : Nat) (both : Bool) : State :=
  { s with rel := { s.rel with
    entries := s.rel.entries.filter (fun e => decide (lim < e.seq)),
    mirror := if both then s.rel.mirror.filter (fun e => decide (lim < e.seq)) else s.rel.mirror } }

/-- The number of entries that a CIS_CLEAR drops. -/
def cisGone (s : State) (lim : Nat) (both : Bool) : Nat :=
  (s.rel.entries.filter (fun e => !decide (lim < e.seq))).length +
    (if both then (s.rel.mirror.filter (fun e => !decide (lim < e.seq))).length else 0)

end State

theorem exec_mirrorWrite_of_waiting {n : Nat} {s : State} {e : Entry} (h : s.rel.toMirror.find? (fun e => e.seq == n) = some e) :
    exec (.mirrorWrite n) s = .next (s.mirrorOne e) := by
  show execMirrorWrite n s = _
  simp only [execMirrorWrite, h]

section cisRead
variable {id : Nat} {s : State} {c : Cmd} (hc : s.ready id 0x808 = some c)
include hc

theorem exec_cisRead_of_refused (h : s.cisReadCheck c ≠ 0) : exec (.cisRead id) s = .next (s.refuse id (s.cisReadCheck c)) := by
  show execCisRead id s = _
  simp only [execCisRead, hc]
  exact if_pos h

theorem exec_cisRead_of_stored (h : s.cisReadCheck c = 0) {u : State} {l : List Entry} (hl : l = (s.cisEntries c).take (c.p 16 2))
    (hu : s.store 12 0xFFFF (c.addr 8) (l.flatMap entryBytes) = (u, none)) :
    exec (.cisRead id) s = .next (u.finish id 0 (s.cisResult c (c.p 16 2) l)) := by
  subst hl
  show execCisRead id s = _
  simp only [execCisRead, hc, hu]
  exact if_neg (not_not_intro h)

end cisRead

theorem exec_cisClear_of_ready {id : Nat} {s : State} {c : Cmd} (hc : s.ready id 0x809 = some c) {lim : Nat} {both : Bool}
    (hlim : c.p 0 8 = lim) (hboth : bitAt (c.p 8 1) 0 = both) : exec (.cisClear id) s =
      .next (((s.cisCleared lim both).recordFw 4 0x8010 none 0 (p8 lim ++ p4 (s.cisGone lim both) ++ p4 (b2n both))).finish id 0
        Result.zero) := by
  subst hlim hboth
  show execCisClear id s = _
  simp only [execCisClear, hc]
  rfl

/-- Settles O32, from what each of the three commands answers. -/
theorem cisternCommands : Obligations.CisternCommands := by
  refine ⟨fun n s e he => ⟨_, exec_mirrorWrite_of_waiting he, ?_⟩, ?_, fun id s c hc => ⟨fun h => ?_, fun h hr => ?_⟩,
    fun id s c hc => ⟨_, _, exec_cisClear_of_ready hc rfl rfl, rfl, rfl, rfl⟩⟩
  · cases h : storeEntry 8192 s.rel.mirror { e with mirrored := true } with
    | none =>
      rw [State.mirrorOne_of_dropped h]
      exact ⟨rfl, fun _ => ⟨rfl, rfl, rfl⟩, nofun, rfl⟩
    | some l =>
      rw [State.mirrorOne_of_stored h]
      exact ⟨rfl, nofun, fun _ hl => ⟨Option.some.inj hl, rfl, rfl⟩, rfl⟩
  · rintro id n s u c l hc rfl hpos hmax hr hl hu
    have hpass : s.cisReadCheck c = 0 := by
      simp [State.cisReadCheck, lowest, check, Nat.ne_of_gt hpos, Nat.not_lt.mpr hmax, hr]
    refine ⟨_, exec_cisRead_of_stored hc hpass hl hu, rfl, rfl, fun h => ?_, fun e h hlast => ?_⟩
    · simp only [State.cisResult, State.cisNext, if_neg (Nat.ne_of_lt h), and_self]
    · simp only [State.cisResult, State.cisNext, if_pos h, hlast, Option.map_some, Option.getD_some, and_self]
  · have hst : s.cisReadCheck c = 0x0102 := by simp [State.cisReadCheck, lowest, check, h]
    rw [exec_cisRead_of_refused hc (by simp [hst]), hst]
  · have hst : s.cisReadCheck c = 0x0101 := by simp [State.cisReadCheck, lowest, check, h, hr, Nat.ne_of_gt (Nat.zero_lt_of_lt h)]
    rw [exec_cisRead_of_refused hc (by simp [hst]), hst]

/-! ### FW_STAGE (R495, R497) -/

theorem exec_fwStage_of_read {id n : Nat} {s u : State} {c : Cmd} {bs : List Byte} (hc : s.ready id 0x920 = some c)
    (hst : s.stageCheck c = 0) (hn : s.freeSlotOf (c.p 0 1) = some n) (hu : s.load 7 0xFFFF (c.addr 8) (c.p 16 4) = (u, none, bs)) :
    exec (.fwStage id) s = if u.verifyImage (c.p 0 1) bs ≠ 0 then
        .next ((u.setSlot (c.p 0 1) n ImageSlot.empty).finish id (u.verifyImage (c.p 0 1) bs) Result.zero)
      else .next (((u.setSlot (c.p 0 1) n { image := bs, ok := true }).imageEvent (c.p 0 1) n).finish id 0
        (Result.w01 (State.imageVersion bs) n)) := by
  show execFwStage id s = _
  simp only [execFwStage, hc, hst, hn, hu]
  rfl

/-! ### FW_ACTIVATE (R499, R500) -/

/-- The activation of a core runtime that FW_ACTIVATE begins (R500). -/
def State.newRtActivation (s : State) (id : Nat) (c : Cmd) : RtActivation :=
  { cmd := id, slot := 1 - s.activeSlot 1, floor := bitAt (c.p 2 1) 0, all := bitAt (c.p 1 1) 6, left := s.activateTargets c, sites := 0,
    sinceUs := s.nowUs, started := false }

/-- The live activation of a management image that FW_ACTIVATE begins (R499). -/
def State.newActivation (s : State) (id : Nat) (c : Cmd) : Activation :=
  { cmd := id, slot := 1 - s.activeSlot 0, floor := bitAt (c.p 2 1) 0, moved := [], lastUs := s.nowUs }

section fwActivate
variable {id : Nat} {s : State} {c : Cmd} (hc : s.ready id 0x921 = some c)
include hc

theorem exec_fwActivate_of_refused (h : s.activateCheck c ≠ 0) :
    exec (.fwActivate id) s = .next (s.refuse id (s.activateCheck c)) := by
  show execFwActivate id s = _
  simp only [execFwActivate, hc]
  exact if_pos h

variable (hst : s.activateCheck c = 0)
include hst

theorem exec_fwActivate_of_runtime (hk : c.p 0 1 = 1) (hl : s.activateTargets c ≠ []) : exec (.fwActivate id) s =
    .next { s.setPhase id .running with
      fw := { (s.setPhase id .running).fw with rtActivation := some (s.newRtActivation id c) } } := by
  have hne : ¬ (s.activateTargets c).isEmpty = true := mt List.isEmpty_iff.mp hl
  show execFwActivate id s = _
  simp only [execFwActivate, hc, hst, hk, ne_eq, not_true_eq_false, if_false, if_true, if_neg hne]
  rfl

theorem exec_fwActivate_of_refire (hk : c.p 0 1 = 0) (hb : bitAt (c.p 2 1) 1 = true) : exec (.fwActivate id) s =
    .next (({ s with fw := { s.fw with refireMgmt := some (1 - s.activeSlot 0), refireFloor := bitAt (c.p 2 1) 0 } } : State).finish id 0
      Result.zero) := by
  show execFwActivate id s = _
  simp only [execFwActivate, hc, hst, hk, hb]
  rfl

theorem exec_fwActivate_of_live (hk : c.p 0 1 = 0) (hb : bitAt (c.p 2 1) 1 = false) : exec (.fwActivate id) s =
    .next { s.setPhase id .running with fw := { s.fw with activation := some (s.newActivation id c) } } := by
  show execFwActivate id s = _
  simp only [execFwActivate, hc, hst, hk, hb]
  rfl

end fwActivate

/-! ### A live activation (R499) -/

theorem exec_fwRoleHandover_of_standby {r k : Nat} {s u : State} {a : Activation} (ha : s.fw.activation = some a) (hr : r < 6)
    (hm : r ∉ a.moved) (hk : k ∈ s.standbys) (hu : u = (s.setRoleMc r k).setMc k { s.mc k with slot := a.slot, tookUs := s.nowUs }) :
    exec (.fwRoleHandover r k) s =
      .next { u with fw := { u.fw with activation := some { a with moved := a.moved ++ [r], lastUs := u.nowUs } } } := by
  subst hu
  show execFwRoleHandover r k s = _
  simp only [execFwRoleHandover, ha]
  exact if_neg (by simp [hm, hk, Nat.not_le.mpr hr])

theorem exec_fwActivationConfirm_of_held {s u : State} {a : Activation} (ha : s.fw.activation = some a) (hm : ∀ r < 6, r ∈ a.moved)
    (hdue : a.lastUs + 1000000 ≤ s.nowUs) (hf : a.floor = false)
    (hu : u = (List.range 8).foldl (fun s c => s.setMc c { s.mc c with slot := a.slot })
      { s with fw := { s.fw with activation := none, activeMgmt := a.slot } }) :
    exec .fwActivationConfirm s = .next (((u.measureSlot 0 a.slot).imageEvent 0 a.slot).finish a.cmd 0 Result.zero) := by
  have hgo : ¬((List.range 6).any (fun r => r ∉ a.moved) = true ∨ s.nowUs < a.lastUs + 1000000) := by
    simpa [Nat.not_lt.mpr hdue] using hm
  subst hu
  show execFwActivationConfirm s = _
  simp only [execFwActivationConfirm, ha, if_neg hgo, hf]
  rfl

/-! ### The activation of a core runtime (R351, R500) -/

section runtime
variable {g : Nat} {l : List Nat} {s : State} {r : RtActivation} (hr : s.fw.rtActivation = some r) (hl : r.left = g :: l)
include hr hl

theorem exec_runtimeActivationStart_of_turn (bad : List Nat) : exec (.runtimeActivationStart r.cmd bad) s =
    if r.started = false then
      if s.saggarRuns g then .next s
      else .next { s.holdSaggars [g] with fw := { (s.holdSaggars [g]).fw with
        rtActivation := some { r with started := true, sinceUs := (s.holdSaggars [g]).nowUs } } }
    else if s.quiescent g then .next (s.broadcastRuntime r g bad)
    else .next s := by
  show execRuntimeActivationStart r.cmd bad s = _
  simp only [execRuntimeActivationStart, hr, hl]
  exact if_neg (not_not_intro rfl)

theorem exec_runtimeActivationTimeout_of_due (hdue : r.sinceUs + 10000000 ≤ s.nowUs) : exec (.runtimeActivationTimeout r.cmd) s =
    if r.started then
      if s.quiescent g then .next s
      else .next (((({ s with fw := { s.fw with rtActivation := none } } : State).releaseSaggars [g]).recordFw 1 0xB004 (some g) 0
        (p4 g)).finish r.cmd 0x0402 (Result.w0 r.sites))
    else if s.saggarRuns g then
      .next (({ s with fw := { s.fw with rtActivation := none } } : State).finish r.cmd 0x06F1 (Result.w0 r.sites))
    else .next s := by
  show execRuntimeActivationTimeout r.cmd s = _
  simp only [execRuntimeActivationTimeout, hr, hl]
  exact if_neg (by simp [Nat.not_lt.mpr hdue])

end runtime

/-! ### A controller that fails (R498) -/

theorem State.stops_of_no_activation {s : State} (h : s.fw.activation = none) (c : Nat) : s.stops c = none := by
  simp only [stops, h]

/-- With no live activation, and three controllers still at work, the roles of the failed one move and nothing else happens. -/
theorem exec_controllerHeartbeatMiss_of_enough {r : Nat} {s u : State} (hr : r < 6) (hw : (s.mc (s.roleMc r)).working = true)
    (ha : s.fw.activation = none) (hu : u = s.setMc (s.roleMc r) { s.mc (s.roleMc r) with working := false }) (hne : u.workingMcs ≠ [])
    (henough : 3 ≤ ((u.rolesOf (s.roleMc r)).foldl (fun t k => t.takeOver (s.roleMc r) k) u).workingMcs.length) :
    exec (.controllerHeartbeatMiss r) s = .next ((u.rolesOf (s.roleMc r)).foldl (fun t k => t.takeOver (s.roleMc r) k) u) := by
  subst hu
  have hgo : ¬(6 ≤ r ∨ (s.mc (s.roleMc r)).working = false) := by simp [hw, Nat.not_le.mpr hr]
  show execControllerHeartbeatMiss r s = _
  simp only [execControllerHeartbeatMiss, if_neg hgo, State.stops_of_no_activation ha, if_neg (mt List.isEmpty_iff.mp hne)]
  exact if_pos (.inl henough)

/-! ### The twinned pair (R506) -/

/-- TWIN_DRAIN is refused where an active saggar has no valid replica, unless it is forced. -/
theorem exec_twinDrain_of_ready {id : Nat} {s : State} {c : Cmd} (hc : s.ready id 0x940 = some c) : exec (.twinDrain id) s =
    if !bitAt (c.p 0 1) 0 ∧ s.saggars.any (fun p => p.2.active && !p.2.replicaValid) then .next (s.refuse id 0x03F4)
    else .next { s.setPhase id .running with fw := { s.fw with draining := s.fw.draining ++ [(id, s.drainCount)] } } := by
  show execTwinDrain id s = _
  simp only [execTwinDrain, hc]

theorem exec_drainComplete_of_done {id n : Nat} {s : State} (hd : s.fw.draining.find? (fun p => p.1 == id) = some (id, n))
    (hcount : s.drainCount = 0) (hpours : s.poursDone = true) : exec (.drainComplete id) s =
      .next ((({ s with fw := { s.fw with draining := removeFirst (fun p => p.1 == id) s.fw.draining, drained := true } } : State).recordFw 5
        0x900D none 0 []).finish id 0 (Result.w0 n)) := by
  show execDrainComplete id s = _
  simp only [execDrainComplete, hd]
  exact if_neg (by simp [hcount, hpours])

theorem exec_twinRejoin_of_ready {id : Nat} {s : State} {c : Cmd} (hc : s.ready id 0x941 = some c) : exec (.twinRejoin id) s =
    .next ((({ s with fw := { s.fw with drained := false } } : State).recordFw 5 0x900D none 0 []).finish id 0 Result.zero) := by
  show execTwinRejoin id s = _
  simp only [execTwinRejoin, hc]

/-- Settles O33, from what each of the commands answers on its branches. -/
theorem firmwareLifecycle : Obligations.FirmwareLifecycle := by
  refine ⟨fun id n s u c bs hc hst hn hu => ?_,
    fun id s c hc => ⟨exec_fwActivate_of_refused hc,
      fun hst hk hl => ⟨_, exec_fwActivate_of_runtime hc hst hk hl, rfl, rfl, rfl, rfl, rfl⟩,
      exec_fwActivate_of_refire hc, fun hst hk hb => ⟨_, exec_fwActivate_of_live hc hst hk hb, rfl, rfl, rfl, rfl⟩⟩,
    fun r k s u a => exec_fwRoleHandover_of_standby, fun s u a => exec_fwActivationConfirm_of_held,
    fun g l bad s u r hr hl => ⟨?_, fun hs hq => ?_, fun hdue hs hq => ?_, fun hdue hs hrun => ?_⟩,
    fun r s u => exec_controllerHeartbeatMiss_of_enough,
    fun id s c hc => ⟨fun h => ?_, fun hforce hbare => ?_⟩, fun id n s => exec_drainComplete_of_done,
    fun id s c => exec_twinRejoin_of_ready⟩
  · rw [exec_fwStage_of_read hc hst hn hu]
    by_cases hv : u.verifyImage (c.p 0 1) bs = 0
    · rw [if_neg (not_not_intro hv), if_pos hv]
    · rw [if_pos hv, if_neg hv]
  · rintro hs hrun rfl
    rw [exec_runtimeActivationStart_of_turn hr hl, if_pos hs, if_neg (Bool.eq_false_iff.mp hrun)]
  · rw [exec_runtimeActivationStart_of_turn hr hl, if_neg (by simp [hs]), if_pos hq]
  · rw [exec_runtimeActivationTimeout_of_due hr hl hdue, if_pos hs, if_neg (Bool.eq_false_iff.mp hq)]
  · rw [exec_runtimeActivationTimeout_of_due hr hl hdue, if_neg (Bool.eq_false_iff.mp hs), if_pos hrun]
  · exact (exec_twinDrain_of_ready hc).trans (if_neg (by simpa [or_iff_not_imp_left] using h))
  · exact (exec_twinDrain_of_ready hc).trans (if_pos ⟨by simp [hforce], hbare⟩)

end Sys2Proof.Machine
end
